-- ==== Sys2Proof/Word.lean ====
section
/-!
DEFINITION. The word types of Blucel and their plainest arithmetic: register numbers, bytes, words, doubles,
little-endian bytes (R4) and sign extension (R47).
-/

namespace Sys2Proof

/-- An 8-bit byte (R4). -/
abbrev Byte := BitVec 8
/-- A 32-bit word (R4). -/
abbrev W32 := BitVec 32
/-- A 64-bit double (R4), the width of an s register (R17). -/
abbrev W64 := BitVec 64
/-- A 48-bit global address (R42). -/
abbrev Addr := BitVec 48
/-- The number of an s register, s0 to s31 (R46). -/
abbrev Reg := Fin 32
/-- A halfword of an engine image (R55). -/
abbrev H16 := BitVec 16

/-- Bits [lo + n − 1 : lo] of a natural number. -/
def bits (x lo n : Nat) : Nat := x / 2 ^ lo % 2 ^ n

/-- Bit i of a natural number. -/
def bit (x i : Nat) : Bool := x / 2 ^ i % 2 == 1

/-- The n-bit two's complement reading of a natural number (R78). -/
def sint (x n : Nat) : Int := if x % 2 ^ n < 2 ^ (n - 1) then (x % 2 ^ n : Nat) else ((x % 2 ^ n : Nat) : Int) - (2 ^ n : Nat)

/-- The n-bit encoding of an integer, modulo 2^n. -/
def ofInt (n : Nat) (x : Int) : Nat := (x % ((2 ^ n : Nat) : Int)).toNat

/-- A Bool as the bit 0 or 1. -/
def b2n (b : Bool) : Nat := if b then 1 else 0

/-- The ceiling of a quotient (R6). -/
def ceilDiv (a b : Nat) : Nat := (a + b - 1) / b

end Sys2Proof
end

