-- ==== Sys2Proof/Syntax.lean ====
section
/-!
DEFINITION. The instructions of the Silow S2: one constructor of `Instr` per row of the opcode table. Fields are the
fields of the encodings (R46–R63 and the engines' own image maps); nothing here computes.
-/

namespace Sys2Proof

/-- The seven engines of R8, by their ENG number. -/
inductive Eng where
  | fe | vx | mx | sx | de | cp | fr
  deriving DecidableEq, Repr

/-- ENG of an engine (R8). -/
def Eng.num : Eng → Nat
  | .fe => 1 | .vx => 2 | .mx => 3 | .sx => 4 | .de => 5 | .cp => 6 | .fr => 7

/-- The engine of an ENG number 1 to 7. -/
def Eng.ofNum : Nat → Option Eng
  | 1 => some .fe | 2 => some .vx | 3 => some .mx | 4 => some .sx | 5 => some .de | 6 => some .cp | 7 => some .fr
  | _ => none

/-- A load size of R49, codes 0 to 6. -/
inductive LdSize where
  | b | bu | h | hu | w | wu | d
  deriving DecidableEq, Repr

/-- A store size of R49, codes 0, 2, 4 and 6. -/
inductive StSize where
  | b | h | w | d
  deriving DecidableEq, Repr

/-- A scope of R267, codes 0 to 8. -/
inductive Scope where
  | engine | core | cluster | sector | die | package | ring | host | system
  deriving DecidableEq, Repr

/-- ORDER of an AMO (R52). -/
inductive Order where
  | rlx | acq | rel | ar
  deriving DecidableEq, Repr

/-- The width code of SEXT and ZEXT (R51). -/
inductive ExtW where
  | w8 | w16 | w32
  deriving DecidableEq, Repr

/-- SZ of an engine header (R54): the number of image words that follow. -/
inductive ImgSize where
  | w2 | w4 | w8
  deriving DecidableEq, Repr

/-- The 16 halfwords h0 to h15 of an engine image (R55). -/
structure Image where
  h : Vector H16 16
  deriving DecidableEq, Repr

/-- Halfwords h0 and h1 but for OPC (R57). -/
structure Hd where
  bind : BitVec 4
  sig : Byte
  wait : Byte
  deriving DecidableEq, Repr

/-- h2 and h3 of a long instruction (R58). -/
structure Long where
  stamp : H16
  fade : BitVec 5
  rnd : BitVec 3
  prof : Byte
  deriving DecidableEq, Repr

/-- The image map of FE and DE (R163). -/
structure FdArgs where
  hd : Hd
  pois : Bool
  rnd : BitVec 3
  typ : BitVec 4
  conv : BitVec 2
  q : BitVec 3
  count : H16
  a : W32
  b : W32
  c : W32
  d : W32
  offhi : BitVec 4
  tid : BitVec 12
  h13 : H16
  h14 : H16
  deriving DecidableEq, Repr

/-- The image map of VX (R172). -/
structure VxArgs where
  hd : Hd
  typ : BitVec 4
  ftz : Bool
  mz : Bool
  msel : BitVec 3
  d : BitVec 7
  pb : Bool
  b : BitVec 7
  a : BitVec 7
  imm : W32
  smen : Bool
  sm : BitVec 3
  rnd : BitVec 3
  c : BitVec 7
  prof : Byte
  fn : Byte
  deriving DecidableEq, Repr

/-- MX.NEST (R208). -/
structure NestArgs where
  hd : Hd
  level : BitVec 3
  cntm1 : H16
  sa : W32
  sb : W32
  cr : H16
  cc : H16
  deriving DecidableEq, Repr

/-- MX.OPND (R209). -/
structure OpndArgs where
  hd : Hd
  ta : BitVec 4
  tb : BitVec 4
  ga : BitVec 2
  gb : BitVec 2
  pois : Bool
  la : Bool
  lb : Bool
  pa : H16
  abase : W32
  bbase : W32
  pb : H16
  deriving DecidableEq, Repr

/-- MX.ACC (R210). -/
structure AccArgs where
  hd : Hd
  drn : Bool
  mode : BitVec 2
  lp : H16
  lbase : W32
  deriving DecidableEq, Repr

/-- MX.GO (R211). -/
structure GoArgs where
  hd : Hd
  long : Long
  pat : H16
  eps : BitVec 6
  kl : BitVec 3
  deriving DecidableEq, Repr

/-- MX.ACCST (R215). -/
structure AccstArgs where
  hd : Hd
  pois : Bool
  part : Bool
  acc : Bool
  off : W32
  pitch : W32
  deriving DecidableEq, Repr

/-- MX.EPLD (R216). -/
structure EpldArgs where
  hd : Hd
  at_ : BitVec 6
  n : BitVec 7
  a : W32
  offhi : BitVec 4
  tid : BitVec 12
  deriving DecidableEq, Repr

/-- MX.EPARG (R217); the form is the constructor's. -/
structure EpargArgs where
  hd : Hd
  idx : BitVec 3
  h3 : H16
  p0 : W32
  p1 : W32
  p2 : W32
  p3 : W32
  h12 : H16
  deriving DecidableEq, Repr

/-- SX.CFG (R232). -/
structure SxCfgArgs where
  hd : Hd
  long : Long
  nbm1 : BitVec 5
  lm1 : Byte
  mode : BitVec 2
  nvm1 : BitVec 12
  gm1 : BitVec 6
  deriving DecidableEq, Repr

/-- SX.RESET (R233). -/
structure SxResetArgs where
  hd : Hd
  long : Long
  moff : W32
  en : Bool
  deriving DecidableEq, Repr

/-- SX.CARRY (R234). -/
structure SxCarryArgs where
  hd : Hd
  long : Long
  slots : W32
  coff : W32
  cout : Bool
  cin : Bool
  deriving DecidableEq, Repr

/-- SX.SCAN and SX.CONTR (R236): the four address pairs and the flags of h12. -/
structure SxScanArgs where
  hd : Hd
  long : Long
  x : W32
  a : W32
  p2 : W32
  p3 : W32
  noh : Bool
  pois : Bool
  deriving DecidableEq, Repr

/-- SX.FADEQ (R241). -/
structure SxFadeqArgs where
  hd : Hd
  long : Long
  off : W32
  clr : Bool
  deriving DecidableEq, Repr

/-- The image map of FR (R245). -/
structure FrArgs where
  hd : Hd
  long : Long
  sess : W32
  p1 : W32
  p2 : W32
  tab : BitVec 12
  hoffhi : BitVec 4
  htid : BitVec 12
  all : Bool
  keep : Bool
  nowait : Bool
  slot : BitVec 5
  szm1 : Byte
  nm1 : BitVec 5
  deriving DecidableEq, Repr

/-- The image map of CP (R253). -/
structure CpArgs where
  hd : Hd
  long : Long
  p0 : W32
  p1 : W32
  p2 : W32
  p3 : W32
  h12 : H16
  h13 : H16
  h14 : H16
  h15 : H16
  deriving DecidableEq, Repr

/-- The arithmetic EP words (R222): D, A, B and the options T, RND, FTZ, SAT, ROW. -/
structure EpArgs where
  d : BitVec 3
  a : BitVec 3
  b : BitVec 3
  t : Bool
  rnd : BitVec 3
  ftz : Bool
  sat : Bool
  row : Bool
  deriving DecidableEq, Repr

/-- EP.ACT (R222); the function is the constructor's. -/
structure EpActArgs where
  d : BitVec 3
  a : BitVec 3
  rnd : BitVec 3
  ftz : Bool
  deriving DecidableEq, Repr

/-- EP.CVT (R222). -/
structure EpCvtArgs where
  d : BitVec 3
  a : BitVec 3
  dst : BitVec 4
  rnd : BitVec 3
  ftz : Bool
  fromi : Bool
  part : BitVec 2
  deriving DecidableEq, Repr

/-- EP.PACK (R222). -/
structure EpPackArgs where
  d : BitVec 3
  a : BitVec 3
  ci12 : Bool
  part : Bool
  rnd : BitVec 3
  ftz : Bool
  deriving DecidableEq, Repr

/-- An Ethernet frame as a port receives it (R402, R403): address, tag, 802.1AS time, sequence number, FCS verdict, payload. -/
structure EthFrame where
  dmac : BitVec 48
  vid : Option (BitVec 12)
  pcp : BitVec 3
  ts : W64
  seq : H16
  fcsOk : Bool
  dup : Bool
  filtered : Bool
  payload : List Byte
  deriving DecidableEq, Repr

/-- What a core's part in a ring collective shows the other participants (R260, R398). -/
structure CollMsg where
  collid : H16
  opc : Byte
  root : BitVec 4
  pmask : H16
  count : W32
  typ : BitVec 2
  op : BitVec 2
  prof : Byte
  rank : Nat
  vals : List W32
  deriving DecidableEq, Repr

/-- What a firmware slot shows the boot ROM (R408). -/
structure SlotInfo where
  sigOk : Bool
  keyHashOk : Bool
  svn : Nat
  deriving DecidableEq, Repr

/-- What the boot ROM finds in a stage (R407): the fuses, the slots, the
failing stack, channel or clusters. -/
structure BootIn where
  fusesOk : Bool
  devser : W64
  harvest0 : BitVec 36
  harvest1 : BitVec 36
  svn : Nat
  slotA : SlotInfo
  slotB : SlotInfo
  hbmBad : Option (BitVec 3)
  lpddrBad : Option (BitVec 4)
  badClusters : List Nat
  deriving DecidableEq, Repr

/-- The instructions and events of the opcode table, one constructor per row. A row that is an event of the machine carries
as arguments what comes from outside it. -/
inductive Instr where
  /-- NOP (R139). -/
  | nop
  /-- ADD (R109). -/
  | add (sd sa sb : Reg)
  /-- SUB (R109). -/
  | sub (sd sa sb : Reg)
  /-- AND (R109). -/
  | and (sd sa sb : Reg)
  /-- OR (R109). -/
  | or (sd sa sb : Reg)
  /-- XOR (R109). -/
  | xor (sd sa sb : Reg)
  /-- ANDN (R109). -/
  | andn (sd sa sb : Reg)
  /-- SHL (R109). -/
  | shl (sd sa sb : Reg)
  /-- SHR (R109). -/
  | shr (sd sa sb : Reg)
  /-- SAR (R109). -/
  | sar (sd sa sb : Reg)
  /-- ROL (R109). -/
  | rol (sd sa sb : Reg)
  /-- ROR (R109). -/
  | ror (sd sa sb : Reg)
  /-- MIN (R109). -/
  | min (sd sa sb : Reg)
  /-- MAX (R109). -/
  | max (sd sa sb : Reg)
  /-- MINU (R109). -/
  | minu (sd sa sb : Reg)
  /-- MAXU (R109). -/
  | maxu (sd sa sb : Reg)
  /-- SLT (R109). -/
  | slt (sd sa sb : Reg)
  /-- SLTU (R109). -/
  | sltu (sd sa sb : Reg)
  /-- SEQ (R109). -/
  | seq (sd sa sb : Reg)
  /-- SNE (R109). -/
  | sne (sd sa sb : Reg)
  /-- MUL (R109). -/
  | mul (sd sa sb : Reg)
  /-- MULH (R109). -/
  | mulh (sd sa sb : Reg)
  /-- MULHU (R109). -/
  | mulhu (sd sa sb : Reg)
  /-- DIV (R110). -/
  | div (sd sa sb : Reg)
  /-- DIVU (R110). -/
  | divu (sd sa sb : Reg)
  /-- REM (R110). -/
  | rem (sd sa sb : Reg)
  /-- REMU (R110). -/
  | remu (sd sa sb : Reg)
  /-- CLZ (R109). -/
  | clz (sd sa : Reg)
  /-- CTZ (R109). -/
  | ctz (sd sa : Reg)
  /-- POPC (R109). -/
  | popc (sd sa : Reg)
  /-- BREV (R109). -/
  | brev (sd sa : Reg)
  /-- SEXT (R109). -/
  | sext (sd sa : Reg) (w : ExtW)
  /-- ZEXT (R109). -/
  | zext (sd sa : Reg) (w : ExtW)
  /-- ADDI (R111). -/
  | addi (sd sa : Reg) (imm : BitVec 12)
  /-- ADDI_X (R111). -/
  | addiX (sd sa : Reg) (lit : W32)
  /-- ANDI (R111). -/
  | andi (sd sa : Reg) (imm : BitVec 12)
  /-- ANDI_X (R111). -/
  | andiX (sd sa : Reg) (lit : W32)
  /-- ORI (R111). -/
  | ori (sd sa : Reg) (imm : BitVec 12)
  /-- ORI_X (R111). -/
  | oriX (sd sa : Reg) (lit : W32)
  /-- XORI (R111). -/
  | xori (sd sa : Reg) (imm : BitVec 12)
  /-- XORI_X (R111). -/
  | xoriX (sd sa : Reg) (lit : W32)
  /-- SLTI (R111). -/
  | slti (sd sa : Reg) (imm : BitVec 12)
  /-- SLTI_X (R111). -/
  | sltiX (sd sa : Reg) (lit : W32)
  /-- SLTIU (R111). -/
  | sltiu (sd sa : Reg) (imm : BitVec 12)
  /-- SLTIU_X (R111). -/
  | sltiuX (sd sa : Reg) (lit : W32)
  /-- SHLI (R111). -/
  | shli (sd sa : Reg) (amt : BitVec 6)
  /-- SHRI (R111). -/
  | shri (sd sa : Reg) (amt : BitVec 6)
  /-- SARI (R111). -/
  | sari (sd sa : Reg) (amt : BitVec 6)
  /-- MULI (R111). -/
  | muli (sd sa : Reg) (imm : BitVec 12)
  /-- MULI_X (R111). -/
  | muliX (sd sa : Reg) (lit : W32)
  /-- IDX (R112). -/
  | idx (sd sa sb : Reg) (sh : BitVec 2) (imm : BitVec 5)
  /-- IDX_X (R112). -/
  | idxX (sd sa sb : Reg) (sh : BitVec 2) (lit : W32)
  /-- BEQ (R113). -/
  | beq (sa sb : Reg) (off : BitVec 12)
  /-- BEQ_X (R113). -/
  | beqX (sa sb : Reg) (lit : W32)
  /-- BNE (R113). -/
  | bne (sa sb : Reg) (off : BitVec 12)
  /-- BNE_X (R113). -/
  | bneX (sa sb : Reg) (lit : W32)
  /-- BLT (R113). -/
  | blt (sa sb : Reg) (off : BitVec 12)
  /-- BLT_X (R113). -/
  | bltX (sa sb : Reg) (lit : W32)
  /-- BGE (R113). -/
  | bge (sa sb : Reg) (off : BitVec 12)
  /-- BGE_X (R113). -/
  | bgeX (sa sb : Reg) (lit : W32)
  /-- BLTU (R113). -/
  | bltu (sa sb : Reg) (off : BitVec 12)
  /-- BLTU_X (R113). -/
  | bltuX (sa sb : Reg) (lit : W32)
  /-- BGEU (R113). -/
  | bgeu (sa sb : Reg) (off : BitVec 12)
  /-- BGEU_X (R113). -/
  | bgeuX (sa sb : Reg) (lit : W32)
  /-- J (R114). -/
  | j (off : BitVec 22)
  /-- J_X (R114). -/
  | jX (lit : W32)
  /-- JAL (R114). -/
  | jal (sd : Reg) (off : BitVec 12)
  /-- JAL_X (R114). -/
  | jalX (sd : Reg) (lit : W32)
  /-- JR (R114). -/
  | jr (sa : Reg) (off : BitVec 12)
  /-- JR_X (R114). -/
  | jrX (sa : Reg) (lit : W32)
  /-- JALR (R114). -/
  | jalr (sd sa : Reg) (off : BitVec 12)
  /-- JALR_X (R114). -/
  | jalrX (sd sa : Reg) (lit : W32)
  /-- LOOP (R117). -/
  | loop (sa : Reg) (lvl : Bool) (lenm1 : BitVec 6)
  /-- LOOPI (R117). -/
  | loopi (count : BitVec 10) (lvl : Bool) (lenm1 : BitVec 6)
  /-- LOOPI_X (R117). -/
  | loopiX (lit : W32) (lvl : Bool) (lenm1 : BitVec 6)
  /-- BROT (R121). -/
  | brot (sa : Reg) (rot : BitVec 5) (off : BitVec 12)
  /-- ROT (R122). -/
  | rot (amt : BitVec 5)
  /-- SETVRB (R122). -/
  | setvrb (sa : Reg) (imm : BitVec 12)
  /-- LD (R141). -/
  | ld (sd base : Reg) (sz : LdSize) (imm : BitVec 9)
  /-- LD_X (R141). -/
  | ldX (sd base : Reg) (sz : LdSize) (lit : W32)
  /-- ST (R141). -/
  | st (src base : Reg) (sz : StSize) (imm : BitVec 9)
  /-- ST_X (R141). -/
  | stX (src base : Reg) (sz : StSize) (lit : W32)
  /-- LDA (R147). -/
  | lda (sd base : Reg) (sz : LdSize) (sc : Scope)
  /-- STL (R147). -/
  | stl (src base : Reg) (sz : StSize) (sc : Scope)
  /-- AMO_ADD (R148). -/
  | amoAdd (sd sa : Reg) (ord : Order) (dbl : Bool) (sc : Scope)
  /-- AMO_AND (R148). -/
  | amoAnd (sd sa : Reg) (ord : Order) (dbl : Bool) (sc : Scope)
  /-- AMO_OR (R148). -/
  | amoOr (sd sa : Reg) (ord : Order) (dbl : Bool) (sc : Scope)
  /-- AMO_XOR (R148). -/
  | amoXor (sd sa : Reg) (ord : Order) (dbl : Bool) (sc : Scope)
  /-- AMO_MIN (R148). -/
  | amoMin (sd sa : Reg) (ord : Order) (dbl : Bool) (sc : Scope)
  /-- AMO_MAX (R148). -/
  | amoMax (sd sa : Reg) (ord : Order) (dbl : Bool) (sc : Scope)
  /-- AMO_MINU (R148). -/
  | amoMinu (sd sa : Reg) (ord : Order) (dbl : Bool) (sc : Scope)
  /-- AMO_MAXU (R148). -/
  | amoMaxu (sd sa : Reg) (ord : Order) (dbl : Bool) (sc : Scope)
  /-- AMO_SWAP (R148). -/
  | amoSwap (sd sa : Reg) (ord : Order) (dbl : Bool) (sc : Scope)
  /-- AMO_CAS (R148). -/
  | amoCas (sd sa : Reg) (ord : Order) (dbl : Bool) (sc : Scope)
  /-- FENCE_ACQ (R149). -/
  | fenceAcq (sc : Scope)
  /-- FENCE_REL (R149). -/
  | fenceRel (sc : Scope)
  /-- FENCE_FULL (R149). -/
  | fenceFull (sc : Scope)
  /-- PREF_L1 (R143). -/
  | prefL1 (base : Reg) (imm : BitVec 9)
  /-- PREF_LLC (R143). -/
  | prefLlc (base : Reg) (imm : BitVec 9)
  /-- PREF_X (R143). -/
  | prefX (llc : Bool) (base : Reg) (lit : W32)
  /-- GIVE (R152). -/
  | give (sa : Reg) (tid : BitVec 12)
  /-- GIVE_COMPLETE (R152). -/
  | giveComplete
  /-- TAKE (R153). -/
  | take (tid : BitVec 12)
  /-- TAKE_COMPLETE (R153). -/
  | takeComplete
  /-- OWNQ (R154). -/
  | ownq (sd : Reg) (tid : BitVec 12)
  /-- BAR_INIT (R156). -/
  | barInit (sd sa : Reg) (sc : Scope)
  /-- BAR_ARV (R156). -/
  | barArv (sa : Reg) (sc : Scope)
  /-- BAR_WAIT (R156). -/
  | barWait (sa : Reg) (sc : Scope)
  /-- BAR_ARVW (R156). -/
  | barArvw (sa : Reg) (sc : Scope)
  /-- BAR_TEST (R156). -/
  | barTest (sd sa : Reg) (sc : Scope)
  /-- BAR_DBAR (R156). -/
  | barDbar (sa : Reg) (sc : Scope)
  /-- BAR_WAIT_COMPLETE (R156). -/
  | barWaitComplete
  /-- TWAIT (R158). -/
  | twait (mask : Byte)
  /-- TWAIT_COMPLETE (R158). -/
  | twaitComplete
  /-- TSIG (R158). -/
  | tsig (mask : Byte)
  /-- CHUNK (R160). -/
  | chunk (sd sa : Reg)
  /-- CHINIT (R160). -/
  | chinit (sd sa sb : Reg)
  /-- SPAWN (R125). -/
  | spawn (sa : Reg) (prio : BitVec 2)
  /-- SPAWN_APPEND (R125). -/
  | spawnAppend
  /-- JOIN (R127). -/
  | join (sa : Reg)
  /-- TEND (R128). -/
  | tend
  /-- RECORD_RETIRE (R128). -/
  | recordRetire
  /-- TRIG (R129). -/
  | trig
  /-- TRIG_COMPLETE (R129). -/
  | trigComplete
  /-- LAUNCH (R130). -/
  | launch (sd sa : Reg)
  /-- YIELD (R131). -/
  | yield
  /-- YIELD_DONATE (R131). -/
  | yieldDonate
  /-- SELF_LAUNCH_ID (R132). -/
  | selfLaunchId (sd : Reg)
  /-- SELF_INDEX (R132). -/
  | selfIndex (sd : Reg)
  /-- SELF_GROUPS (R132). -/
  | selfGroups (sd : Reg)
  /-- SELF_CORES (R132). -/
  | selfCores (sd : Reg)
  /-- DBRK (R138). -/
  | dbrk (code : BitVec 12)
  /-- TRAP (R133). -/
  | trap (code : BitVec 12)
  /-- ERET (R134). -/
  | eret
  /-- CSRR (R135). -/
  | csrr (sd : Reg) (csr : BitVec 12)
  /-- CSRW (R135). -/
  | csrw (sd sa : Reg) (csr : BitVec 12)
  /-- CSRS (R135). -/
  | csrs (sd sa : Reg) (csr : BitVec 12)
  /-- CSRC (R135). -/
  | csrc (sd sa : Reg) (csr : BitVec 12)
  /-- WFE (R137). -/
  | wfe
  /-- WFE_COMPLETE (R137). -/
  | wfeComplete
  /-- ENGINE_DISPATCH (R9). -/
  | engineDispatch (e : Eng) (sz : ImgSize) (img : Image)
  /-- QUEUE_SPACE_APPEND (R9). -/
  | queueSpaceAppend
  /-- TEMPLATE_STORE (R54). -/
  | templateStore (e : Eng) (sz : ImgSize) (tix : BitVec 6) (img : Image)
  /-- PATCH (R56). -/
  | patch (e : Eng) (tix : BitVec 6) (fsel : BitVec 4) (val : H16)
  /-- PATCH_S (R56). -/
  | patchS (e : Eng) (tix : BitVec 6) (fsel : BitVec 4) (val : H16)
  /-- PATCH_S_N (R56). -/
  | patchSN (e : Eng) (tix : BitVec 6) (fsel : BitVec 4) (val : H16)
  /-- ENTRY_COMPLETE (R10). -/
  | entryComplete (e : Eng)
  /-- ENGINE_FAULT_TAKEN (R340). -/
  | engineFaultTaken
  /-- FE_LD (R167). -/
  | feLd (a : FdArgs)
  /-- FE_LDG (R167). -/
  | feLdg (a : FdArgs)
  /-- FE_GATH (R168). -/
  | feGath (a : FdArgs)
  /-- FE_GATHQ (R168). -/
  | feGathq (a : FdArgs)
  /-- FE_UNPK (R167). -/
  | feUnpk (a : FdArgs)
  /-- FE_BCST (R167). -/
  | feBcst (a : FdArgs)
  /-- FE_AGEN (R167). -/
  | feAgen (a : FdArgs)
  /-- FE_STRM (R167). -/
  | feStrm (a : FdArgs)
  /-- FE_IDX (R167). -/
  | feIdx (a : FdArgs)
  /-- FE_ELEMENT_DELIVERY (R166). -/
  | feElementDelivery
  /-- DE_ST (R169). -/
  | deSt (a : FdArgs)
  /-- DE_STG (R169). -/
  | deStg (a : FdArgs)
  /-- DE_SCAT (R169). -/
  | deScat (a : FdArgs)
  /-- DE_ADDST (R170). -/
  | deAddst (a : FdArgs)
  /-- DE_PACK (R169). -/
  | dePack (a : FdArgs)
  /-- DE_AGEN (R169). -/
  | deAgen (a : FdArgs)
  /-- VX_RESULT_VISIBLE (R179). -/
  | vxResultVisible
  /-- VX_FADD (R184). -/
  | vxFadd (a : VxArgs)
  /-- VX_FSUB (R184). -/
  | vxFsub (a : VxArgs)
  /-- VX_FMUL (R184). -/
  | vxFmul (a : VxArgs)
  /-- VX_FMA (R184). -/
  | vxFma (a : VxArgs)
  /-- VX_FMS (R184). -/
  | vxFms (a : VxArgs)
  /-- VX_FMIN (R184). -/
  | vxFmin (a : VxArgs)
  /-- VX_FMAX (R184). -/
  | vxFmax (a : VxArgs)
  /-- VX_FABS (R184). -/
  | vxFabs (a : VxArgs)
  /-- VX_FNEG (R184). -/
  | vxFneg (a : VxArgs)
  /-- VX_FCMP (R185). -/
  | vxFcmp (a : VxArgs)
  /-- VX_FCLASS (R185). -/
  | vxFclass (a : VxArgs)
  /-- VX_FRND (R186). -/
  | vxFrnd (a : VxArgs)
  /-- VX_IADD (R187). -/
  | vxIadd (a : VxArgs)
  /-- VX_ISUB (R187). -/
  | vxIsub (a : VxArgs)
  /-- VX_IMUL (R187). -/
  | vxImul (a : VxArgs)
  /-- VX_IMULH (R187). -/
  | vxImulh (a : VxArgs)
  /-- VX_IMAD (R187). -/
  | vxImad (a : VxArgs)
  /-- VX_IMIN (R187). -/
  | vxImin (a : VxArgs)
  /-- VX_IMAX (R187). -/
  | vxImax (a : VxArgs)
  /-- VX_AND (R187). -/
  | vxAnd (a : VxArgs)
  /-- VX_OR (R187). -/
  | vxOr (a : VxArgs)
  /-- VX_XOR (R187). -/
  | vxXor (a : VxArgs)
  /-- VX_ANDN (R187). -/
  | vxAndn (a : VxArgs)
  /-- VX_SHL (R187). -/
  | vxShl (a : VxArgs)
  /-- VX_SHR (R187). -/
  | vxShr (a : VxArgs)
  /-- VX_SAR (R187). -/
  | vxSar (a : VxArgs)
  /-- VX_ICMP (R187). -/
  | vxIcmp (a : VxArgs)
  /-- VX_CADD (R188). -/
  | vxCadd (a : VxArgs)
  /-- VX_CSUB (R188). -/
  | vxCsub (a : VxArgs)
  /-- VX_CMUL (R188). -/
  | vxCmul (a : VxArgs)
  /-- VX_CMAC (R188). -/
  | vxCmac (a : VxArgs)
  /-- VX_CMULJ (R188). -/
  | vxCmulj (a : VxArgs)
  /-- VX_CABS2 (R188). -/
  | vxCabs2 (a : VxArgs)
  /-- VX_EXP2 (R189). -/
  | vxExp2 (a : VxArgs)
  /-- VX_LOG2 (R189). -/
  | vxLog2 (a : VxArgs)
  /-- VX_RCP (R189). -/
  | vxRcp (a : VxArgs)
  /-- VX_RSQ (R189). -/
  | vxRsq (a : VxArgs)
  /-- VX_SQRT (R189). -/
  | vxSqrt (a : VxArgs)
  /-- VX_SIGM (R189). -/
  | vxSigm (a : VxArgs)
  /-- VX_TANH (R189). -/
  | vxTanh (a : VxArgs)
  /-- VX_SILU (R189). -/
  | vxSilu (a : VxArgs)
  /-- VX_SOFTP (R189). -/
  | vxSoftp (a : VxArgs)
  /-- VX_CVT (R191). -/
  | vxCvt (a : VxArgs)
  /-- VX_QNT (R192). -/
  | vxQnt (a : VxArgs)
  /-- VX_MOV (R193). -/
  | vxMov (a : VxArgs)
  /-- VX_MOV_LDS (R193). -/
  | vxMovLds (a : VxArgs)
  /-- VX_MOV_STS (R193). -/
  | vxMovSts (a : VxArgs)
  /-- VX_SEL (R195). -/
  | vxSel (a : VxArgs)
  /-- VX_SHUF (R195). -/
  | vxShuf (a : VxArgs)
  /-- VX_LROT (R195). -/
  | vxLrot (a : VxArgs)
  /-- VX_KSET (R196). -/
  | vxKset (a : VxArgs)
  /-- VX_KSET_LANE (R196). -/
  | vxKsetLane (a : VxArgs)
  /-- VX_MOP_AND (R196). -/
  | vxMopAnd (a : VxArgs)
  /-- VX_MOP_OR (R196). -/
  | vxMopOr (a : VxArgs)
  /-- VX_MOP_XOR (R196). -/
  | vxMopXor (a : VxArgs)
  /-- VX_MOP_ANDN (R196). -/
  | vxMopAndn (a : VxArgs)
  /-- VX_MOP_NOT (R196). -/
  | vxMopNot (a : VxArgs)
  /-- VX_MOP_SET (R196). -/
  | vxMopSet (a : VxArgs)
  /-- VX_MOP_CLR (R196). -/
  | vxMopClr (a : VxArgs)
  /-- VX_MOP_FROMV (R196). -/
  | vxMopFromv (a : VxArgs)
  /-- VX_MOP_TOV (R196). -/
  | vxMopTov (a : VxArgs)
  /-- VX_QCFG (R197). -/
  | vxQcfg (a : VxArgs)
  /-- VX_LFSR_SEEDV (R198). -/
  | vxLfsrSeedv (a : VxArgs)
  /-- VX_LFSR_SEEDI (R198). -/
  | vxLfsrSeedi (a : VxArgs)
  /-- VX_LFSR_READ (R198). -/
  | vxLfsrRead (a : VxArgs)
  /-- VX_LFSR_STEP (R198). -/
  | vxLfsrStep (a : VxArgs)
  /-- VX_RSUM (R200). -/
  | vxRsum (a : VxArgs)
  /-- VX_RMAX (R199). -/
  | vxRmax (a : VxArgs)
  /-- VX_RMIN (R199). -/
  | vxRmin (a : VxArgs)
  /-- VX_RAMAX (R199). -/
  | vxRamax (a : VxArgs)
  /-- VX_PSUM (R201). -/
  | vxPsum (a : VxArgs)
  /-- VX_FIRST (R202). -/
  | vxFirst (a : VxArgs)
  /-- MX_NEST (R208). -/
  | mxNest (a : NestArgs)
  /-- MX_OPND (R209). -/
  | mxOpnd (a : OpndArgs)
  /-- MX_ACC (R210). -/
  | mxAcc (a : AccArgs)
  /-- MX_GO (R213). -/
  | mxGo (a : GoArgs)
  /-- MX_TILE_BEGIN (R219). -/
  | mxTileBegin
  /-- MX_TILE_DRAIN (R219). -/
  | mxTileDrain
  /-- MX_TILE_RELEASE (R219). -/
  | mxTileRelease
  /-- EP_QUEUE_PUSH_RESUME (R225). -/
  | epQueuePushResume
  /-- MX_ACCST (R215). -/
  | mxAccst (a : AccstArgs)
  /-- MX_EPLD (R216). -/
  | mxEpld (a : EpldArgs)
  /-- MX_EPARG_LD (R217). -/
  | mxEpargLd (a : EpargArgs)
  /-- MX_EPARG_BC (R217). -/
  | mxEpargBc (a : EpargArgs)
  /-- MX_EPARG_SP (R217). -/
  | mxEpargSp (a : EpargArgs)
  /-- MX_EPARG_TG (R217). -/
  | mxEpargTg (a : EpargArgs)
  /-- MX_EPARG_QU (R217). -/
  | mxEpargQu (a : EpargArgs)
  /-- EP_LDA (R223). -/
  | epLda (d : BitVec 3) (comp : Bool)
  /-- EP_ADD (R223). -/
  | epAdd (x : EpArgs)
  /-- EP_MUL (R223). -/
  | epMul (x : EpArgs)
  /-- EP_FMA (R223). -/
  | epFma (x : EpArgs)
  /-- EP_MAX (R223). -/
  | epMax (x : EpArgs)
  /-- EP_MIN (R223). -/
  | epMin (x : EpArgs)
  /-- EP_BIAS (R223). -/
  | epBias (x : EpArgs)
  /-- EP_SCALE (R223). -/
  | epScale (x : EpArgs)
  /-- EP_ACT_RELU (R223). -/
  | epActRelu (x : EpActArgs)
  /-- EP_ACT_SIGM (R223). -/
  | epActSigm (x : EpActArgs)
  /-- EP_ACT_SILU (R223). -/
  | epActSilu (x : EpActArgs)
  /-- EP_ACT_SOFTP (R223). -/
  | epActSoftp (x : EpActArgs)
  /-- EP_ACT_TANH (R223). -/
  | epActTanh (x : EpActArgs)
  /-- EP_CVT (R224). -/
  | epCvt (x : EpCvtArgs)
  /-- EP_RED_SUM (R224). -/
  | epRedSum (d a : BitVec 3) (t : Bool)
  /-- EP_RED_MAX (R224). -/
  | epRedMax (d a : BitVec 3) (t : Bool)
  /-- EP_RED_MIN (R224). -/
  | epRedMin (d a : BitVec 3) (t : Bool)
  /-- EP_PACK (R224). -/
  | epPack (x : EpPackArgs)
  /-- EP_ST (R225). -/
  | epSt (a : BitVec 3) (sd : BitVec 2)
  /-- EP_STG (R225). -/
  | epStg (a : BitVec 3) (sd : BitVec 2)
  /-- EP_SKIP (R221). -/
  | epSkip (cond : BitVec 2) (n : BitVec 6)
  /-- EP_END (R221). -/
  | epEnd
  /-- SX_CFG (R232). -/
  | sxCfg (a : SxCfgArgs)
  /-- SX_SCAN (R237). -/
  | sxScan (a : SxScanArgs)
  /-- SX_RESET (R233). -/
  | sxReset (a : SxResetArgs)
  /-- SX_CARRY (R234). -/
  | sxCarry (a : SxCarryArgs)
  /-- SX_CONTR (R237). -/
  | sxContr (a : SxScanArgs)
  /-- SX_FADEQ (R241). -/
  | sxFadeq (a : SxFadeqArgs)
  /-- SX_SCAN_COMPLETE (R239). -/
  | sxScanComplete
  /-- FR_SLOTS (R247). -/
  | frSlots (a : FrArgs)
  /-- FR_IN (R248). -/
  | frIn (a : FrArgs)
  /-- FR_OUT (R248). -/
  | frOut (a : FrArgs)
  /-- FR_SWAP (R248). -/
  | frSwap (a : FrArgs)
  /-- FR_SNAP (R249). -/
  | frSnap (a : FrArgs)
  /-- FR_ROLL (R250). -/
  | frRoll (a : FrArgs)
  /-- FR_FORK (R250). -/
  | frFork (a : FrArgs)
  /-- FR_DROP (R250). -/
  | frDrop (a : FrArgs)
  /-- FR_DROP_ALL (R250). -/
  | frDropAll (a : FrArgs)
  /-- FR_STAT (R251). -/
  | frStat (a : FrArgs)
  /-- FR_COLD (R250). -/
  | frCold (a : FrArgs)
  /-- FR_PIN_RELEASE_PROCEED (R246). -/
  | frPinReleaseProceed
  /-- FR_TRANSFER_COMPLETE (R248). -/
  | frTransferComplete
  /-- CP_COPY (R255). -/
  | cpCopy (a : CpArgs)
  /-- CP_MCAST (R258). -/
  | cpMcast (a : CpArgs)
  /-- CP_STAGE (R259). -/
  | cpStage (a : CpArgs)
  /-- CP_DRAIN (R257). -/
  | cpDrain (a : CpArgs)
  /-- CP_FILL (R255). -/
  | cpFill (a : CpArgs)
  /-- CP_SIG (R257). -/
  | cpSig (a : CpArgs)
  /-- CP_ALLRED (R262). -/
  | cpAllred (a : CpArgs)
  /-- CP_ALLGATH (R262). -/
  | cpAllgath (a : CpArgs)
  /-- CP_REDSC (R262). -/
  | cpRedsc (a : CpArgs)
  /-- CP_BCAST (R262). -/
  | cpBcast (a : CpArgs)
  /-- CP_DRAIN_COMPLETE (R257). -/
  | cpDrainComplete
  /-- CP_SIG_ARRIVAL (R257). -/
  | cpSigArrival
  /-- CP_STAGE_COMPLETE (R259). -/
  | cpStageComplete
  /-- UNIT_VERIFY (R256). -/
  | unitVerify (xid recv unit : Nat) (ok : Bool)
  /-- UNIT_RESEND (R256). -/
  | unitResend (xid recv unit : Nat)
  /-- MCAST_SENDER_ARRIVAL (R258). -/
  | mcastSenderArrival (xid : Nat)
  /-- TRANSFER_COMPLETE (R254). -/
  | transferComplete (xid : Nat)
  /-- COLLECTIVE_REDUCE_STEP (R398). -/
  | collectiveReduceStep (m : CollMsg)
  /-- COLLECTIVE_RESULT_WRITE (R398). -/
  | collectiveResultWrite (m : CollMsg)
  /-- COLLECTIVE_COMPLETE (R263). -/
  | collectiveComplete (collid : H16)
  /-- REMOTE_ACCESS_APPLY (R146). -/
  | remoteAccessApply
  /-- REMOTE_REPLY (R146). -/
  | remoteReply
  /-- TRANSFER_HEADER_ACCEPT (R27). -/
  | transferHeaderAccept (xid : Nat)
  /-- RING_FLIT_LAUNCH (R389). -/
  | ringFlitLaunch (fid slot : Nat)
  /-- RING_FLIT_ARRIVAL (R390). -/
  | ringFlitArrival (fid : Nat)
  /-- NACK_RELAUNCH (R390). -/
  | nackRelaunch (fid slot : Nat)
  /-- FRAME_MARKER_EMIT (R331). -/
  | frameMarkerEmit (part : BitVec 5)
  /-- FRAME_MARKER_DELIVERY (R331). -/
  | frameMarkerDelivery (part : BitVec 5)
  /-- STAMPED_ENTRY_START (R332). -/
  | stampedEntryStart (e : Eng)
  /-- DET_LAUNCH_START (R330). -/
  | detLaunchStart (part : BitVec 5)
  /-- CORE_TAKE_RECORD (R311). -/
  | coreTakeRecord
  /-- LAUNCH_BEGIN (R319). -/
  | launchBegin (vf : BitVec 9) (lid : W32)
  /-- GANG_ATTEMPT (R324). -/
  | gangAttempt (g : Nat)
  /-- RESERVE (R324). -/
  | reserve (g p : Nat)
  /-- GANG_REPLIES (R324). -/
  | gangReplies (g : Nat)
  /-- COMMIT (R324). -/
  | commit (g : Nat)
  /-- RELEASE (R324). -/
  | release (g p : Nat)
  /-- GANG_BACKOFF_EXPIRY (R324). -/
  | gangBackoffExpiry (g : Nat)
  /-- GANG_HOLD_COMPLETE (R324). -/
  | gangHoldComplete (g : Nat)
  /-- WATCHDOG (R327). -/
  | watchdog
  /-- PARTITION_RESET_REQUEST (R374). -/
  | partitionResetRequest (part : BitVec 5)
  /-- SUBMISSION_QUEUE_READ (R376). -/
  | submissionQueueRead (vf : BitVec 9) (q : BitVec 4)
  /-- DOORBELL (R376). -/
  | doorbell (vf : BitVec 9) (q : BitVec 4) (t : W32)
  /-- LOGICAL_SAVE_COMPLETE (R346). -/
  | logicalSaveComplete
  /-- SCAN_STREAM_COMPLETE (R348). -/
  | scanStreamComplete
  /-- SCAN_IMAGE_SEAL (R351). -/
  | scanImageSeal
  /-- SCAN_REQ_GO (R348). -/
  | scanReqGo (img : Addr)
  /-- RESTORE_REQ_GO (R352). -/
  | restoreReqGo (img : Addr)
  /-- SCAN_RESTORE_COMPLETE (R352). -/
  | scanRestoreComplete
  /-- POWER_GATE (R354). -/
  | powerGate
  /-- CORE_WAKE (R354). -/
  | coreWake
  /-- DBG_HALT_LOGICAL (R359). -/
  | dbgHaltLogical
  /-- DBG_HALT_SCAN (R360). -/
  | dbgHaltScan
  /-- DBG_RESUME (R359). -/
  | dbgResume
  /-- QUIESCENT (R359). -/
  | quiescent
  /-- DBG_DATA_READ (R358). -/
  | dbgDataRead
  /-- DBG_DATA_WRITE (R358). -/
  | dbgDataWrite (v : W64)
  /-- TST_COMMIT (R366). -/
  | tstCommit (slen : BitVec 6)
  /-- TST_COMMIT_CANCEL (R366). -/
  | tstCommitCancel
  /-- SOFT_STOP_EMIT (R367). -/
  | softStopEmit
  /-- SOFT_STOP (R368). -/
  | softStop
  /-- SLOT_EDGE_EMIT (R367). -/
  | slotEdgeEmit
  /-- SLOT_EDGE (R369). -/
  | slotEdge
  /-- CLEANING_COMPLETE (R370). -/
  | cleaningComplete
  /-- PHASE_DRAIN_COMPLETE (R369). -/
  | phaseDrainComplete
  /-- THROTTLE_ONSET (R416). -/
  | throttleOnset (t0 t1 : H16) (pwr : W32)
  /-- THROTTLE_END (R416). -/
  | throttleEnd (t0 t1 : H16) (pwr : W32)
  /-- THERMAL_CUT (R417). -/
  | thermalCut (t0 t1 : H16)
  /-- PF_RESET (R406). -/
  | pfReset
  /-- BOOT_STAGE (R407). -/
  | bootStage (inp : BootIn)
  /-- BOOT_TEMP_SAMPLE (R407). -/
  | bootTempSample (t0 t1 : H16)
  /-- FEATURE_LOCK (R412). -/
  | featureLock
  /-- VF_STOP (R377). -/
  | vfStop (vf : BitVec 9)
  /-- VF_STOP_COMPLETE (R377). -/
  | vfStopComplete (vf : BitVec 9)
  /-- VF_RESUME (R378). -/
  | vfResume (vf : BitVec 9)
  /-- VF_FLR (R406). -/
  | vfFlr (vf : BitVec 9)
  /-- TDI_ERROR (R400). -/
  | tdiError (vf : BitVec 9)
  /-- DIRTY_SWAP (R379). -/
  | dirtySwap (vf : BitVec 9)
  /-- SCRUB_PUSH (R384). -/
  | scrubPush (w : W64)
  /-- SCRUB_COMPLETE (R385). -/
  | scrubComplete
  /-- ETH_TAB_LOAD (R402). -/
  | ethTabLoad (port : BitVec 2) (addr : Addr)
  /-- ETH_RX_FRAME (R403). -/
  | ethRxFrame (port : BitVec 2) (f : EthFrame)
  /-- ETH_TX_SLOT (R404). -/
  | ethTxSlot (port : BitVec 2) (entry : BitVec 6)
  /-- LORCY_TRAINING (R393). -/
  | lorcyTraining (port : Bool) (peerPos peerN : Nat)
  /-- LINK_FLIT_RECEIVE (R394). -/
  | linkFlitReceive (port : Bool) (crcOk : Bool) (seq : H16) (drained : Nat)
  /-- REPLAY_REQUEST (R394). -/
  | replayRequest (port : Bool) (seq : H16)
  /-- LANE_ERROR_WINDOW (R395). -/
  | laneErrorWindow (port : Bool) (lane : BitVec 5) (errs : W32)
  /-- SPARE_REQ (R395). -/
  | spareReq (port : Bool) (lane : BitVec 5)
  /-- LANE_MAP_SWITCH (R395). -/
  | laneMapSwitch (port : Bool)
  /-- PORT_DOWN (R396). -/
  | portDown (port : Bool)
  /-- RETRAIN (R397). -/
  | retrain (port : Bool)
  /-- L1_LINE_EXPIRY (R290). -/
  | l1LineExpiry (line : Nat)
  /-- REGISTER_WRITE (R361). -/
  | registerWrite (off : BitVec 24) (val : W64)
  /-- ILLEGAL_CTL_WORD (R53). -/
  | illegalCtlWord (w : W32)
  /-- POWER_ON (R407). -/
  | powerOn
  /-- POWER_LOSS (R413). -/
  | powerLoss
  /-- BOOT_STAGE_TIMEOUT (R407). -/
  | bootStageTimeout
  /-- SPDM_REQUEST (R414). -/
  | spdmRequest (index : Nat)
  /-- TDISP_REQUEST (R399). -/
  | tdispRequest (vf : BitVec 9) (msg : BitVec 2)
  deriving DecidableEq, Repr

end Sys2Proof
end

