-- ==== Sys2Proof/Config.lean ====
section
/-!
DEFINITION. What one implementation fixes, and the values the spec leaves open. An `opaque` constant has no body:
nothing can be proved about its value, so a claim that mentions it holds whatever it is.
-/

namespace Sys2Proof

/-- The fields of a logical image's body whose size R17 does not give in whole bytes (R38, R347). -/
inductive BodyField where
  | pc | loopBody | vrb | mode | sflen | token | occupancy | entryMode | binding | target | left | setup | tag | hold | channel
  | slot | progress | fault | remote
  deriving DecidableEq, Repr

end Sys2Proof

namespace Sys2Proof.Config

/-- Physical cores of a package (R2). -/
def cores : Nat := 72
/-- Bytes of a scratchpad (R2). -/
def spadBytes : Nat := 0x400000
/-- Stops of the core ring (R386). -/
def ringStops : Nat := 76
/-- Slots of one direction of the core ring (R387). -/
def ringSlots : Nat := 152

/-- Entry n of the free picks that the FAST profile leaves to the implementation (R95). -/
opaque fastPick : Nat → Nat
/-- The value of a result the spec leaves open, the n-th drawn. -/
opaque freeWord : Nat → W64
/-- The PL3 trap entry that the monitor image fixes at boot (R337). -/
opaque monitorEntry : Addr
/-- The monitor's descriptor table (R337), a device address. -/
opaque monitorTable : Addr
/-- Tile revision: the S2 tile of R348. -/
def tileRev : W32 := 0x00010102#32
/-- The bytes that a field of a logical image's body takes (R38, R347), at most 8: the spec orders the fields and does not count
the bytes of these. -/
opaque bodyWidth : BodyField → Fin 9
/-- Byte k of the chain data of the n-th image, where it is a scan image (R349): they have meaning for the tile alone. -/
opaque chainByte : Nat → Nat → Byte
/-- The bytes of entry k of the parked list of the n-th image (R347, R349), whose format the spec does not give. -/
opaque parkedBytes : Nat → Nat → List Byte
/-- Entries beyond 1,024 that a parking region holds (R350). -/
opaque parkMore : Nat
/-- Credits that a receiving sector-link port gives for its open phases (R392). -/
opaque linkCredits : Nat
/-- The measured bytes of measurement index n that the package's own ROM, firmware and microcode make up (R414). -/
opaque measuredCode : Nat → List Byte

end Sys2Proof.Config
end

