-- ==== Sys2Proof/WellFormed.lean ====
section
/-!
DEFINITION. Which instructions are well formed: the illegal field values of R47–R53 for control words, the undefined
images of R59 for engine images (with each engine's own map), and the illegal operand fields of EP words (R222).
-/

namespace Sys2Proof

/-- A tid that GIVE, TAKE and OWNQ accept (R50). -/
def tensorTid (t : BitVec 12) : Bool := 1 ≤ t.toNat && t.toNat ≤ 0xDFF

/-- The common checks of R59: no engine's own bit in WAIT or SIG (rule 4), every BIND flag on a bindable pair
(the first bit of `ok` is pair 0), and a register number in every bound pair (rule 3). -/
def Hd.wf (h : Hd) (e : Eng) (ok : List Bool) (vals : List W32) : Bool :=
  !bit h.wait.toNat e.num && !bit h.sig.toNat e.num &&
  (List.range 4).all (fun p =>
    !bit h.bind.toNat p || (ok.getD p false && (vals.getD p 0).toNat < 32))

/-- Pair p of an image is bound. -/
def Hd.bound (h : Hd) (p : Nat) : Bool := bit h.bind.toNat p

/-- The checks of a long instruction (R58, R59 rule 5): RND, PROF and FADE. -/
def Long.wf (l : Long) (profs : List Nat) (fade : Bool) (rnds : List Nat) : Bool :=
  profs.contains l.prof.toNat && (fade || l.fade.toNat == 0) && rnds.contains l.rnd.toNat

/-- The profiles 0x00 to 0x0C, accepted where the profile has no effect (R94). -/
def allProfs : List Nat := List.range 13

/-! ### FE and DE (R162–R164) -/

/-- Element size in bytes of a type code (R162). -/
def typeBytes : Nat → Nat
  | 0 => 1 | 1 => 1 | 2 => 2 | 3 => 2 | 4 => 4 | 5 => 1 | 6 => 1 | 7 => 2 | 8 => 2 | 9 => 4
  | 10 => 4 | 11 => 8 | 12 => 4 | 13 => 3 | _ => 1

/-- TYPE and CONV of the plain forms: any type but 13 under RAW, 0 to 9 under WIDEN or NARROW (R164). -/
def FdArgs.plainType (a : FdArgs) : Bool :=
  (a.conv == 0 && a.typ.toNat ≤ 12) || (a.conv == 1 && a.typ.toNat ≤ 9)

/-- The parts of R163 that hold for every FE (`de` false) or DE (`de` true) instruction. -/
def FdArgs.base (a : FdArgs) (de : Bool) (lim : Nat) : Bool :=
  a.hd.wf (if de then .de else .fe) [true, true, true, true] [a.a, a.b, a.c, a.d] &&
  (if de then [0, 1, 2, 3, 4, 6].contains a.rnd.toNat else a.rnd == 0) &&
  a.conv.toNat ≤ 1 && 1 ≤ a.count.toNat && a.count.toNat ≤ lim

/-- The fields TID and OFFHI are zero. -/
def FdArgs.noTensor (a : FdArgs) : Bool := a.tid == 0 && a.offhi == 0

/-- The operands A, B, C and D that the table of R164 gives as 0: the map marks all four pairs bindable (R163), and a bound
pair holds a register number, not the literal the table gives (R57). -/
def FdArgs.zeroA (a : FdArgs) : Bool := a.hd.bound 0 || a.a == 0
def FdArgs.zeroB (a : FdArgs) : Bool := a.hd.bound 1 || a.b == 0
def FdArgs.zeroC (a : FdArgs) : Bool := a.hd.bound 2 || a.c == 0
def FdArgs.zeroD (a : FdArgs) : Bool := a.hd.bound 3 || a.d == 0

def FdArgs.wfLd (a : FdArgs) (de : Bool) : Bool :=
  a.base de 4 && a.plainType && a.zeroC && a.zeroD && a.h13 == 0 && a.h14 == 0

def FdArgs.wfLdg (a : FdArgs) (de : Bool) : Bool := a.base de 4 && a.typ == 0 && a.offhi == 0

def FdArgs.wfGath (a : FdArgs) (de : Bool) (lim : Nat) : Bool :=
  a.base de lim && a.plainType && a.zeroD && a.h13 == 0 && a.h14 == 0

def FdArgs.wfPack (a : FdArgs) (de : Bool) : Bool :=
  a.base de 4 && a.typ == 13 && a.conv == 0 && a.zeroC && a.zeroD && a.h13.toNat ≤ 1 && a.h14 == 0

/-- FE.BCST (R164). The operand that the form does not read, A with IMM = 1 and B with IMM = 0, may hold anything: the table says
only when each is read (log entry 109, DESIGN CHOICE). -/
def FdArgs.wfBcst (a : FdArgs) : Bool :=
  a.base false 4 && a.zeroC && a.zeroD && a.h13.toNat ≤ 1 && a.h14 == 0 &&
  (if a.h13 == 1 then a.typ == 0 && a.conv == 0 && a.noTensor else a.typ.toNat ≤ 9 && a.conv == 1)

def FdArgs.wfAgen (a : FdArgs) : Bool :=
  a.base false 4 && a.zeroA && a.typ == 0 && a.conv == 0 && a.noTensor && a.h13 == 0 && a.h14 == 0

def FdArgs.wfStrm (a : FdArgs) : Bool :=
  a.base false 65535 && a.plainType && a.zeroC && (a.hd.bound 3 || a.d != 0) && a.h13 == 0 && a.h14 == 0

def FdArgs.wfIdx (a : FdArgs) : Bool :=
  a.base false 4 && a.typ == 0 && a.conv == 0 && a.noTensor && a.zeroB && a.zeroC &&
  (a.hd.bound 3 || (1 ≤ a.d.toNat && a.d.toNat ≤ 2 ^ 25)) && a.h13 == 0 && a.h14 == 0

/-- DE.ADDST (R164). C, which the form reads only with IDXL = 1, may hold anything (log entry 109, DESIGN CHOICE). -/
def FdArgs.wfAddst (a : FdArgs) : Bool :=
  a.base true 4 && a.typ.toNat ≤ 9 && a.conv == 1 && a.zeroD && a.h13.toNat ≤ 1 && a.h14 == 0

def FdArgs.wfDeAgen (a : FdArgs) : Bool :=
  a.base true 65535 && a.typ == 0 && a.conv == 0 && a.q == 0 && a.h13 == 0 && a.h14 == 0

/-! ### VX (R172–R202) -/

/-- The classes of R177. -/
inductive VxClass where
  | alu | fma | sfu | conv | perm | red | spad | slot
  deriving DecidableEq, Repr

/-- What D names (R176, R185, R196, R197). -/
inductive VxDst where
  | vec | vq | mask | kreg | queue | none
  deriving DecidableEq, Repr

/-- What a VX row allows: the fields R172 and the instruction's own row let be nonzero. -/
structure VxRow where
  types : List Nat
  useA : Bool
  useB : Bool
  useC : Bool
  dst : VxDst
  cls : VxClass
  ftz : Bool
  rnd : Bool
  sat : Bool
  masked : Bool
  immBind : Bool
  immMax : Nat
  fns : List Nat
  deriving DecidableEq, Repr

/-- A row of an element-wise instruction with no immediate and FN 0. -/
def VxRow.mk' (types : List Nat) (n : Nat) (dst : VxDst) (cls : VxClass) (ftz rnd sat : Bool) (fns : List Nat) : VxRow :=
  { types := types, useA := true, useB := 2 ≤ n, useC := 3 ≤ n, dst := dst, cls := cls, ftz := ftz, rnd := rnd,
    sat := sat, masked := true, immBind := false, immMax := 0, fns := fns }

/-- FN values of VX.CVT (R191): destination and source codes that differ. -/
def cvtFns : List Nat :=
  ((List.range 11).map (fun d => (List.range 10).filterMap (fun s => if d == s then none else some (16 * d + s)))).flatten

/-- Elements per lane of a conversion format code (R190). -/
def cvtElems : Nat → Nat
  | 0 => 1 | 1 => 2 | 2 => 2 | 3 => 1 | 4 => 2 | 5 => 2 | _ => 4

/-- FN values of VX.QNT (R192). -/
def qntFns : List Nat := [1, 2, 4, 5, 6, 7, 8, 9, 10].map (16 * ·)

/-- The row of each VX instruction (R184–R202). FTZ is refused on an instruction of TYPE 0 that does no float arithmetic, but for the
reductions of R199: R172 lists it for float types only (log entry 110, DEDUCED). -/
def vxRow : Instr → Option (VxRow × VxArgs)
  | .vxFadd a | .vxFsub a | .vxFmul a => some (.mk' [0, 1, 2] 2 .vec .fma true true false [0], a)
  | .vxFma a | .vxFms a => some (.mk' [0, 1, 2] 3 .vec .fma true true false [0], a)
  | .vxFmin a | .vxFmax a => some (.mk' [0, 1, 2] 2 .vec .alu true false false [0], a)
  | .vxFabs a | .vxFneg a | .vxFclass a => some (.mk' [0, 1, 2] 1 .vec .alu true false false [0], a)
  | .vxFcmp a => some (.mk' [0, 1, 2] 2 .mask .slot true false false ((List.range 8) ++ (List.range 8).map (· + 128)), a)
  | .vxFrnd a => some (.mk' [0, 1, 2] 1 .vec .conv true true false [0], a)
  | .vxIadd a | .vxIsub a => some (.mk' [3, 4] 2 .vec .alu false false true [0, 1], a)
  | .vxImul a => some (.mk' [3, 4] 2 .vec .fma false false false [0], a)
  | .vxImulh a => some (.mk' [3, 4] 2 .vec .fma false false false [0, 2], a)
  | .vxImad a => some (.mk' [3, 4] 3 .vec .fma false false true [0, 1], a)
  | .vxImin a | .vxImax a => some (.mk' [3, 4] 2 .vec .alu false false false [0, 2], a)
  | .vxAnd a | .vxOr a | .vxXor a | .vxAndn a | .vxShl a | .vxShr a | .vxSar a =>
    some (.mk' [3, 4] 2 .vec .alu false false false [0], a)
  | .vxIcmp a =>
    some (.mk' [3, 4] 2 .mask .slot false false false
      ((List.range 6) ++ (List.range 6).map (· + 8) ++ (List.range 6).map (· + 128) ++ (List.range 6).map (· + 136)), a)
  | .vxCadd a | .vxCsub a | .vxCmul a | .vxCmulj a => some (.mk' [5, 6, 7] 2 .vec .fma true true true [0], a)
  | .vxCmac a => some (.mk' [5, 6, 7] 3 .vec .fma true true true [0], a)
  | .vxCabs2 a => some (.mk' [5, 6, 7] 1 .vec .fma true true true [0], a)
  | .vxExp2 a | .vxLog2 a | .vxRcp a | .vxRsq a | .vxSqrt a | .vxSigm a | .vxTanh a | .vxSilu a | .vxSoftp a =>
    some (.mk' [0, 1, 2] 1 .vec .sfu true true false [0], a)
  | .vxCvt a => some ({ VxRow.mk' [0] 1 .vq .conv true true true cvtFns with immMax := 3 }, a)
  | .vxQnt a => some ({ VxRow.mk' [0] 2 .vq .conv true true true qntFns with immMax := 3 }, a)
  | .vxMov a => some (.mk' [0] 1 .vec .alu false false false [0], a)
  | .vxMovLds a =>
    some ({ VxRow.mk' [0] 0 .vq .spad false false false [1, 129] with useA := false, immBind := true, immMax := 2 ^ 32 - 1 }, a)
  | .vxMovSts a =>
    some ({ VxRow.mk' [0] 1 .none .slot false false false [2, 130] with immBind := true, immMax := 2 ^ 32 - 1 }, a)
  | .vxSel a => some (.mk' [0] 2 .vec .alu false false false (List.range 8), a)
  | .vxShuf a => some ({ VxRow.mk' [0] 2 .vq .perm false false false [0, 1] with useC := a.fn == 1 }, a)
  | .vxLrot a =>
    some ({ VxRow.mk' [0] 1 .vq .perm false false false [0, 1] with immBind := true, immMax := 2 ^ 32 - 1 }, a)
  | .vxKset a =>
    some ({ VxRow.mk' [0] 0 .kreg .slot false false false [0] with
            useA := false, masked := false, immBind := true, immMax := 2 ^ 32 - 1 }, a)
  | .vxKsetLane a => some ({ VxRow.mk' [0] 1 .kreg .slot false false false [1] with masked := false, immMax := 63 }, a)
  | .vxMopAnd a => some ({ VxRow.mk' [0] 2 .mask .slot false false false [0] with masked := false }, a)
  | .vxMopOr a => some ({ VxRow.mk' [0] 2 .mask .slot false false false [1] with masked := false }, a)
  | .vxMopXor a => some ({ VxRow.mk' [0] 2 .mask .slot false false false [2] with masked := false }, a)
  | .vxMopAndn a => some ({ VxRow.mk' [0] 2 .mask .slot false false false [3] with masked := false }, a)
  | .vxMopNot a => some ({ VxRow.mk' [0] 1 .mask .slot false false false [4] with masked := false }, a)
  | .vxMopSet a => some ({ VxRow.mk' [0] 0 .mask .slot false false false [5] with useA := false, masked := false }, a)
  | .vxMopClr a => some ({ VxRow.mk' [0] 0 .mask .slot false false false [6] with useA := false, masked := false }, a)
  | .vxMopFromv a => some ({ VxRow.mk' [0] 1 .mask .slot false false false [7] with masked := false }, a)
  | .vxMopTov a => some ({ VxRow.mk' [0] 1 .vec .alu false false false [8] with masked := false }, a)
  | .vxQcfg a =>
    some ({ VxRow.mk' [0] 0 .queue .slot false false false [0] with useA := false, masked := false, immMax := 255 }, a)
  | .vxLfsrSeedv a => some (.mk' [0] 1 .none .slot false false false [0], a)
  | .vxLfsrSeedi a =>
    some ({ VxRow.mk' [0] 0 .none .slot false false false [1] with useA := false, immBind := true, immMax := 2 ^ 32 - 1 }, a)
  | .vxLfsrRead a => some ({ VxRow.mk' [0] 0 .vec .alu false false false [2] with useA := false }, a)
  | .vxLfsrStep a => some ({ VxRow.mk' [0] 0 .none .slot false false false [3] with useA := false }, a)
  | .vxRsum a => some (.mk' [0] 1 .vq .red true false false [0], a)
  | .vxRmax a | .vxRmin a => some (.mk' [0, 3] 1 .vq .red true false false (if a.typ == 3 then [0, 2] else [0]), a)
  | .vxRamax a => some (.mk' [0] 1 .vq .red true false false [0], a)
  | .vxPsum a => some (.mk' [0, 3] 1 .vq .red true false false [0], a)
  | .vxFirst a => some (.mk' [0] 1 .vq .red true false false (List.range 7), a)
  | _ => none

/-- The field A names a mask register by index, not a source selector (R196, R202). -/
def Instr.maskSource : Instr → Bool
  | .vxMopAnd _ | .vxMopOr _ | .vxMopXor _ | .vxMopAndn _ | .vxMopNot _ | .vxMopTov _ | .vxFirst _ => true
  | _ => false

/-- The constants of R175 that are illegal for integer types and CI12. -/
def floatOnlyConst (sel : Nat) : Bool := [87, 89, 90, 92, 93, 94].contains sel

/-- TYPE is one of the float types, for which FTZ is meaningful. -/
def floatType (t : Nat) : Bool := [0, 1, 2, 5, 7].contains t

/-- A source selector is legal for TYPE (R174, R175). -/
def selOk (t sel : Nat) : Bool := sel < 104 && !(floatOnlyConst sel && [3, 4, 6].contains t)

/-- The queue a source selector names, if any. -/
def selQueue (sel : Nat) : Option Nat := if 64 ≤ sel && sel < 80 then some (sel % 8) else none

/-- D is a legal destination of the class (R176). -/
def dstOk (r : VxRow) (a : VxArgs) : Bool :=
  let d := a.d.toNat
  match r.dst with
  | .vec => d < 72 ||
      (match r.cls with
       | .alu => d == (if a.pb then 81 else 80)
       | .fma => d == 82
       | .sfu => d == 83
       | _ => false)
  | .vq => d < 72
  | .mask => d < 8
  | .kreg => d < 8
  | .queue => 64 ≤ d && d < 72
  | .none => d == 0

/-- The bindings that VX.QCFG accepts (R197). -/
def qcfgOk (imm : Nat) : Bool :=
  let p := imm % 16
  let c := imm / 16
  (p == 0 && c == 0) || ([1, 2, 3].contains p && [2, 5].contains c)

/-- R59 for a VX image: every field that the row does not name is zero, and no field holds an illegal value. That H of VX.ICMP must be
zero on INT32 too is log entry 128 (DESIGN CHOICE); that SMEN and SM are read by mnemonic, so that a form of a saturating
instruction that never saturates takes them, while a complex type is judged by TYPE, is log entry 129 (DESIGN CHOICE). -/
def vxWf (i : Instr) : Bool :=
  match vxRow i with
  | none => false
  | some (r, a) =>
    let t := a.typ.toNat
    let msk := i.maskSource
    a.hd.wf .vx [r.immBind, false, false, false] [a.imm, 0, 0, 0] &&
    r.types.contains t && dstOk r a &&
    (if r.useA then (if msk then a.a.toNat < 8 else selOk t a.a.toNat) else a.a == 0) &&
    (if r.useB then (if msk then a.b.toNat < 8 else selOk t a.b.toNat) else a.b == 0) &&
    (if r.useC then selOk t a.c.toNat else a.c == 0) &&
    (msk || [a.a, a.b, a.c].zipIdx.all (fun x =>
      match (if [r.useA, r.useB, r.useC].getD x.2 false then selQueue x.1.toNat else none) with
      | none => true
      | some q => [a.a, a.b, a.c].zipIdx.all (fun y =>
          y.2 == x.2 || !([r.useA, r.useB, r.useC].getD y.2 false) || selQueue y.1.toNat != some q))) &&
    (!a.ftz || (r.ftz && floatType t)) &&
    (r.masked || (a.msel == 0 && !a.mz)) &&
    (!a.pb || r.cls == .alu) &&
    (if r.rnd && t != 6 then a.rnd.toNat ≤ 6 else a.rnd == 0) &&
    ((r.sat && (t == 0 || t == 3 || t == 4 || t == 6)) || (!a.smen && a.sm == 0)) &&
    a.imm.toNat ≤ r.immMax && r.fns.contains a.fn.toNat &&
    (match i with
     | .vxRsum _ => [0, 4, 11].contains a.prof.toNat
     | _ => a.prof == 0) &&
    (match i with
     | .vxFcmp _ | .vxIcmp _ => !(a.fn.toNat ≥ 128 && (t == 0 || t == 3))
     | .vxCvt _ =>
       let d := cvtElems (a.fn.toNat / 16)
       let s := cvtElems (a.fn.toNat % 16)
       a.imm.toNat < max s d / min s d
     | .vxQnt _ => a.imm.toNat < cvtElems (a.fn.toNat / 16)
     | .vxQcfg _ => qcfgOk a.imm.toNat
     | _ => true)

/-! ### MX (R204–R217) -/

/-- The MX operand types (R204). -/
def mxTypes : List Nat := [0, 1, 2, 5, 6, 7, 8, 10, 12]

/-- The legal operand pairs (R204). -/
def mxPairOk (ta tb : Nat) : Bool :=
  ([0, 1].contains ta && [0, 1].contains tb) || ([5, 6].contains ta && [5, 6].contains tb) ||
  (ta == tb && [2, 7, 8, 10, 12].contains ta)

def NestArgs.wf (a : NestArgs) : Bool :=
  a.hd.wf .mx [true, true, false, false] [a.sa, a.sb, 0, 0] && a.level.toNat ≤ 5

def OpndArgs.wf (a : OpndArgs) : Bool :=
  a.hd.wf .mx [true, true, false, false] [a.abase, a.bbase, 0, 0] && mxPairOk a.ta.toNat a.tb.toNat &&
  (a.la || a.pa == 0) && (a.lb || a.pb == 0)

def AccArgs.wf (a : AccArgs) : Bool :=
  a.hd.wf .mx [true, false, false, false] [a.lbase, 0, 0, 0] && a.mode.toNat ≤ 2 &&
  a.lp.toNat % 4 == 0 && (a.mode == 1 || (a.lp == 0 && a.lbase == 0))

def GoArgs.wf (a : GoArgs) : Bool :=
  a.hd.wf .mx [false, false, false, false] [0, 0, 0, 0] && a.long.wf (List.range 9) false [0] &&
  1 ≤ a.kl.toNat && a.kl.toNat ≤ 6

def AccstArgs.wf (a : AccstArgs) : Bool :=
  a.hd.wf .mx [true, true, false, false] [a.off, a.pitch, 0, 0] &&
  (a.hd.bound 1 || (a.pitch.toNat % 4 == 0 && 256 ≤ a.pitch.toNat))

def EpldArgs.wf (a : EpldArgs) : Bool :=
  a.hd.wf .mx [true, false, false, false] [a.a, 0, 0, 0] && 1 ≤ a.n.toNat && a.n.toNat ≤ 64 &&
  a.at_.toNat + a.n.toNat ≤ 64 && a.tid.toNat ≤ 0xDFF

/-- The forms of MX.EPARG (R217): 0 LD, 1 BC, 2 SP, 3 TG, 4 QU. Every pair may be bound; the halfwords of one that the form does
not use are zero all the same. -/
def EpargArgs.wf (a : EpargArgs) (form : Nat) : Bool :=
  let h3 := a.h3.toNat
  let esz := 2 ^ bits h3 13 2
  a.hd.wf .mx [true, true, true, true] [a.p0, a.p1, a.p2, a.p3] &&
  (form < 2 || a.idx.toNat < 4) &&
  (match form with
   | 2 => bits h3 13 2 ≤ 2 && bits h3 9 2 == 0 && esz ≤ bits h3 0 9 && bits h3 0 9 ≤ 64 * esz && bits h3 0 9 % esz == 0
   | 3 => h3 < 512 && 1 ≤ h3 && h3 ≤ 64
   | 4 => h3 < 8
   | _ => h3 == 0) &&
  (form != 4 || a.p0 == 0) && (form == 2 || form == 3 || a.p1 == 0) && (form == 3 || (a.p2 == 0 && a.p3 == 0)) &&
  (form == 0 || (form == 3 && a.h12.toNat < 4096) || a.h12 == 0)

/-! ### SX, FR, CP (R230–R262) -/

def SxCfgArgs.wf (a : SxCfgArgs) : Bool :=
  a.hd.wf .sx [false, false, false, false] [0, 0, 0, 0] && a.long.wf allProfs false [0] &&
  (a.nvm1.toNat + 1) % (a.gm1.toNat + 1) == 0

def SxResetArgs.wf (a : SxResetArgs) : Bool :=
  a.hd.wf .sx [true, false, false, false] [a.moff, 0, 0, 0] && a.long.wf allProfs false [0]

def SxCarryArgs.wf (a : SxCarryArgs) : Bool :=
  a.hd.wf .sx [true, true, false, false] [a.slots, a.coff, 0, 0] && a.long.wf allProfs false [0]

def SxScanArgs.wf (a : SxScanArgs) (contr : Bool) : Bool :=
  a.hd.wf .sx [true, true, true, contr] [a.x, a.a, a.p2, a.p3] && a.long.wf [0, 9, 10] true [0] &&
  (contr || a.p3 == 0) && (!contr || !a.noh)

def SxFadeqArgs.wf (a : SxFadeqArgs) : Bool :=
  a.hd.wf .sx [true, false, false, false] [a.off, 0, 0, 0] && a.long.wf allProfs false [0]

/-- Which fields an FR instruction uses (R245). -/
structure FrRow where
  sess : Bool
  p1 : Bool
  p2 : Bool
  tab : Bool
  home : Bool
  keep : Bool
  nowait : Bool
  all : Bool
  slots : Bool
  deriving DecidableEq, Repr

/-- The row of R245 for an instruction. A field that is not used must be zero unless its pair is bound. -/
def FrArgs.wf (a : FrArgs) (r : FrRow) : Bool :=
  a.hd.wf .fr [true, true, true, false] [a.sess, a.p1, a.p2, 0] && a.long.wf allProfs false [0] &&
  (r.sess || a.hd.bound 0 || a.sess == 0) && (r.p1 || a.hd.bound 1 || a.p1 == 0) &&
  (r.p2 || a.hd.bound 2 || a.p2 == 0) && (r.tab || a.tab == 0) && (r.home || (a.htid == 0 && a.hoffhi == 0)) &&
  (r.keep || !a.keep) && (r.nowait || !a.nowait) && a.all == r.all &&
  (r.slots || (a.szm1 == 0 && a.nm1 == 0)) && (!r.slots || a.slot == 0)

/-- The row of R245 for an OPC and ALL. -/
def frOpRow (opc : Nat) (all : Bool) : Option FrRow :=
  match opc with
  | 1 => some ⟨false, false, true, false, false, false, false, false, true⟩
  | 2 => some ⟨true, false, false, true, false, false, false, false, false⟩
  | 3 => some ⟨false, false, false, true, false, true, true, false, false⟩
  | 4 => some ⟨true, false, false, true, false, false, true, false, false⟩
  | 5 => some ⟨false, true, false, true, false, false, true, false, false⟩
  | 6 => some ⟨false, true, false, true, false, false, true, false, false⟩
  | 7 => some ⟨true, true, false, true, true, false, true, false, false⟩
  | 8 => some ⟨false, true, false, true, false, false, true, all, false⟩
  | 9 => some ⟨false, false, true, false, false, false, false, false, false⟩
  | 10 => some ⟨true, true, false, true, true, false, false, false, false⟩
  | _ => none

/-- The rows of R245: SESS, P1, P2, TAB, HTID, KEEP, NOWAIT, ALL, and the two counts of FR.SLOTS. -/
def frRow : Instr → Option (FrRow × FrArgs)
  | .frSlots a => some (⟨false, false, true, false, false, false, false, false, true⟩, a)
  | .frIn a => some (⟨true, false, false, true, false, false, false, false, false⟩, a)
  | .frOut a => some (⟨false, false, false, true, false, true, true, false, false⟩, a)
  | .frSwap a => some (⟨true, false, false, true, false, false, true, false, false⟩, a)
  | .frSnap a => some (⟨false, true, false, true, false, false, true, false, false⟩, a)
  | .frRoll a => some (⟨false, true, false, true, false, false, true, false, false⟩, a)
  | .frFork a => some (⟨true, true, false, true, true, false, true, false, false⟩, a)
  | .frDrop a => some (⟨false, true, false, true, false, false, true, false, false⟩, a)
  | .frDropAll a => some (⟨false, true, false, true, false, false, true, true, false⟩, a)
  | .frStat a => some (⟨false, false, true, false, false, false, false, false, false⟩, a)
  | .frCold a => some (⟨true, true, false, true, true, false, false, false, false⟩, a)
  | _ => none

/-- The common part of R253: bindable pairs, long fields, and the halfwords and bits not listed. -/
def CpArgs.base (a : CpArgs) (use : List Bool) (profs rnds : List Nat) : Bool :=
  a.hd.wf .cp use [a.p0, a.p1, a.p2, a.p3] && a.long.wf profs false rnds &&
  (use.getD 0 false || a.p0 == 0) && (use.getD 1 false || a.p1 == 0) &&
  (use.getD 2 false || a.p2 == 0) && (use.getD 3 false || a.p3 == 0)

def CpArgs.wfCopy (a : CpArgs) : Bool :=
  a.base [true, true, true, true] allProfs [0] && 1 ≤ a.h14.toNat && a.h15.toNat &&& 0xFF30 == 0 &&
  (a.h14.toNat != 1 || a.hd.bound 3 || a.p3 == 0)

def CpArgs.wfMcast (a : CpArgs) : Bool :=
  a.base [true, true, true, true] allProfs [0] && a.h14 != 0 && a.h15.toNat &&& 0x00F0 == 0

def CpArgs.wfStage (a : CpArgs) : Bool :=
  a.base [false, false, false, false] allProfs [0] && a.h12 == 0 && a.h13 == 0 && a.h14 == 0 && a.h15 == 0

def CpArgs.wfDrain (a : CpArgs) : Bool :=
  a.base [false, false, false, false] allProfs [0] && a.h12 == 0 && a.h13 == 0 && a.h15 == 0 &&
  a.h14 != 0 && a.h14.toNat < 256

def CpArgs.wfFill (a : CpArgs) : Bool :=
  a.base [true, true, true, true] allProfs [0] && a.h12 == 0 && 1 ≤ a.h14.toNat && a.h15.toNat &&& 0xFF38 == 0 &&
  (a.hd.bound 3 || a.p3.toNat % 65536 == 0) &&
  (a.h14.toNat != 1 || a.hd.bound 3 || a.p3 == 0)

def CpArgs.wfSig (a : CpArgs) : Bool :=
  a.base [true, false, false, false] allProfs [0] && a.h13 == 0 && a.h14 == 0 &&
  a.h15.toNat &&& 0xF0F8 == 0 && bits a.h15.toNat 8 4 ≤ 8

/-- TYPE, OP, ROOT and RND of a collective (R261, R262); `kind` is the OPC. -/
def CpArgs.wfColl (a : CpArgs) (kind : Nat) : Bool :=
  let h := a.h15.toNat
  let op := bits h 10 2
  let ty := bits h 8 2
  a.base [true, true, true, true] (if kind == 7 || kind == 9 then [0, 11, 12] else allProfs)
    (if (kind == 7 || kind == 9) && op == 0 && ty != 0 then [0, 1, 2, 3, 4, 6] else [0]) &&
  a.h12 == 0 && a.h13 == 0 && h &&& 0xF8 == 0 && ty ≤ 2 && op ≤ 2 &&
  (kind == 7 || kind == 9 || op == 0) && !(ty == 2 && op != 0) &&
  (a.hd.bound 3 || a.p3.toNat < 65536) && (a.hd.bound 2 || (1 ≤ a.p2.toNat && a.p2.toNat ≤ 2 ^ 20))

/-! ### EP words (R222) -/

/-- The arithmetic words: RND below 7, T = 1 without RND or FTZ, SAT only with T = 1. -/
def EpArgs.wf (x : EpArgs) (rounds row : Bool) : Bool :=
  x.rnd.toNat ≤ 6 && (!x.t || (x.rnd == 0 && !x.ftz)) && (!x.sat || x.t) && (rounds || x.rnd == 0) && (row || !x.row)

def EpActArgs.wf (x : EpActArgs) (relu : Bool) : Bool := x.rnd.toNat ≤ 6 && (!relu || x.rnd == 0)

def EpCvtArgs.wf (x : EpCvtArgs) : Bool :=
  x.dst.toNat ≤ 10 && x.rnd.toNat ≤ 6 && !(x.dst == 0 && !x.fromi) && !(x.dst == 3 && x.fromi) &&
  x.part.toNat < cvtElems x.dst.toNat

def EpPackArgs.wf (x : EpPackArgs) : Bool := x.rnd.toNat ≤ 6 && !(x.ci12 && x.ftz)

/-! ### Every instruction -/

/-- Halfwords beyond the words that SZ supplies are zero (R55). -/
def Image.fits (img : Image) (sz : ImgSize) : Bool :=
  match sz with
  | .w2 => (List.range 12).all (fun k => img.h.toList.getD (4 + k) 0 == 0)
  | .w4 => (List.range 8).all (fun k => img.h.toList.getD (8 + k) 0 == 0)
  | .w8 => true

/-- A well-formed instruction: one that some word or image of the spec encodes. Events are well formed. -/
def Instr.wf (i : Instr) : Bool :=
  match i with
  | .amoCas sd _ _ _ _ => sd.val % 2 == 0 && sd.val != 0
  | .give _ tid | .take tid | .ownq _ tid => tensorTid tid
  | .twait m | .tsig m => m.toNat % 2 == 0
  | .engineDispatch _ sz img => img.fits sz
  | .templateStore _ sz _ img => img.fits sz
  | .feLd a => a.wfLd false
  | .feLdg a => a.wfLdg false
  | .feGath a | .feGathq a => a.wfGath false 65535
  | .feUnpk a => a.wfPack false
  | .feBcst a => a.wfBcst
  | .feAgen a => a.wfAgen
  | .feStrm a => a.wfStrm
  | .feIdx a => a.wfIdx
  | .deSt a => a.wfLd true
  | .deStg a => a.wfLdg true
  | .deScat a => a.wfGath true 4
  | .deAddst a => a.wfAddst
  | .dePack a => a.wfPack true
  | .deAgen a => a.wfDeAgen
  | .mxNest a => a.wf
  | .mxOpnd a => a.wf
  | .mxAcc a => a.wf
  | .mxGo a => a.wf
  | .mxAccst a => a.wf
  | .mxEpld a => a.wf
  | .mxEpargLd a => a.wf 0
  | .mxEpargBc a => a.wf 1
  | .mxEpargSp a => a.wf 2
  | .mxEpargTg a => a.wf 3
  | .mxEpargQu a => a.wf 4
  | .epAdd x | .epMul x | .epFma x => x.wf true false
  | .epMax x | .epMin x => x.wf false false
  | .epBias x | .epScale x => x.wf true true
  | .epActRelu x => x.wf true
  | .epActSigm x | .epActSilu x | .epActSoftp x | .epActTanh x => x.wf false
  | .epCvt x => x.wf
  | .epPack x => x.wf
  | .epSkip cond n => cond.toNat ≤ 2 && n != 0
  | .sxCfg a => a.wf
  | .sxReset a => a.wf
  | .sxCarry a => a.wf
  | .sxScan a => a.wf false
  | .sxContr a => a.wf true
  | .sxFadeq a => a.wf
  | .cpCopy a => a.wfCopy
  | .cpMcast a => a.wfMcast
  | .cpStage a => a.wfStage
  | .cpDrain a => a.wfDrain
  | .cpFill a => a.wfFill
  | .cpSig a => a.wfSig
  | .cpAllred a => a.wfColl 7
  | .cpAllgath a => a.wfColl 8
  | .cpRedsc a => a.wfColl 9
  | .cpBcast a => a.wfColl 10
  | _ =>
    match frRow i with
    | some (r, a) => a.wf r
    | none => match vxRow i with
      | some _ => vxWf i
      | none => true

end Sys2Proof
end

