-- ==== Sys2Proof/Decode.lean ====
section
/-!
DEFINITION. The decoder and the encoder. A word is read into a candidate instruction by its fields; it is accepted only
when the candidate is well formed and encodes back to the very word, so every must-be-zero bit is checked in one place
(R53, R59). A definition is noncomputable only because the compiler's runtime cannot tag the constructors beyond the
245th of `Instr`; the kernel evaluates it. Control words: R46–R52. Engine words: R54–R56. Images: R57–R62. EP words: R63, R222.
-/

namespace Sys2Proof

/-- Why a word or an image is no instruction (R53, R54, R56, R59, R63). -/
inductive DecodeError where
  | allOnes            -- the word 0xFFFF_FFFF (R44)
  | unassignedOp       -- an OP that R50 does not assign
  | unassignedFn       -- an FN of R51 or R52 that is not assigned
  | badField           -- a must-be-zero field that is not zero, or an illegal field value
  | badHeader          -- an engine header that breaks R54
  | badPatch           -- a patch word that breaks R56
  | unassignedOpc      -- an OPC that R62 does not assign to the engine
  | undefinedImage     -- an image that R59 makes undefined
  | unassignedEpop     -- an EPOP that R63 does not assign
  | truncated          -- fewer words than the instruction has
  deriving DecidableEq, Repr

/-! ### Small codes -/

def LdSize.code : LdSize → Nat
  | .b => 0 | .bu => 1 | .h => 2 | .hu => 3 | .w => 4 | .wu => 5 | .d => 6

def LdSize.ofCode : Nat → Option LdSize
  | 0 => some .b | 1 => some .bu | 2 => some .h | 3 => some .hu | 4 => some .w | 5 => some .wu | 6 => some .d
  | _ => none

def StSize.code : StSize → Nat
  | .b => 0 | .h => 2 | .w => 4 | .d => 6

def StSize.ofCode : Nat → Option StSize
  | 0 => some .b | 2 => some .h | 4 => some .w | 6 => some .d | _ => none

def Scope.code : Scope → Nat
  | .engine => 0 | .core => 1 | .cluster => 2 | .sector => 3 | .die => 4 | .package => 5 | .ring => 6 | .host => 7
  | .system => 8

def Scope.ofCode : Nat → Option Scope
  | 0 => some .engine | 1 => some .core | 2 => some .cluster | 3 => some .sector | 4 => some .die
  | 5 => some .package | 6 => some .ring | 7 => some .host | 8 => some .system | _ => none

def Order.code : Order → Nat
  | .rlx => 0 | .acq => 1 | .rel => 2 | .ar => 3

def Order.ofCode (n : Nat) : Order :=
  match n with | 0 => .rlx | 1 => .acq | 2 => .rel | _ => .ar

def ExtW.code : ExtW → Nat
  | .w8 => 0 | .w16 => 1 | .w32 => 2

def ExtW.ofCode : Nat → Option ExtW
  | 0 => some .w8 | 1 => some .w16 | 2 => some .w32 | _ => none

def ImgSize.code : ImgSize → Nat
  | .w2 => 0 | .w4 => 1 | .w8 => 2

def ImgSize.ofCode : Nat → Option ImgSize
  | 0 => some .w2 | 1 => some .w4 | 2 => some .w8 | _ => none

/-- Image words that follow a header (R54). -/
def ImgSize.words : ImgSize → Nat
  | .w2 => 2 | .w4 => 4 | .w8 => 8

/-! ### Word layouts (R46) -/

/-- Format CR, CX and CS: [27:22] OP, [21:17], [16:12], [11:0]. -/
def wOp (op d a lo : Nat) : Nat := op * 2 ^ 22 + d * 2 ^ 17 + a * 2 ^ 12 + lo

/-- The X bit, [28]. -/
def xBit : Nat := 2 ^ 28

/-- The ALU group: OP 0x01 with sb and FN (R51). -/
def wAlu (sd sa sb : Reg) (fn : Nat) : Nat := wOp 1 sd.val sa.val (sb.val * 128 + fn)

/-- The AMO sysfield (R52). -/
def amoField (fn : Nat) (ord : Order) (dbl : Bool) (sc : Scope) : Nat :=
  fn * 256 + ord.code * 64 + b2n dbl * 32 + sc.code * 2

/-- The words of a control instruction (R46–R52); none for a row that is no control word. -/
def encodeCtl : Instr → Option (List Nat)
  | .nop => some [0]
  | .add sd sa sb => some [wAlu sd sa sb 0]
  | .sub sd sa sb => some [wAlu sd sa sb 1]
  | .and sd sa sb => some [wAlu sd sa sb 2]
  | .or sd sa sb => some [wAlu sd sa sb 3]
  | .xor sd sa sb => some [wAlu sd sa sb 4]
  | .andn sd sa sb => some [wAlu sd sa sb 5]
  | .shl sd sa sb => some [wAlu sd sa sb 6]
  | .shr sd sa sb => some [wAlu sd sa sb 7]
  | .sar sd sa sb => some [wAlu sd sa sb 8]
  | .rol sd sa sb => some [wAlu sd sa sb 9]
  | .ror sd sa sb => some [wAlu sd sa sb 10]
  | .min sd sa sb => some [wAlu sd sa sb 11]
  | .max sd sa sb => some [wAlu sd sa sb 12]
  | .minu sd sa sb => some [wAlu sd sa sb 13]
  | .maxu sd sa sb => some [wAlu sd sa sb 14]
  | .slt sd sa sb => some [wAlu sd sa sb 15]
  | .sltu sd sa sb => some [wAlu sd sa sb 16]
  | .seq sd sa sb => some [wAlu sd sa sb 17]
  | .sne sd sa sb => some [wAlu sd sa sb 18]
  | .mul sd sa sb => some [wAlu sd sa sb 19]
  | .mulh sd sa sb => some [wAlu sd sa sb 20]
  | .mulhu sd sa sb => some [wAlu sd sa sb 21]
  | .div sd sa sb => some [wAlu sd sa sb 22]
  | .divu sd sa sb => some [wAlu sd sa sb 23]
  | .rem sd sa sb => some [wAlu sd sa sb 24]
  | .remu sd sa sb => some [wAlu sd sa sb 25]
  | .clz sd sa => some [wAlu sd sa 0 26]
  | .ctz sd sa => some [wAlu sd sa 0 27]
  | .popc sd sa => some [wAlu sd sa 0 28]
  | .brev sd sa => some [wAlu sd sa 0 29]
  | .sext sd sa w => some [wOp 1 sd.val sa.val (w.code * 128 + 30)]
  | .zext sd sa w => some [wOp 1 sd.val sa.val (w.code * 128 + 31)]
  | .addi sd sa imm => some [wOp 2 sd.val sa.val imm.toNat]
  | .addiX sd sa lit => some [xBit + wOp 2 sd.val sa.val 0, lit.toNat]
  | .andi sd sa imm => some [wOp 3 sd.val sa.val imm.toNat]
  | .andiX sd sa lit => some [xBit + wOp 3 sd.val sa.val 0, lit.toNat]
  | .ori sd sa imm => some [wOp 4 sd.val sa.val imm.toNat]
  | .oriX sd sa lit => some [xBit + wOp 4 sd.val sa.val 0, lit.toNat]
  | .xori sd sa imm => some [wOp 5 sd.val sa.val imm.toNat]
  | .xoriX sd sa lit => some [xBit + wOp 5 sd.val sa.val 0, lit.toNat]
  | .slti sd sa imm => some [wOp 6 sd.val sa.val imm.toNat]
  | .sltiX sd sa lit => some [xBit + wOp 6 sd.val sa.val 0, lit.toNat]
  | .sltiu sd sa imm => some [wOp 7 sd.val sa.val imm.toNat]
  | .sltiuX sd sa lit => some [xBit + wOp 7 sd.val sa.val 0, lit.toNat]
  | .muli sd sa imm => some [wOp 11 sd.val sa.val imm.toNat]
  | .muliX sd sa lit => some [xBit + wOp 11 sd.val sa.val 0, lit.toNat]
  | .shli sd sa amt => some [wOp 8 sd.val sa.val amt.toNat]
  | .shri sd sa amt => some [wOp 9 sd.val sa.val amt.toNat]
  | .sari sd sa amt => some [wOp 10 sd.val sa.val amt.toNat]
  | .idx sd sa sb sh imm => some [wOp 12 sd.val sa.val (sb.val * 128 + sh.toNat * 32 + imm.toNat)]
  | .idxX sd sa sb sh lit => some [xBit + wOp 12 sd.val sa.val (sb.val * 128 + sh.toNat * 32), lit.toNat]
  | .beq sa sb off => some [wOp 16 sa.val sb.val off.toNat]
  | .beqX sa sb lit => some [xBit + wOp 16 sa.val sb.val 0, lit.toNat]
  | .bne sa sb off => some [wOp 17 sa.val sb.val off.toNat]
  | .bneX sa sb lit => some [xBit + wOp 17 sa.val sb.val 0, lit.toNat]
  | .blt sa sb off => some [wOp 18 sa.val sb.val off.toNat]
  | .bltX sa sb lit => some [xBit + wOp 18 sa.val sb.val 0, lit.toNat]
  | .bge sa sb off => some [wOp 19 sa.val sb.val off.toNat]
  | .bgeX sa sb lit => some [xBit + wOp 19 sa.val sb.val 0, lit.toNat]
  | .bltu sa sb off => some [wOp 20 sa.val sb.val off.toNat]
  | .bltuX sa sb lit => some [xBit + wOp 20 sa.val sb.val 0, lit.toNat]
  | .bgeu sa sb off => some [wOp 21 sa.val sb.val off.toNat]
  | .bgeuX sa sb lit => some [xBit + wOp 21 sa.val sb.val 0, lit.toNat]
  | .j off => some [22 * 2 ^ 22 + off.toNat]
  | .jX lit => some [xBit + 22 * 2 ^ 22, lit.toNat]
  | .jal sd off => some [wOp 23 sd.val 0 off.toNat]
  | .jalX sd lit => some [xBit + wOp 23 sd.val 0 0, lit.toNat]
  | .jr sa off => some [wOp 24 0 sa.val off.toNat]
  | .jrX sa lit => some [xBit + wOp 24 0 sa.val 0, lit.toNat]
  | .jalr sd sa off => some [wOp 25 sd.val sa.val off.toNat]
  | .jalrX sd sa lit => some [xBit + wOp 25 sd.val sa.val 0, lit.toNat]
  | .loop sa lvl len => some [wOp 26 0 sa.val (b2n lvl * 64 + len.toNat)]
  | .loopi count lvl len => some [27 * 2 ^ 22 + count.toNat * 2 ^ 12 + b2n lvl * 64 + len.toNat]
  | .loopiX lit lvl len => some [xBit + 27 * 2 ^ 22 + b2n lvl * 64 + len.toNat, lit.toNat]
  | .brot sa rot off => some [wOp 28 sa.val rot.toNat off.toNat]
  | .rot amt => some [wOp 29 0 0 amt.toNat]
  | .setvrb sa imm => some [wOp 30 0 sa.val imm.toNat]
  | .ld sd base sz imm => some [wOp 32 sd.val base.val (sz.code * 512 + imm.toNat)]
  | .ldX sd base sz lit => some [xBit + wOp 32 sd.val base.val (sz.code * 512), lit.toNat]
  | .st src base sz imm => some [wOp 33 src.val base.val (sz.code * 512 + imm.toNat)]
  | .stX src base sz lit => some [xBit + wOp 33 src.val base.val (sz.code * 512), lit.toNat]
  | .lda sd base sz sc => some [wOp 34 sd.val base.val (sz.code * 512 + sc.code * 32)]
  | .stl src base sz sc => some [wOp 35 src.val base.val (sz.code * 512 + sc.code * 32)]
  | .amoAdd sd sa ord dbl sc => some [wOp 36 sd.val sa.val (amoField 0 ord dbl sc)]
  | .amoAnd sd sa ord dbl sc => some [wOp 36 sd.val sa.val (amoField 1 ord dbl sc)]
  | .amoOr sd sa ord dbl sc => some [wOp 36 sd.val sa.val (amoField 2 ord dbl sc)]
  | .amoXor sd sa ord dbl sc => some [wOp 36 sd.val sa.val (amoField 3 ord dbl sc)]
  | .amoMin sd sa ord dbl sc => some [wOp 36 sd.val sa.val (amoField 4 ord dbl sc)]
  | .amoMax sd sa ord dbl sc => some [wOp 36 sd.val sa.val (amoField 5 ord dbl sc)]
  | .amoMinu sd sa ord dbl sc => some [wOp 36 sd.val sa.val (amoField 6 ord dbl sc)]
  | .amoMaxu sd sa ord dbl sc => some [wOp 36 sd.val sa.val (amoField 7 ord dbl sc)]
  | .amoSwap sd sa ord dbl sc => some [wOp 36 sd.val sa.val (amoField 8 ord dbl sc)]
  | .amoCas sd sa ord dbl sc => some [wOp 36 sd.val sa.val (amoField 9 ord dbl sc)]
  | .fenceAcq sc => some [wOp 37 0 0 sc.code]
  | .fenceRel sc => some [wOp 37 0 0 (16 + sc.code)]
  | .fenceFull sc => some [wOp 37 0 0 (32 + sc.code)]
  | .prefL1 base imm => some [wOp 38 0 base.val imm.toNat]
  | .prefLlc base imm => some [wOp 38 0 base.val (512 + imm.toNat)]
  | .prefX llc base lit => some [xBit + wOp 38 0 base.val (b2n llc * 512), lit.toNat]
  | .give sa tid => some [wOp 40 0 sa.val tid.toNat]
  | .take tid => some [wOp 41 0 0 tid.toNat]
  | .ownq sd tid => some [wOp 42 sd.val 0 tid.toNat]
  | .barInit sd sa sc => some [wOp 43 sd.val sa.val (sc.code * 32)]
  | .barArv sa sc => some [wOp 43 0 sa.val (512 + sc.code * 32)]
  | .barWait sa sc => some [wOp 43 0 sa.val (1024 + sc.code * 32)]
  | .barArvw sa sc => some [wOp 43 0 sa.val (1536 + sc.code * 32)]
  | .barTest sd sa sc => some [wOp 43 sd.val sa.val (2048 + sc.code * 32)]
  | .barDbar sa sc => some [wOp 43 0 sa.val (2560 + sc.code * 32)]
  | .twait m => some [wOp 44 0 0 m.toNat]
  | .tsig m => some [wOp 45 0 0 m.toNat]
  | .chunk sd sa => some [wOp 46 sd.val sa.val 0]
  | .chinit sd sa sb => some [wOp 47 sd.val sa.val (sb.val * 128)]
  | .spawn sa prio => some [wOp 48 0 sa.val prio.toNat]
  | .join sa => some [wOp 49 0 sa.val 0]
  | .tend => some [wOp 50 0 0 0]
  | .trig => some [wOp 51 0 0 0]
  | .launch sd sa => some [wOp 52 sd.val sa.val 0]
  | .yield => some [wOp 53 0 0 0]
  | .yieldDonate => some [wOp 53 0 0 1]
  | .selfLaunchId sd => some [wOp 54 sd.val 0 0]
  | .selfIndex sd => some [wOp 54 sd.val 0 1]
  | .selfGroups sd => some [wOp 54 sd.val 0 2]
  | .selfCores sd => some [wOp 54 sd.val 0 3]
  | .dbrk code => some [wOp 55 0 0 code.toNat]
  | .trap code => some [wOp 56 0 0 code.toNat]
  | .eret => some [wOp 57 0 0 0]
  | .csrr sd csr => some [wOp 58 sd.val 0 csr.toNat]
  | .csrw sd sa csr => some [wOp 59 sd.val sa.val csr.toNat]
  | .csrs sd sa csr => some [wOp 60 sd.val sa.val csr.toNat]
  | .csrc sd sa csr => some [wOp 61 sd.val sa.val csr.toNat]
  | .wfe => some [wOp 62 0 0 0]
  | _ => none

/-- Register field at bit lo of a word. -/
def regAt (w lo : Nat) : Reg := ⟨bits w lo 5, Nat.mod_lt _ (by decide)⟩

/-- The ALU instruction with function code FN (R51). -/
def aluCand (w fn : Nat) : Option Instr :=
  let sd := regAt w 17
  let sa := regAt w 12
  let sb := regAt w 7
  match fn with
  | 0 => some (.add sd sa sb)
  | 1 => some (.sub sd sa sb)
  | 2 => some (.and sd sa sb)
  | 3 => some (.or sd sa sb)
  | 4 => some (.xor sd sa sb)
  | 5 => some (.andn sd sa sb)
  | 6 => some (.shl sd sa sb)
  | 7 => some (.shr sd sa sb)
  | 8 => some (.sar sd sa sb)
  | 9 => some (.rol sd sa sb)
  | 10 => some (.ror sd sa sb)
  | 11 => some (.min sd sa sb)
  | 12 => some (.max sd sa sb)
  | 13 => some (.minu sd sa sb)
  | 14 => some (.maxu sd sa sb)
  | 15 => some (.slt sd sa sb)
  | 16 => some (.sltu sd sa sb)
  | 17 => some (.seq sd sa sb)
  | 18 => some (.sne sd sa sb)
  | 19 => some (.mul sd sa sb)
  | 20 => some (.mulh sd sa sb)
  | 21 => some (.mulhu sd sa sb)
  | 22 => some (.div sd sa sb)
  | 23 => some (.divu sd sa sb)
  | 24 => some (.rem sd sa sb)
  | 25 => some (.remu sd sa sb)
  | 26 => some (.clz sd sa)
  | 27 => some (.ctz sd sa)
  | 28 => some (.popc sd sa)
  | 29 => some (.brev sd sa)
  | 30 => (ExtW.ofCode (bits w 7 5)).map (fun x => .sext sd sa x)
  | 31 => (ExtW.ofCode (bits w 7 5)).map (fun x => .zext sd sa x)
  | _ => none

/-- The AMO with function code FN (R52). -/
def amoCand (w fn : Nat) (sc : Scope) : Option Instr :=
  let sd := regAt w 17
  let sa := regAt w 12
  let ord := Order.ofCode (bits w 6 2)
  let dbl := bit w 5
  match fn with
  | 0 => some (.amoAdd sd sa ord dbl sc)
  | 1 => some (.amoAnd sd sa ord dbl sc)
  | 2 => some (.amoOr sd sa ord dbl sc)
  | 3 => some (.amoXor sd sa ord dbl sc)
  | 4 => some (.amoMin sd sa ord dbl sc)
  | 5 => some (.amoMax sd sa ord dbl sc)
  | 6 => some (.amoMinu sd sa ord dbl sc)
  | 7 => some (.amoMaxu sd sa ord dbl sc)
  | 8 => some (.amoSwap sd sa ord dbl sc)
  | 9 => some (.amoCas sd sa ord dbl sc)
  | _ => none

/-- The BAR with function code FN (R52). -/
def barCand (w fn : Nat) (sc : Scope) : Option Instr :=
  let sd := regAt w 17
  let sa := regAt w 12
  match fn with
  | 0 => some (.barInit sd sa sc)
  | 1 => some (.barArv sa sc)
  | 2 => some (.barWait sa sc)
  | 3 => some (.barArvw sa sc)
  | 4 => some (.barTest sd sa sc)
  | 5 => some (.barDbar sa sc)
  | _ => none

/-- The instruction a control word without literal names, read by its fields alone (R46–R52). -/
def ctlCand (w : Nat) : Option Instr :=
  let sd := regAt w 17
  let sa := regAt w 12
  let sb := regAt w 7
  let imm := BitVec.ofNat 12 (bits w 0 12)
  match bits w 22 6 with
  | 0 => some .nop
  | 1 => aluCand w (bits w 0 7)
  | 2 => some (.addi sd sa imm)
  | 3 => some (.andi sd sa imm)
  | 4 => some (.ori sd sa imm)
  | 5 => some (.xori sd sa imm)
  | 6 => some (.slti sd sa imm)
  | 7 => some (.sltiu sd sa imm)
  | 11 => some (.muli sd sa imm)
  | 8 => some (.shli sd sa (BitVec.ofNat 6 (bits w 0 6)))
  | 9 => some (.shri sd sa (BitVec.ofNat 6 (bits w 0 6)))
  | 10 => some (.sari sd sa (BitVec.ofNat 6 (bits w 0 6)))
  | 12 => some (.idx sd sa sb (BitVec.ofNat 2 (bits w 5 2)) (BitVec.ofNat 5 (bits w 0 5)))
  | 16 => some (.beq sd sa imm)
  | 17 => some (.bne sd sa imm)
  | 18 => some (.blt sd sa imm)
  | 19 => some (.bge sd sa imm)
  | 20 => some (.bltu sd sa imm)
  | 21 => some (.bgeu sd sa imm)
  | 22 => some (.j (BitVec.ofNat 22 (bits w 0 22)))
  | 23 => some (.jal sd imm)
  | 24 => some (.jr sa imm)
  | 25 => some (.jalr sd sa imm)
  | 26 => some (.loop sa (bit w 6) (BitVec.ofNat 6 (bits w 0 6)))
  | 27 => some (.loopi (BitVec.ofNat 10 (bits w 12 10)) (bit w 6) (BitVec.ofNat 6 (bits w 0 6)))
  | 28 => some (.brot sd (BitVec.ofNat 5 (bits w 12 5)) imm)
  | 29 => some (.rot (BitVec.ofNat 5 (bits w 0 5)))
  | 30 => some (.setvrb sa imm)
  | 32 => (LdSize.ofCode (bits w 9 3)).map (fun z => .ld sd sa z (BitVec.ofNat 9 (bits w 0 9)))
  | 33 => (StSize.ofCode (bits w 9 3)).map (fun z => .st sd sa z (BitVec.ofNat 9 (bits w 0 9)))
  | 34 => (LdSize.ofCode (bits w 9 3)).bind (fun z => (Scope.ofCode (bits w 5 4)).map (fun c => .lda sd sa z c))
  | 35 => (StSize.ofCode (bits w 9 3)).bind (fun z => (Scope.ofCode (bits w 5 4)).map (fun c => .stl sd sa z c))
  | 36 => (Scope.ofCode (bits w 1 4)).bind (amoCand w (bits w 8 4))
  | 37 => (Scope.ofCode (bits w 0 4)).bind (fun c =>
      match bits w 4 2 with
      | 0 => some (.fenceAcq c)
      | 1 => some (.fenceRel c)
      | 2 => some (.fenceFull c)
      | _ => none)
  | 38 => (match bits w 9 3 with
      | 0 => some (.prefL1 sa (BitVec.ofNat 9 (bits w 0 9)))
      | 1 => some (.prefLlc sa (BitVec.ofNat 9 (bits w 0 9)))
      | _ => none)
  | 40 => some (.give sa imm)
  | 41 => some (.take imm)
  | 42 => some (.ownq sd imm)
  | 43 => (Scope.ofCode (bits w 5 4)).bind (barCand w (bits w 9 3))
  | 44 => some (.twait (BitVec.ofNat 8 (bits w 0 8)))
  | 45 => some (.tsig (BitVec.ofNat 8 (bits w 0 8)))
  | 46 => some (.chunk sd sa)
  | 47 => some (.chinit sd sa sb)
  | 48 => some (.spawn sa (BitVec.ofNat 2 (bits w 0 2)))
  | 49 => some (.join sa)
  | 50 => some .tend
  | 51 => some .trig
  | 52 => some (.launch sd sa)
  | 53 => if bit w 0 then some .yieldDonate else some .yield
  | 54 => (match bits w 0 2 with
      | 0 => some (.selfLaunchId sd)
      | 1 => some (.selfIndex sd)
      | 2 => some (.selfGroups sd)
      | _ => some (.selfCores sd))
  | 55 => some (.dbrk imm)
  | 56 => some (.trap imm)
  | 57 => some .eret
  | 58 => some (.csrr sd imm)
  | 59 => some (.csrw sd sa imm)
  | 60 => some (.csrs sd sa imm)
  | 61 => some (.csrc sd sa imm)
  | 62 => some .wfe
  | _ => none

/-- The instruction a control word with a literal names (R47: the OPs that R50 marks X). -/
def ctlXCand (w lit : Nat) : Option Instr :=
  let sd := regAt w 17
  let sa := regAt w 12
  let sb := regAt w 7
  let l := BitVec.ofNat 32 lit
  match bits w 22 6 with
  | 2 => some (.addiX sd sa l)
  | 3 => some (.andiX sd sa l)
  | 4 => some (.oriX sd sa l)
  | 5 => some (.xoriX sd sa l)
  | 6 => some (.sltiX sd sa l)
  | 7 => some (.sltiuX sd sa l)
  | 11 => some (.muliX sd sa l)
  | 12 => some (.idxX sd sa sb (BitVec.ofNat 2 (bits w 5 2)) l)
  | 16 => some (.beqX sd sa l)
  | 17 => some (.bneX sd sa l)
  | 18 => some (.bltX sd sa l)
  | 19 => some (.bgeX sd sa l)
  | 20 => some (.bltuX sd sa l)
  | 21 => some (.bgeuX sd sa l)
  | 22 => some (.jX l)
  | 23 => some (.jalX sd l)
  | 24 => some (.jrX sa l)
  | 25 => some (.jalrX sd sa l)
  | 27 => some (.loopiX l (bit w 6) (BitVec.ofNat 6 (bits w 0 6)))
  | 32 => (LdSize.ofCode (bits w 9 3)).map (fun z => .ldX sd sa z l)
  | 33 => (StSize.ofCode (bits w 9 3)).map (fun z => .stX sd sa z l)
  | 38 => some (.prefX (bit w 9) sa l)
  | _ => none

/-- A control word and, with X = 1, its literal, read as an instruction or refused by name (R44–R53). -/
def decodeCtl (w lit : Nat) : Except DecodeError Instr :=
  if w == 0xFFFFFFFF then .error .allOnes else
  match (if bit w 28 then ctlXCand w lit else ctlCand w) with
  | none => .error (if bits w 22 6 == 1 then .unassignedFn else .unassignedOp)
  | some i =>
    if i.wf && encodeCtl i == some (if bit w 28 then [w, lit] else [w]) then .ok i else .error .badField

/-! ### Engine images (R55–R62) -/

/-- The image whose halfwords are the elements of a list, zeros beyond its end (R55). -/
def Image.of (l : List Nat) : Image :=
  ⟨⟨((List.range 16).map (fun k => BitVec.ofNat 16 (l.getD k 0))).toArray, by simp⟩⟩

/-- Halfword k of an image as a number. -/
def Image.hw (img : Image) (k : Nat) : Nat := (img.h.toList.getD k 0).toNat

/-- Pair k of an image: halfwords k and k + 1 as one 32-bit value (R57). -/
def Image.pair (img : Image) (k : Nat) : W32 := BitVec.ofNat 32 (img.hw k + 65536 * img.hw (k + 1))

/-- The image with halfword k replaced (R56). -/
def Image.set (img : Image) (k : Nat) (v : H16) : Image := ⟨img.h.setIfInBounds k v⟩

/-- Low and high halfword of a 32-bit value. -/
def loHi (x : W32) : List Nat := [x.toNat % 65536, x.toNat / 65536]

/-- h0 and h1 (R57). -/
def Hd.enc (h : Hd) (opc : Nat) : List Nat := [h.bind.toNat * 1024 + opc, h.sig.toNat * 256 + h.wait.toNat]

def Hd.ofImage (m : Image) : Hd :=
  { bind := BitVec.ofNat 4 (bits (m.hw 0) 10 4), sig := BitVec.ofNat 8 (bits (m.hw 1) 8 8), wait := BitVec.ofNat 8 (bits (m.hw 1) 0 8) }

/-- OPC of an image (R57). -/
def Image.opc (m : Image) : Nat := bits (m.hw 0) 0 10

/-- h2 and h3 of a long instruction (R58). -/
def Long.enc (l : Long) : List Nat := [l.stamp.toNat, l.fade.toNat * 2048 + l.rnd.toNat * 256 + l.prof.toNat]

def Long.ofImage (m : Image) : Long :=
  { stamp := BitVec.ofNat 16 (m.hw 2), fade := BitVec.ofNat 5 (bits (m.hw 3) 11 5),
    rnd := BitVec.ofNat 3 (bits (m.hw 3) 8 3), prof := BitVec.ofNat 8 (bits (m.hw 3) 0 8) }

def FdArgs.enc (a : FdArgs) (opc : Nat) : List Nat :=
  a.hd.enc opc ++
  [b2n a.pois * 32768 + a.rnd.toNat * 4096 + a.typ.toNat * 256 + a.conv.toNat * 64 + a.q.toNat, a.count.toNat] ++
  loHi a.a ++ loHi a.b ++ loHi a.c ++ loHi a.d ++ [a.offhi.toNat * 4096 + a.tid.toNat, a.h13.toNat, a.h14.toNat]

def FdArgs.ofImage (m : Image) : FdArgs :=
  { hd := .ofImage m, pois := bit (m.hw 2) 15, rnd := BitVec.ofNat 3 (bits (m.hw 2) 12 3),
    typ := BitVec.ofNat 4 (bits (m.hw 2) 8 4), conv := BitVec.ofNat 2 (bits (m.hw 2) 6 2),
    q := BitVec.ofNat 3 (bits (m.hw 2) 0 3), count := BitVec.ofNat 16 (m.hw 3),
    a := m.pair 4, b := m.pair 6, c := m.pair 8, d := m.pair 10,
    offhi := BitVec.ofNat 4 (bits (m.hw 12) 12 4), tid := BitVec.ofNat 12 (bits (m.hw 12) 0 12),
    h13 := BitVec.ofNat 16 (m.hw 13), h14 := BitVec.ofNat 16 (m.hw 14) }

def VxArgs.enc (a : VxArgs) (opc : Nat) : List Nat :=
  a.hd.enc opc ++
  [a.typ.toNat * 4096 + b2n a.ftz * 2048 + b2n a.mz * 1024 + a.msel.toNat * 128 + a.d.toNat,
   b2n a.pb * 32768 + a.b.toNat * 128 + a.a.toNat] ++ loHi a.imm ++
  [b2n a.smen * 8192 + a.sm.toNat * 1024 + a.rnd.toNat * 128 + a.c.toNat, a.prof.toNat * 256 + a.fn.toNat]

def VxArgs.ofImage (m : Image) : VxArgs :=
  { hd := .ofImage m, typ := BitVec.ofNat 4 (bits (m.hw 2) 12 4), ftz := bit (m.hw 2) 11, mz := bit (m.hw 2) 10,
    msel := BitVec.ofNat 3 (bits (m.hw 2) 7 3), d := BitVec.ofNat 7 (bits (m.hw 2) 0 7),
    pb := bit (m.hw 3) 15, b := BitVec.ofNat 7 (bits (m.hw 3) 7 7), a := BitVec.ofNat 7 (bits (m.hw 3) 0 7),
    imm := m.pair 4, smen := bit (m.hw 6) 13, sm := BitVec.ofNat 3 (bits (m.hw 6) 10 3),
    rnd := BitVec.ofNat 3 (bits (m.hw 6) 7 3), c := BitVec.ofNat 7 (bits (m.hw 6) 0 7),
    prof := BitVec.ofNat 8 (bits (m.hw 7) 8 8), fn := BitVec.ofNat 8 (bits (m.hw 7) 0 8) }

def NestArgs.enc (a : NestArgs) : List Nat :=
  a.hd.enc 1 ++ [a.level.toNat, a.cntm1.toNat] ++ loHi a.sa ++ loHi a.sb ++ [a.cr.toNat, a.cc.toNat]

def NestArgs.ofImage (m : Image) : NestArgs :=
  { hd := .ofImage m, level := BitVec.ofNat 3 (bits (m.hw 2) 0 3), cntm1 := BitVec.ofNat 16 (m.hw 3), sa := m.pair 4, sb := m.pair 6,
    cr := BitVec.ofNat 16 (m.hw 8), cc := BitVec.ofNat 16 (m.hw 9) }

def OpndArgs.enc (a : OpndArgs) : List Nat :=
  a.hd.enc 2 ++
  [a.ta.toNat * 4096 + a.tb.toNat * 256 + a.ga.toNat * 64 + a.gb.toNat * 16 + b2n a.pois * 8 + b2n a.la * 4 + b2n a.lb * 2,
   a.pa.toNat] ++ loHi a.abase ++ loHi a.bbase ++ [a.pb.toNat]

def OpndArgs.ofImage (m : Image) : OpndArgs :=
  { hd := .ofImage m, ta := BitVec.ofNat 4 (bits (m.hw 2) 12 4), tb := BitVec.ofNat 4 (bits (m.hw 2) 8 4),
    ga := BitVec.ofNat 2 (bits (m.hw 2) 6 2), gb := BitVec.ofNat 2 (bits (m.hw 2) 4 2), pois := bit (m.hw 2) 3,
    la := bit (m.hw 2) 2, lb := bit (m.hw 2) 1, pa := BitVec.ofNat 16 (m.hw 3), abase := m.pair 4, bbase := m.pair 6,
    pb := BitVec.ofNat 16 (m.hw 8) }

def AccArgs.enc (a : AccArgs) : List Nat :=
  a.hd.enc 3 ++ [b2n a.drn * 4 + a.mode.toNat, a.lp.toNat] ++ loHi a.lbase

def AccArgs.ofImage (m : Image) : AccArgs :=
  { hd := .ofImage m, drn := bit (m.hw 2) 2, mode := BitVec.ofNat 2 (bits (m.hw 2) 0 2), lp := BitVec.ofNat 16 (m.hw 3), lbase := m.pair 4 }

def GoArgs.enc (a : GoArgs) : List Nat :=
  a.hd.enc 4 ++ a.long.enc ++ [a.pat.toNat, a.eps.toNat * 8 + a.kl.toNat]

def GoArgs.ofImage (m : Image) : GoArgs :=
  { hd := .ofImage m, long := .ofImage m, pat := BitVec.ofNat 16 (m.hw 4), eps := BitVec.ofNat 6 (bits (m.hw 5) 3 6),
    kl := BitVec.ofNat 3 (bits (m.hw 5) 0 3) }

def AccstArgs.enc (a : AccstArgs) : List Nat :=
  a.hd.enc 5 ++ [b2n a.pois * 4 + b2n a.part * 2 + b2n a.acc, 0] ++ loHi a.off ++ loHi a.pitch

def AccstArgs.ofImage (m : Image) : AccstArgs :=
  { hd := .ofImage m, pois := bit (m.hw 2) 2, part := bit (m.hw 2) 1, acc := bit (m.hw 2) 0, off := m.pair 4, pitch := m.pair 6 }

def EpldArgs.enc (a : EpldArgs) : List Nat :=
  a.hd.enc 6 ++ [a.at_.toNat, a.n.toNat] ++ loHi a.a ++ [0, 0, 0, 0, 0, 0, a.offhi.toNat * 4096 + a.tid.toNat]

def EpldArgs.ofImage (m : Image) : EpldArgs :=
  { hd := .ofImage m, at_ := BitVec.ofNat 6 (bits (m.hw 2) 0 6), n := BitVec.ofNat 7 (bits (m.hw 3) 0 7), a := m.pair 4,
    offhi := BitVec.ofNat 4 (bits (m.hw 12) 12 4), tid := BitVec.ofNat 12 (bits (m.hw 12) 0 12) }

def EpargArgs.enc (a : EpargArgs) (form : Nat) : List Nat :=
  a.hd.enc 7 ++ [form * 8 + a.idx.toNat, a.h3.toNat] ++ loHi a.p0 ++ loHi a.p1 ++ loHi a.p2 ++ loHi a.p3 ++ [a.h12.toNat]

def EpargArgs.ofImage (m : Image) : EpargArgs :=
  { hd := .ofImage m, idx := BitVec.ofNat 3 (bits (m.hw 2) 0 3), h3 := BitVec.ofNat 16 (m.hw 3), p0 := m.pair 4, p1 := m.pair 6,
    p2 := m.pair 8, p3 := m.pair 10, h12 := BitVec.ofNat 16 (m.hw 12) }

def SxCfgArgs.enc (a : SxCfgArgs) : List Nat :=
  a.hd.enc 1 ++ a.long.enc ++ [a.nbm1.toNat * 1024 + a.lm1.toNat * 4 + a.mode.toNat, a.nvm1.toNat, a.gm1.toNat]

def SxCfgArgs.ofImage (m : Image) : SxCfgArgs :=
  { hd := .ofImage m, long := .ofImage m, nbm1 := BitVec.ofNat 5 (bits (m.hw 4) 10 5), lm1 := BitVec.ofNat 8 (bits (m.hw 4) 2 8),
    mode := BitVec.ofNat 2 (bits (m.hw 4) 0 2), nvm1 := BitVec.ofNat 12 (bits (m.hw 5) 0 12), gm1 := BitVec.ofNat 6 (bits (m.hw 6) 0 6) }

def SxResetArgs.enc (a : SxResetArgs) : List Nat := a.hd.enc 3 ++ a.long.enc ++ loHi a.moff ++ [b2n a.en]

def SxResetArgs.ofImage (m : Image) : SxResetArgs :=
  { hd := .ofImage m, long := .ofImage m, moff := m.pair 4, en := bit (m.hw 6) 0 }

def SxCarryArgs.enc (a : SxCarryArgs) : List Nat :=
  a.hd.enc 4 ++ a.long.enc ++ loHi a.slots ++ loHi a.coff ++ [b2n a.cout * 2 + b2n a.cin]

def SxCarryArgs.ofImage (m : Image) : SxCarryArgs :=
  { hd := .ofImage m, long := .ofImage m, slots := m.pair 4, coff := m.pair 6, cout := bit (m.hw 8) 1, cin := bit (m.hw 8) 0 }

def SxScanArgs.enc (a : SxScanArgs) (opc : Nat) : List Nat :=
  a.hd.enc opc ++ a.long.enc ++ loHi a.x ++ loHi a.a ++ loHi a.p2 ++ loHi a.p3 ++ [b2n a.noh * 2 + b2n a.pois]

def SxScanArgs.ofImage (m : Image) : SxScanArgs :=
  { hd := .ofImage m, long := .ofImage m, x := m.pair 4, a := m.pair 6, p2 := m.pair 8, p3 := m.pair 10,
    noh := bit (m.hw 12) 1, pois := bit (m.hw 12) 0 }

def SxFadeqArgs.enc (a : SxFadeqArgs) : List Nat := a.hd.enc 6 ++ a.long.enc ++ loHi a.off ++ [b2n a.clr]

def SxFadeqArgs.ofImage (m : Image) : SxFadeqArgs :=
  { hd := .ofImage m, long := .ofImage m, off := m.pair 4, clr := bit (m.hw 6) 0 }

def FrArgs.enc (a : FrArgs) (opc : Nat) : List Nat :=
  a.hd.enc opc ++ a.long.enc ++ loHi a.sess ++ loHi a.p1 ++ loHi a.p2 ++ [0, 0, a.tab.toNat,
   a.hoffhi.toNat * 4096 + a.htid.toNat,
   b2n a.all * 128 + b2n a.keep * 64 + b2n a.nowait * 32 + a.slot.toNat, a.szm1.toNat * 32 + a.nm1.toNat]

def FrArgs.ofImage (m : Image) : FrArgs :=
  { hd := .ofImage m, long := .ofImage m, sess := m.pair 4, p1 := m.pair 6, p2 := m.pair 8,
    tab := BitVec.ofNat 12 (bits (m.hw 12) 0 12), hoffhi := BitVec.ofNat 4 (bits (m.hw 13) 12 4),
    htid := BitVec.ofNat 12 (bits (m.hw 13) 0 12), all := bit (m.hw 14) 7, keep := bit (m.hw 14) 6, nowait := bit (m.hw 14) 5,
    slot := BitVec.ofNat 5 (bits (m.hw 14) 0 5), szm1 := BitVec.ofNat 8 (bits (m.hw 15) 5 8), nm1 := BitVec.ofNat 5 (bits (m.hw 15) 0 5) }

def CpArgs.enc (a : CpArgs) (opc : Nat) : List Nat :=
  a.hd.enc opc ++ a.long.enc ++ loHi a.p0 ++ loHi a.p1 ++ loHi a.p2 ++ loHi a.p3 ++
  [a.h12.toNat, a.h13.toNat, a.h14.toNat, a.h15.toNat]

def CpArgs.ofImage (m : Image) : CpArgs :=
  { hd := .ofImage m, long := .ofImage m, p0 := m.pair 4, p1 := m.pair 6, p2 := m.pair 8, p3 := m.pair 10,
    h12 := BitVec.ofNat 16 (m.hw 12), h13 := BitVec.ofNat 16 (m.hw 13), h14 := BitVec.ofNat 16 (m.hw 14),
    h15 := BitVec.ofNat 16 (m.hw 15) }

/-- The image of an engine instruction, before binding (R62); none for a row that no image encodes. -/
def encodeImage : Instr → Option Image
  | .feLd a => some (.of (a.enc 1))
  | .feLdg a => some (.of (a.enc 2))
  | .feGath a => some (.of (a.enc 3))
  | .feGathq a => some (.of (a.enc 4))
  | .feUnpk a => some (.of (a.enc 5))
  | .feBcst a => some (.of (a.enc 6))
  | .feAgen a => some (.of (a.enc 7))
  | .feStrm a => some (.of (a.enc 8))
  | .feIdx a => some (.of (a.enc 9))
  | .deSt a => some (.of (a.enc 1))
  | .deStg a => some (.of (a.enc 2))
  | .deScat a => some (.of (a.enc 3))
  | .deAddst a => some (.of (a.enc 4))
  | .dePack a => some (.of (a.enc 5))
  | .deAgen a => some (.of (a.enc 6))
  | .vxFadd a => some (.of (a.enc 0x001))
  | .vxFsub a => some (.of (a.enc 0x002))
  | .vxFmul a => some (.of (a.enc 0x003))
  | .vxFma a => some (.of (a.enc 0x004))
  | .vxFms a => some (.of (a.enc 0x005))
  | .vxFmin a => some (.of (a.enc 0x006))
  | .vxFmax a => some (.of (a.enc 0x007))
  | .vxFabs a => some (.of (a.enc 0x008))
  | .vxFneg a => some (.of (a.enc 0x009))
  | .vxFcmp a => some (.of (a.enc 0x00A))
  | .vxFclass a => some (.of (a.enc 0x00B))
  | .vxFrnd a => some (.of (a.enc 0x00C))
  | .vxIadd a => some (.of (a.enc 0x040))
  | .vxIsub a => some (.of (a.enc 0x041))
  | .vxImul a => some (.of (a.enc 0x042))
  | .vxImulh a => some (.of (a.enc 0x043))
  | .vxImad a => some (.of (a.enc 0x044))
  | .vxImin a => some (.of (a.enc 0x045))
  | .vxImax a => some (.of (a.enc 0x046))
  | .vxAnd a => some (.of (a.enc 0x047))
  | .vxOr a => some (.of (a.enc 0x048))
  | .vxXor a => some (.of (a.enc 0x049))
  | .vxAndn a => some (.of (a.enc 0x04A))
  | .vxShl a => some (.of (a.enc 0x04B))
  | .vxShr a => some (.of (a.enc 0x04C))
  | .vxSar a => some (.of (a.enc 0x04D))
  | .vxIcmp a => some (.of (a.enc 0x04E))
  | .vxCadd a => some (.of (a.enc 0x080))
  | .vxCsub a => some (.of (a.enc 0x081))
  | .vxCmul a => some (.of (a.enc 0x082))
  | .vxCmac a => some (.of (a.enc 0x083))
  | .vxCmulj a => some (.of (a.enc 0x084))
  | .vxCabs2 a => some (.of (a.enc 0x085))
  | .vxExp2 a => some (.of (a.enc 0x0A0))
  | .vxLog2 a => some (.of (a.enc 0x0A1))
  | .vxRcp a => some (.of (a.enc 0x0A2))
  | .vxRsq a => some (.of (a.enc 0x0A3))
  | .vxSqrt a => some (.of (a.enc 0x0A4))
  | .vxSigm a => some (.of (a.enc 0x0A5))
  | .vxTanh a => some (.of (a.enc 0x0A6))
  | .vxSilu a => some (.of (a.enc 0x0A7))
  | .vxSoftp a => some (.of (a.enc 0x0A8))
  | .vxCvt a => some (.of (a.enc 0x0C0))
  | .vxQnt a => some (.of (a.enc 0x0C1))
  | .vxMov a => some (.of (a.enc 0x0E0))
  | .vxMovLds a => some (.of (a.enc 0x0E0))
  | .vxMovSts a => some (.of (a.enc 0x0E0))
  | .vxSel a => some (.of (a.enc 0x0E1))
  | .vxShuf a => some (.of (a.enc 0x0E2))
  | .vxLrot a => some (.of (a.enc 0x0E3))
  | .vxKset a => some (.of (a.enc 0x0E4))
  | .vxKsetLane a => some (.of (a.enc 0x0E4))
  | .vxMopAnd a => some (.of (a.enc 0x0E5))
  | .vxMopOr a => some (.of (a.enc 0x0E5))
  | .vxMopXor a => some (.of (a.enc 0x0E5))
  | .vxMopAndn a => some (.of (a.enc 0x0E5))
  | .vxMopNot a => some (.of (a.enc 0x0E5))
  | .vxMopSet a => some (.of (a.enc 0x0E5))
  | .vxMopClr a => some (.of (a.enc 0x0E5))
  | .vxMopFromv a => some (.of (a.enc 0x0E5))
  | .vxMopTov a => some (.of (a.enc 0x0E5))
  | .vxQcfg a => some (.of (a.enc 0x0E6))
  | .vxLfsrSeedv a => some (.of (a.enc 0x0E7))
  | .vxLfsrSeedi a => some (.of (a.enc 0x0E7))
  | .vxLfsrRead a => some (.of (a.enc 0x0E7))
  | .vxLfsrStep a => some (.of (a.enc 0x0E7))
  | .vxRsum a => some (.of (a.enc 0x100))
  | .vxRmax a => some (.of (a.enc 0x101))
  | .vxRmin a => some (.of (a.enc 0x102))
  | .vxRamax a => some (.of (a.enc 0x103))
  | .vxPsum a => some (.of (a.enc 0x104))
  | .vxFirst a => some (.of (a.enc 0x105))
  | .mxNest a => some (.of a.enc)
  | .mxOpnd a => some (.of a.enc)
  | .mxAcc a => some (.of a.enc)
  | .mxGo a => some (.of a.enc)
  | .mxAccst a => some (.of a.enc)
  | .mxEpld a => some (.of a.enc)
  | .mxEpargLd a => some (.of (a.enc 0))
  | .mxEpargBc a => some (.of (a.enc 1))
  | .mxEpargSp a => some (.of (a.enc 2))
  | .mxEpargTg a => some (.of (a.enc 3))
  | .mxEpargQu a => some (.of (a.enc 4))
  | .sxCfg a => some (.of a.enc)
  | .sxReset a => some (.of a.enc)
  | .sxCarry a => some (.of a.enc)
  | .sxFadeq a => some (.of a.enc)
  | .sxScan a => some (.of (a.enc 2))
  | .sxContr a => some (.of (a.enc 5))
  | .frSlots a => some (.of (a.enc 1))
  | .frIn a => some (.of (a.enc 2))
  | .frOut a => some (.of (a.enc 3))
  | .frSwap a => some (.of (a.enc 4))
  | .frSnap a => some (.of (a.enc 5))
  | .frRoll a => some (.of (a.enc 6))
  | .frFork a => some (.of (a.enc 7))
  | .frDrop a => some (.of (a.enc 8))
  | .frStat a => some (.of (a.enc 9))
  | .frCold a => some (.of (a.enc 10))
  | .frDropAll a => some (.of (a.enc 8))
  | .cpCopy a => some (.of (a.enc 1))
  | .cpMcast a => some (.of (a.enc 2))
  | .cpStage a => some (.of (a.enc 3))
  | .cpDrain a => some (.of (a.enc 4))
  | .cpFill a => some (.of (a.enc 5))
  | .cpSig a => some (.of (a.enc 6))
  | .cpAllred a => some (.of (a.enc 7))
  | .cpAllgath a => some (.of (a.enc 8))
  | .cpRedsc a => some (.of (a.enc 9))
  | .cpBcast a => some (.of (a.enc 10))
  | _ => none

/-- The VX instruction of an OPC and FN (R62, R193, R196, R198). -/
def vxCand (m : Image) : Option Instr :=
  let a := VxArgs.ofImage m
  match m.opc with
  | 0x001 => some (.vxFadd a)
  | 0x002 => some (.vxFsub a)
  | 0x003 => some (.vxFmul a)
  | 0x004 => some (.vxFma a)
  | 0x005 => some (.vxFms a)
  | 0x006 => some (.vxFmin a)
  | 0x007 => some (.vxFmax a)
  | 0x008 => some (.vxFabs a)
  | 0x009 => some (.vxFneg a)
  | 0x00A => some (.vxFcmp a)
  | 0x00B => some (.vxFclass a)
  | 0x00C => some (.vxFrnd a)
  | 0x040 => some (.vxIadd a)
  | 0x041 => some (.vxIsub a)
  | 0x042 => some (.vxImul a)
  | 0x043 => some (.vxImulh a)
  | 0x044 => some (.vxImad a)
  | 0x045 => some (.vxImin a)
  | 0x046 => some (.vxImax a)
  | 0x047 => some (.vxAnd a)
  | 0x048 => some (.vxOr a)
  | 0x049 => some (.vxXor a)
  | 0x04A => some (.vxAndn a)
  | 0x04B => some (.vxShl a)
  | 0x04C => some (.vxShr a)
  | 0x04D => some (.vxSar a)
  | 0x04E => some (.vxIcmp a)
  | 0x080 => some (.vxCadd a)
  | 0x081 => some (.vxCsub a)
  | 0x082 => some (.vxCmul a)
  | 0x083 => some (.vxCmac a)
  | 0x084 => some (.vxCmulj a)
  | 0x085 => some (.vxCabs2 a)
  | 0x0A0 => some (.vxExp2 a)
  | 0x0A1 => some (.vxLog2 a)
  | 0x0A2 => some (.vxRcp a)
  | 0x0A3 => some (.vxRsq a)
  | 0x0A4 => some (.vxSqrt a)
  | 0x0A5 => some (.vxSigm a)
  | 0x0A6 => some (.vxTanh a)
  | 0x0A7 => some (.vxSilu a)
  | 0x0A8 => some (.vxSoftp a)
  | 0x0C0 => some (.vxCvt a)
  | 0x0C1 => some (.vxQnt a)
  | 0x0E0 =>
    if a.fn.toNat == 0 then some (.vxMov a)
    else if a.fn.toNat % 4 == 1 then some (.vxMovLds a)
    else if a.fn.toNat % 4 == 2 then some (.vxMovSts a)
    else none
  | 0x0E1 => some (.vxSel a)
  | 0x0E2 => some (.vxShuf a)
  | 0x0E3 => some (.vxLrot a)
  | 0x0E4 =>
    if a.fn == 0 then some (.vxKset a)
    else if a.fn == 1 then some (.vxKsetLane a)
    else none
  | 0x0E5 =>
    if a.fn == 0 then some (.vxMopAnd a)
    else if a.fn == 1 then some (.vxMopOr a)
    else if a.fn == 2 then some (.vxMopXor a)
    else if a.fn == 3 then some (.vxMopAndn a)
    else if a.fn == 4 then some (.vxMopNot a)
    else if a.fn == 5 then some (.vxMopSet a)
    else if a.fn == 6 then some (.vxMopClr a)
    else if a.fn == 7 then some (.vxMopFromv a)
    else if a.fn == 8 then some (.vxMopTov a)
    else none
  | 0x0E6 => some (.vxQcfg a)
  | 0x0E7 =>
    if a.fn == 0 then some (.vxLfsrSeedv a)
    else if a.fn == 1 then some (.vxLfsrSeedi a)
    else if a.fn == 2 then some (.vxLfsrRead a)
    else if a.fn == 3 then some (.vxLfsrStep a)
    else none
  | 0x100 => some (.vxRsum a)
  | 0x101 => some (.vxRmax a)
  | 0x102 => some (.vxRmin a)
  | 0x103 => some (.vxRamax a)
  | 0x104 => some (.vxPsum a)
  | 0x105 => some (.vxFirst a)
  | _ => none

/-- The instruction an image names on an engine, read by its fields alone (R62). -/
noncomputable def imageCand (eng : Eng) (m : Image) : Option Instr :=
  match eng with
  | .vx => vxCand m
  | .fe =>
    let a := FdArgs.ofImage m
    (match m.opc with
    | 1 => some (.feLd a)
    | 2 => some (.feLdg a)
    | 3 => some (.feGath a)
    | 4 => some (.feGathq a)
    | 5 => some (.feUnpk a)
    | 6 => some (.feBcst a)
    | 7 => some (.feAgen a)
    | 8 => some (.feStrm a)
    | 9 => some (.feIdx a)
    | _ => none)
  | .de =>
    let a := FdArgs.ofImage m
    (match m.opc with
    | 1 => some (.deSt a)
    | 2 => some (.deStg a)
    | 3 => some (.deScat a)
    | 4 => some (.deAddst a)
    | 5 => some (.dePack a)
    | 6 => some (.deAgen a)
    | _ => none)
  | .mx => (match m.opc with
    | 1 => some (.mxNest (.ofImage m))
    | 2 => some (.mxOpnd (.ofImage m))
    | 3 => some (.mxAcc (.ofImage m))
    | 4 => some (.mxGo (.ofImage m))
    | 5 => some (.mxAccst (.ofImage m))
    | 6 => some (.mxEpld (.ofImage m))
    | 7 => (match bits (m.hw 2) 3 3 with
      | 0 => some (.mxEpargLd (.ofImage m))
      | 1 => some (.mxEpargBc (.ofImage m))
      | 2 => some (.mxEpargSp (.ofImage m))
      | 3 => some (.mxEpargTg (.ofImage m))
      | 4 => some (.mxEpargQu (.ofImage m))
      | _ => none)
    | _ => none)
  | .sx => (match m.opc with
    | 1 => some (.sxCfg (.ofImage m))
    | 2 => some (.sxScan (.ofImage m))
    | 3 => some (.sxReset (.ofImage m))
    | 4 => some (.sxCarry (.ofImage m))
    | 5 => some (.sxContr (.ofImage m))
    | 6 => some (.sxFadeq (.ofImage m))
    | _ => none)
  | .cp =>
    let a := CpArgs.ofImage m
    (match m.opc with
    | 1 => some (.cpCopy a)
    | 2 => some (.cpMcast a)
    | 3 => some (.cpStage a)
    | 4 => some (.cpDrain a)
    | 5 => some (.cpFill a)
    | 6 => some (.cpSig a)
    | 7 => some (.cpAllred a)
    | 8 => some (.cpAllgath a)
    | 9 => some (.cpRedsc a)
    | 10 => some (.cpBcast a)
    | _ => none)
  | .fr =>
    let a := FrArgs.ofImage m
    (match m.opc with
    | 1 => some (.frSlots a)
    | 2 => some (.frIn a)
    | 3 => some (.frOut a)
    | 4 => some (.frSwap a)
    | 5 => some (.frSnap a)
    | 6 => some (.frRoll a)
    | 7 => some (.frFork a)
    | 8 => some (if a.all then .frDropAll a else .frDrop a)
    | 9 => some (.frStat a)
    | 10 => some (.frCold a)
    | _ => none)

/-- The instruction of an image on an engine, or the reason R59 makes it undefined. -/
noncomputable def decodeImage (eng : Eng) (m : Image) : Except DecodeError Instr :=
  match imageCand eng m with
  | none => .error .unassignedOpc
  | some i => if i.wf && encodeImage i == some m then .ok i else .error .undefinedImage

/-- A field reading agrees with an image: well formed, and encoding back to it (R59). -/
def agrees (wf : Bool) (enc : List Nat) (m : Image) : Bool := wf && Image.of enc == m

/-- An image is defined on an engine (R59, R62): what `decodeImage` accepts, without building the instruction. -/
def imageDefined (eng : Eng) (m : Image) : Bool :=
  match eng with
  | .vx => (match vxCand m with
    | some i => i.wf && encodeImage i == some m
    | none => false)
  | .fe =>
    let a := FdArgs.ofImage m
    agrees (match m.opc with
      | 1 => a.wfLd false | 2 => a.wfLdg false | 3 | 4 => a.wfGath false 65535 | 5 => a.wfPack false | 6 => a.wfBcst
      | 7 => a.wfAgen | 8 => a.wfStrm | 9 => a.wfIdx | _ => false) (a.enc m.opc) m
  | .de =>
    let a := FdArgs.ofImage m
    agrees (match m.opc with
      | 1 => a.wfLd true | 2 => a.wfLdg true | 3 => a.wfGath true 4 | 4 => a.wfAddst | 5 => a.wfPack true
      | 6 => a.wfDeAgen | _ => false) (a.enc m.opc) m
  | .mx => (match m.opc with
    | 1 => let a := NestArgs.ofImage m; agrees a.wf a.enc m
    | 2 => let a := OpndArgs.ofImage m; agrees a.wf a.enc m
    | 3 => let a := AccArgs.ofImage m; agrees a.wf a.enc m
    | 4 => let a := GoArgs.ofImage m; agrees a.wf a.enc m
    | 5 => let a := AccstArgs.ofImage m; agrees a.wf a.enc m
    | 6 => let a := EpldArgs.ofImage m; agrees a.wf a.enc m
    | 7 =>
      let a := EpargArgs.ofImage m
      let form := bits (m.hw 2) 3 3
      agrees (decide (form ≤ 4) && a.wf form) (a.enc form) m
    | _ => false)
  | .sx => (match m.opc with
    | 1 => let a := SxCfgArgs.ofImage m; agrees a.wf a.enc m
    | 2 => let a := SxScanArgs.ofImage m; agrees (a.wf false) (a.enc 2) m
    | 3 => let a := SxResetArgs.ofImage m; agrees a.wf a.enc m
    | 4 => let a := SxCarryArgs.ofImage m; agrees a.wf a.enc m
    | 5 => let a := SxScanArgs.ofImage m; agrees (a.wf true) (a.enc 5) m
    | 6 => let a := SxFadeqArgs.ofImage m; agrees a.wf a.enc m
    | _ => false)
  | .cp =>
    let a := CpArgs.ofImage m
    agrees (match m.opc with
      | 1 => a.wfCopy | 2 => a.wfMcast | 3 => a.wfStage | 4 => a.wfDrain | 5 => a.wfFill | 6 => a.wfSig
      | 7 => a.wfColl 7 | 8 => a.wfColl 8 | 9 => a.wfColl 9 | 10 => a.wfColl 10 | _ => false) (a.enc m.opc) m
  | .fr =>
    let a := FrArgs.ofImage m
    agrees (match frOpRow m.opc a.all with
      | some r => a.wf r
      | none => false) (a.enc m.opc) m

/-! ### EP words (R63, R222) -/

/-- EPOP, D, A, B and the low bits of an EP word. -/
def epWord (op : Nat) (d a b : BitVec 3) (lo : Nat) : Nat :=
  op * 2 ^ 24 + d.toNat * 2 ^ 21 + a.toNat * 2 ^ 18 + b.toNat * 2 ^ 15 + lo

/-- T, RND, FTZ, SAT and ROW of an arithmetic word. -/
def EpArgs.enc (x : EpArgs) (op : Nat) : Nat :=
  epWord op x.d x.a x.b (b2n x.t * 2 ^ 14 + x.rnd.toNat * 2 ^ 11 + b2n x.ftz * 2 ^ 10 + b2n x.sat * 2 ^ 9 + b2n x.row * 2 ^ 8)

def EpActArgs.enc (x : EpActArgs) (fn : Nat) : Nat :=
  epWord 9 x.d x.a 0 (fn * 2 ^ 12 + x.rnd.toNat * 2 ^ 9 + b2n x.ftz * 2 ^ 8)

/-- The word of an EP instruction; none for a row that is no EP word. -/
def encodeEp : Instr → Option Nat
  | .epLda d comp => some (epWord 1 d 0 0 (b2n comp * 2 ^ 14))
  | .epAdd x => some (x.enc 2)
  | .epMul x => some (x.enc 3)
  | .epFma x => some (x.enc 4)
  | .epMax x => some (x.enc 5)
  | .epMin x => some (x.enc 6)
  | .epBias x => some (x.enc 7)
  | .epScale x => some (x.enc 8)
  | .epActRelu x => some (x.enc 0)
  | .epActSigm x => some (x.enc 1)
  | .epActSilu x => some (x.enc 2)
  | .epActSoftp x => some (x.enc 3)
  | .epActTanh x => some (x.enc 4)
  | .epCvt x => some (epWord 10 x.d x.a 0 (x.dst.toNat * 2 ^ 11 + x.rnd.toNat * 2 ^ 8 + b2n x.ftz * 2 ^ 7 + b2n x.fromi * 2 ^ 6 + x.part.toNat * 2 ^ 4))
  | .epRedSum d a t => some (epWord 11 d a 0 (b2n t * 2 ^ 12))
  | .epRedMax d a t => some (epWord 11 d a 0 (2 ^ 13 + b2n t * 2 ^ 12))
  | .epRedMin d a t => some (epWord 11 d a 0 (2 * 2 ^ 13 + b2n t * 2 ^ 12))
  | .epPack x => some (epWord 12 x.d x.a 0 (b2n x.ci12 * 2 ^ 14 + b2n x.part * 2 ^ 13 + x.rnd.toNat * 2 ^ 10 + b2n x.ftz * 2 ^ 9))
  | .epSt a sd => some (epWord 13 0 a 0 (sd.toNat * 2 ^ 13))
  | .epStg a sd => some (epWord 14 0 a 0 (sd.toNat * 2 ^ 13))
  | .epSkip cond n => some (epWord 15 0 0 0 (cond.toNat * 2 ^ 13 + n.toNat))
  | .epEnd => some (epWord 16 0 0 0 0)
  | _ => none

/-- The EP instruction a word names, read by its fields alone. -/
noncomputable def epCand (w : Nat) : Option Instr :=
  let d := BitVec.ofNat 3 (bits w 21 3)
  let a := BitVec.ofNat 3 (bits w 18 3)
  let x : EpArgs := ⟨d, a, BitVec.ofNat 3 (bits w 15 3), bit w 14, BitVec.ofNat 3 (bits w 11 3), bit w 10, bit w 9, bit w 8⟩
  let y : EpActArgs := ⟨d, a, BitVec.ofNat 3 (bits w 9 3), bit w 8⟩
  match bits w 24 8 with
  | 1 => some (.epLda d (bit w 14))
  | 2 => some (.epAdd x)
  | 3 => some (.epMul x)
  | 4 => some (.epFma x)
  | 5 => some (.epMax x)
  | 6 => some (.epMin x)
  | 7 => some (.epBias x)
  | 8 => some (.epScale x)
  | 9 => (match bits w 12 3 with
    | 0 => some (.epActRelu y)
    | 1 => some (.epActSigm y)
    | 2 => some (.epActSilu y)
    | 3 => some (.epActSoftp y)
    | 4 => some (.epActTanh y)
    | _ => none)
  | 10 => some (.epCvt ⟨d, a, BitVec.ofNat 4 (bits w 11 4), BitVec.ofNat 3 (bits w 8 3), bit w 7, bit w 6, BitVec.ofNat 2 (bits w 4 2)⟩)
  | 11 => (match bits w 13 2 with
    | 0 => some (.epRedSum d a (bit w 12))
    | 1 => some (.epRedMax d a (bit w 12))
    | 2 => some (.epRedMin d a (bit w 12))
    | _ => none)
  | 12 => some (.epPack ⟨d, a, bit w 14, bit w 13, BitVec.ofNat 3 (bits w 10 3), bit w 9⟩)
  | 13 => some (.epSt a (BitVec.ofNat 2 (bits w 13 2)))
  | 14 => some (.epStg a (BitVec.ofNat 2 (bits w 13 2)))
  | 15 => some (.epSkip (BitVec.ofNat 2 (bits w 13 2)) (BitVec.ofNat 6 (bits w 0 6)))
  | 16 => some .epEnd
  | _ => none

/-- An EP word, or the reason R63 refuses it. -/
noncomputable def decodeEp (w : Nat) : Except DecodeError Instr :=
  match epCand w with
  | none => .error .unassignedEpop
  | some i => if i.wf && encodeEp i == some w then .ok i else .error .badField

/-- An EP word is defined (R63, R222): what `decodeEp` accepts, without building the instruction. -/
def epDefined (w : Nat) : Bool :=
  let d := BitVec.ofNat 3 (bits w 21 3)
  let a := BitVec.ofNat 3 (bits w 18 3)
  let x : EpArgs := ⟨d, a, BitVec.ofNat 3 (bits w 15 3), bit w 14, BitVec.ofNat 3 (bits w 11 3), bit w 10, bit w 9, bit w 8⟩
  let y : EpActArgs := ⟨d, a, BitVec.ofNat 3 (bits w 9 3), bit w 8⟩
  match bits w 24 8 with
  | 1 => epWord 1 d 0 0 (b2n (bit w 14) * 2 ^ 14) == w
  | 2 => x.wf true false && x.enc 2 == w
  | 3 => x.wf true false && x.enc 3 == w
  | 4 => x.wf true false && x.enc 4 == w
  | 5 => x.wf false false && x.enc 5 == w
  | 6 => x.wf false false && x.enc 6 == w
  | 7 => x.wf true true && x.enc 7 == w
  | 8 => x.wf true true && x.enc 8 == w
  | 9 => decide (bits w 12 3 ≤ 4) && y.wf (bits w 12 3 == 0) && y.enc (bits w 12 3) == w
  | 10 =>
    let z : EpCvtArgs := ⟨d, a, BitVec.ofNat 4 (bits w 11 4), BitVec.ofNat 3 (bits w 8 3), bit w 7, bit w 6, BitVec.ofNat 2 (bits w 4 2)⟩
    z.wf && epWord 10 d a 0 (z.dst.toNat * 2 ^ 11 + z.rnd.toNat * 2 ^ 8 + b2n z.ftz * 2 ^ 7 + b2n z.fromi * 2 ^ 6 + z.part.toNat * 2 ^ 4) == w
  | 11 => decide (bits w 13 2 ≤ 2) && epWord 11 d a 0 (bits w 13 2 * 2 ^ 13 + b2n (bit w 12) * 2 ^ 12) == w
  | 12 =>
    let z : EpPackArgs := ⟨d, a, bit w 14, bit w 13, BitVec.ofNat 3 (bits w 10 3), bit w 9⟩
    z.wf && epWord 12 d a 0 (b2n z.ci12 * 2 ^ 14 + b2n z.part * 2 ^ 13 + z.rnd.toNat * 2 ^ 10 + b2n z.ftz * 2 ^ 9) == w
  | 13 => epWord 13 0 a 0 (bits w 13 2 * 2 ^ 13) == w
  | 14 => epWord 14 0 a 0 (bits w 13 2 * 2 ^ 13) == w
  | 15 => decide (bits w 13 2 ≤ 2) && bits w 0 6 != 0 && epWord 15 0 0 0 (bits w 13 2 * 2 ^ 13 + bits w 0 6) == w
  | 16 => epWord 16 0 0 0 0 == w
  | _ => false

/-! ### The instruction stream (R44, R45) -/

/-- The image that image words build (R55). -/
def imageOfWords (ws : List Nat) : Image :=
  .of ((ws.map (fun w => [w % 65536, w / 65536 % 65536])).flatten)

/-- The image words of an image (R55). -/
def wordsOfImage (img : Image) (sz : ImgSize) : List Nat :=
  (List.range sz.words).map (fun k => img.hw (2 * k) + 65536 * img.hw (2 * k + 1))

/-- Words that an instruction occupies, decided by its first word alone (R45), or the reason that word is refused.
For a control word with a literal this checks every bit of the first word: the literal is free. -/
def lengthOf (w : Nat) : Except DecodeError Nat :=
  if w == 0xFFFFFFFF then .error .allOnes
  else if bits w 29 3 == 0 then
    (decodeCtl w 0).map (fun _ => if bit w 28 then 2 else 1)
  else if bit w 28 then
    if bit w 16 && !bit w 17 then .error .badPatch else .ok 1
  else
    match ImgSize.ofCode (bits w 26 2) with
    | none => .error .badHeader
    | some sz =>
      if bits w 0 19 != 0 || (!bit w 25 && bits w 19 6 != 0) then .error .badHeader else .ok (1 + sz.words)

/-- The instruction that a first word and the words after it build (R45, R54, R56). The rows for a header are named by
TL, those for a patch by S and N; the image itself is judged at dispatch (R60). -/
def decode (ws : List Nat) : Except DecodeError Instr :=
  match ws with
  | [] => .error .truncated
  | w :: rest =>
    match lengthOf w with
    | .error r => .error r
    | .ok n =>
      if rest.length + 1 < n then .error .truncated
      else if bits w 29 3 == 0 then decodeCtl w (rest.headD 0)
      else match Eng.ofNum (bits w 29 3) with
        | none => .error .badHeader
        | some e =>
          if bit w 28 then
            let tix := BitVec.ofNat 6 (bits w 22 6)
            let fsel := BitVec.ofNat 4 (bits w 18 4)
            let v := BitVec.ofNat 16 (bits w 0 16)
            if bit w 17 then (if bit w 16 then .ok (.patchSN e tix fsel v) else .ok (.patchS e tix fsel v))
            else .ok (.patch e tix fsel v)
          else match ImgSize.ofCode (bits w 26 2) with
            | none => .error .badHeader
            | some sz =>
              let img := imageOfWords (rest.take sz.words)
              if bit w 25 then .ok (.templateStore e sz (BitVec.ofNat 6 (bits w 19 6)) img)
              else .ok (.engineDispatch e sz img)

/-- An engine header word (R54). -/
def headerWord (e : Eng) (sz : ImgSize) (tl : Bool) (tix : Nat) : Nat :=
  e.num * 2 ^ 29 + sz.code * 2 ^ 26 + b2n tl * 2 ^ 25 + tix * 2 ^ 19

/-- A patch word (R56). -/
def patchWord (e : Eng) (tix : BitVec 6) (fsel : BitVec 4) (s n : Bool) (v : H16) : Nat :=
  e.num * 2 ^ 29 + 2 ^ 28 + tix.toNat * 2 ^ 22 + fsel.toNat * 2 ^ 18 + b2n s * 2 ^ 17 + b2n n * 2 ^ 16 + v.toNat

/-- The words of an instruction in CTL's stream; none for an event, an engine instruction (its image is the payload of a
dispatch) or an EP word (it is read from EP's program memory). -/
def encode : Instr → Option (List Nat)
  | .engineDispatch e sz img => some (headerWord e sz false 0 :: wordsOfImage img sz)
  | .templateStore e sz tix img => some (headerWord e sz true tix.toNat :: wordsOfImage img sz)
  | .patch e tix fsel v => some [patchWord e tix fsel false false v]
  | .patchS e tix fsel v => some [patchWord e tix fsel true false v]
  | .patchSN e tix fsel v => some [patchWord e tix fsel true true v]
  | i => encodeCtl i

/-- The number of words an instruction occupies in the stream (R45). -/
def Instr.words : Instr → Nat
  | .engineDispatch _ sz _ => 1 + sz.words
  | .templateStore _ sz _ _ => 1 + sz.words
  | i => ((encode i).getD [0]).length

/-- The engine whose queue holds an engine instruction (R62). -/
def Instr.engine (i : Instr) : Option Eng :=
  match i with
  | .feLd _  | .feLdg _  | .feGath _  | .feGathq _  | .feUnpk _  | .feBcst _  | .feAgen _  | .feStrm _  | .feIdx _ => some .fe
  | .deSt _  | .deStg _  | .deScat _  | .deAddst _  | .dePack _  | .deAgen _ => some .de
  | .mxNest _  | .mxOpnd _  | .mxAcc _  | .mxGo _  | .mxAccst _  | .mxEpld _  | .mxEpargLd _  | .mxEpargBc _  | .mxEpargSp _  | .mxEpargTg _  | .mxEpargQu _ => some .mx
  | .sxCfg _  | .sxScan _  | .sxReset _  | .sxCarry _  | .sxContr _  | .sxFadeq _ => some .sx
  | .cpCopy _  | .cpMcast _  | .cpStage _  | .cpDrain _  | .cpFill _  | .cpSig _  | .cpAllred _  | .cpAllgath _  | .cpRedsc _  | .cpBcast _ => some .cp
  | _ =>
    if (frRow i).isSome then some .fr else if (vxRow i).isSome then some .vx else none

/-- A word of the opcode table is one that EP's program memory holds and CTL's stream does not (R63): CTL refuses it, EP
defines it. -/
def isEpTableWord (v : Nat) : Bool :=
  (match lengthOf (v % 2 ^ 32) with
    | .ok _ => false
    | .error _ => true) && v < 2 ^ 32 && epDefined v

/-- The decoder on the opcode table's numbering of an instruction's bits: bit 0 is the least significant bit of the first
word, and later words follow; words beyond the table's bits are zero. A word that CTL refuses and EP defines is an EP word. -/
noncomputable def decodeTableWord (nbits w : Nat) : Option Instr :=
  let v := w % 2 ^ nbits
  if isEpTableWord v then epCand v
  else match decode ((List.range 9).map (fun k => v / 2 ^ (32 * k) % 2 ^ 32)) with
  | .ok i => some i
  | .error .truncated => none
  | .error _ => some (.illegalCtlWord (BitVec.ofNat 32 (v % 2 ^ 32)))

end Sys2Proof
end

