-- ==== Sys2Proof/Machine/State.lean ====
section
/-!
DEFINITION. The state of the Silow S2: plain data. `Core` is one physical core (R17), `State` the package around the core
in focus. `State.reset` is the machine right after reset.
-/

namespace Sys2Proof.Machine

/-- Why the model stops. -/
inductive Fault where
  /-- An act of the agenda names a physical core at or above 72. Raised by `step` only; safe: no core does anything. -/
  | noSuchCore (p : Nat)
  deriving DecidableEq, Repr

/-- Why the model gives no meaning. -/
inductive Refusal where
  /-- The instruction has no meaning yet. Raised by `exec` only; safe: nothing happens. -/
  | notModelled (mnemonic : String)
  deriving DecidableEq, Repr

/-- The cause codes of R338. -/
inductive Cause where
  | illegalInstruction | privilege | align | translation | migrateFault | ownership | spPoison | memPoison
  | tokenOverflow | queueUnderflow | queueOverflow | queueBind | mxBank | profile | stampOverrun | conflict
  | signalLost | copyIntegrity | swtrap | double | slotOverrun | watchdog | laneSpare | throttle
  deriving DecidableEq, Repr

/-- The code of a cause (R338). -/
def Cause.code : Cause → Nat
  | .illegalInstruction => 1 | .privilege => 2 | .align => 3 | .translation => 4 | .migrateFault => 5 | .ownership => 6
  | .spPoison => 7 | .memPoison => 8 | .tokenOverflow => 9 | .queueUnderflow => 10 | .queueOverflow => 11
  | .queueBind => 12 | .mxBank => 13 | .profile => 14 | .stampOverrun => 15 | .conflict => 16 | .signalLost => 17
  | .copyIntegrity => 18 | .swtrap => 19 | .double => 20 | .slotOverrun => 21 | .watchdog => 22 | .laneSpare => 23
  | .throttle => 24

/-- A cause and its value (R107). -/
structure Trap where
  cause : Cause
  val : W64
  deriving DecidableEq, Repr

/-- The 64 lanes of a vector register, 32 bits each (R17). -/
abbrev Lanes := Vector W32 64

/-- The lanes that a function of the lane number gives. -/
def lanesOf (f : Nat → W32) : Lanes := ⟨((List.range 64).map f).toArray, by simp⟩

/-- Lane l of a vector, zero beyond 63. -/
def lane (v : Lanes) (l : Nat) : W32 := v.toList.getD l 0

/-- A loop level (R19, R35). -/
structure Loop where
  count : W32
  start : Addr
  lenm1 : BitVec 6
  act : Bool
  deriving DecidableEq, Repr

/-- An inactive loop level (R29). -/
def Loop.off : Loop := ⟨0, 0, 0, false⟩

/-- A handling level's bank (R34). -/
structure Bank where
  ecause : W64
  epc : W64
  eval : W64
  epl : W64
  esave : W64
  deriving DecidableEq, Repr

/-- The counter windows (R36). -/
structure Counters where
  cycle : W64
  ctlRet : W64
  dcpl : W64
  tok : W64
  rsb : W64
  stampOvr : W64
  deriving DecidableEq, Repr

/-- The condition of a queue entry (R10, R40): not started, started, all effects done but SIG not yet pushed, its pushes
withheld by a fault (R14), complete. -/
inductive Phase where
  | queued | started | finished | withheld | done
  deriving DecidableEq, Repr

/-- A queue entry (R9, R11), its progress record (R41) and the cause to raise at its completion boundary (R14, R166). -/
structure Entry where
  img : Image
  seq : W32
  det : Bool
  fce : Bool
  phase : Phase
  prog : Nat
  pend : Option Trap
  deriving DecidableEq, Repr

/-- A held engine fault (R340); `order` ranks it by when it was raised. -/
structure Held where
  trap : Trap
  seq : W32
  order : Nat
  deriving DecidableEq, Repr

/-- An engine's queue, sequence numbers, templates and held fault (R10, R16, R340). -/
structure EngState where
  q : List Entry
  issued : W32
  completed : W32
  tmpl : Vector Image 64
  held : Option Held
  deriving DecidableEq, Repr

/-- The seven engines (R8). -/
structure Engines where
  fe : EngState
  vx : EngState
  mx : EngState
  sx : EngState
  de : EngState
  cp : EngState
  fr : EngState
  deriving DecidableEq, Repr

/-- An operand queue (R23): its producer and consumer engine numbers, 0 for none, and its entries, oldest first. -/
structure OpQueue where
  prod : Nat
  cons : Nat
  ents : List Lanes
  deriving DecidableEq, Repr

/-- Where a VX result goes (R39). -/
inductive VxTarget where
  | v (n : Nat) | q (n : Nat) | none
  deriving DecidableEq, Repr

/-- An entry of the pending-write list (R39). -/
structure VxPend where
  dst : VxTarget
  y : Option Nat
  val : Lanes
  mask : W64
  mz : Bool
  left : Nat
  seq : W32
  deriving DecidableEq, Repr

/-- The VX state of R17. -/
structure Vx where
  v : Vector Lanes 64
  q : Vector OpQueue 8
  y : Vector Lanes 4
  m : Vector W64 8
  k : Vector W32 8
  lfsr : Lanes
  pend : List VxPend
  deriving DecidableEq, Repr

/-- A level of the loop-nest table (R206). -/
structure NestLevel where
  cntm1 : H16
  sa : W32
  sb : W32
  cr : H16
  cc : H16
  deriving DecidableEq, Repr

/-- The operand set-up of MX (R209). -/
structure OpndSet where
  ta : Nat
  tb : Nat
  ga : Nat
  gb : Nat
  pois : Bool
  la : Bool
  lb : Bool
  pa : Nat
  abase : Nat
  bbase : Nat
  pb : Nat
  deriving DecidableEq, Repr

/-- The accumulator set-up of MX (R210). -/
structure AccSet where
  drn : Bool
  mode : Nat
  lp : Nat
  lbase : Nat
  deriving DecidableEq, Repr

/-- What an accumulator's companion holds (R212). -/
inductive AccTag where
  | plain | comp | arg
  deriving DecidableEq, Repr

/-- An accumulator with its companion array and tag (R17, R212). -/
structure Acc where
  rows : Vector Lanes 128
  comp : Vector Lanes 128
  tag : AccTag
  deriving DecidableEq, Repr

/-- A store descriptor of EP (R217). -/
inductive Desc where
  | none
  | sp (pois : Bool) (esz cb bytes base pitch : Nat)
  | tg (ne tid : Nat) (c0 c1 c2 c3 : Nat)
  | qu (q : Nat)
  deriving DecidableEq, Repr

/-- A started MX.GO (R218): what it took at its start, its progress record (R41), and its start on MX's own time. -/
structure Go where
  seq : W32
  det : Bool
  nest : Vector NestLevel 6
  opnd : OpndSet
  acc : AccSet
  pat : Nat
  kl : Nat
  eps : Nat
  prof : Nat
  next : Nat
  released : Nat
  start : Nat
  deriving DecidableEq, Repr

/-- The drain of a tile (R221, R228): the row and word it has reached, the snapshot, the queue pushes it has made in this run
those of a faulted first run that are not to be made again, whether EP waits on a full queue (R225), and the cycle of its next
word on MX's own time (R219). -/
structure Drain where
  row : Nat
  pc : Nat
  snapE : Vector Lanes 8
  snapLfsr : Lanes
  pushes : Nat
  skip : Nat
  waits : Bool
  cycle : Nat
  deriving DecidableEq, Repr

/-- A computed tile that has not been released (R212, R219, R228); `ready` is ready_j on MX's own time. -/
structure Tile where
  go : W32
  idx : Nat
  acc : Nat
  row0 : Int
  col0 : Int
  nr : Nat
  eps : Nat
  drain : Option Drain
  held : Bool
  ready : Nat
  deriving DecidableEq, Repr

/-- A tile that has begun and reads its operands while an earlier one drains (R219): b_j on MX's own time, the LOAD rows and the
blocks read so far, the cause of the completion boundary, and whether R26 holds its next reads. -/
structure Reading where
  go : W32
  begins : Nat
  load : List (List Byte)
  a : List (List Byte)
  b : List (List Byte)
  trap : Option Trap
  held : Bool
  deriving DecidableEq, Repr

/-- The MX and EP state of R17. MX's own time counts the cycles of R219, none of a hold: when the array is free, when the last tile
and the last one of each accumulator was released. -/
structure Mx where
  staging : Vector NestLevel 6
  active : Vector NestLevel 6
  opnd : OpndSet
  acc : AccSet
  na : Nat
  accs : Vector Acc 2
  prog : Vector W32 64
  e : Vector Lanes 8
  lfsr : Lanes
  desc : Vector Desc 4
  gos : List Go
  tiles : List Tile
  reading : Option Reading
  arrayAt : Nat
  relAt : Nat
  relAcc : Vector Nat 2
  deriving DecidableEq, Repr

/-- The SX state of R17: configuration word (R231), carry descriptors (R234), fade counters (R22). -/
structure Sx where
  cfg : W64
  staged : W64
  active : W64
  fade : Vector H16 64
  deriving DecidableEq, Repr

/-- The state of a frame slot (R24, R244). -/
inductive SlotSt where
  | empty | loading | resident | writing | swapping
  deriving DecidableEq, Repr

/-- A frame slot (R24) with the RES of R244. -/
structure Slot where
  sess : W32
  pins : Nat
  st : SlotSt
  res : Nat
  tid : BitVec 12
  deriving DecidableEq, Repr

/-- The FR state: the slots, the region base, the slot count and size of the last FR.SLOTS (R246, R247); the transfer that
runs, with a (destination, unit) pair in `fails` for each failed check and each resend (R252). -/
structure Fr where
  slots : Vector Slot 32
  base : Nat
  n : Nat
  size : Nat
  xid : Option Nat
  fails : List (Nat × Nat)
  deriving DecidableEq, Repr

/-- What a transfer does (R253). -/
inductive XferKind where
  | copy | fill | mcast
  deriving DecidableEq, Repr

/-- One destination of a transfer and its progress (R256): unit u is verified when it lies in `ok`; `fails` holds it once
for each failed check and once for each resend. -/
structure Recv where
  tid : Nat
  off : Nat
  ok : List Nat
  fails : List Nat
  dead : Bool
  acked : Bool
  sb : Option Nat
  hdr : Bool
  deriving DecidableEq, Repr

/-- A transfer of CP (R254–R259). `seq` is the entry it belongs to; a scheduled one has not `begun` while its channel is
full. -/
structure Xfer where
  id : Nat
  core : Nat
  seq : W32
  ch : Nat
  kind : XferKind
  stid : Nat
  soff : Nat
  rows : Nat
  bytes : Nat
  sp : Nat
  dp : Nat
  pattern : W32
  pois : Bool
  det : Bool
  recvs : List Recv
  bar : Addr
  sentArr : Bool
  pend : Option Trap
  begun : Bool
  deriving DecidableEq, Repr

/-- A collective that a core has started (R260–R263, R398): its own contribution, the values its port stop has received with
their ranks, the result once this package has formed it, and whether the contribution has reached the port stop. -/
structure Coll where
  collid : H16
  seq : W32
  kind : Nat
  src : Nat
  dst : Nat
  count : Nat
  pmask : Nat
  root : Nat
  typ : Nat
  op : Nat
  prof : Nat
  rnd : Nat
  ch : Nat
  contrib : List W32
  got : List (Nat × List W32)
  result : Option (List W32)
  here : Bool
  written : Bool
  sb : Option Nat
  pend : Option Trap
  deriving DecidableEq, Repr

/-- The CP state: transfers, collectives and the stage counter (R17, R259). -/
structure Cp where
  xfers : List Xfer
  colls : List Coll
  stage : H16
  deriving DecidableEq, Repr

/-- An entry of the range scoreboard (R25). -/
structure SbEntry where
  start : Nat
  len : Nat
  owner : Nat
  deriving DecidableEq, Repr

/-- A remote access of CTL (R146): what the target's ring stop performs. -/
inductive RemoteOp where
  | load (size : Nat) (signed : Bool) (sd : Reg)
  | store (size : Nat) (v : W64)
  | amo (fn : Nat) (dbl : Bool) (v new : W64) (sd : Reg)
  | barInit (count : W32)
  | barArv (logical : Nat) (det thenWait : Bool)
  | barTest (sd : Reg)
  | barPoll (logical : Nat)
  deriving DecidableEq, Repr

/-- A remote access: its number, the issuing core, its context and partition, the target offset, the operation, the words of the
instruction, and whether its completion is an acquire at CLUSTER scope or wider (R146, R266, R290, R355). -/
structure Remote where
  id : Nat
  src : Nat
  vf : BitVec 9
  part : BitVec 5
  ea : Addr
  off : Nat
  op : RemoteOp
  words : Nat
  acq : Bool
  deriving DecidableEq, Repr

/-- The answer of a ring stop to a remote access (R146): a value, an acceptance, a trap, or a refusal by a reset core. -/
inductive Reply where
  | value (v : W64) | accepted | trap (t : Trap) | refused
  deriving DecidableEq, Repr

/-- What CTL waits for: the second half of an instruction whose first row has executed. -/
inductive Wait where
  | space (e : Eng) (img : Image) (words : Nat)
  | give (tid : BitVec 12) (n : Nat)
  | take (tid : BitVec 12)
  | bar (ea : Addr) (acq : Bool)
  | twait (mask : Byte)
  | spawn (d0 d1 d2 d3 : W64) (prio : BitVec 2)
  | tend
  | trig (marks : List W32)
  | wfe
  | remote (r : Remote)
  | reply (r : Remote) (a : Reply)
  deriving DecidableEq, Repr

/-- What the completion of a CTL instruction changed beside its result, kept for a refusal that comes after it (R356): where it
stood, the loop levels, and the ARV bit. -/
structure Left where
  pc : Addr
  lc0 : Loop
  lc1 : Loop
  arv : Bool
  deriving DecidableEq, Repr

/-- A work record with what its creator supplies (R306, R307). -/
structure Rec where
  d0 : W64
  d1 : W64
  d2 : W64
  d3 : W64
  vf : BitVec 9
  lid : W32
  prio : Nat
  ttab : Addr
  group : Bool
  deriving DecidableEq, Repr

/-- What a core does (R311, R343, R348, R354, R359, R368–R370). -/
inductive Run where
  | idle | running | halted | scanStopped (reason : Nat) | gated (running : Bool) | saving (donate halted : Bool) | cleaning
  deriving DecidableEq, Repr

/-- An arrival parked at a ring stop (R350, R355): a remote access, a reply, the signal of a CP entry at a barrier object of
partition q by its logical core, data of a transfer that the tile has accepted, with the core and the CP entry that send it. -/
inductive Parked where
  | access (r : Remote)
  | reply (r : Remote) (a : Reply)
  | signal (off q logical : Nat) (marked : Bool)
  | data (off : Nat) (bytes : List Byte) (src : Nat) (seq : W32)
  | run (src eng dst off : Nat)
  deriving DecidableEq, Repr

/-- An access of an engine that the ring stop of a saved or halted core has parked (R350, R355): the engine, the core and the offset
that it was sent to, and the core on which the context there has resumed, once it has. -/
structure SentRun where
  eng : Nat
  dst : Nat
  off : Nat
  now : Option Nat
  deriving DecidableEq, Repr

/-- The debug block and the scan request registers of a core (R348, R358). -/
structure DbgRegs where
  sel : W64
  code : BitVec 12
  quiescent : Bool
  reqImg : Addr
  resImg : Addr
  busy : Bool
  result : Byte
  deriving DecidableEq, Repr

/-- A physical core (R17), with what the scheduler and the ring stop keep for it; `stored` says that the core-save area holds the
resident context's state as it stands here (R309). -/
structure Core where
  s : Vector W64 32
  pc : Addr
  lc0 : Loop
  lc1 : Loop
  vrb : BitVec 5
  sfc : W32
  sflen : BitVec 17
  fce : Bool
  det : Bool
  pl : Nat
  levelBase : W64
  banks : Vector Bank 3
  tok : Vector (BitVec 4) 64
  ev : Bool
  arv : Bool
  ctr : Counters
  llcwSel : Byte
  eng : Engines
  vx : Vx
  mx : Mx
  sx : Sx
  cp : Cp
  fr : Fr
  sb : Vector (Option SbEntry) 16
  l1 : List Nat
  wait : Option Wait
  work : Option Rec
  trig : Bool
  resident : Option (BitVec 9)
  part : BitVec 5
  preloaded : List W32
  entry : Nat
  idleAt : Nat
  run : Run
  reserved : Option Nat
  stored : Bool
  rsbHeld : Bool
  wdog : W64
  quiet : Nat
  qstop : Bool
  qlevel : Nat
  outst : Option Remote
  left : Option Left
  sent : List SentRun
  parked : List Parked
  orbit : W32
  accepted : W32
  dbg : DbgRegs
  deriving DecidableEq, Repr

/-- A level word of a launch record (R315). -/
structure Level where
  gang : Bool
  domain : Nat
  count : Nat
  deriving DecidableEq, Repr

/-- A live launch (R314–R320); `unread` says that replay has accepted it again and its record is still to be read (R329). -/
structure Launch where
  vf : BitVec 9
  lid : W32
  part : BitVec 5
  recAddr : Addr
  entry : Addr
  args : Addr
  ttab : Addr
  sched : Addr
  preload : List (Eng × Nat × Image)
  done : Addr
  prio : Nat
  det : Bool
  persist : Bool
  fence : Bool
  sflen : BitVec 17
  levels : List Level
  deps : List W32
  groups : Nat
  begun : Bool
  nextIdx : Nat
  triggered : List Nat
  retired : List Nat
  replayed : Bool
  unread : Bool
  host : Option (Nat × Bool)
  deriving DecidableEq, Repr

/-- A task-queue entry (R307, R310): a record or a gang, or a saved record that resumes from an image; `id` names its slot. -/
structure TqEntry where
  part : BitVec 5
  prio : Nat
  work : Rec
  pass : Nat
  gang : Option Nat
  img : Option Nat
  id : Nat
  deriving DecidableEq, Repr

/-- A binding of a launch's block to a unit (R321). -/
structure Binding where
  vf : BitVec 9
  lid : W32
  level : Nat
  block : Nat
  domain : Nat
  unit : Nat
  deriving DecidableEq, Repr

/-- The states of a gang entry (R324). -/
inductive GangSt where
  | waiting | reserving | backoff | holding | placed
  deriving DecidableEq, Repr

/-- A gang (R322–R324). -/
structure Gang where
  id : Nat
  part : BitVec 5
  vf : BitVec 9
  lid : W32
  first : Nat
  size : Nat
  rank : Nat
  domain : Nat
  target : Option Nat
  st : GangSt
  n : Nat
  asked : List Nat
  grants : List Nat
  denied : Bool
  deriving DecidableEq, Repr

/-- The state at a partition's last fence (R328, R329). -/
structure Fence where
  part : BitVec 5
  fseq : W32
  tq : List TqEntry
  gangs : List Gang
  streams : List Launch
  deriving DecidableEq, Repr

/-- A granule's sieve signature (R335). -/
structure Sieve where
  gran : Nat
  part : BitVec 5
  writer : Option Nat
  readers : List Nat
  deriving DecidableEq, Repr

/-- A superblock held in the LLC (R298). `sb` is the superblock's stack address div 256 with its stack; `lines` holds MODE and
OFF of each of its four lines, `data` its sectors from sector 0 of the way on, those of the extension after them. -/
structure LlcSb where
  sector : Nat
  sb : Nat
  way : Nat
  pair : Option Nat
  ctx : BitVec 9
  dirty : Bool
  age : Nat
  lines : List (Nat × Nat)
  data : List Byte
  deriving DecidableEq, Repr

/-- The LLC event counters of a context (R303). -/
structure LlcEvents where
  ctx : BitVec 9
  expansions : W64
  evictions : W64
  soft : W64
  deriving DecidableEq, Repr

/-- What a flit of the core ring carries (R389). -/
inductive FlitMsg where
  | access (r : Remote)
  | reply (r : Remote) (a : Reply)
  | header (xid recv : Nat)
  | contrib (collid : H16)
  deriving DecidableEq, Repr

/-- Where a flit is (R389–R391): waiting at its stop, in a slot, in the receive buffer, answered by a NACK. -/
inductive FlitSt where
  | waiting | inSlot | buffered | nacked
  deriving DecidableEq, Repr

/-- A flit of the core ring (R386–R391), `src` and `dst` the agents of its stops. -/
structure Flit where
  id : Nat
  src : Nat
  dst : Nat
  dir : Nat
  part : BitVec 5
  slot : Nat
  deflections : Nat
  st : FlitSt
  msg : FlitMsg
  deriving DecidableEq, Repr

/-- A flit of a sector link (R392) from one sector to another, charged to a partition; `back` where an answer follows it. A launched
one keeps the ring cycle, and whether it holds a credit of an open phase. -/
structure LinkFlit where
  src : Nat
  dst : Nat
  part : BitVec 5
  back : Bool
  sent : Option (Nat × Bool)
  deriving DecidableEq, Repr

/-- A saved core (R346–R352): a logical image or a scan image, with the state it carries; `body` is the content, by offset, of
the part of the image that its HASH covers beside the header, `hash` that HASH; `dets` are the offsets of the barrier objects whose
phase a DBAR under DET has marked (R157). -/
structure SavedImage where
  id : Nat
  scan : Bool
  vf : BitVec 9
  part : BitVec 5
  phys : Nat
  log : Nat
  addr : Addr
  core : Core
  spad : List Host.Cell
  poison : List Nat
  dets : List Nat
  header : List W64
  hash : List W64
  parked : List Parked
  body : List Host.Cell
  written : Bool
  sealed : Bool
  straggler : Bool
  halted : Bool
  deriving DecidableEq, Repr

/-- The TST sequencer (R366–R372). `bad` holds ERR and ERRENT of a commit that S found invalid; `passed` holds each partition whose grants have passed, with the ring cycle; `phases` the
offsets of the phase bytes whose old owner's flits are not yet delivered (R369). -/
structure Tst where
  ent : Nat
  len : Nat
  slen : Nat
  cycles : W32
  err : Nat
  errent : Nat
  commit : Bool
  fixed : Bool
  bad : Option (Nat × Nat)
  soft : Bool
  sent : Nat
  marks : List Nat
  passed : List (BitVec 5 × Nat)
  cleaning : List Nat
  phases : List Nat
  donating : List (BitVec 5)
  deriving DecidableEq, Repr

/-- A change of a lane map that is not yet in force (R395): the failing physical lane, the lane it carries, the spare that takes
its bits, none where the port narrows, and the flit transmissions after which it applies. -/
structure LaneMove where
  failing : Nat
  lane : BitVec 5
  spare : Option (BitVec 5)
  left : Nat
  deriving DecidableEq, Repr

/-- A Lorcy port (R393–R397). `txSeq` is the flit that it sends next, `txTop` the first that no one has asked it to send. -/
structure LPort where
  up : Bool
  narrow : Bool
  sp16 : BitVec 5
  sp17 : BitVec 5
  bad : BitVec 18
  retrains : H16
  errth : H16
  sel : BitVec 5
  errs : Vector W32 18
  overs : Vector W32 18
  rxSeq : H16
  txSeq : H16
  txTop : H16
  replays : Nat
  stopped : Bool
  moves : List LaneMove
  txSp16 : BitVec 5
  txSp17 : BitVec 5
  txNarrow : Bool
  txBad : BitVec 18
  txMoves : List LaneMove
  held : Nat
  txReplays : Nat
  lastReplay : H16
  deriving DecidableEq, Repr

/-- A frame that an Ethernet port has sent (R402, R404): destination, the PCP and VID of its VLAN tag, traffic class, payload. -/
structure EthOut where
  port : Nat
  dmac : BitVec 48
  tag : Option (BitVec 3 × BitVec 12)
  tc : BitVec 3
  payload : List Byte
  deriving DecidableEq, Repr

/-- The power and start condition of the package (R341, R407, R417). -/
inductive Power where
  | off | booting | ready | failed | stopped
  deriving DecidableEq, Repr

/-- The boot ROM's and the management flash's state (R407–R413). -/
structure Boot where
  power : Power
  stage : Nat
  slot : Bool
  minimal : Bool
  failcnt : Nat
  lreason : Nat
  lstage : Nat
  detail : W32
  devser : W64
  harvest0 : BitVec 36
  harvest1 : BitVec 36
  svn : Nat
  slotSvn : Nat
  deriving DecidableEq, Repr

/-- TDISP states of a VF's TDI (R399). -/
inductive Tdi where
  | unlocked | locked | run | error
  deriving DecidableEq, Repr

/-- What moves next: CTL, an engine or EP of a core, a core cycle, a ring cycle of the package, an ECC error that the read of a
unit meets (R289, R304), a read or write of a core's debug block through JTAG (R358), or an event at a core. -/
inductive Act where
  | ctl (p : Nat)
  | engine (p : Nat) (e : Eng)
  | ep (p : Nat)
  | tick (p : Nat)
  | rc
  | ecc (a : Nat) (fatal : Bool)
  | jtag (p off : Nat) (v : Option W64)
  | on (p : Nat) (i : Instr)
  deriving DecidableEq, Repr

/-- The package. `core` is the core in focus, physical number `cur`; `others` the cores that differ from reset; `conflicts` names
for each CONFLICT of the sieve both logical cores, the accessing one first, and the granule's address (R335); `thrAt` is the ring
cycle of the last throttle change (R416). -/
structure State where
  core : Core
  cur : Nat
  others : List (Nat × Core)
  mem : List Host.Cell
  poison : List Nat
  pf : List (Nat × W64)
  tq : List TqEntry
  taken : List TqEntry
  nextSlot : Nat
  launches : List Launch
  past : List Launch
  bindings : List Binding
  gangs : List Gang
  nextGang : Nat
  fences : List Fence
  subs : List (BitVec 9 × Nat × Nat × W32)
  replays : List (BitVec 9 × Nat × Nat × W32)
  doorbells : List (Nat × W32)
  markers : List (BitVec 5)
  sieve : List Sieve
  conflicts : List (Nat × Nat × Nat)
  detBars : List Nat
  llc : List LlcSb
  llcEv : List LlcEvents
  llcClock : Nat
  corrected : Vector W64 8
  flits : List Flit
  linkq : List LinkFlit
  nextFlit : Nat
  nextXfer : Nat
  collTx : List CollMsg
  images : List SavedImage
  archive : List SavedImage
  nextImage : Nat
  tst : Tst
  scrubq : List W64
  ports : Vector LPort 2
  ethTabs : Vector (List W64) 4
  ethTx : List EthOut
  boot : Boot
  tdi : List (BitVec 9 × Tdi)
  msix : List Nat
  spdm : List (List W64)
  hostRd : W64
  order : Nat
  rc : Nat
  thrAt : Option Nat
  free : Nat
  turn : Nat
  agenda : List Act
  deriving DecidableEq, Repr

/-! ### Reset values (R17, R29, R366, R415) -/

def Counters.zero : Counters := ⟨0, 0, 0, 0, 0, 0⟩

/-- The image of an unwritten template: all zero (R16). -/
def Image.zero : Image := Image.of []

def EngState.reset : EngState := ⟨[], 0, 0, Vector.replicate 64 Image.zero, none⟩

def Engines.reset : Engines := ⟨.reset, .reset, .reset, .reset, .reset, .reset, .reset⟩

/-- A vector of zeros. -/
def zeroLanes : Lanes := Vector.replicate 64 0

def Vx.reset : Vx :=
  { v := Vector.replicate 64 zeroLanes, q := Vector.replicate 8 ⟨0, 0, []⟩, y := Vector.replicate 4 zeroLanes,
    m := Vector.replicate 8 (BitVec.allOnes 64), k := Vector.replicate 8 0,
    lfsr := lanesOf (fun i => BitVec.ofNat 32 (i + 1)), pend := [] }

def NestLevel.zero : NestLevel := ⟨0, 0, 0, 0, 0⟩
def OpndSet.zero : OpndSet := ⟨0, 0, 0, 0, false, false, false, 0, 0, 0, 0⟩
def AccSet.zero : AccSet := ⟨false, 0, 0, 0⟩
def Acc.zero : Acc := ⟨Vector.replicate 128 zeroLanes, Vector.replicate 128 zeroLanes, .plain⟩

def Mx.reset : Mx :=
  { staging := Vector.replicate 6 .zero, active := Vector.replicate 6 .zero, opnd := .zero, acc := .zero, na := 0,
    accs := Vector.replicate 2 .zero, prog := Vector.replicate 64 0, e := Vector.replicate 8 zeroLanes,
    lfsr := lanesOf (fun i => BitVec.ofNat 32 (i + 65)), desc := Vector.replicate 4 .none, gos := [], tiles := [],
    reading := none, arrayAt := 0, relAt := 0, relAcc := Vector.replicate 2 0 }

def Sx.reset : Sx := ⟨0, 0, 0, Vector.replicate 64 0⟩
def Slot.empty : Slot := ⟨0, 0, .empty, 0, 0⟩
def Fr.reset : Fr := ⟨Vector.replicate 32 .empty, 0, 0, 0, none, []⟩
def Cp.reset : Cp := ⟨[], [], 0⟩
def DbgRegs.reset : DbgRegs := ⟨0, 0, false, 0, 0, false, 0⟩

/-- A core after core reset (R17, R29): idle, with nothing resident. -/
def Core.reset : Core :=
  { s := Vector.replicate 32 0, pc := 0, lc0 := .off, lc1 := .off, vrb := 0, sfc := 0, sflen := 0, fce := false, det := false,
    pl := 0, levelBase := 0, banks := Vector.replicate 3 ⟨0, 0, 0, 0, 0⟩, tok := Vector.replicate 64 0, ev := true,
    arv := false, ctr := .zero, llcwSel := 0, eng := .reset, vx := .reset, mx := .reset, sx := .reset, cp := .reset,
    fr := .reset, sb := Vector.replicate 16 none, l1 := [], wait := none, work := none, trig := false, resident := none,
    part := 0, preloaded := [], entry := 0, idleAt := 0, run := .idle, reserved := none, stored := false, rsbHeld := false, wdog := 0, quiet := 0,
    qstop := false, qlevel := 0, outst := none, left := none, sent := [], parked := [], orbit := 0, accepted := 0, dbg := .reset }

/-- The double at offset k of the one entry of the TST after a PF reset (R366). -/
def tstResetDouble (k : Nat) : W64 :=
  if k = 0 then 0x100000000 else if k = 8 then 0x20 else if k = 128 || k = 192 then 0x2020202020202000
  else if 128 < k && k ≤ 512 && k % 8 == 0 then 0x2020202020202020 else if k = 520 then 1 else 0

/-- The value of a PF register that nothing has written since a PF reset: PLIMIT and THR_ON/THR_OFF (R415), the shadow and the
active TST (R366), NEXTLID of every VF, since launch ids run from 1 (R130); every other one is 0. -/
def pfDefault (off : Nat) : W64 :=
  if off < 0x20000 then (if off = 0xD0 then 950000 else if off = 0xD8 then 0x05F00690 else 0)
  else if off < 0x20400 then tstResetDouble (off - 0x20000)
  else if 0x28000 ≤ off && off < 0x28400 then tstResetDouble (off - 0x28000)
  else if 0x80000 ≤ off && off < 0xC0000 && (off - 0x80000) % 512 == 0x50 then 1 else 0

def Tst.reset : Tst :=
  { ent := 0, len := 1, slen := 1, cycles := 0, err := 0, errent := 0, commit := false, fixed := false, bad := none, soft := false, sent := 0,
    marks := [], passed := [], cleaning := [], phases := [], donating := [] }

def LPort.reset : LPort :=
  { up := false, narrow := false, sp16 := 0x1F, sp17 := 0x1F, bad := 0, retrains := 0, errth := 16, sel := 0,
    errs := Vector.replicate 18 0, overs := Vector.replicate 18 0, rxSeq := 0, txSeq := 0, txTop := 0, replays := 0,
    stopped := false, moves := [], txSp16 := 0x1F, txSp17 := 0x1F, txNarrow := false, txBad := 0, txMoves := [], held := 0, txReplays := 0,
    lastReplay := 0 }

def Boot.reset : Boot :=
  { power := .booting, stage := 0, slot := false, minimal := false, failcnt := 0, lreason := 0, lstage := 0, detail := 0,
    devser := 0, harvest0 := 0, harvest1 := 0, svn := 0, slotSvn := 0 }

/-- The package right after reset: every core in core reset (R17), the TST at its reset entry (R366), the boot ROM about to run
stage 1 (R407), memory with nothing listed. -/
def State.reset : State :=
  { core := .reset, cur := 0, others := [], mem := [], poison := [], pf := [], tq := [], taken := [], nextSlot := 1,
    launches := [], past := [], bindings := [], gangs := [], nextGang := 0, fences := [], subs := [], replays := [], doorbells := [], markers := [],
    sieve := [], conflicts := [], detBars := [], llc := [], llcEv := [], llcClock := 0, corrected := Vector.replicate 8 0, flits := [], linkq := [], nextFlit := 0, nextXfer := 0, collTx := [], images := [], archive := [],
    nextImage := 0, tst := .reset, scrubq := [], ports := Vector.replicate 2 .reset, ethTabs := Vector.replicate 4 [],
    ethTx := [], boot := .reset, tdi := [], msix := [], spdm := [], hostRd := 0, order := 0, rc := 0, thrAt := none, free := 0, turn := 0, agenda := [] }

end Sys2Proof.Machine
end

