-- ==== Sys2Proof/Machine/Numbers.lean ====
section
/-!
DEFINITION. Number formats, exact arithmetic, rounding and the small helpers of chapter 3 (R78–R93, R104). Values are
extended reals with signed zero (R84), finite ones held exactly as m · 2^e.
-/

namespace Sys2Proof.Machine

/-- A format of R78 and R80. -/
inductive Fmt where
  | fp32 | bf16 | fp16 | e5m2 | e4m3 | e4m3n | int8 | uint8 | int12 | int16 | int32
  deriving DecidableEq, Repr

/-- The format is an integer format. -/
def Fmt.isInt : Fmt → Bool
  | .int8 | .uint8 | .int12 | .int16 | .int32 => true
  | _ => false

/-- Fraction bits of a float format (R80). -/
def Fmt.fbits : Fmt → Nat
  | .fp32 => 23 | .bf16 => 7 | .fp16 => 10 | .e5m2 => 2 | .e4m3 => 3 | .e4m3n => 3 | _ => 0

/-- Exponent bits of a float format (R80). -/
def Fmt.ebits : Fmt → Nat
  | .fp32 => 8 | .bf16 => 8 | .fp16 => 5 | .e5m2 => 5 | .e4m3 => 4 | .e4m3n => 4 | _ => 0

/-- emin of a float format (R80). -/
def Fmt.emin : Fmt → Int
  | .fp32 => -126 | .bf16 => -126 | .fp16 => -14 | .e5m2 => -14 | .e4m3 => -6 | .e4m3n => -6 | _ => 0

/-- Bits of a format's container (R78, R80). -/
def Fmt.size : Fmt → Nat
  | .fp32 => 32 | .bf16 => 16 | .fp16 => 16 | .e5m2 => 8 | .e4m3 => 8 | .e4m3n => 8
  | .int8 => 8 | .uint8 => 8 | .int12 => 16 | .int16 => 16 | .int32 => 32

/-- The canonical NaN (R80). -/
def Fmt.nan : Fmt → Nat
  | .fp32 => 0x7FC00000 | .bf16 => 0x7FC0 | .fp16 => 0x7E00 | .e5m2 => 0x7E | .e4m3 => 0x7F | .e4m3n => 0x7F | _ => 0

/-- Largest finite magnitude of a float format, as m · 2^e (R80). -/
def Fmt.maxfin : Fmt → Nat × Int
  | .fp32 => (2 ^ 24 - 1, 104) | .bf16 => (2 ^ 8 - 1, 120) | .fp16 => (2047, 5) | .e5m2 => (7, 13)
  | .e4m3 => (7, 6) | .e4m3n => (7, 6) | _ => (0, 0)

/-- Least and greatest value of an integer format (R78). -/
def Fmt.range : Fmt → Int × Int
  | .int8 => (-128, 127) | .uint8 => (0, 255) | .int12 => (-2048, 2047) | .int16 => (-32768, 32767)
  | .int32 => (-2 ^ 31, 2 ^ 31 - 1) | _ => (0, 0)

/-- An extended real with signed zero (R84); a finite value is m · 2^e with m not zero. -/
inductive Num where
  | nan | inf (neg : Bool) | zero (neg : Bool) | fin (m : Int) (e : Int)
  deriving DecidableEq, Repr

/-- m · 2^e, zero being +0. -/
def Num.of (m e : Int) : Num := if m = 0 then .zero false else .fin m e

/-- The sign bit of a value. -/
def Num.neg? : Num → Bool
  | .nan => false | .inf s => s | .zero s => s | .fin m _ => m < 0

def Num.neg : Num → Num
  | .nan => .nan | .inf s => .inf !s | .zero s => .zero !s | .fin m e => .fin (-m) e

def Num.abs : Num → Num
  | .nan => .nan | .inf _ => .inf false | .zero _ => .zero false | .fin m e => .fin m.natAbs e

/-- The two magnitudes brought to one exponent. -/
def align (m e m' e' : Int) : Int × Int × Int :=
  if e ≤ e' then (m, m' * 2 ^ (e' - e).toNat, e) else (m * 2 ^ (e - e').toNat, m', e')

/-- The exact sum (R84); `rdn` says that the final rounding is RDN. -/
def Num.add (rdn : Bool) : Num → Num → Num
  | .nan, _ => .nan
  | _, .nan => .nan
  | .inf a, .inf b => if a = b then .inf a else .nan
  | .inf a, _ => .inf a
  | _, .inf b => .inf b
  | .zero a, .zero b => if a = b then .zero a else .zero rdn
  | .zero _, y => y
  | x, .zero _ => x
  | .fin m e, .fin m' e' =>
    let t := align m e m' e'
    if t.1 + t.2.1 = 0 then .zero rdn else .fin (t.1 + t.2.1) t.2.2

def Num.sub (rdn : Bool) (x y : Num) : Num := x.add rdn y.neg

/-- The exact product (R84). -/
def Num.mul : Num → Num → Num
  | .nan, _ => .nan
  | _, .nan => .nan
  | .zero _, .inf _ => .nan
  | .inf _, .zero _ => .nan
  | .inf a, y => .inf (a != y.neg?)
  | x, .inf b => .inf (x.neg? != b)
  | .zero a, y => .zero (a != y.neg?)
  | x, .zero b => .zero (x.neg? != b)
  | .fin m e, .fin m' e' => .fin (m * m') (e + e')

/-- The exact sum of a list, −0 when empty. -/
def Num.sum (rdn : Bool) (l : List Num) : Num :=
  match l with
  | [] => .zero true
  | x :: r => r.foldl (Num.add rdn) x

/-- floor(log2 |x|) of m · 2^e. -/
def lg (m e : Int) : Int := (m.natAbs.log2 : Int) + e

/-- x < y on values that are no NaN. -/
def Num.lt (x y : Num) : Bool :=
  match x, y with
  | .nan, _ => false
  | _, .nan => false
  | .inf a, .inf b => a && !b
  | .inf a, _ => a
  | _, .inf b => !b
  | .zero _, .zero _ => false
  | .zero _, .fin m _ => 0 < m
  | .fin m _, .zero _ => m < 0
  | .fin m e, .fin m' e' => let t := align m e m' e'; t.1 < t.2.1

/-- Equality of values: zeros are equal, NaN equals nothing. -/
def Num.eqv (x y : Num) : Bool :=
  match x, y with
  | .nan, _ => false
  | _, .nan => false
  | x, y => !x.lt y && !y.lt x

def Num.isNan : Num → Bool
  | .nan => true | _ => false

def Num.isInf : Num → Bool
  | .inf _ => true | _ => false

def Num.isZero : Num → Bool
  | .zero _ => true | _ => false

/-- max of R104: NaN wins, +0 is above −0. -/
def Num.max (x y : Num) : Num :=
  if x.isNan || y.isNan then .nan
  else if x.isZero && y.isZero then .zero (x.neg? && y.neg?)
  else if x.lt y then y else x

/-- min of R104. -/
def Num.min (x y : Num) : Num :=
  if x.isNan || y.isNan then .nan
  else if x.isZero && y.isZero then .zero (x.neg? || y.neg?)
  else if y.lt x then y else x

/-! ### Decoding and encoding (R79, R80, R84) -/

/-- `val` of R84. -/
def val (b : Nat) (f : Fmt) : Num :=
  match f with
  | .int8 => .of (sint b 8) 0
  | .uint8 => .of (b % 256 : Nat) 0
  | .int12 => .of (sint b 12) 0
  | .int16 => .of (sint b 16) 0
  | .int32 => .of (sint b 32) 0
  | _ =>
    let s := bit b (f.size - 1)
    let ex := bits b f.fbits f.ebits
    let fr := bits b 0 f.fbits
    let top := 2 ^ f.ebits - 1
    let sg : Int := if s then -1 else 1
    if (f = .e4m3 || f = .e4m3n) && ex = top && fr = 7 then .nan
    else if !(f = .e4m3 || f = .e4m3n) && ex = top then (if fr = 0 then .inf s else .nan)
    else if ex = 0 then (if fr = 0 then .zero s else .fin (sg * (fr : Int)) (f.emin - f.fbits))
    else .fin (sg * ((2 ^ f.fbits + fr : Nat) : Int)) (f.emin + ex - 1 - f.fbits)

/-- log2 of the quantum of an encoded value in its own format (R86). -/
def quantum (b : Nat) (f : Fmt) : Int :=
  if f.isInt then 0 else
  f.emin + (Nat.max (bits b f.fbits f.ebits) 1 : Nat) - 1 - f.fbits

/-- The encoding of an integer in an integer format; INT12 fills its container with sign copies (R79). -/
def encInt (f : Fmt) (x : Int) : Nat := ofInt f.size x

/-- The encoding of ±m · 2^e, a representable finite magnitude, in a float format. -/
def encFin (f : Fmt) (s : Bool) (m : Nat) (e : Int) : Nat :=
  let sb := if s then 2 ^ (f.size - 1) else 0
  if m = 0 then sb else
  let l := lg m e
  let shift (q : Int) : Nat := if q ≤ e then m * 2 ^ (e - q).toNat else m / 2 ^ (q - e).toNat
  if l < f.emin then sb + shift (f.emin - f.fbits)
  else sb + ((l - f.emin + 1).toNat) * 2 ^ f.fbits + (shift (l - f.fbits) - 2 ^ f.fbits)

/-- Infinity of a float format with a sign. -/
def encInf (f : Fmt) (s : Bool) : Nat := (if s then 2 ^ (f.size - 1) else 0) + (2 ^ f.ebits - 1) * 2 ^ f.fbits

/-! ### Rounding (R85–R87) -/

/-- The rounding modes of R85, by code. -/
inductive Rnd where
  | rne | rtz | rdn | rup | rna | sr | rto
  deriving DecidableEq, Repr

def Rnd.ofCode : Nat → Rnd
  | 0 => .rne | 1 => .rtz | 2 => .rdn | 3 => .rup | 4 => .rna | 5 => .sr | _ => .rto

/-- One step of the lane LFSR (R88). -/
def lfsrStep (x : W32) : W32 := if x.toNat % 2 = 1 then (x >>> 1) ^^^ 0x80200003#32 else x >>> 1

/-- The rounded magnitude of |m| · 2^e to multiples of 2^q (R86): n + up, in units of 2^q. `kk` is the number of discarded
bits that SR uses. -/
def roundMag (m : Nat) (e q : Int) (s : Bool) (rnd : Rnd) (kk : Int) (lfsr : W32) : Nat :=
  if q ≤ e then m * 2 ^ (e - q).toNat else
  let d := (q - e).toNat
  let n := m / 2 ^ d
  let r := m % 2 ^ d
  match rnd with
  | .rne => if 2 * r > 2 ^ d || (2 * r == 2 ^ d && n % 2 == 1) then n + 1 else n
  | .rtz => n
  | .rdn => if r > 0 && s then n + 1 else n
  | .rup => if r > 0 && !s then n + 1 else n
  | .rna => if 2 * r ≥ 2 ^ d then n + 1 else n
  | .rto => if r > 0 && n % 2 == 0 then n + 1 else n
  | .sr =>
    let k := (min 24 kk).toNat
    if r * 2 ^ k / 2 ^ d + lfsr.toNat % 2 ^ k ≥ 2 ^ k then n + 1 else n

/-- `round` of R86: the bits and the saturation flag. `qs` is log2 of x's quantum in its source format, none for the exact
result of arithmetic. The caller advances the LFSR (R87). -/
def round (x : Num) (f : Fmt) (rnd : Rnd) (lfsr : W32) (qs : Option Int) : Nat × Bool :=
  match x with
  | .nan => if f.isInt then (0, true) else (f.nan, false)
  | .zero s => if f.isInt then (0, false) else (encFin f s 0 0, false)
  | .inf s =>
    if f.isInt then (encInt f (if s then f.range.1 else f.range.2), true)
    else if f = .e4m3 then (encFin f s 7 6, true)
    else if f = .e4m3n then (f.nan, true)
    else (encInf f s, false)
  | .fin m e =>
    let s : Bool := m < 0
    let q : Int := if f.isInt then 0 else max (lg m e) f.emin - f.fbits
    let k := roundMag m.natAbs e q s rnd (match qs with | none => 24 | some a => q - a) lfsr
    if f.isInt then
      if !s && (k : Int) > f.range.2 then (encInt f f.range.2, true)
      else if s && -(k : Int) < f.range.1 then (encInt f f.range.1, true)
      else (encInt f (if s then -(k : Int) else k), false)
    else
      let t := align k q f.maxfin.1 f.maxfin.2
      if t.1 > t.2.1 then
        if f = .e4m3 then (encFin f s 7 6, true)
        else if f = .e4m3n then (f.nan, true)
        else if rnd = .rne || rnd = .rna || rnd = .sr || (rnd = .rup && !s) || (rnd = .rdn && s) then (encInf f s, false)
        else (encFin f s f.maxfin.1 f.maxfin.2, false)
      else (encFin f s k q, false)

/-- round(x, FP32, RNE, none) as a value (R93). -/
def rn32 (x : Num) : Num := val (round x .fp32 .rne 0 none).1 .fp32

/-- The FP32 word of a value, rounded RNE. -/
def w32 (x : Num) : W32 := BitVec.ofNat 32 (round x .fp32 .rne 0 none).1

/-- The value of an FP32 word. -/
def f32 (w : W32) : Num := val w.toNat .fp32

/-- An encoded value is subnormal in its format. -/
def isSub (b : Nat) (f : Fmt) : Bool := !f.isInt && bits b f.fbits f.ebits == 0 && bits b 0 f.fbits != 0

/-- Reading with FTZ (R91): a subnormal input is a zero of its sign. -/
def valZ (ftz : Bool) (b : Nat) (f : Fmt) : Num := if ftz && isSub b f then .zero (bit b (f.size - 1)) else val b f

/-- Flushing a rounded result (R91). -/
def flush (ftz : Bool) (b : Nat) (f : Fmt) : Nat := if ftz && isSub b f then b / 2 ^ (f.size - 1) * 2 ^ (f.size - 1) else b

/-- Clamping to a range (R89): the value and whether it was clamped. -/
def clamp (lo hi x : Int) : Int × Bool := if x > hi then (hi, true) else if x < lo then (lo, true) else (x, false)

/-- sat32 (R107). -/
def sat32 (x : Int) : Int := (clamp (-2 ^ 31) (2 ^ 31 - 1) x).1

/-- `csum` of R93. -/
def csum (hi lo p : Num) : Num × Num :=
  let v := hi.add false p
  let s := rn32 v
  if s.isNan || s.isInf then (s, .zero false) else (s, rn32 (lo.add false (v.sub false s)))

/-- `fade` of R92: the value and whether the fade counter of its lane steps (when FCE is held). -/
def fade (h : Num) (f : Nat) : Num × Bool :=
  match h with
  | .fin m e => if f != 0 && lg m e < -((f : Int) + 95) then (.zero (m < 0), true) else (h, false)
  | _ => (h, false)

/-- A complex value. -/
structure Cx where
  re : Num
  im : Num
  deriving DecidableEq, Repr

/-- One level of the pairwise tree of R104 (the list has an even length). -/
def pairUp (op : Num → Num → Num) : List Num → List Num
  | a :: b :: r => op a b :: pairUp op r
  | l => l

/-- The pairwise tree of R104 over a list filled to a power of two with `unit`; `fuel` bounds its levels. -/
def tree (op : Num → Num → Num) (fuel : Nat) (l : List Num) : Num :=
  match fuel, l with
  | _, [] => .zero true
  | _, [x] => x
  | 0, x :: _ => x
  | n + 1, l => tree op n (pairUp op l)

/-- The smallest power of two at or above n. -/
def pow2Above (n : Nat) : Nat := if n ≤ 1 then 1 else 2 ^ ((n - 1).log2 + 1)

/-- RED32 of R104 with an operation and its identity. -/
def red32 (op : Num → Num → Num) (unit : Num) (l : List Num) : Num :=
  tree op 32 (l ++ List.replicate (pow2Above l.length - l.length) unit)

/-- Rounded addition, the step of RED32 and RING32. -/
def addRn (a b : Num) : Num := rn32 (a.add false b)

end Sys2Proof.Machine
end

