-- ==== Sys2Proof/Machine/Mem.lean ====
section
/-!
DEFINITION. The named operations over memory, the PF registers and the cores of the package: one byte store for device
memory, scratchpads and host memory, poison by 64-byte unit (R144, R289, R304), sparse PF registers (R361), the core in
focus, and who holds what under the running TST entry (R363, R374).
-/

namespace Sys2Proof.Machine

/-! ### Bytes -/

/-- The byte at an address, by recursion over the list; an unlisted address reads 0. -/
def Memory.get (m : List Host.Cell) (a : Nat) : Byte := m.rec 0 (fun c _ below => bif Nat.beq a c.1 then c.2 else below)

/-- A cell put before the first of a greater address. -/
def Memory.insert (m : List Host.Cell) (a : Nat) (v : Byte) : List Host.Cell :=
  m.rec [(a, v)] (fun c r below => bif Nat.blt a c.1 then (a, v) :: c :: r else c :: below)

/-- The cells but that of an address. -/
def Memory.erase (m : List Host.Cell) (a : Nat) : List Host.Cell :=
  m.rec [] (fun c _ below => bif Nat.beq c.1 a then below else c :: below)

/-- The store with one byte written, in canonical form: ascending addresses, no byte 0 listed. -/
def Memory.set (m : List Host.Cell) (a : Nat) (v : Byte) : List Host.Cell :=
  bif Nat.beq v.toNat 0 then Memory.erase m a else Memory.insert (Memory.erase m a) a v

/-- The canonical form from a lower bound on. -/
def Memory.wfFrom (lo : Nat) (m : List Host.Cell) : Bool :=
  match m with
  | [] => true
  | (x, v) :: r => lo ≤ x && v != 0 && Memory.wfFrom (x + 1) r

/-- The canonical form of a byte store. -/
def Memory.wf (m : List Host.Cell) : Bool := Memory.wfFrom 0 m

/-- The bytes below an address bound and outside [a, a + n) are kept, those inside dropped (they read 0). -/
def Memory.clear (m : List Host.Cell) (a n : Nat) : List Host.Cell := m.filter (fun c => c.1 < a || a + n ≤ c.1)

/-- The byte at a physical address. -/
def State.byte (s : State) (a : Nat) : Byte := Memory.get s.mem a

/-- One byte written. -/
def State.setByte (s : State) (a : Nat) (v : Byte) : State := { s with mem := Memory.set s.mem a v }

/-- n bytes at an address, little-endian (R4). -/
def State.loadLE (s : State) (a n : Nat) : Nat :=
  match n with
  | 0 => 0
  | k + 1 => (s.byte a).toNat + 256 * s.loadLE (a + 1) k

/-- The low n bytes of v written at an address, little-endian (R4). -/
def State.storeLE (s : State) (a n v : Nat) : State :=
  match n with
  | 0 => s
  | k + 1 => (s.setByte a (BitVec.ofNat 8 v)).storeLE (a + 1) k (v / 256)

/-- The double at a physical address. -/
def State.load8 (s : State) (a : Nat) : W64 := BitVec.ofNat 64 (s.loadLE a 8)

/-- A double written. -/
def State.store8 (s : State) (a : Nat) (v : W64) : State := s.storeLE a 8 v.toNat

/-- The bytes [a, a + n), as a list. -/
def State.bytes (s : State) (a n : Nat) : List Byte := (List.range n).map (fun k => s.byte (a + k))

/-- Bytes as a little-endian number (R4). -/
def leNat (l : List Byte) : Nat :=
  match l with
  | [] => 0
  | b :: r => b.toNat + 256 * leNat r

/-- The low n bytes of a number, little-endian (R4). -/
def leBytes (n v : Nat) : List Byte := (List.range n).map (fun k => BitVec.ofNat 8 (v / 256 ^ k))

/-- A list of bytes written at an address. -/
def State.putBytes (s : State) (a : Nat) (l : List Byte) : State :=
  match l with
  | [] => s
  | b :: r => (s.setByte a b).putBytes (a + 1) r

/-! ### The unified physical address: devices, scratchpads, host -/

/-- Device byte w of frame DFN of KIND (R295): 0 HBM, 1 cold frame store. -/
def devPa (kind dfn w : Nat) : Nat := kind * 2 ^ 39 + dfn * 2 ^ 18 + w

/-- Byte o of the scratchpad of physical core p. -/
def spadPa (p o : Nat) : Nat := 2 ^ 40 + p * 2 ^ 22 + o

/-- Host byte at an IOVA (R400). -/
def hostPa (iova : Nat) : Nat := 2 ^ 48 + iova

/-- Host byte at an address of VF v's requester ID (R400). -/
def guestPa (v a : Nat) : Nat := (2 + v) * 2 ^ 48 + a

/-- A physical address lies in a scratchpad. -/
def isSpad (a : Nat) : Bool := 2 ^ 40 ≤ a && a < 2 ^ 48

/-- A physical address lies in HBM. -/
def isHbm (a : Nat) : Bool := a < 2 ^ 39

/-- A physical address lies in the cold frame store. -/
def isCold (a : Nat) : Bool := 2 ^ 39 ≤ a && a < 2 ^ 40

/-! ### Poison -/

/-- The 64-byte unit of an address is poisoned. -/
def State.poisoned (s : State) (a : Nat) : Bool := s.poison.contains (a / 64)

/-- The unit of an address loses its poison. -/
def State.unpoison (s : State) (a : Nat) : State := { s with poison := s.poison.filter (· != a / 64) }

/-- The unit of an address becomes poisoned. -/
def State.setPoison (s : State) (a : Nat) : State :=
  if s.poisoned a then s else { s with poison := (a / 64) :: s.poison }

/-- The first poisoned address among [a, a + n): the access's first byte in the first poisoned unit it touches. -/
def State.firstPoison (s : State) (a n : Nat) : Option Nat :=
  ((List.range ((a + n - 1) / 64 - a / 64 + 1)).map (fun k => a / 64 + k)).findSome? (fun u =>
    if s.poison.contains u then some (max a (64 * u)) else none)

/-- Bytes written at a physical address; every unit that the write covers whole loses its poison (R144). -/
def State.writeBytes (s : State) (a : Nat) (l : List Byte) : State :=
  let s := s.putBytes a l
  { s with poison := s.poison.filter (fun u => !(a ≤ 64 * u && 64 * u + 64 ≤ a + l.length)) }

/-- A unit set to zero and unpoisoned (R144). -/
def State.zeroUnit (s : State) (u : Nat) : State :=
  { s with mem := Memory.clear s.mem (64 * u) 64, poison := s.poison.filter (· != u) }

/-- The cells of a list of bytes from an address on: those that are not 0. -/
def cellsOf (a : Nat) (l : List Byte) : List Host.Cell :=
  match l with
  | [] => []
  | b :: r => bif Nat.beq b.toNat 0 then cellsOf (a + 1) r else (a, b) :: cellsOf (a + 1) r

/-- A block of bytes put into a byte store. -/
def Memory.putBlock (m : List Host.Cell) (a : Nat) (l : List Byte) : List Host.Cell :=
  m.filter (fun c => c.1 < a) ++ cellsOf a l ++ m.filter (fun c => a + l.length ≤ c.1)

/-- A block of bytes written at a physical address: units that it covers whole lose their poison. -/
def State.putBlock (s : State) (a : Nat) (l : List Byte) : State :=
  { s with mem := Memory.putBlock s.mem a l,
           poison := s.poison.filter (fun u => !(a ≤ 64 * u && 64 * u + 64 ≤ a + l.length)) }

/-! ### PF registers (R361, R362) -/

/-- The value of a register in a list of those written, by recursion over the list. -/
def pfLookup (l : List (Nat × W64)) (off : Nat) : W64 := l.rec (pfDefault off) (fun x _ below => bif Nat.beq x.1 off then x.2 else below)

/-- The stored double of a PF register. -/
def State.pfRaw (s : State) (off : Nat) : W64 := pfLookup s.pf off

/-- A list of written registers with one more written. -/
def setAssoc (l : List (Nat × W64)) (k : Nat) (v : W64) : List (Nat × W64) :=
  l.rec [(k, v)] (fun x r below => bif Nat.beq x.1 k then (k, v) :: r else x :: below)

/-- A PF register stored. -/
def State.setPf (s : State) (off : Nat) (v : W64) : State := { s with pf := setAssoc s.pf off v }

/-- Bits [lo + n − 1 : lo] of a PF register. -/
def State.pfBits (s : State) (off lo n : Nat) : Nat := bits (s.pfRaw off).toNat lo n

/-- A number with bits [lo + n − 1 : lo] replaced. -/
def putBits (x lo n v : Nat) : Nat := x - bits x lo n * 2 ^ lo + v % 2 ^ n * 2 ^ lo

/-- Bits [lo + n − 1 : lo] of a PF register replaced. -/
def State.setPfBits (s : State) (off lo n v : Nat) : State :=
  s.setPf off (BitVec.ofNat 64 (putBits (s.pfRaw off).toNat lo n v))

/-- A counter in a PF register raised by k. -/
def State.addPf (s : State) (off k : Nat) : State := s.setPf off (s.pfRaw off + BitVec.ofNat 64 k)

/-- Offset of a register of a VF block (R375). -/
def vfReg (v off : Nat) : Nat := 0x80000 + 512 * v + off

/-- Offset of a register of a partition block (R374). -/
def partReg (q off : Nat) : Nat := 0x30000 + 256 * q + off

/-- A VF accepts submissions: EN (R375). -/
def State.vfEn (s : State) (v : Nat) : Bool := s.pfBits (vfReg v 0) 0 1 == 1
/-- STOPPING and STOPPED of a VF (R377). -/
def State.vfStopping (s : State) (v : Nat) : Bool := s.pfBits (vfReg v 8) 2 1 == 1
def State.vfStopped (s : State) (v : Nat) : Bool := s.pfBits (vfReg v 8) 3 1 == 1
/-- PART of a VF. -/
def State.vfPart (s : State) (v : Nat) : Nat := s.pfBits (vfReg v 0x10) 0 5

/-- Accepted features are in force from LOCK on (R412). -/
def State.locked (s : State) : Bool := s.pfBits 0x40 63 1 == 1

/-- Feature bit i is accepted and in force (R411). -/
def State.feature (s : State) (i : Nat) : Bool := s.locked && s.pfBits 0x20 i 1 == 1

/-! ### Cores -/

/-- Physical core p. -/
def State.coreAt (s : State) (p : Nat) : Core :=
  if p = s.cur then s.core else
  match s.others.find? (fun x => x.1 == p) with
  | some x => x.2
  | none => .reset

/-- Physical core p replaced. -/
def State.setCoreAt (s : State) (p : Nat) (c : Core) : State :=
  if p = s.cur then { s with core := c }
  else { s with others := (p, c) :: s.others.filter (fun x => x.1 != p) }

/-- Physical core p comes into focus. -/
def State.focus (s : State) (p : Nat) : State :=
  if p = s.cur then s
  else { s with core := s.coreAt p, cur := p, others := (s.cur, s.core) :: s.others.filter (fun x => x.1 != p) }

/-- The core in focus changed. -/
def State.upd (s : State) (f : Core → Core) : State := { s with core := f s.core }

/-- Physical core p changed. -/
def State.updAt (s : State) (p : Nat) (f : Core → Core) : State := s.setCoreAt p (f (s.coreAt p))

/-- An operation of the focused core carried out for physical core p. -/
def State.withCore (s : State) (p : Nat) (f : State → State) : State := (f (s.focus p)).focus s.cur

/-- The event flag of a core set (R137). -/
def State.setEvent (s : State) (p : Nat) : State := s.updAt p (fun c => { c with ev := true })

/-! ### The running TST entry, partitions and logical numbers (R363, R372, R374, R410) -/

/-- A byte of entry e of a TST table (`base` 0x28000 active, 0x20000 shadow). -/
def State.tstByte (s : State) (base e off : Nat) : Nat := s.pfBits (base + 1024 * e + off / 8 * 8) (8 * (off % 8)) 8

/-- The partition an owner byte names (R363). -/
def ownerOf (b : Nat) : Option Nat := if bit b 5 then none else some (b % 32)

/-- The beneficiary of a donation by partition d in the running entry (R372): none when BENEF is NONE or d itself. -/
def State.benef (s : State) (d : Nat) : Option Nat :=
  match ownerOf (s.tstByte 0x28000 s.tst.ent 8 % 64) with
  | some b => if b = d then none else some b
  | none => none

/-- The holder of a grant byte of the running entry, after any donation (R372). -/
def State.holder (s : State) (off : Nat) : Option Nat :=
  let o := ownerOf (s.tstByte 0x28000 s.tst.ent off)
  match o with
  | some q => if s.tst.passed.any (fun x => x.1.toNat == q) then s.benef q else o
  | none => none

/-- The partition that holds physical core p. -/
def State.coreHolder (s : State) (p : Nat) : Option Nat := s.holder (16 + p)

/-- Enabled cores of the package (R409). -/
def State.ncores (s : State) : Nat := s.pfBits 0x58 0 7

/-- Byte n of the L2P table (R409). -/
def State.l2pByte (s : State) (n : Nat) : Nat := s.pfBits (0x60 + n / 8 * 8) (8 * (n % 8)) 8

/-- Physical cores in ascending package logical number. -/
def State.l2p (s : State) : List Nat := (List.range s.ncores).map s.l2pByte

/-- Physical cores of partition q in ascending logical number (R374). -/
def State.partCores (s : State) (q : Nat) : List Nat := s.l2p.filter (fun p => s.coreHolder p == some q)

/-- NCORE: the enabled count of R42. -/
def State.ncore (s : State) (q : Nat) : Nat := (s.partCores q).length

/-- Package logical number of physical core p (R409): its place in the L2P table. -/
def State.pkgLog (s : State) (p : Nat) : Nat := s.l2p.idxOf p

/-- Logical number of physical core p within partition q. -/
def State.logIn (s : State) (q p : Nat) : Nat := (s.partCores q).idxOf p

/-- The partition of the focused core. -/
def State.part (s : State) : Nat := s.core.part.toNat

/-- The logical number, within its partition, of the focused core. -/
def State.self (s : State) : Nat := s.logIn s.part s.cur

/-- The context of the focused core: that of the running record, or the resident one. -/
def State.vf (s : State) : BitVec 9 :=
  match s.core.work with
  | some r => r.vf
  | none => s.core.resident.getD 0

/-! ### Free values -/

/-- The next free word and the state that has drawn it. -/
def State.draw (s : State) : W64 × State := (Config.freeWord s.free, { s with free := s.free + 1 })

end Sys2Proof.Machine
end

