-- ==== Sys2Proof/Machine/Llc.lean ====
section
/-!
DEFINITION. The compressed LLC (R298–R303), the cause table (R381–R383), the poison log (R345), dirty tracking (R379) and
the unmapping of leaf entries (R384): what an access to device memory does beside moving bytes. Memory
holds the contents of every line raw; beside them the LLC holds which superblocks lie in which ways, for whom, how old, and
with which encoded sectors.
-/

namespace Sys2Proof.Machine

/-! ### Line modes (R299, R300) -/

/-- Word i of the 64-byte line at a. -/
def lineWord (s : State) (a i : Nat) : Nat := s.loadLE (a + 4 * i) 4

/-- Mode code and sectors of the line at a, a multiple of 64 (R299, R300). Without feature 0 only ZERO, POISON and RAW
are chosen (R411). -/
def lineMode (s : State) (a : Nat) : Nat × Nat :=
  if s.poisoned a then (6, 0) else
  let ws := (List.range 16).map (lineWord s a)
  let w0 := ws.headD 0
  let n := (ws.filter (· != 0)).length
  let delta (w : Nat) : Int := sint ((w + 2 ^ 32 - w0) % 2 ^ 32) 32
  if n = 0 then (0, 0)
  else if !s.feature 0 then (5, 4)
  else
    let rep : List (Nat × Nat) := if ws.all (· == w0) then [(1, 1)] else []
    let bd8 : List (Nat × Nat) := if ws.all (fun w => -128 ≤ delta w && delta w ≤ 127) then [(2, 2)] else []
    let zr : List (Nat × Nat) := if n ≤ 11 then [(3, ceilDiv (2 + 4 * n) 16)] else []
    let bd16 : List (Nat × Nat) := if ws.all (fun w => -32768 ≤ delta w && delta w ≤ 32767) then [(4, 3)] else []
    (rep ++ bd8 ++ zr ++ bd16).foldl (fun best c => if c.2 < best.2 || (c.2 == best.2 && c.1 < best.1) then c else best) (5, 4)

/-- Fields of n bits each, the first lowest. -/
def leBits (n : Nat) (l : List Nat) : Nat :=
  match l with
  | [] => 0
  | x :: r => x + 2 ^ n * leBits n r

/-- Bytes filled with zeros to whole sectors of 16 bytes (R299). -/
def toSectors (l : List Byte) : List Byte := l ++ List.replicate ((16 - l.length % 16) % 16) 0

/-- The bytes of a line's sectors in a mode, from its sixteen words (R299). -/
def encodeLine (mode : Nat) (ws : List Nat) : List Byte :=
  let w0 := ws.headD 0
  let delta (w : Nat) : Nat := w + 2 ^ 32 - w0
  match mode with
  | 1 => toSectors (leBytes 4 w0)
  | 2 => toSectors (leBytes 4 w0 ++ ws.flatMap (fun w => leBytes 1 (delta w)))
  | 3 => toSectors (leBytes 2 (leBits 1 (ws.map (fun w => b2n (w != 0)))) ++ (ws.filter (· != 0)).flatMap (leBytes 4))
  | 4 => toSectors (leBytes 4 w0 ++ ws.flatMap (fun w => leBytes 2 (delta w)))
  | 5 => ws.flatMap (leBytes 4)
  | _ => []

/-- The lines of a superblock packed in index order (R300): MODE and OFF of each, and the sectors. -/
def packLines (s : State) (sb : Nat) : List (Nat × Nat) × List Byte :=
  (List.range 4).foldl (fun r i =>
    let a := 256 * sb + 64 * i
    let m := (lineMode s a).1
    (r.1 ++ [(m, r.2.length / 16)], r.2 ++ encodeLine m ((List.range 16).map (lineWord s a)))) ([], [])

/-- Sectors of the superblock with address `sb` · 256 (R301). -/
def sbSectors (s : State) (sb : Nat) : Nat := (packLines s sb).2.length / 16

/-- The tag word of the way, or of the primary way of the pair, that holds a superblock (R298). -/
def LlcSb.tagWord (b : LlcSb) : W64 :=
  let lines := leBits 7 (b.lines.map (fun x => 16 * x.1 + x.2))
  BitVec.ofNat 64 (bits (256 * b.sb) 22 14 * 2 ^ 50 + b.ctx.toNat * 2 ^ 35 + 2 ^ 34 + b2n b.dirty * 2 ^ 32 +
    b.pair.getD 0 * 2 ^ 28 + lines)

/-- The tag word of a pair's extension (R298): V, EXT and PARTNER; the primary holds everything else. -/
def LlcSb.extWord (b : LlcSb) : W64 := BitVec.ofNat 64 (2 ^ 34 + 2 ^ 33 + b.way * 2 ^ 28)

/-! ### Sets, ways and events -/

/-- Stack of an HBM address, which is its home sector (R291). -/
def stackOf (a : Nat) : Nat := a / 2 ^ 36 % 8

/-- Die of a sector. -/
def dieOf (sector : Nat) : Nat := if sector < 3 then 0 else 1

/-- Sector, slice and set of a superblock (R291), as one number. -/
def setOf (sb : Nat) : Nat :=
  let a := 256 * sb % 2 ^ 36
  (stackOf (256 * sb) * 8 + (bits a 8 3 ^^^ bits a 22 3)) * 2048 + bits a 11 11

/-- A superblock occupies way g. -/
def LlcSb.has (b : LlcSb) (g : Nat) : Bool := b.way == g || b.pair == some g

/-- The ways of the sets of a die that partition q owns and that have been cleaned (R301, R370). -/
def ownedWays (s : State) (die q : Nat) : List Nat :=
  (List.range 16).filter (fun g => s.holder (96 + 16 * die + g) == some q && !s.tst.cleaning.contains (100 + 16 * die + g))

/-- Ways used by a context over the package (R303). -/
def waysUsed (l : List LlcSb) (ctx : BitVec 9) : Nat :=
  (l.map (fun b => if b.ctx = ctx then (if b.pair.isSome then 2 else 1) else 0)).foldl (· + ·) 0

/-- The events of a context counted up. -/
def bumpEv (l : List LlcEvents) (ctx : BitVec 9) (e v k : Nat) : List LlcEvents :=
  let z : LlcEvents := (l.find? (fun x => x.ctx == ctx)).getD ⟨ctx, 0, 0, 0⟩
  ⟨ctx, z.expansions + BitVec.ofNat 64 e, z.evictions + BitVec.ofNat 64 v, z.soft + BitVec.ofNat 64 k⟩ ::
    l.filter (fun x => x.ctx != ctx)

/-- The least recently used of a list of superblocks. -/
def lru (l : List LlcSb) : Option LlcSb :=
  l.foldl (fun best b => match best with
    | none => some b
    | some x => if b.age < x.age then some b else best) none

/-- The choice of a way (R301): the way, the superblocks left, whether one was evicted, and whether the soft limit chose. -/
structure WayPick where
  way : Nat
  left : List LlcSb
  evicted : Bool
  soft : Bool

/-- R301's choice among the ways `cand` of set `st`, for context ctx; `past` says that its ways pass its soft limit. -/
def pickWay (l : List LlcSb) (st : Nat) (cand : List Nat) (ctx : BitVec 9) (past : Bool) : Option WayPick :=
  let here := l.filter (fun b => setOf b.sb == st)
  match cand.find? (fun g => here.all (fun b => !b.has g)) with
  | some g => some ⟨g, l, false, false⟩
  | none =>
    let inCand := here.filter (fun b => cand.any b.has)
    let mine := inCand.filter (fun b => b.ctx == ctx)
    let soft := past && !mine.isEmpty
    match lru (if soft then mine else inCand) with
    | none => none
    | some b =>
      match cand.find? b.has with
      | none => none
      | some g => some ⟨g, l.filter (fun x => x.sb != b.sb), true, soft⟩

/-- A fill of superblock sb for context ctx of partition q (R301): the list with it, or unchanged where it is not filled. -/
def llcFill (s : State) (sb q : Nat) (ctx : BitVec 9) (l : List LlcSb) (ev : List LlcEvents) (age : Nat) :
    List LlcSb × List LlcEvents :=
  let sector := stackOf (256 * sb)
  let ways := ownedWays s (dieOf sector) q
  if ways.isEmpty then (l, ev) else
  let p := packLines s sb
  let need := if p.2.length ≤ 128 then 1 else 2
  if ways.length < need then (l, ev) else
  let lim := s.pfBits (vfReg ctx.toNat 0x28) 0 16
  match pickWay l (setOf sb) ways ctx (waysUsed l ctx > lim) with
  | none => (l, ev)
  | some w1 =>
    let ev := if w1.soft then bumpEv ev ctx 0 0 1 else ev
    if need = 1 then (⟨sector, sb, w1.way, none, ctx, false, age, p.1, p.2⟩ :: w1.left, ev)
    else match pickWay w1.left (setOf sb) (ways.filter (· != w1.way)) ctx (waysUsed w1.left ctx > lim) with
      | none => (l, ev)
      | some w2 =>
        (⟨sector, sb, w1.way, some w2.way, ctx, false, age, p.1, p.2⟩ :: w2.left, if w2.soft then bumpEv ev ctx 0 0 1 else ev)

/-- A held superblock after a write (R302): re-encoded in its way or pair, compacted, expanded, or written back where no way is
found. -/
def llcRewrite (s : State) (b : LlcSb) (q : Nat) (ctx : BitVec 9) (l : List LlcSb) (ev : List LlcEvents) (age : Nat) :
    List LlcSb × List LlcEvents :=
  let rest := l.filter (fun x => x.sb != b.sb)
  let p := packLines s b.sb
  let b' := { b with dirty := true, age := age, lines := p.1, data := p.2 }
  if p.2.length ≤ 128 then ({ b' with pair := none } :: rest, ev)
  else match b.pair with
    | some _ => (b' :: rest, ev)
    | none =>
      let ways := (ownedWays s (dieOf b.sector) q).filter (· != b.way)
      let lim := s.pfBits (vfReg ctx.toNat 0x28) 0 16
      match pickWay rest (setOf b.sb) ways ctx (waysUsed l ctx > lim) with
      | none => (rest, bumpEv ev ctx 0 1 0)
      | some w =>
        ({ b' with pair := some w.way } :: w.left, bumpEv ev ctx 1 (b2n w.evicted) (b2n w.soft))

/-- What an access of the focused core to an HBM address sends over a sector link (R291, R392): nothing within the home sector,
else a request, which an answer follows. -/
def State.linkTraffic (s : State) (a q : Nat) : List LinkFlit :=
  if s.cur / 12 = stackOf a then [] else [⟨s.cur / 12, stackOf a, BitVec.ofNat 5 q, true, none⟩]

/-- The superblock of an HBM address is used by context ctx of partition q: filled on a miss (R301); `write` says that a write
to it is in memory, after which it is re-encoded where it is held (R302). A write fills first, so that a miss holds the
contents from before it. -/
def State.llcTouch (s : State) (a q : Nat) (ctx : BitVec 9) (write : Bool) : State :=
  if !isHbm a then s else
  let sb := a / 256
  let age := s.llcClock + 1
  let r := match s.llc.find? (fun b => b.sb == sb) with
    | some b =>
      if write then llcRewrite s b q ctx s.llc s.llcEv age
      else ({ b with age := age } :: s.llc.filter (fun x => x.sb != sb), s.llcEv)
    | none => if write then (s.llc, s.llcEv) else llcFill s sb q ctx s.llc s.llcEv age
  { s with llc := r.1, llcEv := r.2, llcClock := age, linkq := s.linkq ++ (if write then [] else s.linkTraffic a q) }

/-- Every superblock of [a, a + n) used. -/
def State.llcTouchAll (s : State) (a n q : Nat) (ctx : BitVec 9) (write : Bool) : State :=
  (List.range ((a + n - 1) / 256 - a / 256 + 1)).foldl (fun s k => s.llcTouch (a / 256 * 256 + 256 * k) q ctx write) s

/-- A counter of R37 for a context. -/
def llcCounter (s : State) (ctx : BitVec 9) (sel : Nat) : W64 :=
  let mine := s.llc.filter (fun b => b.ctx == ctx)
  let e : LlcEvents := (s.llcEv.find? (fun x => x.ctx == ctx)).getD ⟨ctx, 0, 0, 0⟩
  let lines (m : Nat) : Nat :=
    (mine.map (fun b => (b.lines.filter (fun x => x.1 == m)).length)).foldl (· + ·) 0
  if sel = 0 then BitVec.ofNat 64 (waysUsed s.llc ctx)
  else if sel = 1 then BitVec.ofNat 64 (mine.filter (fun b => b.pair.isNone)).length
  else if sel = 2 then BitVec.ofNat 64 (mine.filter (fun b => b.pair.isSome)).length
  else if sel ≤ 9 then BitVec.ofNat 64 (lines (sel - 3))
  else if sel = 10 then e.expansions
  else if sel = 11 then e.evictions
  else if sel = 12 then e.soft
  else 0

/-! ### The cause table (R381–R383) -/

/-- Double 0 of a cause-table entry (R381). -/
def causeWord (kind eng vf part core code sub : Nat) : W64 :=
  BitVec.ofNat 64 (kind % 4 * 2 ^ 62 + eng % 8 * 2 ^ 59 + vf % 512 * 2 ^ 50 + part % 32 * 2 ^ 45 + core % 256 * 2 ^ 37 +
    code % 65536 * 2 ^ 16 + sub % 65536)

/-- An event recorded in the cause table (R383): the entry, the write index, the MSI-X message; or one more lost. -/
def State.causeEntry (s : State) (kind eng vf part core code sub : Nat) (detail : W64) : State :=
  let w := s.pfBits 0x110 0 32
  if (w + 2 ^ 32 - s.pfBits 0x118 0 32) % 2 ^ 32 < 4096 then
    let i := 0x10000 + 16 * (w % 4096)
    let s := ((s.setPf i (causeWord kind eng vf part core code sub)).setPf (i + 8) detail).setPf 0x110
      (BitVec.ofNat 64 ((w + 1) % 2 ^ 32))
    { s with msix := s.msix ++ [if kind = 3 then 0 else s.pfBits (partReg part 0x40) 0 6] }
  else s.setPf 0x120 (BitVec.ofNat 64 ((s.pfBits 0x120 0 32 + 1) % 2 ^ 32))

/-! ### Writes to device memory -/

/-- The second-stage roots in use: those of the VF blocks, and 0 (R375). -/
def State.roots (s : State) : List Nat :=
  0 :: (s.pf.filter (fun x => 0x80000 ≤ x.1 && (x.1 - 0x80000) % 512 == 0x30)).map (fun x => x.2.toNat % 2 ^ 48)

/-- The device address lies in a leaf that a valid root entry names (R295). -/
def State.inLeaf (s : State) (a : Nat) : Bool :=
  s.roots.any (fun r => s.mem.any (fun c => r ≤ c.1 && c.1 < r + 2 ^ 19 && c.1 % 8 == 7 && c.2.toNat ≥ 128 &&
    (s.load8 (c.1 - 7)).toNat % 2 ^ 48 == a / 2 ^ 17 * 2 ^ 17))

/-- The frame that replacing the leaf entry `old` by `new` unmaps, as SCRUB_PUSH writes it (R384). -/
def unmapped (old new : W64) : Option W64 :=
  let o := old.toNat
  let n := new.toNat
  if bit o 63 && (!bit n 63 || bits o 0 21 != bits n 0 21 || bit o 62 != bit n 62) then
    some (BitVec.ofNat 64 (b2n (bit o 62) * 2 ^ 63 + bits o 0 21))
  else none

/-- The frames that a write of [a, a + n) from s to t unmaps, where it changes leaf entries (R384): among the doubles of s whose
VALID is set. -/
def State.leafPushes (s t : State) (a n : Nat) : List W64 :=
  let past := a / 8 * 8 + 8 * ((a % 8 + n + 7) / 8)
  (s.mem.filter (fun c => a / 8 * 8 ≤ c.1 && c.1 < past && c.1 % 8 == 7 && decide (128 ≤ c.2.toNat))).filterMap (fun c =>
    let d := c.1 - 7
    match unmapped (s.load8 d) (t.load8 d) with
    | some x => if s.inLeaf d then some x else none
    | none => none)

/-- The superblocks of [a, a + n) that the LLC holds after a change there by context ctx of partition q (R300, R302). -/
def State.llcWrites (s : State) (a n q : Nat) (ctx : BitVec 9) : State :=
  (s.llc.filter (fun b => 256 * b.sb < a + n && a < 256 * b.sb + 256)).foldl (fun t b => t.llcTouch (256 * b.sb) q ctx true) s

/-- What a write of the hardware's own to [a, a + n), from s to t, does beside moving bytes: the frames that it unmaps, the superblocks
that are held. It fills none (log entry 111). -/
def State.hwAfter (s t : State) (a n q : Nat) (ctx : BitVec 9) : State :=
  { t with scrubq := t.scrubq ++ s.leafPushes t a n }.llcWrites a n q ctx

/-- Bytes that the hardware stores on behalf of context ctx of partition q. -/
def State.hwWriteFor (s : State) (q : Nat) (ctx : BitVec 9) (a : Nat) (l : List Byte) : State :=
  s.hwAfter (s.writeBytes a l) a l.length q ctx

/-- A block of bytes that the hardware streams to device memory on behalf of context ctx of partition q. -/
def State.hwBlock (s : State) (q : Nat) (ctx : BitVec 9) (a : Nat) (l : List Byte) : State :=
  s.hwAfter (s.putBlock a l) a l.length q ctx

/-- Bytes written to device memory by an agent: memory, then the frame a leaf write unmaps, the LLC, the core's L1 (R145). -/
def State.devWrite (s : State) (a q : Nat) (ctx : BitVec 9) (l : List Byte) : State :=
  let s0 := s.llcTouchAll a l.length q ctx false
  let s1 := s0.writeBytes a l
  let s2 := { s1 with scrubq := s1.scrubq ++ s.leafPushes s1 a l.length }
  let s3 := s2.llcTouchAll a l.length q ctx true
  { s3 with core := { s3.core with l1 := s3.core.l1.filter (fun x => !(a / 64 ≤ x && x ≤ (a + l.length - 1) / 64)) } }

/-- A store that the hardware makes for the focused core; the core's L1 keeps no older copy. -/
def State.hwWrite (s : State) (a : Nat) (l : List Byte) : State :=
  let t := s.hwWriteFor s.part s.vf a l
  { t with core := { t.core with l1 := t.core.l1.filter (fun x => !(a / 64 ≤ x && x ≤ (a + l.length - 1) / 64)) } }

/-- A double that the hardware stores for the focused core. -/
def State.hwStore8 (s : State) (a : Nat) (v : W64) : State := s.hwWrite a (leBytes 8 v.toNat)

/-- A leaf write in an operation that goes from s to t finds the scrub queue full (R384): t holds more frames than the queue has room
for; an operation that unmaps more than 256 frames waits for an empty queue. -/
def State.scrubWaits (s t : State) : Bool := !(t.scrubq.length ≤ max 256 s.scrubq.length || s.scrubq.isEmpty)

/-- An operation that goes from s to t is not made yet while a leaf write in it waits. -/
def State.scrubGuard (s t : State) : State := if s.scrubWaits t then s else t

/-- Dirty tracking of a write that passed VF v's second stage at guest frame gfn (R379). The current bitmap is the one that
SEQ's parity names. -/
def State.markDirty (s : State) (v gfn : Nat) : State :=
  let r := vfReg v 0x68
  if s.pfBits r 0 1 = 0 then s
  else
    let lg := s.pfBits r 8 5
    if gfn ≥ 2 ^ lg then s.setPfBits r 2 1 1
    else
      let a := s.pfBits (vfReg v 0x60) 0 48 + s.pfBits r 32 32 % 2 * 2 ^ (lg - 3) + gfn / 8
      s.hwWrite a [s.byte a ||| BitVec.ofNat 8 (2 ^ (gfn % 8))]

/-! ### The poison log (R345) -/

/-- log2 of the record count in use (R345). -/
def State.plogSize (s : State) (q : Nat) : Nat := min 20 (max 8 (s.pfBits (partReg q 0x50) 0 5))

/-- One record of the poison log of the focused core's partition for the unit of physical address a, whose first byte has
global address ga where a tensor holds it (R345): `kind` 1 says that the unit was zeroed before a write, `eng` and `seq` name the
sequencer and entry. -/
def State.poisonLog (s : State) (kind eng a ga : Nat) (seq : W32) : State :=
  let q := s.part
  let w := s.pfBits (partReg q 0x58) 0 32
  let n := 2 ^ s.plogSize q
  if (w + 2 ^ 32 - s.pfBits (partReg q 0x60) 0 32) % 2 ^ 32 = n then
    s.setPf (partReg q 0x68) (BitVec.ofNat 64 ((s.pfBits (partReg q 0x68) 0 32 + 1) % 2 ^ 32))
  else
    let space := if isSpad a then 0 else if isHbm a then 1 else 2
    let addr := if isSpad a then (0xE00 + s.logIn q ((a - 2 ^ 40) / 2 ^ 22)) * 2 ^ 36 + a / 64 * 64 % 2 ^ 22 else ga
    let d0 := space * 2 ^ 62 + kind * 2 ^ 61 + eng * 2 ^ 58 + addr % 2 ^ 48
    let d1 := s.vf.toNat * 2 ^ 55 + q * 2 ^ 50 + s.self % 256 * 2 ^ 42 + seq.toNat
    let base := s.pfBits (partReg q 0x48) 0 48 + 16 * (w % n)
    ((s.hwStore8 base (BitVec.ofNat 64 d0)).hwStore8 (base + 8) (BitVec.ofNat 64 d1)).setPf (partReg q 0x58)
      (BitVec.ofNat 64 ((w + 1) % 2 ^ 32))

/-- A frame is scrub-pending (R385). -/
def State.scrubbing (s : State) (kind dfn : Nat) : Bool :=
  s.scrubq.contains (BitVec.ofNat 64 (kind * 2 ^ 63 + dfn))

end Sys2Proof.Machine
end

