-- ==== Sys2Proof/Machine/Translate.lean ====
section
/-!
DEFINITION. Translation (R42, R292–R297, R337, R361): descriptor tables, the layout unit, tile tables, the second stage,
the order of the checks of R296, and the regimes of the four levels.
-/

namespace Sys2Proof.Machine

/-! ### Regimes (R337) -/

/-- Whose tables an access uses: the descriptor table, the VF whose second stage applies, the level. -/
structure Regime where
  table : Nat
  s2 : Option (BitVec 9)
  pl : Nat
  deriving DecidableEq, Repr

/-- The regime of code at a level on the focused core (R337): PL0 uses the launch's table, PL1 the runtime's, PL2 and PL3
have no second stage. -/
def State.regime (s : State) (pl : Nat) : Regime :=
  match pl with
  | 0 => ⟨(match s.core.work with
      | some r => r.ttab.toNat
      | none => 0), some s.vf, 0⟩
  | 1 => ⟨s.pfBits (vfReg s.vf.toNat 0x40) 0 48, some s.vf, 1⟩
  | 2 => ⟨s.pfBits 0x148 0 48, none, 2⟩
  | _ => ⟨Config.monitorTable.toNat, none, 3⟩

/-! ### The second stage (R295) -/

/-- A device frame number is in range (R291, R295). -/
def dfnInRange (kind dfn : Nat) : Bool :=
  if kind = 0 then decide (dfn / 2 ^ 18 ≤ 5 && dfn % 2 ^ 18 ≤ 183104) else decide (dfn ≤ 1953124)

/-- A frame is one of the control frames of R361. -/
def isControl (kind dfn : Nat) : Bool := kind = 0 && 183040 ≤ dfn && dfn ≤ 183103

/-- A frame that translation may name: in range, no control frame, not scrub-pending (R385), its kind accepted (R411), and
in minimal mode on stack 0 (R413). -/
def State.frameOk (s : State) (kind dfn : Nat) : Bool :=
  dfnInRange kind dfn && !isControl kind dfn && !s.scrubbing kind dfn && (kind == 0 || s.feature 4) &&
  !(kind == 0 && s.boot.minimal && dfn / 2 ^ 18 != 0)

/-- A walk of the second stage of a VF (R295): KIND and DFN of a guest frame, nothing where root or leaf is not valid, and
a poisoned line it read. -/
def State.stage2 (s : State) (v : BitVec 9) (gfn : Nat) : Except Unit (Option (Nat × Nat)) :=
  let ra := s.pfBits (vfReg v.toNat 0x30) 0 48 + 8 * (gfn / 2 ^ 14 % 2 ^ 16)
  if s.poisoned ra then .error () else
  let r := (s.load8 ra).toNat
  if !bit r 63 then .ok none else
  let la := bits r 0 48 + 8 * (gfn % 2 ^ 14)
  if s.poisoned la then .error () else
  let l := (s.load8 la).toNat
  if !bit l 63 then .ok none else
  let kind := b2n (bit l 62)
  let dfn := bits l 0 21
  if s.frameOk kind dfn then .ok (some (kind, dfn)) else .ok none

/-- A trap of R296: the global address and the two flags of EVAL. -/
def trAt (c : Cause) (f63 : Bool) (a : Nat) : Trap := ⟨c, BitVec.ofNat 64 (b2n f63 * 2 ^ 63 + a % 2 ^ 48)⟩

/-- A double of a table read at a guest-physical address (R296): through the second stage where the regime has one. A
poisoned line raises MEM_POISON for the access at ga. -/
def State.walkRead (s : State) (r : Regime) (ga gpa : Nat) : Except Trap W64 :=
  match r.s2 with
  | none => if s.poisoned gpa then .error (trAt .memPoison false ga) else .ok (s.load8 gpa)
  | some v =>
    match s.stage2 v (gpa / 2 ^ 18) with
    | .error () => .error (trAt .memPoison false ga)
    | .ok (some (0, dfn)) =>
      let a := devPa 0 dfn (gpa % 2 ^ 18)
      if s.poisoned a then .error (trAt .memPoison false ga) else .ok (s.load8 a)
    | .ok _ => .error ⟨.translation, BitVec.ofNat 64 (2 ^ 63 + 2 ^ 62 + gpa % 2 ^ 48)⟩

/-! ### Descriptors (R292) -/

/-- A tensor descriptor. -/
structure TDesc where
  ttp : Nat
  zero : Bool
  typ : Nat
  rank : Nat
  layout : Nat
  kind : Nat
  taken : Bool
  owner : Nat
  ext : List Nat
  text : List Nat
  deriving DecidableEq, Repr

/-- A descriptor from its doubles 0 to 6. -/
def TDesc.of (d : List Nat) : TDesc :=
  let g (k : Nat) : Nat := d.getD k 0
  { ttp := bits (g 0) 0 48, zero := bit (g 1) 32, typ := bits (g 1) 28 4, rank := bits (g 1) 25 3,
    layout := bits (g 1) 23 2, kind := bits (g 1) 16 2, taken := bit (g 1) 15, owner := bits (g 1) 0 8,
    ext := [bits (g 2) 0 32, bits (g 2) 32 32, bits (g 3) 0 32, bits (g 3) 32 32, bits (g 4) 0 32, bits (g 4) 32 32],
    text := [bits (g 5) 0 20, bits (g 5) 20 20, bits (g 5) 40 20, bits (g 6) 0 20, bits (g 6) 20 20, bits (g 6) 40 20] }

/-- A product of naturals. -/
def prod (l : List Nat) : Nat := l.foldl (· * ·) 1

/-- Bytes of an element. -/
def TDesc.e (t : TDesc) : Nat := typeBytes t.typ

/-- Bytes that the extents span (FLAT). -/
def TDesc.span (t : TDesc) : Nat := prod (t.ext.take t.rank) * t.e

/-- Bytes of a tile that hold elements. -/
def TDesc.tileSpan (t : TDesc) : Nat := if t.layout = 0 then 2 ^ 18 else prod (t.text.take t.rank) * t.e

/-- Tiles of each dimension. -/
def TDesc.tilesOf (t : TDesc) : List Nat :=
  (List.range t.rank).map (fun j => ceilDiv (t.ext.getD j 0) (t.text.getD j 1))

/-- The tile count. -/
def TDesc.tiles (t : TDesc) : Nat := if t.layout = 0 then ceilDiv t.span (2 ^ 18) else prod t.tilesOf

/-- A valid descriptor (R292). -/
def TDesc.valid (t : TDesc) : Bool :=
  decide (t.typ ≤ 13) && decide (1 ≤ t.rank && t.rank ≤ 6) &&
  (t.ext.take t.rank).all (· ≥ 1) && (t.ext.drop t.rank).all (· == 0) &&
  (if t.layout = 0 then t.text.all (· == 0) && decide (t.span ≤ 2 ^ 36)
   else (t.text.take t.rank).all (· ≥ 1) && (t.text.drop t.rank).all (· == 0) &&
     (if t.typ = 13 then decide (prod (t.text.take t.rank) * 3 ≤ 2 ^ 18) && t.text.headD 0 % 8 == 0
      else prod (t.text.take t.rank) * t.e == 2 ^ 18)) &&
  (t.typ != 13 || t.ext.headD 0 % 8 == 0) && decide (t.tiles ≤ 2 ^ 18)

/-- The descriptor of a tid (R292), or the trap of step 1 of R296 for the access at ga. -/
def State.descriptor (s : State) (r : Regime) (ga tid : Nat) : Except Trap TDesc := do
  let a := r.table + 64 * tid
  let d0 ← s.walkRead r ga a
  let d1 ← s.walkRead r ga (a + 8)
  let d2 ← s.walkRead r ga (a + 16)
  let d3 ← s.walkRead r ga (a + 24)
  let d4 ← s.walkRead r ga (a + 32)
  let d5 ← s.walkRead r ga (a + 40)
  let d6 ← s.walkRead r ga (a + 48)
  let t := TDesc.of ([d0, d1, d2, d3, d4, d5, d6].map BitVec.toNat)
  if t.valid then .ok t else .error (trAt .translation false ga)

/-- The layout unit (R293): tile number and byte within the tile of coordinates. -/
def TDesc.locate (t : TDesc) (c : List Nat) : Nat × Nat :=
  let g (l : List Nat) (j : Nat) : Nat := l.getD j 0
  let js := List.range t.rank
  if t.layout = 0 then
    let i := (js.foldl (fun (x : Nat × Nat) j => (x.1 + g c j * x.2, x.2 * g t.ext j)) (0, 1)).1
    (i * t.e / 2 ^ 18, i * t.e % 2 ^ 18)
  else
    let w := (js.foldl (fun (x : Nat × Nat) j => (x.1 + g c j % g t.text j * x.2, x.2 * g t.text j)) (0, 1)).1 * t.e
    let order := if t.layout = 2 then js.reverse else js
    let tn := (order.foldl (fun (x : Nat × Nat) j =>
      (x.1 + g c j / g t.text j * x.2, x.2 * ceilDiv (g t.ext j) (g t.text j))) (0, 1)).1
    (tn, if t.layout = 3 then w ^^^ (w / 2 ^ 11 % 32 * 64) else w)

/-- A byte offset is valid for an access of n bytes (R293). -/
def TDesc.offsetOk (t : TDesc) (o n : Nat) : Bool :=
  if t.layout = 0 then decide (o + n ≤ t.span)
  else decide (o / 2 ^ 18 < t.tiles && o % 2 ^ 18 + n ≤ t.tileSpan)

/-! ### Places -/

/-- What a physical address belongs to. -/
inductive Dev where
  | spad | hbm | cold | host | ctrl (off : Nat)
  deriving DecidableEq, Repr

/-- Where an access goes: the physical address, the tensor's poison policy and kind, the guest frame for dirty tracking, and
the global address for the poison log (R345), 0 for a scratchpad and a control frame. -/
structure Loc where
  pa : Nat
  dev : Dev
  zero : Bool
  shared : Bool
  gfn : Option Nat
  ga : Nat
  deriving DecidableEq, Repr

/-- A place: one this core reaches itself, or byte `off` of the scratchpad of physical core p through the ring. -/
inductive Place where
  | here (l : Loc)
  | remote (p off : Nat)
  deriving DecidableEq, Repr

/-- Who makes an access: the regime's level, whether ownership is checked (R151, R254), whether the cold store may be
reached (R296), whether CI12P may (R83), whether it is an aligned LD.D or ST.D of CTL (R361, R400). -/
structure Agent where
  pl : Nat
  own : Bool
  cold : Bool
  ci12p : Bool
  ctl8 : Bool
  deriving DecidableEq, Repr

/-- FE and DE, and every other engine access by the core's own regime. -/
def Agent.engine : Agent := ⟨0, true, false, false, false⟩
/-- FE.UNPK and DE.PACK (R83). -/
def Agent.pack : Agent := ⟨0, true, false, true, false⟩
/-- CP transfers (R254, R296). -/
def Agent.copy : Agent := ⟨0, true, true, false, false⟩
/-- FR transfers, for which FRAME tensors stand (R285). -/
def Agent.frame : Agent := ⟨0, false, true, false, false⟩
/-- CTL at a level. -/
def Agent.ctl (pl : Nat) : Agent := ⟨pl, true, false, false, false⟩

/-- Ownership (R151): FRAME is refused; EXCL is the owner's, while taken. -/
def TDesc.ownedBy (t : TDesc) (self : Nat) : Bool := t.kind != 3 && !(t.kind == 0 && (t.owner != self || !t.taken))

/-- Steps 2 to 7 of R296 for tile tn and byte w of a tensor. -/
def State.tileLoc (s : State) (r : Regime) (ag : Agent) (t : TDesc) (ga tn w : Nat) : Except Trap Place := do
  let bad := trAt .translation false ga
  let ent := (← s.walkRead r ga (t.ttp + 8 * tn)).toNat
  let home := bits ent 57 3
  let cold := bit ent 56
  if !bit ent 63 || bits ent 60 2 == 3 || 6 ≤ home || (cold && bits ent 60 2 != 0) then throw bad
  let gfn := bits ent 0 30
  if bit ent 62 then
    if ag.ctl8 && 2 ≤ r.pl then
      if ag.own && !t.ownedBy s.self then throw (trAt .ownership false ga)
      return .here ⟨hostPa (gfn * 2 ^ 18 + w), .host, t.zero, false, none, ga / 2 ^ 36 * 2 ^ 36 + tn * 2 ^ 18 + w⟩
    throw (trAt .migrateFault false ga)
  if ag.own && !t.ownedBy s.self then throw (trAt .ownership false ga)
  match r.s2 with
  | none =>
    let dfn := gfn % 2 ^ 21
    let kind := b2n cold
    if gfn / 2 ^ 21 != 0 then throw bad
    if isControl kind dfn then
      if ag.ctl8 && home == 0 then return .here ⟨0, .ctrl ((dfn - 183040) * 2 ^ 18 + w), false, false, none, 0⟩
      throw bad
    if !dfnInRange kind dfn || s.scrubbing kind dfn then throw (trAt .translation true ga)
    if kind == 0 && home != dfn / 2 ^ 18 then throw bad
    if kind == 1 && !ag.cold then throw bad
    return .here ⟨devPa kind dfn w, if kind = 0 then .hbm else .cold, t.zero, t.kind == 1, none, ga / 2 ^ 36 * 2 ^ 36 + tn * 2 ^ 18 + w⟩
  | some v =>
    match s.stage2 v gfn with
    | .error () => throw (trAt .memPoison false ga)
    | .ok none => throw (trAt .translation true ga)
    | .ok (some (kind, dfn)) =>
      if b2n cold != kind then throw bad
      if kind == 0 && home != dfn / 2 ^ 18 then throw bad
      if kind == 1 && !ag.cold then throw bad
      return .here ⟨devPa kind dfn w, if kind = 0 then .hbm else .cold, t.zero, t.kind == 1, some gfn, ga / 2 ^ 36 * 2 ^ 36 + tn * 2 ^ 18 + w⟩

/-- The tensor part of an access of n bytes at a global address: the descriptor, the offset, CI12P (R83; its place here is log entry
131, DESIGN CHOICE), then R296. -/
def State.tensorLoc (s : State) (ag : Agent) (ga n : Nat) : Except Trap Place := do
  let r := s.regime ag.pl
  let t ← s.descriptor r ga (ga / 2 ^ 36)
  let o := ga % 2 ^ 36
  if !t.offsetOk o n then throw (trAt .translation false ga)
  if t.typ == 13 && !ag.ci12p then throw (trAt .illegalInstruction false ga)
  s.tileLoc r ag t ga (o / 2 ^ 18) (o % 2 ^ 18)

/-- Where an access of n bytes at a global address goes, or its trap (R42, R296). -/
def State.place (s : State) (ag : Agent) (ga n : Nat) : Except Trap Place :=
  let tid := ga / 2 ^ 36
  let o := ga % 2 ^ 36
  let bad : Except Trap Place := .error (trAt .translation false ga)
  if tid = 0 then
    if o + n ≤ Config.spadBytes then .ok (.here ⟨spadPa s.cur o, .spad, false, false, none, 0⟩) else bad
  else if tid ≤ 0xDFF then s.tensorLoc ag ga n
  else if tid ≤ 0xEFF then
    if o + n ≤ Config.spadBytes && tid - 0xE00 < s.ncore s.part then
      .ok (.remote ((s.partCores s.part).getD (tid - 0xE00) 0) o)
    else bad
  else bad

/-- The descriptor's valid coordinates: nothing beyond the rank is nonzero, and an element within the extents exists. -/
def TDesc.inside (t : TDesc) (c : List Nat) : Bool :=
  (List.range t.rank).all (fun j => decide (c.getD j 0 < t.ext.getD j 0))

end Sys2Proof.Machine
end

