-- ==== Sys2Proof/Machine/Reset.lean ====
section
/-!
DEFINITION. Core reset (R17), partition reset with replay (R327, R329, R342) and package_stop (R341).
-/

namespace Sys2Proof.Machine

/-- The scratchpad of physical core p set to zero, its poison cleared (R17, R369). -/
def State.clearSpad (s : State) (p : Nat) : State :=
  { s with mem := Memory.clear s.mem (spadPa p 0) Config.spadBytes,
           poison := s.poison.filter (fun u => !(spadPa p 0 ≤ 64 * u && 64 * u < spadPa (p + 1) 0)),
           detBars := s.detBars.filter (fun a => !(spadPa p 0 ≤ a && a < spadPa (p + 1) 0)) }

/-- Core reset of physical core p, held by partition q (R17): every item of the core's state at its reset value, the
scratchpad zero. The debug block and the ring stop's counts lie outside the core and stay. -/
def State.coreReset (s : State) (p q : Nat) : State :=
  (s.clearSpad p).updAt p (fun c =>
    { Core.reset with part := BitVec.ofNat 5 q, dbg := c.dbg, orbit := c.orbit, accepted := c.accepted })

/-- The fence state of a partition; before the first fence the queues are empty and there are no streams (R329). -/
def State.fenceOf (s : State) (q : Nat) : Fence :=
  (s.fences.find? (fun f => f.part.toNat == q)).getD ⟨BitVec.ofNat 5 q, 0, [], [], []⟩

/-- The submission heads of every VF of a partition set to their replay heads (R329). -/
def State.replayHeads (s : State) (q : Nat) : State :=
  { s with pf := s.pf.map (fun x =>
      if 0x80000 ≤ x.1 && 0x100 ≤ (x.1 - 0x80000) % 512 && (x.1 - 0x80000) % 512 < 0x180 &&
         s.vfPart ((x.1 - 0x80000) / 512) == q then (x.1, s.pfRaw (x.1 + 0x80)) else x) }

/-- Replay (R329): the task queues of the last fence, its gang entries with their gangs, and its streams, each accepted again once
its record has been read; host submissions are read again from the replay heads, in their original order. -/
def State.replay (s : State) (q : Nat) : State :=
  let f := s.fenceOf q
  let s := s.replayHeads q
  { s with
    tq := f.tq ++ s.tq.filter (fun e => e.part.toNat != q),
    gangs := f.gangs ++ s.gangs.filter (fun g => g.part.toNat != q),
    taken := s.taken.filter (fun e => e.part.toNat != q),
    replays := (s.subs.filter (fun x => s.vfPart x.1.toNat == q)).reverse ++
      s.replays.filter (fun x => s.vfPart x.1.toNat != q),
    launches := f.streams.map (fun l =>
        { l with begun := false, nextIdx := 0, triggered := [], retired := [], replayed := true, unread := true }) ++
      s.launches.filter (fun l => l.part.toNat != q) }

/-- Flits charged to a partition leave the ring; a stop's orbit count counts those in slots no more (R391). -/
def State.dropFlits (s : State) (q : Nat) : State :=
  let mine := s.flits.filter (fun f => f.part.toNat == q)
  let s := (mine.filter (fun f => f.st == .inSlot)).foldl (fun s f => s.updAt f.src (fun c => { c with orbit := c.orbit - 1 })) s
  { s with flits := s.flits.filter (fun f => f.part.toNat != q) }

/-- Partition reset (R327): a KIND 2 cause entry, core reset of every core the partition holds, transfers, saved records,
reservations, bindings and frame markers gone, then replay. `core` is the core on which the cause arose. Nothing of it happens to a
package that package_stop has stopped (R341). -/
def State.partitionReset (s : State) (q code core vf lid : Nat) : State :=
  if s.boot.power == .stopped then s else
  let s := s.causeEntry 2 0 vf q core code 1 (BitVec.ofNat 64 lid)
  let cores := (List.range Config.cores).filter (fun p => s.coreHolder p == some q)
  let s := cores.foldl (fun s p => (s.coreReset p q).updAt p (fun c => { c with dbg := { c.dbg with busy := false } })) s
  let lids := (s.launches.filter (fun l => l.part.toNat == q)).map (fun l => (l.vf, l.lid))
  let s := { s.dropFlits q with
    images := s.images.filter (fun i => i.part.toNat != q),
    gangs := s.gangs.filter (fun g => g.part.toNat != q),
    bindings := s.bindings.filter (fun b => !lids.contains (b.vf, b.lid)),
    markers := s.markers.filter (fun f => f.toNat != q) }
  s.replay q

/-- The launch id of the record that runs on the focused core, 0 for none. -/
def State.lid (s : State) : Nat :=
  match s.core.work with
  | some r => r.lid.toNat
  | none => 0

/-- package_stop (R341): every tile stops, a KIND 3 cause entry with the PL3 mark is written; only a PF reset leaves this
state. -/
def State.packageStop (s : State) (code : Nat) (v : W64) : State :=
  let s := s.causeEntry 3 0 s.vf.toNat s.part s.cur code 0x8000 v
  let stop (c : Core) : Core := { c with run := .scanStopped 1, wait := none }
  { s with core := stop s.core, boot := { s.boot with power := .stopped },
           others := ((List.range Config.cores).filter (· != s.cur)).map (fun p => (p, stop (s.coreAt p))) }

end Sys2Proof.Machine
end

