-- ==== Sys2Proof/Machine/Ops.lean ====
section
/-!
DEFINITION. The named operations of CTL: registers (R17, R108), fetching (R43, R144), leaving an instruction (R118, R119),
taking an exception (R339–R341) and returning from one (R134, R344), and what stops an instruction that waits (R343).
-/

namespace Sys2Proof.Machine

/-- The outcome of a meaning. -/
abbrev Out := Host.Outcome State Fault Refusal

/-! ### Registers -/

/-- s register r; s0 reads 0 (R17). -/
def State.rd (s : State) (r : Reg) : W64 := if r.val = 0 then 0 else s.core.s.toList.getD r.val 0

/-- s register r written; a write to s0 is discarded (R108). -/
def State.wr (s : State) (r : Reg) (v : W64) : State :=
  if r.val = 0 then s else s.upd (fun c => { c with s := c.s.setIfInBounds r.val v })

/-- Bank n of the fault CSRs, for level 1 to 3 (R34). -/
def State.bank (s : State) (n : Nat) : Bank := s.core.banks.toList.getD (n - 1) ⟨0, 0, 0, 0, 0⟩

/-- Bank n replaced. -/
def State.setBank (s : State) (n : Nat) (b : Bank) : State :=
  s.upd (fun c => { c with banks := c.banks.setIfInBounds (n - 1) b })

/-! ### Leaving an instruction -/

/-- A level falls through or returns at the end of its body (R118): the level after, and where it sends CTL. A level is active while
its ACT bit is set, whatever count a handler wrote beside it (log entry 106, DESIGN CHOICE). -/
def Loop.atEnd (l : Loop) (n : Addr) : Loop × Option Addr :=
  if l.act && n == l.start + BitVec.ofNat 48 (4 * (l.lenm1.toNat + 1)) then
    (if l.count.toNat > 1 then ({ l with count := l.count - 1 }, some l.start) else ({ l with count := 0, act := false }, none))
  else (l, none)

/-- The loop-end procedure (R118): the levels after and the next PC for the sequential successor n. -/
def loopEnd (pl : Nat) (l0 l1 : Loop) (n : Addr) : Loop × Loop × Addr :=
  if pl ≠ 0 then (l0, l1, n) else
  match l0.atEnd n with
  | (l0', some a) => (l0', l1, a)
  | (l0', none) =>
    match l1.atEnd n with
    | (l1', some a) => (l0', l1', a)
    | (l1', none) => (l0', l1', n)

/-- A CTL instruction completes with sequential successor n: CTL_RET, the loop-end procedure, nothing waited for. -/
def State.retireTo (s : State) (n : Addr) : State :=
  s.upd (fun c =>
    let r := loopEnd c.pl c.lc0 c.lc1 n
    { c with lc0 := r.1, lc1 := r.2.1, pc := r.2.2, arv := false, wait := none,
             ctr := { c.ctr with ctlRet := c.ctr.ctlRet + 1 } })

/-- A CTL instruction of n words completes without a branch (R118). -/
def State.retire (s : State) (n : Nat) : State := s.retireTo (s.core.pc + BitVec.ofNat 48 (4 * n))

/-- An address lies in the body of a level. -/
def Loop.covers (l : Loop) (a : Addr) : Bool :=
  decide (l.start.toNat ≤ a.toNat) && decide (a.toNat < l.start.toNat + 4 * (l.lenm1.toNat + 1))

/-- The levels after a taken transfer to a (R119): a target outside a level's body deactivates it, outside lc1's body both. -/
def loopJump (pl : Nat) (l0 l1 : Loop) (a : Addr) : Loop × Loop :=
  if pl ≠ 0 then (l0, l1) else
  let out1 := l1.act && !l1.covers a
  let out0 := l0.act && (!l0.covers a || out1)
  (if out0 then { l0 with act := false } else l0, if out1 then { l1 with act := false } else l1)

/-- A CTL instruction completes with a taken branch or jump to a (R115, R119). -/
def State.jump (s : State) (a : Addr) : State :=
  s.upd (fun c =>
    let r := loopJump c.pl c.lc0 c.lc1 a
    { c with lc0 := r.1, lc1 := r.2, pc := a, arv := false, wait := none, ctr := { c.ctr with ctlRet := c.ctr.ctlRet + 1 } })

/-! ### Fetching (R43, R144) -/

/-- The word at a global address, fetched at a level, or the trap of the fetch: R43, the checks of R296 as CTL's access,
MEM_POISON whatever the policy. ALIGN at an address that is no word's, which only the CODE of a work record can name, is the model's
choice (log entry 120, DESIGN CHOICE). -/
def State.fetchAt (s : State) (pl : Nat) (a : Addr) : Except Trap Nat :=
  let t : W64 := a.setWidth 64
  let tid := a.toNat / 2 ^ 36
  if a.toNat % 4 ≠ 0 then .error ⟨.align, t⟩ else
  if tid = 0 || tid > 0xDFF then .error ⟨.translation, t⟩ else
  match s.tensorLoc (.ctl pl) a.toNat 4 with
  | .error e => .error e
  | .ok (.here l) => if s.poisoned l.pa then .error ⟨.memPoison, t⟩ else .ok (s.loadLE l.pa 4)
  | .ok (.remote _ _) => .error ⟨.translation, t⟩

/-- n words from an address on, up to the first that cannot be fetched. -/
def State.fetchWords (s : State) (pl : Nat) (a : Addr) (n : Nat) : List Nat × Option (Addr × Trap) :=
  match n with
  | 0 => ([], none)
  | k + 1 =>
    match s.fetchAt pl a with
    | .error t => ([], some (a, t))
    | .ok w => let r := s.fetchWords pl (a + 4) k; (w :: r.1, r.2)

/-- A word is a BAR.ARVW or BAR.DBAR (R52, R156). -/
def isArvBar (w : Nat) : Bool := w / 2 ^ 22 == 43 && (bits w 9 3 == 3 || bits w 9 3 == 5)

/-- The ARV bit that trap entry and every save keep (R156): the instruction at PC is a BAR.ARVW or BAR.DBAR whose arrival
has been made. -/
def State.arvBit (s : State) (a : Addr) : Bool :=
  s.core.arv && (match s.fetchAt s.core.pl a with
    | .ok w => isArvBar w
    | .error _ => false)

/-! ### Taking an exception -/

/-- The level that handles a cause raised at level p (R338); 0 for a cause of the cause table alone. -/
def Trap.handling (t : Trap) (p : Nat) : Nat :=
  match t.cause with
  | .slotOverrun | .watchdog | .laneSpare | .throttle => 0
  | .swtrap | .double => p + 1
  | .translation => if bit t.val.toNat 63 then 2 else 1
  | _ => 1

/-- entry(n) (R337). -/
def State.entry (s : State) (n : Nat) : Addr :=
  match n with
  | 1 => BitVec.ofNat 48 (s.pfBits (vfReg s.vf.toNat 0x38) 0 48)
  | 2 => BitVec.ofNat 48 (s.pfBits 0x140 0 48)
  | _ => Config.monitorEntry

/-- Trap entry at level h (R339): bank h written, MODE.PL raised, PC at the entry. -/
def State.enter (s : State) (h g : Nat) (c2 code : Nat) (v : W64) (seq : W32) (epc : Addr) (arv : Bool) : State :=
  let p := s.core.pl
  let b := s.bank h
  let s1 := s.setBank h
    { b with
      ecause := BitVec.ofNat 64 (c2 * 2 ^ 48 + code * 2 ^ 32 + seq.toNat),
      epc := BitVec.ofNat 64 (epc.toNat / 4 * 4 + b2n arv * 2),
      eval := v,
      epl := BitVec.ofNat 64 (g * 4 + p) }
  let e := s.entry h
  s1.upd (fun c => { c with pl := h, pc := e, arv := false, wait := none })

/-- Cause raised by sequencer g with sequence number `seq` and return address `epc` (R339, R341, R342), once an engine
fault is no longer held back. -/
def State.raise (s : State) (g : Nat) (t : Trap) (seq : W32) (epc : Addr) : State :=
  let p := s.core.pl
  let h := t.handling p
  let arv := s.arvBit epc
  if h = 0 then s.causeEntry 0 g s.vf.toNat s.part s.cur t.cause.code 0 t.val
  else if g = 0 && h ≤ p then
    if p ≥ 3 then s.packageStop t.cause.code t.val
    else
      let v := BitVec.ofNat 64 ((s.bank p).ecause.toNat / 2 ^ 32 % 2 ^ 16 * 2 ^ 48 + t.val.toNat % 2 ^ 48)
      (s.enter (p + 1) g t.cause.code Cause.double.code v seq epc arv).causeEntry 0 g s.vf.toNat s.part s.cur
        Cause.double.code t.cause.code v
  else if h = 1 && s.pfBits (vfReg s.vf.toNat 0x38) 0 48 = 0 then
    s.partitionReset s.part t.cause.code s.cur s.vf.toNat s.lid
  else s.enter h g 0 t.cause.code t.val seq epc arv

/-- A precise trap of the CTL instruction at PC (R107). -/
def State.trap (s : State) (t : Trap) : State := s.raise 0 t 0 s.core.pc

/-- A precise CTL trap with a cause and value. -/
def State.trapWith (s : State) (c : Cause) (v : W64) : State := s.trap ⟨c, v⟩

/-- The word at PC, the value of a trap that reports the instruction word (R53, R338). -/
def State.word (s : State) : W64 :=
  match s.fetchAt s.core.pl s.core.pc with
  | .ok w => BitVec.ofNat 64 w
  | .error _ => 0

/-- A precise ILLEGAL_INSTRUCTION with EVAL the word at PC. -/
def State.illegal (s : State) : State := s.trapWith .illegalInstruction s.word

/-- A precise PRIVILEGE with EVAL the word at PC. -/
def State.privilege (s : State) : State := s.trapWith .privilege s.word

/-! ### Engines: their state, faults and stops -/

/-- The state of an engine. -/
def Engines.get (g : Engines) (e : Eng) : EngState :=
  match e with
  | .fe => g.fe | .vx => g.vx | .mx => g.mx | .sx => g.sx | .de => g.de | .cp => g.cp | .fr => g.fr

/-- The state of an engine replaced. -/
def Engines.set (g : Engines) (e : Eng) (x : EngState) : Engines :=
  match e with
  | .fe => { g with fe := x } | .vx => { g with vx := x } | .mx => { g with mx := x } | .sx => { g with sx := x }
  | .de => { g with de := x } | .cp => { g with cp := x } | .fr => { g with fr := x }

/-- All engines, in ascending number. -/
def Eng.all : List Eng := [.fe, .vx, .mx, .sx, .de, .cp, .fr]

/-- The state of engine e of the focused core. -/
def State.eng (s : State) (e : Eng) : EngState := s.core.eng.get e

/-- The state of engine e changed. -/
def State.updEng (s : State) (e : Eng) (f : EngState → EngState) : State :=
  s.upd (fun c => { c with eng := c.eng.set e (f (c.eng.get e)) })

/-- An instruction that CTL waits in is left not executed (R343); a remote access already launched is kept (R356), and so
is the arrival of a barrier wait (R156). GIVE and TRIG are left too (log entry 17, DEDUCED). -/
def Core.leaveWait (c : Core) : Core :=
  match c.wait with
  | some (.remote _) => if c.outst.isSome then c else { c with wait := none }
  | some (.reply _ _) => c
  | _ => { c with wait := none }

/-- Engine e raises a fault at entry `seq` (R339, R340, R343): it is held, ranked by the order of raising, every queue
stops, and CTL leaves an instruction it waits in. -/
def State.engineFault (s : State) (e : Eng) (t : Trap) (seq : W32) : State :=
  let h : Held := ⟨t, seq, s.order⟩
  let s1 := s.updEng e (fun x => { x with held := some h })
  let s2 := s1.upd (fun c => { c.leaveWait with qstop := true })
  { s2 with order := s.order + 1 }

/-- The held faults of the focused core whose handling level is above MODE.PL, with their engines (R340). -/
def State.takeable (s : State) : List (Eng × Held) :=
  Eng.all.filterMap (fun e =>
    match (s.eng e).held with
    | some h => if s.core.pl < h.trap.handling s.core.pl then some (e, h) else none
    | none => none)

/-- The earliest of a list of held faults (R340). -/
def earliest (l : List (Eng × Held)) : Option (Eng × Held) :=
  l.foldl (fun best x => match best with
    | none => some x
    | some b => if x.2.order < b.2.order then some x else some b) none

/-- A fault is held on the focused core. -/
def State.anyHeld (s : State) : Bool := Eng.all.any (fun e => (s.eng e).held.isSome)

/-- The engine trap that R340 takes next, taken at CTL's instruction boundary. -/
def State.takeHeld (s : State) : State :=
  match earliest s.takeable with
  | none => s
  | some (e, h) =>
    let lvl := h.trap.handling s.core.pl
    let s1 := s.updEng e (fun x => { x with held := none })
    let s2 := s1.upd (fun c => { c with qlevel := if c.qlevel = 0 then lvl else min c.qlevel lvl })
    s2.raise e.num h.trap h.seq s.core.pc

/-- Every engine changed. -/
def Engines.map (g : Engines) (f : EngState → EngState) : Engines :=
  ⟨f g.fe, f g.vx, f g.mx, f g.sx, f g.de, f g.cp, f g.fr⟩

/-- The engine queues resume from their stop record (R344): withheld pushes are attempted again. -/
def State.resumeQueues (s : State) : State :=
  s.upd (fun c => { c with qstop := false, qlevel := 0,
                           eng := c.eng.map (fun x => { x with q := x.q.map (fun e =>
                             { e with phase := if e.phase = .withheld then .finished else e.phase }) }) })

/-- Return from level n to level p < n (R134, R344): PL, PC, ARV, and the engine queues where no fault is held and the
engine trap that stopped them was taken to level n or above. -/
def State.returnFrom (s : State) (n p : Nat) : State :=
  let epc := (s.bank n).epc.toNat
  let s1 := s.upd (fun c =>
    { c with pl := p, pc := BitVec.ofNat 48 (epc / 4 * 4), arv := bit epc 1, wait := none,
             ctr := { c.ctr with ctlRet := c.ctr.ctlRet + 1 } })
  if s1.core.qstop && !s1.anyHeld && (s1.core.qlevel = 0 || n ≤ s1.core.qlevel) then s1.resumeQueues else s1

/-! ### Waiting -/

/-- CTL waits in the instruction at PC. -/
def State.waitIn (s : State) (w : Wait) : State := s.upd (fun c => { c with wait := some w })

/-- The PF answers: the package has power, and its start has not failed (R407). -/
def State.pfUp (s : State) : Bool := s.boot.power != .off && s.boot.power != .failed

/-- What a write to the PF does: nothing without power or after a failed start, when the PF answers reads of one region alone
(R407). -/
def State.whenUp (s t : State) : State := if s.pfUp then t else s

/-- CTL of the focused core executes: a record runs and the core is not stopped. -/
def State.runs (s : State) : Bool := s.core.run == .running && s.boot.power != .stopped

end Sys2Proof.Machine
end

