-- ==== Sys2Proof/Machine/Access.lean ====
section
/-!
DEFINITION. Access to data: poison and its log (R144, R166, R345), the sieve (R335), the range scoreboard (R25, R26), the L1
(R290), the reach of a remote scratchpad (R355), and atomic steps on objects in memory (R155, R284).
-/

namespace Sys2Proof.Machine

/-! ### Bytes at a place this core reaches itself -/

/-- The poison cause of a place (R144). -/
def Loc.poisonCause (l : Loc) : Cause :=
  match l.dev with
  | .spad => .spPoison
  | _ => .memPoison

/-- The global address of the first byte of unit u, one of those a place's bytes lie in. -/
def Loc.unitGa (l : Loc) (u : Nat) : Nat := l.ga + 64 * u - l.pa

/-- The L1 serves reads of CTL, of FE and of MX (R290). -/
def l1Serves (eng : Nat) : Bool := eng == 0 || eng == Eng.fe.num || eng == Eng.mx.num

/-- A line, by number, read through the L1 (R290): it comes from there, or through the LLC, and is kept unless poisoned. -/
def State.lineRead (s : State) (x : Nat) : State :=
  if s.core.l1.contains x then s else
  let t := s.llcTouch (64 * x) s.part s.vf false
  if t.poison.contains x then t else t.upd (fun c => { c with l1 := c.l1 ++ [x] })

/-- A read of n bytes by a sequencer: the L1, where it serves it, and the LLC take note (R290, R301). -/
def State.touchRead (s : State) (eng : Nat) (l : Loc) (n : Nat) : State :=
  match l.dev with
  | .hbm =>
    if l1Serves eng then
      (List.range ((l.pa + n - 1) / 64 - l.pa / 64 + 1)).foldl (fun s k => s.lineRead (l.pa / 64 + k)) s
    else s.llcTouchAll l.pa n s.part s.vf false
  | _ => s

/-- An acquire at a scope of CLUSTER or wider empties the L1 (R290). -/
def wideScope : Scope → Bool
  | .engine | .core => false
  | _ => true

/-- The acquire's effect on the L1. -/
def State.acquire (s : State) (wide : Bool) : State := if wide then s.upd (fun c => { c with l1 := [] }) else s

/-- The poisoned units among n bytes at a physical address, by unit number. -/
def State.poisonUnits (s : State) (a n : Nat) : List Nat :=
  ((List.range ((a + n - 1) / 64 - a / 64 + 1)).map (fun k => a / 64 + k)).filter s.poison.contains

/-- n bytes read with zeros for poisoned ones, each substitution logged for sequencer eng and entry seq (R144, R166). -/
def State.readZ (s : State) (eng : Nat) (seq : W32) (l : Loc) (n : Nat) : List Byte × State :=
  let bad := s.poisonUnits l.pa n
  let data := (List.range n).map (fun k => if bad.contains ((l.pa + k) / 64) then 0 else s.byte (l.pa + k))
  (data, (bad.foldl (fun s u => s.poisonLog 0 eng (64 * u) (l.unitGa u) seq) s).touchRead eng l n)

/-- Dirty tracking of a write at a place (R379). -/
def State.dirtied (s : State) (l : Loc) : State :=
  match l.gfn with
  | some g => s.markDirty s.vf.toNat g
  | none => s

/-- Bytes written; a poisoned unit that the write covers in part is zeroed and logged first (R144, R166), a covered one
is cleared; dirty tracking, LLC and L1 follow for device memory (R379, R302, R145). -/
def State.writeZ (s : State) (eng : Nat) (seq : W32) (l : Loc) (data : List Byte) : State :=
  let bad := (s.poisonUnits l.pa data.length).filter (fun u => !(l.pa ≤ 64 * u && 64 * u + 64 ≤ l.pa + data.length))
  let s := bad.foldl (fun s u => (s.poisonLog 1 eng (64 * u) (l.unitGa u) seq).zeroUnit u) s
  let s := s.dirtied l
  match l.dev with
  | .hbm => s.devWrite l.pa s.part s.vf data
  | _ => s.writeBytes l.pa data

/-! ### The range scoreboard (R25–R27) -/

/-- The scoreboard is valid at an overlap of [o, o + n) of the own scratchpad (R26). -/
def State.sbHit (s : State) (o n : Nat) : Bool :=
  s.core.sb.toList.any (fun e => match e with
    | some x => decide (o < x.start + x.len) && decide (x.start < o + n)
    | none => false)

/-- A free scoreboard entry of the local half (0) or the incoming half (8) (R25). -/
def sbFree (c : Core) (half : Nat) : Option Nat :=
  ((List.range 8).map (· + half)).find? (fun i => (c.sb.toList.getD i none).isNone)

/-- A scoreboard entry allocated on physical core p. -/
def State.sbAlloc (s : State) (p i : Nat) (e : SbEntry) : State :=
  s.updAt p (fun c => { c with sb := c.sb.setIfInBounds i (some e) })

/-- A scoreboard entry retired. -/
def Core.sbClear (c : Core) (i : Nat) : Core := { c with sb := c.sb.setIfInBounds i none }

/-- A scoreboard entry retired on physical core p (R25), in its tile or in the tile's scan image. -/
def State.sbRetire (s : State) (p i : Nat) : State :=
  let f (x : SavedImage) : SavedImage := if x.scan && x.phys == p then { x with core := x.core.sbClear i } else x
  { s with images := s.images.map f, archive := s.archive.map f }.updAt p (fun c => c.sbClear i)

/-- An access held by the scoreboard in this core cycle (R26): it counts when the cycle ends (R36). -/
def State.rsbStall (s : State) : State := s.upd (fun c => { c with rsbHeld := true })

/-! ### The sieve (R335) -/

/-- The granules, by number, of n bytes at a physical address. -/
def granules (a n : Nat) : List Nat := (List.range ((a + n - 1) / 8 - a / 8 + 1)).map (fun k => a / 8 + k)

/-- The signature of a granule. -/
def State.signature (s : State) (g : Nat) : Sieve :=
  (s.sieve.find? (fun x => x.gran == g)).getD ⟨g, s.core.part, none, []⟩

/-- An access by the focused core conflicts at a granule (R335). -/
def State.conflictAt (s : State) (store : Bool) (g : Nat) : Bool :=
  let x := s.signature g
  (match x.writer with
    | some w => w != s.self
    | none => false) || (store && x.readers.any (· != s.self))

/-- The first granule at which an access by the focused core conflicts (R335). -/
def State.sieveConflict (s : State) (store : Bool) (a n : Nat) : Option Nat := (granules a n).find? (s.conflictAt store)

/-- The other core of a conflict at a granule (R335): the writer, else a reader. -/
def State.conflictWith (s : State) (g : Nat) : Nat :=
  let x := s.signature g
  (x.writer.toList ++ x.readers).find? (· != s.self) |>.getD s.self

/-- The signatures after an access (R335): those of the granules at which it does not conflict take note of it. -/
def State.sieveNote (s : State) (store : Bool) (a n : Nat) : State :=
  ((granules a n).filter (fun g => !s.conflictAt store g)).foldl (fun s g =>
    let x := s.signature g
    let x' := if store then { x with writer := some s.self }
      else if x.readers.contains s.self then x else { x with readers := s.self :: x.readers }
    { s with sieve := x' :: s.sieve.filter (fun y => y.gran != g) }) s

/-- Every signature of a partition cleared (R157, R330). -/
def State.sieveClear (s : State) (q : Nat) : State := { s with sieve := s.sieve.filter (fun x => x.part.toNat != q) }

/-- A plain access of n bytes at a place, judged under a held DET bit (R335): the state, and the global address of the
granule in conflict. `ga` is the access's global address. Only a place in device memory or the cold store is SHARED. -/
def State.judge (s : State) (det store : Bool) (l : Loc) (ga n : Nat) : State × Option Nat :=
  if det && l.shared then
    match s.sieveConflict store l.pa n with
    | some g =>
      let a := ga / 8 * 8 + 8 * (g - l.pa / 8)
      ({ s.sieveNote store l.pa n with conflicts := s.conflicts ++ [(s.self, s.conflictWith g, a)] }, some a)
    | none => (s.sieveNote store l.pa n, none)
  else (s, none)

/-! ### Remote scratchpads (R355) -/

/-- What the ring stop of a core does with an access of a context. -/
inductive Reach where
  | applied | inImage (id : Nat) | atStop | refused
  deriving DecidableEq, Repr

/-- The table of R355. While the core-save area holds the resident context's state, that state is the saved one. -/
def State.reach (s : State) (p : Nat) (vf : BitVec 9) : Reach :=
  if s.boot.power == .stopped then .refused else
  let c := s.coreAt p
  let saved := match s.images.reverse.find? (fun i => i.phys == p && i.vf == vf) with
    | some i => Reach.inImage i.id
    | none => .refused
  let here := decide (c.resident = some vf) && !(c.stored && saved != .refused)
  match c.run with
  | .halted => if here then .atStop else saved
  | .scanStopped _ => if saved = .refused && here then .atStop else saved
  | _ => if here then .applied else saved

/-- PARKED of image number id counts one entry more in memory (R347, R349): in a logical image, or in a sealed scan image. -/
def State.countParked (s : State) (id : Nat) : State :=
  match s.images.find? (fun i => i.id == id) with
  | some i =>
    let n := (i.parked.length + 1) * 2 ^ 32
    if !i.scan then s.hwStore8 (i.addr.toNat + 24) (BitVec.ofNat 64 n)
    else if i.sealed then s.hwStore8 (i.addr.toNat + 40) (BitVec.ofNat 64 (n + 1)) else s
  | none => s

/-- The offset in its image at which the parked list begins: after the body, or after the chain data (R347, R349). -/
def SavedImage.parkBase (i : SavedImage) : Nat :=
  if i.scan then 4096 + 6553600 else 128 + (i.header.getD 8 0).toNat

/-- The offset of entry k of an image's parked list. -/
def SavedImage.parkedAt (i : SavedImage) (k : Nat) : Nat :=
  (List.range k).foldl (fun n j => n + (Config.parkedBytes i.id j).length) i.parkBase

/-- The bytes of entry k of an image's parked list written in memory. -/
def State.writeParked (s : State) (i : SavedImage) (k : Nat) : State :=
  s.hwBlock i.part.toNat i.vf (i.addr.toNat + i.parkedAt k) (Config.parkedBytes i.id k)

/-- The parking region of an image has room for one entry more (R350). -/
def SavedImage.hasRoom (i : SavedImage) : Bool :=
  decide (i.parked.length < 1024) || decide (i.parked.length < 1024 + Config.parkMore)

/-- Something joins the parked list of image number id, in arrival order (R350, R355): the list, its bytes and the count. -/
def State.parkInImage (s : State) (id : Nat) (x : Parked) : State :=
  let s := s.countParked id
  let s := match s.images.find? (fun i => i.id == id) with
    | some i => s.writeParked i i.parked.length
    | none => s
  let add (i : SavedImage) : SavedImage := if i.id = id then { i with parked := i.parked ++ [x] } else i
  { s with images := s.images.map add, archive := s.archive.map add }

/-- A parking place has room (R350): at the ring stop, or in the region of the image. -/
def State.parkRoom (s : State) (r : Reach) : Bool :=
  match r with
  | .inImage id => (match s.images.find? (fun i => i.id == id) with
    | some i => i.hasRoom
    | none => true)
  | _ => true

/-- Something parked for a context (R350, R355): in its image, or at the ring stop. -/
def State.parkAt (s : State) (p : Nat) (r : Reach) (x : Parked) : State :=
  match r with
  | .inImage id => s.parkInImage id x
  | .atStop => s.updAt p (fun c => { c with parked := c.parked ++ [x] })
  | _ => s

/-! ### Accesses of engines -/

/-- How an engine access to a place goes: it may be made, it waits (parked for a saved or halted target, R355, log entry 136), or it is refused. -/
inductive Go' where
  | ok (l : Loc) | hold | refused
  deriving DecidableEq, Repr

/-- What the focused core sends to core p now would pass a flit that it launched before (R391): one is under way to p on every phase
that its partition owns. Traffic that has no flit of its own keeps its order by this (log entry 127, DESIGN CHOICE). -/
def State.passBarred (s : State) (p : Nat) : Bool :=
  let l := s.flits.filter (fun f => f.st == .inSlot && f.src == s.cur && f.dst == p && decide (f.slot < 128))
  match l with
  | [] => false
  | f :: _ =>
    let own := (List.range 64).filter (fun φ => s.holder (128 + 64 * f.dir + φ) == some s.part)
    !own.isEmpty && own.all (fun φ => l.any (fun g => g.slot % 64 == φ))

/-- An engine's access to a place: what crosses the ring keeps the launch order of a phase (R391). -/
def State.goTo (s : State) (pl : Place) : Go' :=
  match pl with
  | .here l => .ok l
  | .remote p o =>
    match s.reach p s.vf with
    | .applied => if s.passBarred p then .hold else .ok ⟨spadPa p o, .spad, false, false, none, 0⟩
    | .refused => .refused
    | _ => .hold

/-- The place that an access of engine e to a place reaches: one that was parked, where the context resumed (R347, R355). -/
def State.resolve (s : State) (e : Eng) (pl : Place) : Place :=
  match pl with
  | .here _ => pl
  | .remote p o => .remote (s.core.sent.foldl (fun q x => if x.eng = e.num && x.dst = q && x.off = o then x.now.getD q else q) p) o

/-- The runs of an access of engine e, each where it reaches. -/
def State.resolved (s : State) (e : Eng) (l : List (Nat × Nat × Place)) : List (Nat × Nat × Place) :=
  l.map (fun x => (x.1, x.2.1, s.resolve e x.2.2))

/-- An access of engine e to a place travels to its core, where the ring stop of a saved or halted tile parks it (R350, R355; log entry 136,
DESIGN CHOICE); with the parking region full it is not accepted. -/
def State.parkRun (s : State) (e : Eng) (pl : Place) : State :=
  match pl with
  | .here _ => s
  | .remote p o =>
    let r := s.reach p s.vf
    if r == .applied || r == .refused || !s.parkRoom r ||
      s.core.sent.any (fun x => x.eng == e.num && x.dst == p && x.off == o && x.now.isNone) then s
    else (s.upd (fun c => { c with sent := c.sent ++ [⟨e.num, p, o, none⟩] })).parkAt p r (.run s.cur e.num p o)

/-- The runs of an access of engine e park where they must; the engine waits for their answers. -/
def State.parkRuns (s : State) (e : Eng) (l : List (Nat × Nat × Place)) : State := l.foldl (fun t x => t.parkRun e x.2.2) s

/-- A parked access of core src is applied on core p, where the context has resumed. -/
def State.sentTurns (s : State) (p src eng dst off : Nat) : State :=
  s.updAt src (fun c => { c with sent := c.sent.map (fun x =>
    if x.eng = eng && x.dst = dst && x.off = off && x.now.isNone then { x with now := some p } else x) })

/-- The accesses of engine e to runs have been made. -/
def State.runsMade (s : State) (e : Eng) (l : List (Nat × Nat × Place)) : State :=
  s.upd (fun c => { c with sent := c.sent.filter (fun x => !(x.eng == e.num && l.any (fun y => match y.2.2 with
    | .remote _ o => o == x.off
    | .here _ => false))) })

/-! ### Atomic steps (R144, R284) -/

/-- The cause of a poisoned unit that a load, a store or an atomic step meets under TRAP, or on a scratchpad (R144); what the host does
not deliver is MEM_POISON under any policy (R400). -/
def State.stepPoison (s : State) (l : Loc) : Option Cause :=
  if s.poisoned l.pa && !(l.dev != .spad && l.dev != .host && l.zero) then some l.poisonCause else none

/-- An atomic step f on the object at a place: a poisoned unit under ZERO is zeroed and logged first; the LLC, dirty
tracking and the L1 take note of the write. -/
def State.atomic (s : State) (eng : Nat) (seq : W32) (l : Loc) (f : State → State) : State :=
  let s := if s.poisoned l.pa then (s.poisonLog 1 eng l.pa (l.unitGa (l.pa / 64)) seq).zeroUnit (l.pa / 64) else s
  let s := s.dirtied l
  match l.dev with
  | .hbm =>
    let t := f (s.llcTouch l.pa s.part s.vf false)
    let s := { t with scrubq := t.scrubq ++ s.leafPushes t (l.pa / 64 * 64) 64 }.llcTouch l.pa s.part s.vf true
    s.upd (fun c => { c with l1 := c.l1.filter (· != l.pa / 64) })
  | _ => f s

/-! ### Barriers (R155) -/

/-- Bit c of the ARRIVED field of the object at a (R155). -/
def State.arrivedBit (s : State) (a c : Nat) : Bool := bit (s.byte (a + 32 + c / 8)).toNat (c % 8)

/-- The event flags of the arrived cores of partition q (R155, R137). -/
def State.wakeArrived (s : State) (a q : Nat) : State :=
  let ps := (s.partCores q).zipIdx
  (ps.filter (fun x => s.arrivedBit a x.2)).foldl (fun t x => t.setEvent x.1) s

/-- `arrive` of R155 on the object at physical address a of partition q: PENDING, ARRIVED and PHASE; the completion of a
phase that a DBAR under DET has marked (`detBars`) clears the partition's signatures (R157). -/
def State.arrive (s : State) (a q c : Nat) (marked : Bool) : State :=
  let count := s.loadLE (a + 8) 4
  if count = 0 then s else
  let s := if marked then s.setByte (a + 32 + c / 8) (s.byte (a + 32 + c / 8) ||| BitVec.ofNat 8 (2 ^ (c % 8))) else s
  let pending := (s.loadLE a 4 + 2 ^ 32 - 1) % 2 ^ 32
  if pending = 0 then
    let s := s.wakeArrived a q
    let s := s.storeLE (a + 4) 4 ((s.loadLE (a + 4) 4 + 1) % 2 ^ 32)
    let s := s.storeLE a 4 count
    let s := s.storeLE (a + 32) 32 0
    if s.detBars.contains a then { s.sieveClear q with detBars := s.detBars.filter (· != a) } else s
  else s.storeLE a 4 pending

end Sys2Proof.Machine
end

