-- ==== Sys2Proof/Machine/Operands.lean ====
section
/-!
DEFINITION. The operand forms of CTL (R46–R49, R111, R112, R141): immediates and literals, the scale of SIZE, effective
addresses, the extension of loaded values, the bytes of a stored one.
-/

namespace Sys2Proof.Machine

/-- An immediate or literal, sign-extended (R47). -/
def sx {n : Nat} (i : BitVec n) : W64 := i.signExtend 64

/-- A register's address: its low 48 bits (R147). -/
def State.addr (s : State) (r : Reg) : Addr := (s.rd r).setWidth 48

/-- PC plus a word offset (R48). -/
def State.pcRel {n : Nat} (s : State) (off : BitVec n) : Addr := s.core.pc + (off.signExtend 48 <<< 2)

/-- A register-jump target: s[sa] plus n words, modulo 2^48 (R114). -/
def State.regTarget {n : Nat} (s : State) (sa : Reg) (off : BitVec n) : Addr := s.addr sa + (off.signExtend 48 <<< 2)

/-- Bytes of a load (R49). -/
def ldBytes : LdSize → Nat
  | .b | .bu => 1 | .h | .hu => 2 | .w | .wu => 4 | .d => 8

/-- A load extends its value by its sign (R141). -/
def ldSigned : LdSize → Bool
  | .b | .h | .w | .d => true | .bu | .hu | .wu => false

/-- Bytes of a store (R49). -/
def stBytes : StSize → Nat
  | .b => 1 | .h => 2 | .w => 4 | .d => 8

/-- A loaded value of n bytes, extended to 64 bits (R141). -/
def extend (n : Nat) (signed : Bool) (v : Nat) : W64 :=
  if signed then BitVec.ofInt 64 (sint v (8 * n)) else BitVec.ofNat 64 (v % 2 ^ (8 * n))

/-- EA of the CM format: s[base] plus the scaled displacement (R49, R141). -/
def State.eaImm (s : State) (base : Reg) (imm : BitVec 9) (n : Nat) : Addr :=
  s.addr base + BitVec.ofInt 48 (imm.toInt * n)

/-- EA of the literal form: s[base] plus the literal in bytes (R141). -/
def State.eaLit (s : State) (base : Reg) (lit : W32) : Addr := s.addr base + lit.signExtend 48

/-- The value of SEXT and ZEXT's width code (R109). -/
def extBits : ExtW → Nat
  | .w8 => 8 | .w16 => 16 | .w32 => 32

end Sys2Proof.Machine
end

