-- ==== Sys2Proof/Machine/Flags.lean ====
section
/-!
DEFINITION. The status words of CTL: control and status registers (R30–R37, R135, R136), the token counts (R12–R14, R35)
and the event flag (R137).
-/

namespace Sys2Proof.Machine

/-! ### Token counts -/

/-- Nibble index of queue i→j (R35). -/
def tokIx (i j : Nat) : Nat := 8 * i + j

/-- The count of queue i→j. -/
def Core.tokCount (c : Core) (i j : Nat) : Nat := (c.tok.toList.getD (tokIx i j) 0).toNat

/-- The sequencers 0 to 7 that a mask names. -/
def maskBits (m : Byte) : List Nat := (List.range 8).filter (fun j => bit m.toNat j)

/-- Every queue j→self of a mask holds at least one token (R12). -/
def Core.tokensReady (c : Core) (self : Nat) (m : Byte) : Bool := (maskBits m).all (fun j => decide (1 ≤ c.tokCount j self))

/-- One token popped from each queue j→self of a mask. -/
def Core.popTokens (c : Core) (self : Nat) (m : Byte) : Core :=
  { c with tok := (maskBits m).foldl (fun t j => t.setIfInBounds (tokIx j self) (t.toList.getD (tokIx j self) 0 - 1)) c.tok }

/-- The queues self→j of a mask that hold 15 (R14), as EVAL of TOKEN_OVERFLOW (R338). -/
def Core.overflowMask (c : Core) (self : Nat) (m : Byte) : Nat :=
  ((maskBits m).filter (fun j => c.tokCount self j == 15)).foldl (fun x j => x + 2 ^ j) 0

/-- One token pushed to each queue self→j of a mask; a push to CTL sets the event flag (R137). -/
def Core.pushTokens (c : Core) (self : Nat) (m : Byte) : Core :=
  { c with tok := (maskBits m).foldl (fun t j => t.setIfInBounds (tokIx self j) (t.toList.getD (tokIx self j) 0 + 1)) c.tok,
           ev := c.ev || bit m.toNat 0 }

/-- The 16 counts that TOKCNT k shows, k 0 to 3 (R35). -/
def Core.tokWord (c : Core) (k : Nat) : Nat :=
  (List.range 16).foldl (fun x n => x + (c.tok.toList.getD (16 * k + n) 0).toNat * 2 ^ (4 * n)) 0

/-- TOKCNT k written: every nibble but those with i = j. -/
def Core.setTokWord (c : Core) (k v : Nat) : Core :=
  { c with tok := (List.range 16).foldl (fun t n =>
      let ix := 16 * k + n
      if ix / 8 = ix % 8 then t else t.setIfInBounds ix (BitVec.ofNat 4 (bits v (4 * n) 4))) c.tok }

/-! ### Control and status registers -/

/-- The minimum level of a CSR number, none when it is not assigned (R31, R36). -/
def csrLevel (n : Nat) : Option Nat :=
  if n ≤ 2 then some 0
  else if 0x10 ≤ n && n ≤ 0x14 then some 1
  else if 0x20 ≤ n && n ≤ 0x22 then some 0
  else if 0x24 ≤ n && n ≤ 0x28 then some 0
  else if 0x30 ≤ n && n ≤ 0x4D then some 0
  else if 0x50 ≤ n && n ≤ 0x53 then some 0
  else none

/-- The CSR is writable at a level (R31, R36). -/
def csrWritable (n pl : Nat) : Bool :=
  n == 0 || (0x10 ≤ n && n ≤ 0x14) || n == 0x20 || n == 0x38 ||
  (pl ≥ 1 && ((0x24 ≤ n && n ≤ 0x27) || (0x50 ≤ n && n ≤ 0x53)))

/-- LCn_BODY of a level (R35). -/
def Loop.bodyWord (l : Loop) : Nat := b2n l.act * 2 ^ 63 + l.lenm1.toNat * 2 ^ 57 + l.start.toNat / 4 * 4

/-- A level with its body written (R35). -/
def Loop.setBody (l : Loop) (v : Nat) : Loop :=
  { l with act := bit v 63, lenm1 := BitVec.ofNat 6 (bits v 57 6), start := BitVec.ofNat 48 (bits v 2 46 * 4) }

/-- MODE (R32). -/
def Core.modeWord (c : Core) : Nat := b2n c.fce * 8 + b2n c.det * 4 + c.pl

/-- CORE_ID at a level (R33): its LOG is the number of the core within its partition (R374). -/
def State.coreId (s : State) (pl : Nat) : Nat :=
  s.vf.toNat * 2 ^ 21 + s.core.part.toNat * 2 ^ 16 + (if 2 ≤ pl then s.cur % 256 else 0xFF) * 2 ^ 8 + s.self % 256

/-- The value of a CSR read at a level (R31–R37). -/
def State.csr (s : State) (pl n : Nat) : W64 :=
  let c := s.core
  match n with
  | 0x00 => BitVec.ofNat 64 c.modeWord
  | 0x01 => BitVec.ofNat 64 (s.coreId pl)
  | 0x02 => c.levelBase
  | 0x10 => (s.bank pl).ecause
  | 0x11 => (s.bank pl).epc
  | 0x12 => (s.bank pl).eval
  | 0x13 => (s.bank pl).epl
  | 0x14 => (s.bank pl).esave
  | 0x20 => c.vrb.setWidth 64
  | 0x21 => c.sfc.setWidth 64
  | 0x22 => c.sflen.setWidth 64
  | 0x24 => c.lc0.count.setWidth 64
  | 0x25 => BitVec.ofNat 64 c.lc0.bodyWord
  | 0x26 => c.lc1.count.setWidth 64
  | 0x27 => BitVec.ofNat 64 c.lc1.bodyWord
  | 0x28 => BitVec.ofNat 64 (c.sb.toList.zipIdx.foldl (fun x e => if e.1.isSome then x + 2 ^ e.2 else x) 0)
  | 0x30 => c.ctr.cycle
  | 0x31 => c.ctr.ctlRet
  | 0x32 => c.ctr.dcpl
  | 0x33 => c.ctr.tok
  | 0x34 => c.ctr.rsb
  | 0x35 => c.ctr.stampOvr
  | 0x38 => c.llcwSel.setWidth 64
  | 0x39 => llcCounter s s.vf c.llcwSel.toNat
  | n =>
    if 0x40 ≤ n && n ≤ 0x4D then
      match Eng.ofNum ((n - 0x40) / 2 + 1) with
      | some e => if n % 2 = 0 then (s.eng e).issued.setWidth 64 else (s.eng e).completed.setWidth 64
      | none => 0
    else if 0x50 ≤ n && n ≤ 0x53 then BitVec.ofNat 64 (c.tokWord (n - 0x50))
    else 0

/-- A CSR written at a level: only its RW fields change (R32–R37, R135). -/
def State.setCsr (s : State) (pl n : Nat) (v : W64) : State :=
  let x := v.toNat
  let b := s.bank pl
  match n with
  | 0x00 => s.upd (fun c => { c with fce := bit x 3, det := if pl ≥ 1 then bit x 2 else c.det })
  | 0x10 => s.setBank pl { b with ecause := v }
  | 0x11 => s.setBank pl { b with epc := BitVec.ofNat 64 (bits x 1 47 * 2) }
  | 0x12 => s.setBank pl { b with eval := v }
  | 0x13 => s.setBank pl { b with epl := BitVec.ofNat 64 (x % 32) }
  | 0x14 => s.setBank pl { b with esave := v }
  | 0x20 => s.upd (fun c => { c with vrb := BitVec.ofNat 5 x })
  | 0x24 => s.upd (fun c => { c with lc0 := { c.lc0 with count := BitVec.ofNat 32 x } })
  | 0x25 => s.upd (fun c => { c with lc0 := c.lc0.setBody x })
  | 0x26 => s.upd (fun c => { c with lc1 := { c.lc1 with count := BitVec.ofNat 32 x } })
  | 0x27 => s.upd (fun c => { c with lc1 := c.lc1.setBody x })
  | 0x38 => s.upd (fun c => { c with llcwSel := BitVec.ofNat 8 x })
  | n => if 0x50 ≤ n && n ≤ 0x53 then s.upd (fun c => c.setTokWord (n - 0x50) x) else s

/-- What refuses a CSR access at a level (R30), in order: not assigned, below its level, a write to a read-only one. -/
inductive CsrCheck where
  | ok | illegal | privilege
  deriving DecidableEq, Repr

def csrCheck (n pl : Nat) (write : Bool) : CsrCheck :=
  match csrLevel n with
  | none => .illegal
  | some m => if pl < m then .privilege else if write && !csrWritable n pl then .illegal else .ok

end Sys2Proof.Machine
end

