-- ==== Sys2Proof/Machine/CtlAlu.lean ====
section
/-!
DEFINITION. The scalar arithmetic of CTL (R108–R112) and NOP (R139).
-/

namespace Sys2Proof.Machine

/-- s[sd] := v, and the instruction of n words completes (R108). -/
def State.result (s : State) (sd : Reg) (v : W64) (n : Nat) : State := (s.wr sd v).retire n

/-- A truth value as 1 or 0. -/
def flag (b : Bool) : W64 := if b then 1 else 0

/-- Bits [127:64] of a product (R109). -/
def hi64 (x : Int) : W64 := BitVec.ofInt 64 (x / 2 ^ 64)

/-- Signed quotient (R109, R110). -/
def divS (a b : W64) : W64 := if b = 0 then BitVec.allOnes 64 else a.sdiv b
/-- Unsigned quotient. -/
def divU (a b : W64) : W64 := if b = 0 then BitVec.allOnes 64 else a / b
/-- Signed remainder, with the sign of the dividend. -/
def remS (a b : W64) : W64 := if b = 0 then a else a.srem b
/-- Unsigned remainder. -/
def remU (a b : W64) : W64 := if b = 0 then a else a % b

/-- Leading zero bits, 0 to 64 (R109). -/
def clz64 (a : W64) : W64 := if a.toNat = 0 then 64 else BitVec.ofNat 64 (63 - a.toNat.log2)
/-- Trailing zero bits, 0 to 64. -/
def ctz64 (a : W64) : W64 := BitVec.ofNat 64 (((List.range 64).find? (fun k => bit a.toNat k)).getD 64)
/-- One bits. -/
def popc64 (a : W64) : W64 := BitVec.ofNat 64 ((List.range 64).filter (fun k => bit a.toNat k)).length
/-- Bit k moved to bit 63 − k. -/
def brev64 (a : W64) : W64 :=
  BitVec.ofNat 64 ((List.range 64).foldl (fun x k => if bit a.toNat k then x + 2 ^ (63 - k) else x) 0)
/-- The low w bits, sign-extended. -/
def sext64 (a : W64) (w : Nat) : W64 := BitVec.ofInt 64 (sint a.toNat w)
/-- The low w bits, zero-extended. -/
def zext64 (a : W64) (w : Nat) : W64 := BitVec.ofNat 64 (a.toNat % 2 ^ w)

/-- NOP (R139). -/
def execNop (s : State) : Out := .next (s.retire 1)

/-- ADD (R109). -/
def execAdd (sd sa sb : Reg) (s : State) : Out := .next (s.result sd (s.rd sa + s.rd sb) 1)

/-- SUB (R109). -/
def execSub (sd sa sb : Reg) (s : State) : Out := .next (s.result sd (s.rd sa - s.rd sb) 1)

/-- AND (R109). -/
def execAnd (sd sa sb : Reg) (s : State) : Out := .next (s.result sd (s.rd sa &&& s.rd sb) 1)

/-- OR (R109). -/
def execOr (sd sa sb : Reg) (s : State) : Out := .next (s.result sd (s.rd sa ||| s.rd sb) 1)

/-- XOR (R109). -/
def execXor (sd sa sb : Reg) (s : State) : Out := .next (s.result sd (s.rd sa ^^^ s.rd sb) 1)

/-- ANDN (R109). -/
def execAndn (sd sa sb : Reg) (s : State) : Out := .next (s.result sd (s.rd sa &&& ~~~(s.rd sb)) 1)

/-- SHL (R109). -/
def execShl (sd sa sb : Reg) (s : State) : Out := .next (s.result sd (s.rd sa <<< ((s.rd sb).toNat % 64)) 1)

/-- SHR (R109). -/
def execShr (sd sa sb : Reg) (s : State) : Out := .next (s.result sd (s.rd sa >>> ((s.rd sb).toNat % 64)) 1)

/-- SAR (R109). -/
def execSar (sd sa sb : Reg) (s : State) : Out := .next (s.result sd ((s.rd sa).sshiftRight ((s.rd sb).toNat % 64)) 1)

/-- ROL (R109). -/
def execRol (sd sa sb : Reg) (s : State) : Out := .next (s.result sd ((s.rd sa).rotateLeft ((s.rd sb).toNat % 64)) 1)

/-- ROR (R109). -/
def execRor (sd sa sb : Reg) (s : State) : Out := .next (s.result sd ((s.rd sa).rotateRight ((s.rd sb).toNat % 64)) 1)

/-- MIN (R109). -/
def execMin (sd sa sb : Reg) (s : State) : Out := .next (s.result sd (if (s.rd sa).slt (s.rd sb) then s.rd sa else s.rd sb) 1)

/-- MAX (R109). -/
def execMax (sd sa sb : Reg) (s : State) : Out := .next (s.result sd (if (s.rd sa).slt (s.rd sb) then s.rd sb else s.rd sa) 1)

/-- MINU (R109). -/
def execMinu (sd sa sb : Reg) (s : State) : Out := .next (s.result sd (if (s.rd sa).ult (s.rd sb) then s.rd sa else s.rd sb) 1)

/-- MAXU (R109). -/
def execMaxu (sd sa sb : Reg) (s : State) : Out := .next (s.result sd (if (s.rd sa).ult (s.rd sb) then s.rd sb else s.rd sa) 1)

/-- SLT (R109). -/
def execSlt (sd sa sb : Reg) (s : State) : Out := .next (s.result sd (flag ((s.rd sa).slt (s.rd sb))) 1)

/-- SLTU (R109). -/
def execSltu (sd sa sb : Reg) (s : State) : Out := .next (s.result sd (flag ((s.rd sa).ult (s.rd sb))) 1)

/-- SEQ (R109). -/
def execSeq (sd sa sb : Reg) (s : State) : Out := .next (s.result sd (flag (s.rd sa == s.rd sb)) 1)

/-- SNE (R109). -/
def execSne (sd sa sb : Reg) (s : State) : Out := .next (s.result sd (flag (s.rd sa != s.rd sb)) 1)

/-- MUL (R109). -/
def execMul (sd sa sb : Reg) (s : State) : Out := .next (s.result sd (s.rd sa * s.rd sb) 1)

/-- MULH (R109). -/
def execMulh (sd sa sb : Reg) (s : State) : Out := .next (s.result sd (hi64 ((s.rd sa).toInt * (s.rd sb).toInt)) 1)

/-- MULHU (R109). -/
def execMulhu (sd sa sb : Reg) (s : State) : Out := .next (s.result sd (BitVec.ofNat 64 ((s.rd sa).toNat * (s.rd sb).toNat / 2 ^ 64)) 1)

/-- DIV (R109). -/
def execDiv (sd sa sb : Reg) (s : State) : Out := .next (s.result sd (divS (s.rd sa) (s.rd sb)) 1)

/-- DIVU (R109). -/
def execDivu (sd sa sb : Reg) (s : State) : Out := .next (s.result sd (divU (s.rd sa) (s.rd sb)) 1)

/-- REM (R109). -/
def execRem (sd sa sb : Reg) (s : State) : Out := .next (s.result sd (remS (s.rd sa) (s.rd sb)) 1)

/-- REMU (R109). -/
def execRemu (sd sa sb : Reg) (s : State) : Out := .next (s.result sd (remU (s.rd sa) (s.rd sb)) 1)

/-- CLZ (R109). -/
def execClz (sd sa : Reg) (s : State) : Out := .next (s.result sd (clz64 (s.rd sa)) 1)

/-- CTZ (R109). -/
def execCtz (sd sa : Reg) (s : State) : Out := .next (s.result sd (ctz64 (s.rd sa)) 1)

/-- POPC (R109). -/
def execPopc (sd sa : Reg) (s : State) : Out := .next (s.result sd (popc64 (s.rd sa)) 1)

/-- BREV (R109). -/
def execBrev (sd sa : Reg) (s : State) : Out := .next (s.result sd (brev64 (s.rd sa)) 1)

/-- SEXT (R109). -/
def execSext (sd sa : Reg) (w : ExtW) (s : State) : Out := .next (s.result sd (sext64 (s.rd sa) (extBits w)) 1)

/-- ZEXT (R109). -/
def execZext (sd sa : Reg) (w : ExtW) (s : State) : Out := .next (s.result sd (zext64 (s.rd sa) (extBits w)) 1)

/-- ADDI (R111). -/
def execAddi (sd sa : Reg) (imm : BitVec 12) (s : State) : Out :=
  .next (s.result sd (s.rd sa + sx imm) 1)

/-- ADDI.X (R111). -/
def execAddiX (sd sa : Reg) (lit : W32) (s : State) : Out :=
  .next (s.result sd (s.rd sa + sx lit) 2)

/-- ANDI (R111). -/
def execAndi (sd sa : Reg) (imm : BitVec 12) (s : State) : Out :=
  .next (s.result sd (s.rd sa &&& sx imm) 1)

/-- ANDI.X (R111). -/
def execAndiX (sd sa : Reg) (lit : W32) (s : State) : Out :=
  .next (s.result sd (s.rd sa &&& sx lit) 2)

/-- ORI (R111). -/
def execOri (sd sa : Reg) (imm : BitVec 12) (s : State) : Out :=
  .next (s.result sd (s.rd sa ||| sx imm) 1)

/-- ORI.X (R111). -/
def execOriX (sd sa : Reg) (lit : W32) (s : State) : Out :=
  .next (s.result sd (s.rd sa ||| sx lit) 2)

/-- XORI (R111). -/
def execXori (sd sa : Reg) (imm : BitVec 12) (s : State) : Out :=
  .next (s.result sd (s.rd sa ^^^ sx imm) 1)

/-- XORI.X (R111). -/
def execXoriX (sd sa : Reg) (lit : W32) (s : State) : Out :=
  .next (s.result sd (s.rd sa ^^^ sx lit) 2)

/-- SLTI (R111). -/
def execSlti (sd sa : Reg) (imm : BitVec 12) (s : State) : Out :=
  .next (s.result sd (flag ((s.rd sa).slt (sx imm))) 1)

/-- SLTI.X (R111). -/
def execSltiX (sd sa : Reg) (lit : W32) (s : State) : Out :=
  .next (s.result sd (flag ((s.rd sa).slt (sx lit))) 2)

/-- SLTIU (R111). -/
def execSltiu (sd sa : Reg) (imm : BitVec 12) (s : State) : Out :=
  .next (s.result sd (flag ((s.rd sa).ult (sx imm))) 1)

/-- SLTIU.X (R111). -/
def execSltiuX (sd sa : Reg) (lit : W32) (s : State) : Out :=
  .next (s.result sd (flag ((s.rd sa).ult (sx lit))) 2)

/-- MULI (R111). -/
def execMuli (sd sa : Reg) (imm : BitVec 12) (s : State) : Out :=
  .next (s.result sd (s.rd sa * sx imm) 1)

/-- MULI.X (R111). -/
def execMuliX (sd sa : Reg) (lit : W32) (s : State) : Out :=
  .next (s.result sd (s.rd sa * sx lit) 2)

/-- SHLI (R111). -/
def execShli (sd sa : Reg) (amt : BitVec 6) (s : State) : Out := .next (s.result sd (s.rd sa <<< amt.toNat) 1)

/-- SHRI (R111). -/
def execShri (sd sa : Reg) (amt : BitVec 6) (s : State) : Out := .next (s.result sd (s.rd sa >>> amt.toNat) 1)

/-- SARI (R111). -/
def execSari (sd sa : Reg) (amt : BitVec 6) (s : State) : Out := .next (s.result sd ((s.rd sa).sshiftRight amt.toNat) 1)

/-- IDX (R112). -/
def execIdx (sd sa sb : Reg) (sh : BitVec 2) (imm : BitVec 5) (s : State) : Out :=
  .next (s.result sd (s.rd sa + (s.rd sb <<< sh.toNat) + sx imm) 1)

/-- IDX.X (R112). -/
def execIdxX (sd sa sb : Reg) (sh : BitVec 2) (lit : W32) (s : State) : Out :=
  .next (s.result sd (s.rd sa + (s.rd sb <<< sh.toNat) + sx lit) 2)

end Sys2Proof.Machine
end

