-- ==== Sys2Proof/Machine/CtlBranch.lean ====
section
/-!
DEFINITION. Branches, jumps, the loop buffer and register rotation (R113–R122).
-/

namespace Sys2Proof.Machine

/-- A conditional branch of n words (R113): taken to P + 4 × offset, or past the instruction. -/
def State.branch (s : State) (taken : Bool) (target : Addr) (n : Nat) : State := if taken then s.jump target else s.retire n

/-- BEQ (R113). -/
def execBeq (sa sb : Reg) (off : BitVec 12) (s : State) : Out := .next (s.branch (s.rd sa == s.rd sb) (s.pcRel off) 1)

/-- BEQ.X (R113). -/
def execBeqX (sa sb : Reg) (lit : W32) (s : State) : Out := .next (s.branch (s.rd sa == s.rd sb) (s.pcRel lit) 2)

/-- BNE (R113). -/
def execBne (sa sb : Reg) (off : BitVec 12) (s : State) : Out := .next (s.branch (s.rd sa != s.rd sb) (s.pcRel off) 1)

/-- BNE.X (R113). -/
def execBneX (sa sb : Reg) (lit : W32) (s : State) : Out := .next (s.branch (s.rd sa != s.rd sb) (s.pcRel lit) 2)

/-- BLT (R113). -/
def execBlt (sa sb : Reg) (off : BitVec 12) (s : State) : Out := .next (s.branch ((s.rd sa).slt (s.rd sb)) (s.pcRel off) 1)

/-- BLT.X (R113). -/
def execBltX (sa sb : Reg) (lit : W32) (s : State) : Out := .next (s.branch ((s.rd sa).slt (s.rd sb)) (s.pcRel lit) 2)

/-- BGE (R113). -/
def execBge (sa sb : Reg) (off : BitVec 12) (s : State) : Out := .next (s.branch (!(s.rd sa).slt (s.rd sb)) (s.pcRel off) 1)

/-- BGE.X (R113). -/
def execBgeX (sa sb : Reg) (lit : W32) (s : State) : Out := .next (s.branch (!(s.rd sa).slt (s.rd sb)) (s.pcRel lit) 2)

/-- BLTU (R113). -/
def execBltu (sa sb : Reg) (off : BitVec 12) (s : State) : Out := .next (s.branch ((s.rd sa).ult (s.rd sb)) (s.pcRel off) 1)

/-- BLTU.X (R113). -/
def execBltuX (sa sb : Reg) (lit : W32) (s : State) : Out := .next (s.branch ((s.rd sa).ult (s.rd sb)) (s.pcRel lit) 2)

/-- BGEU (R113). -/
def execBgeu (sa sb : Reg) (off : BitVec 12) (s : State) : Out := .next (s.branch (!(s.rd sa).ult (s.rd sb)) (s.pcRel off) 1)

/-- BGEU.X (R113). -/
def execBgeuX (sa sb : Reg) (lit : W32) (s : State) : Out := .next (s.branch (!(s.rd sa).ult (s.rd sb)) (s.pcRel lit) 2)

/-- The link of an instruction of n words (R48). -/
def State.link (s : State) (n : Nat) : W64 := (s.core.pc + BitVec.ofNat 48 (4 * n)).setWidth 64

/-- A register jump (R114, R115): ALIGN with no effect when the target is no word address; else the link, then the jump. -/
def State.jumpReg (s : State) (target : Addr) (lnk : Option Reg) (n : Nat) : State :=
  if target.toNat % 4 ≠ 0 then s.trapWith .align (target.setWidth 64)
  else match lnk with
    | some sd => (s.wr sd (s.link n)).jump target
    | none => s.jump target

/-- J (R114). -/
def execJ (off : BitVec 22) (s : State) : Out := .next (s.jump (s.pcRel off))

/-- J.X (R114). -/
def execJX (lit : W32) (s : State) : Out := .next (s.jump (s.pcRel lit))

/-- JAL (R114). -/
def execJal (sd : Reg) (off : BitVec 12) (s : State) : Out := .next ((s.wr sd (s.link 1)).jump (s.pcRel off))

/-- JAL.X (R114). -/
def execJalX (sd : Reg) (lit : W32) (s : State) : Out := .next ((s.wr sd (s.link 2)).jump (s.pcRel lit))

/-- JR (R114, R115). -/
def execJr (sa : Reg) (off : BitVec 12) (s : State) : Out := .next (s.jumpReg (s.regTarget sa off) none 1)

/-- JR.X (R114, R115). -/
def execJrX (sa : Reg) (lit : W32) (s : State) : Out := .next (s.jumpReg (s.regTarget sa lit) none 2)

/-- JALR (R114, R115). -/
def execJalr (sd sa : Reg) (off : BitVec 12) (s : State) : Out := .next (s.jumpReg (s.regTarget sa off) (some sd) 1)

/-- JALR.X (R114, R115). -/
def execJalrX (sd sa : Reg) (lit : W32) (s : State) : Out := .next (s.jumpReg (s.regTarget sa lit) (some sd) 2)

/-- R117 refuses opening level lvl with body [b, e): not at PL0, the level active, an outer one opened inside an inner
one, or an inner body not inside the outer. -/
def State.loopRefused (s : State) (lvl : Bool) (b e : Addr) : Bool :=
  let c := s.core
  c.pl != 0 || (if lvl then c.lc1.act || c.lc0.act else c.lc0.act) ||
  (!lvl && c.lc1.act && (decide (b.toNat < c.lc1.start.toNat) ||
    decide (e.toNat > c.lc1.start.toNat + 4 * (c.lc1.lenm1.toNat + 1))))

/-- LOOP and LOOPI (R117) with count n for an instruction of k words; the sequential successor is S, or E when n is 0. -/
def State.openLoop (s : State) (n : W32) (lvl : Bool) (lenm1 : BitVec 6) (k : Nat) : State :=
  let b := s.core.pc + BitVec.ofNat 48 (4 * k)
  let e := b + BitVec.ofNat 48 (4 * (lenm1.toNat + 1))
  if s.loopRefused lvl b e then s.illegal
  else if n = 0 then s.retireTo e
  else
    let l : Loop := ⟨n, b, lenm1, true⟩
    (s.upd (fun c => if lvl then { c with lc1 := l } else { c with lc0 := l })).retireTo b

/-- LOOP (R116, R117). -/
def execLoop (sa : Reg) (lvl : Bool) (lenm1 : BitVec 6) (s : State) : Out :=
  .next (s.openLoop ((s.rd sa).setWidth 32) lvl lenm1 1)

/-- LOOPI (R116, R117). -/
def execLoopi (count : BitVec 10) (lvl : Bool) (lenm1 : BitVec 6) (s : State) : Out :=
  .next (s.openLoop (count.setWidth 32) lvl lenm1 1)

/-- LOOPI.X (R116, R117). -/
def execLoopiX (lit : W32) (lvl : Bool) (lenm1 : BitVec 6) (s : State) : Out := .next (s.openLoop lit lvl lenm1 2)

/-- VRB turned by an amount (R120). -/
def State.rotate (s : State) (amt : BitVec 5) : State := s.upd (fun c => { c with vrb := c.vrb - amt })

/-- BROT (R121): decrement, rotate, branch while the result is not zero. -/
def execBrot (sa : Reg) (rot : BitVec 5) (off : BitVec 12) (s : State) : Out :=
  let c := s.rd sa - 1
  .next (((s.wr sa c).rotate rot).branch (c != 0) (s.pcRel off) 1)

/-- ROT (R122). -/
def execRot (amt : BitVec 5) (s : State) : Out := .next ((s.rotate amt).retire 1)

/-- SETVRB (R122). -/
def execSetvrb (sa : Reg) (imm : BitVec 12) (s : State) : Out :=
  .next ((s.upd (fun c => { c with vrb := (s.rd sa + sx imm).setWidth 5 })).retire 1)

end Sys2Proof.Machine
end

