-- ==== Sys2Proof/Machine/Queue.lean ====
section
/-!
DEFINITION. Dispatch, templates and the engine queues (R8–R16, R20, R24, R54–R61), tokens from CTL (R158), completion (R10,
R14) and the taking of held engine faults (R340).
-/

namespace Sys2Proof.Machine

/-! ### Frozen tiles -/

/-- The core is stopped by a scan. -/
def Core.scanned (c : Core) : Bool :=
  match c.run with
  | .scanStopped _ => true
  | _ => false

/-- The tile of the focused core is frozen (R348), or the package stopped (R341): nothing in it moves. -/
def State.frozen (s : State) : Bool := s.core.scanned || s.boot.power == .stopped

/-- What a step of the focused core's tile does: nothing while the tile is frozen (R348). -/
def State.whenLive (s t : State) : State := if s.frozen then s else t

/-! ### Images -/

/-- WAIT and SIG of an image (R57). -/
def imgWait (m : Image) : Byte := BitVec.ofNat 8 (m.hw 1 % 256)
def imgSig (m : Image) : Byte := BitVec.ofNat 8 (m.hw 1 / 256)

/-- A long instruction (R58): MX.GO and every SX, FR and CP instruction. -/
def isLong (e : Eng) (m : Image) : Bool :=
  match e with
  | .mx => m.opc == 4
  | .sx | .fr | .cp => true
  | _ => false

/-- PROF is 0x00 in an image that has a PROF field (R60). -/
def profZero (e : Eng) (m : Image) : Bool :=
  (isLong e m && m.hw 3 % 256 == 0) || (e == .vx && m.opc == 0x100 && m.hw 7 / 256 == 0)

/-- The image with a 32-bit value in pair k (R57). -/
def setPair (m : Image) (k : Nat) (v : W32) : Image :=
  (m.set k (v.setWidth 16)).set (k + 1) ((v >>> 16).setWidth 16)

/-- Binding (R9): every bound pair takes the low half of the register it names. -/
def State.bind (s : State) (m : Image) : Image :=
  (List.range 4).foldl (fun x p =>
    if bit (m.hw 0) (10 + p) then
      setPair x (4 + 2 * p) ((s.rd ⟨(m.pair (4 + 2 * p)).toNat % 32, Nat.mod_lt _ (by decide)⟩).setWidth 32)
    else x) m

/-- A selector renamed by VRB (R20). -/
def rename (vrb : BitVec 5) (n : Nat) : Nat := if 32 ≤ n && n < 64 then 32 + (n - 32 + vrb.toNat) % 32 else n

/-- A VX image with D, A, B and C renamed (R20, R172). -/
def renamed (m : Image) (vrb : BitVec 5) : Image :=
  let f (k lo : Nat) (x : Image) : Image :=
    x.set k (BitVec.ofNat 16 (putBits (x.hw k) lo 7 (rename vrb (bits (x.hw k) lo 7))))
  f 6 0 (f 3 7 (f 3 0 (f 2 0 m)))

/-! ### Entries -/

/-- Entry `seq` of engine e changed. -/
def State.updEntry (s : State) (e : Eng) (seq : W32) (f : Entry → Entry) : State :=
  s.updEng e (fun x => { x with q := x.q.map (fun y => if y.seq = seq then f y else y) })

/-- The first entry of an engine that has not started. -/
def State.nextEntry (s : State) (e : Eng) : Option Entry := (s.eng e).q.find? (fun x => x.phase == .queued)

/-- The first entry of an engine in a phase. -/
def State.entryIn (s : State) (e : Eng) (p : Phase) : Option Entry := (s.eng e).q.find? (fun x => x.phase == p)

/-- Every earlier entry of the engine is complete. -/
def State.isHead (s : State) (e : Eng) (x : Entry) : Bool :=
  match (s.eng e).q with
  | [] => false
  | y :: _ => y.seq == x.seq

/-- The slots that an SX.CARRY names, which its dispatch pins (R24, R234). -/
def slotMask (e : Eng) (m : Image) : Nat := if e = .sx && m.opc = 4 then (m.pair 4).toNat else 0

/-- A slot changed. -/
def Fr.updSlot (r : Fr) (i : Nat) (f : Slot → Slot) : Fr :=
  { r with slots := r.slots.setIfInBounds i (f (r.slots.toList.getD i .empty)) }

/-- Pin counts of the slots of a mask changed. -/
def State.pinSlots (s : State) (mask : Nat) (f : Nat → Nat) : State :=
  let pin (r : Fr) (i : Nat) : Fr := if bit mask i then r.updSlot i (fun x => { x with pins := f x.pins }) else r
  if mask = 0 then s else s.upd (fun c => { c with fr := (List.range 32).foldl pin c.fr })

/-- An image appended to an engine's queue (R9, R11): bound, a VX image renamed, with the next sequence number and the DET
and FCE bits of MODE. -/
def State.append (s : State) (e : Eng) (m : Image) : State :=
  let b := s.bind m
  let img := if e = .vx then renamed b s.core.vrb else b
  let n := (s.eng e).issued + 1
  let s := s.updEng e (fun x =>
    { x with issued := n, q := x.q ++ [⟨img, n, s.core.det, s.core.fce, .queued, 0, none⟩] })
  s.pinSlots (slotMask e img) (· + 1)

/-- Steps 6 to 9 of dispatch (R60) for an image that an instruction of n words issues. -/
def State.issue (s : State) (e : Eng) (m : Image) (n : Nat) : State :=
  if s.core.det && profZero e m then s.trapWith .profile s.word
  else if (s.eng e).q.length ≥ 32 then s.waitIn (.space e m n)
  else (s.append e m).retire n

/-- A template written (R16). -/
def State.setTemplate (s : State) (e : Eng) (t : BitVec 6) (m : Image) : State :=
  s.updEng e (fun x => { x with tmpl := x.tmpl.setIfInBounds t.toNat m })

/-- A template read. -/
def State.template (s : State) (e : Eng) (t : BitVec 6) : Image := (s.eng e).tmpl.toList.getD t.toNat Image.zero

/-- Dispatch of a header (R9, R54, R336). -/
def execEngineDispatch (e : Eng) (sz : ImgSize) (img : Image) (s : State) : Out :=
  .next (if s.core.pl ≠ 0 || !imageDefined e img then s.illegal else s.issue e img (1 + sz.words))

/-- A template store (R16, R54). -/
def execTemplateStore (e : Eng) (sz : ImgSize) (tix : BitVec 6) (img : Image) (s : State) : Out :=
  .next (if s.core.pl ≠ 0 || !imageDefined e img then s.illegal else (s.setTemplate e tix img).retire (1 + sz.words))

/-- A patch that issues the amended image (R56). -/
def execPatch (e : Eng) (tix : BitVec 6) (fsel : BitVec 4) (val : H16) (s : State) : Out :=
  let m := (s.template e tix).set fsel.toNat val
  .next (if s.core.pl ≠ 0 || !imageDefined e m then s.illegal else s.issue e m 1)

/-- A sticky patch that issues (R56, R60): the template is written before PROFILE and the queue-space wait. -/
def execPatchS (e : Eng) (tix : BitVec 6) (fsel : BitVec 4) (val : H16) (s : State) : Out :=
  let m := (s.template e tix).set fsel.toNat val
  .next (if s.core.pl ≠ 0 || !imageDefined e m then s.illegal else (s.setTemplate e tix m).issue e m 1)

/-- A sticky patch that issues nothing (R56). -/
def execPatchSN (e : Eng) (tix : BitVec 6) (fsel : BitVec 4) (val : H16) (s : State) : Out :=
  let m := (s.template e tix).set fsel.toNat val
  .next (if s.core.pl ≠ 0 || !imageDefined e m then s.illegal else (s.setTemplate e tix m).retire 1)

/-- Space appears in the queue that a dispatch waits for, and its image is appended (R9, R61). -/
def execQueueSpaceAppend (s : State) : Out :=
  .next (s.whenLive (match s.core.wait with
    | some (.space e m n) => if (s.eng e).q.length ≥ 32 then s else (s.append e m).retire n
    | _ => s))

/-! ### Tokens from CTL (R158) -/

/-- TWAIT (R158). -/
def execTwait (mask : Byte) (s : State) : Out :=
  .next (if s.core.pl ≠ 0 then s.illegal
    else if s.core.tokensReady 0 mask then (s.upd (fun c => c.popTokens 0 mask)).retire 1
    else s.waitIn (.twait mask))

/-- The tokens that a TWAIT waits for are there (R12, R158). -/
def execTwaitComplete (s : State) : Out :=
  .next (s.whenLive (match s.core.wait with
    | some (.twait m) => if s.core.tokensReady 0 m then (s.upd (fun c => c.popTokens 0 m)).retire 1 else s
    | _ => s))

/-- TSIG (R14, R158). -/
def execTsig (mask : Byte) (s : State) : Out :=
  .next (if s.core.pl ≠ 0 then s.illegal
    else
      let o := s.core.overflowMask 0 mask
      if o ≠ 0 then s.trapWith .tokenOverflow (BitVec.ofNat 64 o) else (s.upd (fun c => c.pushTokens 0 mask)).retire 1)

/-! ### Starting and completing entries -/

/-- A stamped entry (R332): its held DET bit is 1 and its STAMP is not zero. -/
def Entry.stamped (x : Entry) (e : Eng) : Bool := x.det && isLong e x.img && x.img.hw 2 != 0

/-- The record of a core counts its cycles (R327): it runs, or its core is power-gated in WFE, which does not show (R354). -/
def Core.clocked (c : Core) : Bool := c.work.isSome && (c.run == .running || c.run == .gated true)

/-- The focused core has become idle: of the queue entries that are there already, it takes one after those that have waited
longer (R311). -/
def State.nowIdle (s : State) : State :=
  { s.upd (fun c => { c with idleAt := s.nextSlot }) with nextSlot := s.nextSlot + 1 }

/-- The next entry of an engine may start as far as the queue, the stop and its tokens go (R10, R12, R343). -/
def State.ready (s : State) (e : Eng) : Option Entry :=
  if s.core.qstop || s.frozen then none else
  match s.nextEntry e with
  | some x => if s.core.tokensReady e.num (imgWait x.img) then some x else none
  | none => none

/-- An entry starts: its WAIT tokens are popped (R10, R12). -/
def State.start (s : State) (e : Eng) (x : Entry) (p : Phase) : State :=
  (s.upd (fun c => c.popTokens e.num (imgWait x.img))).updEntry e x.seq (fun y => { y with phase := p })

/-- An entry that starts and has every effect at once, `t` the cause of its completion boundary (R14, R166). -/
def State.startDone (s : State) (e : Eng) (x : Entry) (t : Option Trap) : State :=
  (s.start e x .finished).updEntry e x.seq (fun y => { y with pend := t })

/-- A started entry has every effect. -/
def State.finish (s : State) (e : Eng) (seq : W32) (t : Option Trap) : State :=
  s.updEntry e seq (fun y => { y with phase := .finished, pend := y.pend.or t })

/-- Complete entries leave the head of an engine's queue, and `completed` follows (R10). -/
def EngState.sweep (x : EngState) : EngState :=
  let n := (x.q.takeWhile (fun y => y.phase == .done)).length
  { x with q := x.q.drop n, completed := x.completed + BitVec.ofNat 32 n }

/-- The cause of the completion boundary of an entry (R14): its own, or a push that would pass 15. -/
def State.completionTrap (s : State) (e : Eng) (x : Entry) : Option Trap :=
  let o := s.core.overflowMask e.num (imgSig x.img)
  x.pend.or (if o ≠ 0 then some ⟨.tokenOverflow, BitVec.ofNat 64 o⟩ else none)

/-- A finished entry of engine e completes (R10, R14): a cause of its completion boundary is raised with the pushes withheld;
otherwise its SIG tokens are pushed. -/
def State.completeEntry (s : State) (e : Eng) (x : Entry) : State :=
  match s.completionTrap e x with
  | some t =>
    if (s.eng e).held.isSome then s
    else (s.updEntry e x.seq (fun y => { y with phase := .withheld, pend := none })).engineFault e t x.seq
  | none =>
    let s1 := (s.upd (fun c => c.pushTokens e.num (imgSig x.img))).updEntry e x.seq (fun y => { y with phase := .done })
    (s1.updEng e EngState.sweep).pinSlots (slotMask e x.img) (· - 1)

/-- The SX.CARRY whose descriptor a scan has taken (R234). -/
def State.carryUsed (s : State) : Option Entry :=
  (s.eng .sx).q.find? (fun x => x.phase == .started && x.img.opc == 4 && x.prog == 1)

/-- A started entry that has nothing more to do completes at once. -/
def State.completeNow (s : State) (e : Eng) (y : Entry) : State := (s.finish e y.seq none).completeEntry e y

/-- An entry of engine e completes (R10, R14); with a scan the SX.CARRY that it has used (R234). -/
def execEntryComplete (e : Eng) (s : State) : Out :=
  .next (if s.frozen then s else match s.entryIn e .finished with
    | none => s
    | some x =>
      let t := s.completeEntry e x
      let scan := e == .sx && (x.img.opc == 2 || x.img.opc == 5) && (s.completionTrap e x).isNone
      match (if scan then t.carryUsed else none) with
      | some y => t.completeNow .sx y
      | none => t)

/-- CTL takes the earliest held engine fault above its level (R339, R340). -/
def execEngineFaultTaken (s : State) : Out :=
  .next (if s.runs && s.core.outst.isNone then s.takeHeld else s)

/-- The first not-started entry of engine e carries out f, unless it is stamped (R332). -/
def State.starting (s : State) (e : Eng) (f : State → Entry → Option State) : State :=
  match s.ready e with
  | some x => if x.stamped e then s else s.scrubGuard ((f s x).getD s)
  | none => s

end Sys2Proof.Machine
end

