-- ==== Sys2Proof/Machine/Remote.lean ====
section
/-!
DEFINITION. Atomic operations (R148), what a ring stop does for a remote access (R146, R355), the flits it sends (R386,
R389) and the completion of the access at its sender (R146, R356).
-/

namespace Sys2Proof.Machine

/-! ### Atomic operations -/

/-- op(FN, old, v) of R148 on w-bit words. -/
def amoOp (fn w old v : Nat) : Nat :=
  match fn with
  | 0 => (old + v) % 2 ^ w
  | 1 => old &&& v
  | 2 => old ||| v
  | 3 => old ^^^ v
  | 4 => if sint old w ≤ sint v w then old else v
  | 5 => if sint old w ≤ sint v w then v else old
  | 6 => if old ≤ v then old else v
  | 7 => if old ≤ v then v else old
  | _ => v

/-- The value an AMO stores, none for a failed CAS (R148). -/
def amoNew (fn w old v new : Nat) : Option Nat :=
  if fn = 9 then (if old = v then some new else none) else some (amoOp fn w old v)

/-- The indivisible step of an AMO on the object at physical address a (R148). -/
def State.amoAt (s : State) (a fn : Nat) (dbl : Bool) (v new : W64) : State × W64 :=
  let n := if dbl then 8 else 4
  let old := s.loadLE a n
  let r := extend n true old
  match amoNew fn (8 * n) old (v.toNat % 2 ^ (8 * n)) (new.toNat % 2 ^ (8 * n)) with
  | some x => (s.storeLE a n x, r)
  | none => (s, r)

/-- INIT of a barrier object (R156): the arrivals of the phase in progress are discarded, a DBAR's under DET with them. -/
def State.barInitAt (s : State) (a : Nat) (count : Nat) : State :=
  let t := ((s.storeLE (a + 8) 4 count).storeLE a 4 count).storeLE (a + 32) 32 0
  { t with detBars := t.detBars.filter (· != a) }

/-- An arrival of logical core c at the object at a of partition q (R155); one made by a DBAR under DET marks its phase (R157). -/
def State.ctlArrive (s : State) (a q c : Nat) (det : Bool) : State :=
  let s := if det && s.loadLE (a + 8) 4 != 0 && !s.detBars.contains a then { s with detBars := a :: s.detBars } else s
  s.arrive a q c true

/-! ### Flits -/

/-- The agents on the core ring beside the physical cores 0 to 71: the two Lorcy ports, Ethernet, and PCIe with the TST
sequencer (R386). -/
def lorcyEast : Nat := 72
def lorcyWest : Nat := 73
def ethernetAgent : Nat := 74
def pcieAgent : Nat := 75

/-- The ring stop of an agent (R386). -/
def agentStop (p : Nat) : Nat := if p < 36 then p else if p < 72 then p + 1 else if p = lorcyEast then 36 else p

/-- Hops from stop a to stop b in a direction (R386). -/
def hops (dir a b : Nat) : Nat := if dir = 0 then (b + 76 - a) % 76 else (a + 76 - b) % 76

/-- The direction with fewer hops, 0 when equal (R389). -/
def ringDir (a b : Nat) : Nat := if hops 0 a b ≤ hops 1 a b then 0 else 1

/-- A flit waits at its stop (R389). -/
def State.post (s : State) (src dst : Nat) (part : BitVec 5) (m : FlitMsg) : State :=
  let f : Flit := ⟨s.nextFlit, src, dst, ringDir (agentStop src) (agentStop dst), part, 0, 0, .waiting, m⟩
  { s with flits := s.flits ++ [f], nextFlit := s.nextFlit + 1 }

/-! ### What the target's ring stop does -/

/-- Bytes that a remote access touches. -/
def RemoteOp.bytes : RemoteOp → Nat
  | .load n _ _ => n
  | .store n _ => n
  | .amo _ dbl _ _ _ => if dbl then 8 else 4
  | _ => 64

/-- The access performed at the target's scratchpad; a poisoned unit answers with SP_POISON (R144). -/
def State.performRemote (s : State) (p : Nat) (r : Remote) : State × Reply :=
  let a := spadPa p r.off
  if s.poisoned a then (s, .trap ⟨.spPoison, r.ea.setWidth 64⟩) else
  match r.op with
  | .load n sg _ => (s, .value (extend n sg (s.loadLE a n)))
  | .store n v => ((s.storeLE a n v.toNat).setEvent p, .accepted)
  | .amo fn dbl v new _ => let x := s.amoAt a fn dbl v new; (x.1.setEvent p, .value x.2)
  | .barInit c => ((s.barInitAt a c.toNat).setEvent p, .accepted)
  | .barArv c det _ => ((s.ctlArrive a r.part.toNat c det).setEvent p, .accepted)
  | .barTest _ => (s, .value (s.load8 a))
  | .barPoll c => (s, .value (if s.arrivedBit a c then 1 else 0))

/-- The ring stop of core p treats an access by the state of the core for the sender's context (R355); none when parked. -/
def State.treatRemote (s : State) (p : Nat) (r : Remote) : State × Option Reply :=
  match s.reach p r.vf with
  | .applied => let x := s.performRemote p r; (x.1, some x.2)
  | .refused => (s, some .refused)
  | x => (s.parkAt p x (.access r), none)

/-- A reply travels to the sender, charged to the access's partition (R389). -/
def State.sendReply (s : State) (p : Nat) (r : Remote) (a : Reply) : State := s.post p r.src r.part (.reply r a)

/-! ### Completion at the sender -/

/-- A remote access waits to be launched at the focused core's ring stop. -/
def State.sendRemote (s : State) (p : Nat) (r : Remote) : State := (s.post s.cur p r.part (.access r)).waitIn (.remote r)

/-- CTL stands at an instruction again that it had gone on from (R356): its place, the loop levels, the ARV bit and CTL_RET as before
its completion. -/
def Core.takeBack (c : Core) : Core :=
  match c.left with
  | some l => { c with pc := l.pc, lc0 := l.lc0, lc1 := l.lc1, arv := l.arv, left := none, ctr := { c.ctr with ctlRet := c.ctr.ctlRet - 1 } }
  | none => c

/-- Cause t of a remote access, precise, with EPC at it (R356). -/
def State.remoteTrap (s : State) (t : Trap) : State :=
  (s.upd (fun c => { c with outst := none, wait := none }.takeBack)).trap t

/-- A remote access is complete: CTL goes on behind it, where it already stands if it stopped meanwhile (R356). -/
def State.remoteDone (s : State) (words : Nat) : State :=
  if s.core.left.isSome then s.upd (fun c => { c with left := none }) else s.retire words

/-- Physical core p stops before the answer of a launched remote access: it is saved as outstanding, with PC behind it (R356). -/
def State.leaveRemote (s : State) (p : Nat) : State :=
  match (s.coreAt p).outst, (s.coreAt p).wait with
  | some r, some (.remote x) =>
    if (s.coreAt p).left.isSome then s
    else
      let c := s.coreAt p
      (s.withCore p (fun t => t.retire r.words)).updAt p (fun d =>
        { d with wait := some (.remote x), left := some ⟨c.pc, c.lc0, c.lc1, c.arv⟩ })
  | _, _ => s

/-- The focused core's remote access is answered (R146, R155, R356). -/
def State.completeRemote (s : State) (p : Nat) (r : Remote) (a : Reply) : State :=
  let t := s.upd (fun c => { c with outst := none, wait := none })
  match a with
  | .trap x => s.remoteTrap x
  | .refused => s.remoteTrap ⟨.signalLost, r.ea.setWidth 64⟩
  | .accepted =>
    (match r.op with
    | .barArv c _ true => (t.upd (fun c => { c with arv := true })).sendRemote p { r with id := t.nextFlit, op := .barPoll c }
    | _ => (t.acquire r.acq).remoteDone r.words)
  | .value v =>
    let u := t.acquire r.acq
    (match r.op with
    | .load _ _ sd => (u.wr sd v).remoteDone r.words
    | .amo _ _ _ _ sd => (u.wr sd v).remoteDone r.words
    | .barTest sd => (u.wr sd v).remoteDone r.words
    | .barPoll _ => if v = 0 then u.remoteDone r.words else t.sendRemote p { r with id := t.nextFlit }
    | _ => u.remoteDone r.words)

/-- A remote access by CTL of the focused core (R146): sent to the target's ring stop; one to the core's own logical number
is never launched (R42) and is answered at once. -/
def State.remote (s : State) (p : Nat) (r : Remote) : State :=
  if p = s.cur then
    let x := s.performRemote p r
    match r.op, x.2 with
    | .barArv c _ true, .accepted =>
      let t := x.1.upd (fun c => { c with arv := true })
      if t.arrivedBit (spadPa p r.off) c then t.waitIn (.bar r.ea r.acq) else (t.acquire r.acq).retire r.words
    | .barPoll _, .value v => if v = 0 then x.1.completeRemote p r (.value v) else x.1.waitIn (.bar r.ea r.acq)
    | _, a => x.1.completeRemote p r a
  else s.sendRemote p r

/-! ### Transfers and their scoreboard entries (R25, R254) -/

/-- The transfer with a number, where it is, and its core (R254). -/
def State.xferAt (s : State) (xid : Nat) : Option (Nat × Xfer) :=
  ((List.range Config.cores).findSome? (fun p => ((s.coreAt p).cp.xfers.find? (fun x => x.id == xid)).map (fun x => (p, x))))

/-- A transfer changed. -/
def State.updXfer (s : State) (p xid : Nat) (f : Xfer → Xfer) : State :=
  s.updAt p (fun c => { c with cp := { c.cp with xfers := c.cp.xfers.map (fun x => if x.id = xid then f x else x) } })

/-- Destination j of a transfer changed. -/
def Xfer.updRecv (x : Xfer) (j : Nat) (f : Recv → Recv) : Xfer :=
  { x with recvs := x.recvs.zipIdx.map (fun r => if r.2 = j then f r.1 else r.1) }

/-- Bytes that a transfer writes at a destination, from its first to its last (R25, R255). -/
def Xfer.extent (x : Xfer) : Nat := (x.rows - 1) * x.dp + x.bytes

/-- The core whose scratchpad a tid names. -/
def State.spadCore (s : State) (tid : Nat) : Option Nat :=
  if tid = 0 then some s.cur
  else if 0xE00 ≤ tid && tid ≤ 0xEFF && decide (tid - 0xE00 < s.ncore s.part) then (s.partCores s.part).toArray[tid - 0xE00]?
  else none

/-- A destination lies in the own scratchpad. -/
def State.recvLocal (s : State) (r : Recv) : Bool := s.spadCore r.tid == some s.cur

/-- A destination lies in another core's scratchpad, whose stop must take the header first. -/
def State.recvRemote (s : State) (r : Recv) : Option Nat :=
  match s.spadCore r.tid with
  | some p => if p = s.cur then none else some p
  | none => none

/-- What begins at one destination: a local scoreboard entry (R25), or a header flit (R390). -/
def State.beginRecv (s : State) (x : Xfer) (j : Nat) (r : Recv) : State :=
  if s.recvLocal r then
    match sbFree s.core 0 with
    | some i =>
      ((s.sbAlloc s.cur i ⟨r.off, x.extent, x.ch⟩).updXfer s.cur x.id (fun y => y.updRecv j (fun q => { q with sb := some i })))
    | none => s
  else match s.recvRemote r with
    | some p => s.post s.cur p s.core.part (.header x.id j)
    | none => s

/-- Bytes of an accepted transfer land at offset o of the scratchpad of physical core p, for entry `seq` of the CP of core src: a poisoned
unit that they cover in part is zeroed and logged (R255, R345). -/
def State.landBytes (s : State) (p o : Nat) (d : List Byte) (src : Nat) (seq : W32) : State :=
  s.withCore src (fun t => t.writeZ Eng.cp.num seq ⟨spadPa p o, .spad, false, false, none, 0⟩ d)

/-- Parked arrivals applied in order (R347, R352, R359): accesses, whose answers travel, answers to the core itself, signals,
the data of transfers and accesses of engines, each as at a running tile. A signal whose object is poisoned makes no arrival; the entry that sent it has
completed, and nothing is raised (log entry 123, DESIGN CHOICE). -/
def State.applyParked (s : State) (p : Nat) (l : List Parked) : State :=
  match l with
  | [] => s
  | .access r :: rest => let x := s.performRemote p r; (x.1.sendReply p r x.2).applyParked p rest
  | .reply r a :: rest => (s.updAt p (fun c => { c with wait := some (.reply r a) })).applyParked p rest
  | .signal o q l marked :: rest =>
    ((if s.poisoned (spadPa p o) then s else s.arrive (spadPa p o) q l marked).setEvent p).applyParked p rest
  | .data o d src seq :: rest => (s.landBytes p o d src seq).applyParked p rest
  | .run src eng dst off :: rest => (s.sentTurns p src eng dst off).applyParked p rest

end Sys2Proof.Machine
end

