-- ==== Sys2Proof/Machine/Body.lean ====
section
/-!
DEFINITION. The body of a logical image (R347): the items of R38 in the order of its table, the held faults, the outstanding
access, all little-endian. A field whose size R17 or R206 gives in whole bytes takes these bytes; how many the others take,
`Config.bodyWidth` leaves free (log entry 30).
-/

namespace Sys2Proof.Machine

/-- A field whose bytes the spec does not count. -/
def bodyField (k : BodyField) (v : Nat) : List Byte := leBytes (Config.bodyWidth k).val v

/-- The bytes of a queue entry or a register of 64 lanes. -/
def laneBytes (v : Lanes) : List Byte := ((List.range 64).map (fun l => leBytes 4 (lane v l).toNat)).flatten

/-- The bytes of an image. -/
def imageBytes (m : Image) : List Byte := m.h.toList.flatMap (fun h => leBytes 2 h.toNat)

/-- A loop level: its count and its body (R35). -/
def Loop.body (l : Loop) : List Byte := leBytes 4 l.count.toNat ++ bodyField .loopBody l.bodyWord

/-- CTL: s1 to s31, PC with its ARV bit, the loop levels, VRB, MODE, SFLEN, LEVEL_BASE, ESAVE of PL1. -/
def Core.ctlBody (c : Core) : List Byte :=
  (c.s.toList.drop 1).flatMap (fun x => leBytes 8 x.toNat) ++ bodyField .pc (c.pc.toNat + 2 * b2n c.arv) ++ c.lc0.body ++ c.lc1.body ++
  bodyField .vrb c.vrb.toNat ++ bodyField .mode c.modeWord ++ bodyField .sflen c.sflen.toNat ++ leBytes 8 c.levelBase.toNat ++
  leBytes 8 (c.banks.toList.getD 0 ⟨0, 0, 0, 0, 0⟩).esave.toNat

/-- The 56 token counts. -/
def Core.tokenBody (c : Core) : List Byte :=
  ((List.range 64).filter (fun x => x / 8 != x % 8)).flatMap (fun x => bodyField .token (c.tok.toList.getD x 0).toNat)

/-- An engine queue: issued, completed, occupancy, then the unfinished images in order with DET and FCE. -/
def EngState.queueBody (x : EngState) : List Byte :=
  let q := x.q.filter (fun y => y.phase != .done)
  leBytes 4 x.issued.toNat ++ leBytes 4 x.completed.toNat ++ bodyField .occupancy q.length ++
  q.flatMap (fun y => imageBytes y.img ++ bodyField .entryMode (2 * b2n y.det + b2n y.fce))

/-- An operand queue: its binding, occupancy and entries, oldest first. -/
def OpQueue.body (q : OpQueue) : List Byte :=
  bodyField .binding (8 * q.prod + q.cons) ++ bodyField .occupancy q.ents.length ++ q.ents.flatMap laneBytes

/-- A pending write (R39): destination, value, mask, remaining slots. -/
def VxPend.body (p : VxPend) : List Byte :=
  bodyField .target (match p.dst with
    | .v n => n
    | .q n => 64 + n
    | .none => 72) ++
  bodyField .target (match p.y with
    | some n => n + 1
    | none => 0) ++ laneBytes p.val ++ leBytes 8 p.mask.toNat ++ bodyField .left p.left

/-- VX: its registers, the operand queues, the pending-write list. -/
def Vx.body (x : Vx) : List Byte :=
  x.v.toList.flatMap laneBytes ++ x.y.toList.flatMap laneBytes ++ x.m.toList.flatMap (fun m => leBytes 8 m.toNat) ++
  x.k.toList.flatMap (fun k => leBytes 4 k.toNat) ++ laneBytes x.lfsr ++ x.q.toList.flatMap OpQueue.body ++ x.pend.flatMap VxPend.body

/-- A level of a loop-nest table (R206). -/
def NestLevel.body (l : NestLevel) : List Byte :=
  leBytes 2 l.cntm1.toNat ++ leBytes 4 l.sa.toNat ++ leBytes 4 l.sb.toNat ++ leBytes 2 l.cr.toNat ++ leBytes 2 l.cc.toNat

/-- The code of an accumulator's tag. -/
def AccTag.code : AccTag → Nat
  | .plain => 0 | .comp => 1 | .arg => 2

/-- MX and EP: loop nests, set-up, accumulators with their companions, EP program memory, e0 to e7, EP's LFSRs, and what a held tile
keeps (R228). -/
def Mx.body (m : Mx) : List Byte :=
  m.staging.toList.flatMap NestLevel.body ++ m.active.toList.flatMap NestLevel.body ++
  [m.opnd.ta, m.opnd.tb, m.opnd.ga, m.opnd.gb, b2n m.opnd.pois, b2n m.opnd.la, b2n m.opnd.lb, m.opnd.pa, m.opnd.abase, m.opnd.bbase, m.opnd.pb,
   b2n m.acc.drn, m.acc.mode, m.acc.lp, m.acc.lbase].flatMap (bodyField .setup) ++
  m.accs.toList.flatMap (fun a => a.rows.toList.flatMap laneBytes ++ a.comp.toList.flatMap laneBytes ++ bodyField .tag a.tag.code) ++
  m.prog.toList.flatMap (fun w => leBytes 4 w.toNat) ++ m.e.toList.flatMap laneBytes ++ laneBytes m.lfsr ++
  (m.tiles.filter (·.held)).flatMap (fun t => bodyField .hold t.acc ++ bodyField .hold (t.row0 % 2 ^ 32).toNat ++
    bodyField .hold (t.col0 % 2 ^ 32).toNat ++ (match t.drain with
      | some d => d.snapE.toList.flatMap laneBytes ++ laneBytes d.snapLfsr
      | none => []))

/-- SX: the configuration word and both carry descriptors. -/
def Sx.body (x : Sx) : List Byte := leBytes 8 x.cfg.toNat ++ leBytes 8 x.staged.toNat ++ leBytes 8 x.active.toNat

/-- CP: each channel with its transfers in order, the stage counter, which is the replay position (R259). -/
def Cp.body (c : Cp) : List Byte :=
  (List.range 8).flatMap (fun ch =>
    let l := c.xfers.filter (fun x => x.ch == ch)
    bodyField .channel l.length ++ l.flatMap (fun x =>
      [x.seq.toNat, x.stid, x.soff, x.rows, x.bytes, x.sp, x.dp, x.pattern.toNat].flatMap (bodyField .channel) ++
      x.recvs.flatMap (fun r => bodyField .channel r.tid ++ bodyField .channel r.off))) ++ leBytes 2 c.stage.toNat

/-- The state of a slot as FR.STAT gives it (R244). -/
def SlotSt.code : SlotSt → Nat
  | .empty => 0 | .loading => 1 | .resident => 2 | .writing => 3 | .swapping => 4

/-- The 32 slot entries (R24). -/
def Fr.body (f : Fr) : List Byte :=
  f.slots.toList.flatMap (fun x => bodyField .slot f.size ++ leBytes 4 x.sess.toNat ++ bodyField .slot x.pins ++
    leBytes 1 (x.st.code + 16 * x.res) ++ bodyField .slot x.tid.toNat)

/-- The progress record of one destination (R41, R256): the first unverified unit and the map of the 32 behind it. -/
def Recv.progress (r : Recv) : List Byte :=
  let f := ((List.range (r.ok.length + 1)).find? (fun u => !r.ok.contains u)).getD 0
  bodyField .progress f ++ leBytes 4 ((List.range 32).foldl (fun n k => if r.ok.contains (f + 1 + k) then n + 2 ^ k else n) 0)

/-- The progress records (R41) of the started entries of FE, of the transfers of CP and of MX.GO. -/
def Core.progressBody (c : Core) : List Byte :=
  ((c.eng.get .fe).q.filter (fun x => x.phase == .started)).flatMap (fun x => bodyField .progress x.prog) ++
  c.cp.xfers.flatMap (fun x => x.recvs.flatMap Recv.progress) ++
  c.mx.gos.flatMap (fun g =>
    let l := c.mx.tiles.filter (fun t => t.go == g.seq)
    let held := l.any (·.held)
    bodyField .progress g.released ++ bodyField .progress (b2n held) ++ bodyField .progress (b2n (decide (g.released + 1 < g.next))) ++
    bodyField .progress ((l.find? (·.held)).bind (·.drain) |>.elim 0 (fun d => d.skip)))

/-- The held faults: cause, value and sequence number. -/
def Core.heldBody (c : Core) : List Byte :=
  Eng.all.flatMap (fun e => match (c.eng.get e).held with
    | some h => bodyField .fault h.trap.cause.code ++ leBytes 8 h.trap.val.toNat ++ leBytes 4 h.seq.toNat
    | none => [])

/-- The outstanding remote access (R356): its address, the offset that it reaches and what identifies it. -/
def Core.outstandingBody (c : Core) : List Byte :=
  match c.outst with
  | some r => [r.ea.toNat, r.off, r.id].flatMap (bodyField .remote)
  | none => []

/-- The body of the logical image of physical core p with the state c (R38, R347), without the parked list. -/
def State.imageBody (s : State) (p : Nat) (c : Core) : List Byte :=
  c.ctlBody ++ c.tokenBody ++ Eng.all.flatMap (fun e => (c.eng.get e).queueBody) ++
  Eng.all.flatMap (fun e => (c.eng.get e).tmpl.toList.flatMap imageBytes) ++ c.vx.body ++
  c.sx.fade.toList.flatMap (fun x => leBytes 2 x.toNat) ++ c.mx.body ++ c.sx.body ++ c.cp.body ++ c.fr.body ++ c.progressBody ++
  s.bytes (spadPa p 0) Config.spadBytes ++ c.heldBody ++ c.outstandingBody

end Sys2Proof.Machine
end

