-- ==== Sys2Proof/Machine/Sha3.lean ====
section
/-!
DEFINITION. SHA3-256, the digest that images (R347, R349) and measurements (R414) name. The spec names the function; its rounds
and constants are those of its published standard, FIPS 202 (PRESUMED, log entry 103).
-/

namespace Sys2Proof.Machine.Sha3

/-- The offsets of step rho, lane x + 5y at place x + 5y. -/
def offsets : List Nat :=
  [0, 1, 62, 28, 27, 36, 44, 6, 55, 20, 3, 10, 43, 25, 39, 41, 45, 15, 21, 8, 18, 2, 61, 56, 14]

/-- The round constants of step iota. -/
def constants : List Nat :=
  [0x0000000000000001, 0x0000000000008082, 0x800000000000808A, 0x8000000080008000, 0x000000000000808B, 0x0000000080000001,
   0x8000000080008081, 0x8000000000008009, 0x000000000000008A, 0x0000000000000088, 0x0000000080008009, 0x000000008000000A] ++
  [0x000000008000808B, 0x800000000000008B, 0x8000000000008089, 0x8000000000008003, 0x8000000000008002, 0x8000000000000080,
   0x000000000000800A, 0x800000008000000A, 0x8000000080008081, 0x8000000000008080, 0x0000000080000001, 0x8000000080008008]

/-- A 64-bit lane rotated left. -/
def rotl (x n : Nat) : Nat := ((x <<< n) ||| (x >>> (64 - n))) % 2 ^ 64

/-- One round of the permutation on 25 lanes. -/
def round (l : List Nat) (rc : Nat) : List Nat :=
  let at' (m : List Nat) (i : Nat) : Nat := m.getD i 0
  let c := (List.range 5).map (fun x => at' l x ^^^ at' l (x + 5) ^^^ at' l (x + 10) ^^^ at' l (x + 15) ^^^ at' l (x + 20))
  let d := (List.range 5).map (fun x => at' c ((x + 4) % 5) ^^^ rotl (at' c ((x + 1) % 5)) 1)
  let a := (List.range 25).map (fun i => at' l i ^^^ at' d (i % 5))
  let b := (List.range 25).map (fun i =>
    let j := (i % 5 + 3 * (i / 5)) % 5 + 5 * (i % 5)
    rotl (at' a j) (offsets.getD j 0))
  (List.range 25).map (fun i =>
    let y := i / 5 * 5
    let v := at' b i ^^^ ((2 ^ 64 - 1 - at' b (y + (i + 1) % 5)) &&& at' b (y + (i + 2) % 5))
    if i = 0 then v ^^^ rc else v)

/-- The permutation. -/
def permute (l : List Nat) : List Nat := constants.foldl round l

/-- Bytes as a little-endian number. -/
def leVal (l : List Byte) : Nat :=
  match l with
  | [] => 0
  | b :: r => b.toNat + 256 * leVal r

/-- A block of 136 bytes added to the lanes. -/
def absorbBlock (l : List Nat) (b : List Byte) : List Nat :=
  permute ((List.range 25).map (fun i => l.getD i 0 ^^^ leVal ((b.drop (8 * i)).take 8)))

/-- The blocks of a message, n of them whole, then the padded rest. -/
def absorb (l : List Nat) (n : Nat) (m : List Byte) : List Nat :=
  match n with
  | 0 =>
    let p := m ++ [6] ++ List.replicate (135 - m.length) 0
    absorbBlock l (p.take 135 ++ [p.getD 135 0 ||| 0x80])
  | k + 1 => absorb (absorbBlock l (m.take 136)) k (m.drop 136)

/-- The digest of a message as four little-endian doubles. -/
def digest (m : List Byte) : List W64 :=
  ((absorb (List.replicate 25 0) (m.length / 136) m).take 4).map (BitVec.ofNat 64)

end Sys2Proof.Machine.Sha3
end

