-- ==== Sys2Proof/Machine/Save.lean ====
section
/-!
DEFINITION. Stops, saves and resumes of a core (R38–R41, R309, R343, R346–R353) as operations of the scheduler, the slot
table and the debug unit.
-/

namespace Sys2Proof.Machine

/-! ### Stopping at entry boundaries (R40, R41, R346) -/

/-- A restartable entry (R41). -/
def restartable (e : Eng) (m : Image) : Bool :=
  match e with
  | .fe => m.opc == 3 || m.opc == 4 || m.opc == 8
  | .vx => true
  | .mx => m.opc == 4
  | .sx => m.opc == 4
  | .cp => m.opc == 1 || m.opc == 2 || m.opc == 3 || m.opc == 4 || m.opc == 6
  | _ => false

/-- Every entry of an engine is in one of the three conditions of R40. -/
def EngState.stopped (x : EngState) (e : Eng) : Bool :=
  x.q.all (fun y => match y.phase with
    | .queued | .withheld | .done => true
    | .started => restartable e y.img
    | .finished => x.held.isSome)

/-- No tile reads its operands (R227), and none is in its drain, a held one apart (R228). -/
def Mx.atTile (m : Mx) : Bool :=
  m.reading.isNone &&
  match m.tiles with
  | [] => true
  | t :: _ => t.held

/-- The engines of a core stand at entry boundaries. -/
def Core.quiesced (c : Core) : Bool := Eng.all.all (fun e => (c.eng.get e).stopped e) && c.mx.atTile

/-- No transfer into the scratchpad is under way: the incoming half of the scoreboard is empty (R25, R371). -/
def Core.landed (c : Core) : Bool := (c.sb.toList.drop 8).all (·.isNone)

/-- A logical stop of physical core p begins (R343, R346): CTL leaves what it waits in, the queues stop, the event flag is
set (R137). -/
def State.logicalStop (s : State) (p : Nat) (donate : Bool) : State :=
  (s.leaveRemote p).updAt p (fun c => { c.leaveWait with qstop := true, ev := true, run := .saving donate (c.run == .halted) })

/-! ### Images (R347) -/

/-- The cells of the scratchpad of physical core p, by offset. -/
def State.spadCells (s : State) (p : Nat) : List Host.Cell :=
  (s.mem.filter (fun c => spadPa p 0 ≤ c.1 && c.1 < spadPa (p + 1) 0)).map (fun c => (c.1 - spadPa p 0, c.2))

/-- The cells of n bytes of memory from an address on, by offset. -/
def State.cellsIn (s : State) (a n : Nat) : List Host.Cell :=
  (s.mem.filter (fun c => a ≤ c.1 && c.1 < a + n)).map (fun c => (c.1 - a, c.2))

/-- The poisoned units of the scratchpad of physical core p, by unit offset. -/
def State.spadPoison (s : State) (p : Nat) : List Nat :=
  (s.poison.filter (fun u => spadPa p 0 ≤ 64 * u && 64 * u < spadPa (p + 1) 0)).map (· - spadPa p 0 / 64)

/-- The barrier objects of the scratchpad of physical core p whose phase a DBAR under DET has marked (R157), by offset. -/
def State.spadDets (s : State) (p : Nat) : List Nat :=
  (s.detBars.filter (fun a => spadPa p 0 ≤ a && a < spadPa (p + 1) 0)).map (· - spadPa p 0)

/-- The scratchpad of physical core p becomes what an image holds of it: its cells, its poison, the marked phases of its barriers. -/
def State.placeSpad (s : State) (p : Nat) (i : SavedImage) : State :=
  let s := s.clearSpad p
  let s := i.spad.foldl (fun s c => s.setByte (spadPa p c.1) c.2) s
  { s with poison := i.poison.map (· + spadPa p 0 / 64) ++ s.poison, detBars := i.dets.map (spadPa p) ++ s.detBars }

/-- Bit g set for each engine that holds a fault. -/
def Core.heldMask (c : Core) : Nat := Eng.all.foldl (fun x e => if (c.eng.get e).held.isSome then x + 2 ^ e.num else x) 0

/-- Doubles 0 to 11 of a logical image's header (R347). -/
def State.imageHeader (s : State) (bodyLen : Nat) : List W64 :=
  let c := s.core
  let r : List W64 := match c.work with
    | some r => [r.d0, r.d1, r.d2, r.d3]
    | none => [0, 0, 0, 0]
  let ix := match c.work with
    | some r => r.d3.toNat % 2 ^ 32
    | none => 0
  [0x0002000100010000#64,
   BitVec.ofNat 64 (s.vf.toNat * 2 ^ 23 + s.part * 2 ^ 18 + s.self % 256 * 2 ^ 10 + c.heldMask),
   BitVec.ofNat 64 (s.lid * 2 ^ 32 + ix), BitVec.ofNat 64 (c.parked.length * 2 ^ 32)] ++ r ++ [BitVec.ofNat 64 bodyLen, 0, 0, 0]

/-- Doubles as bytes, little-endian (R4). -/
def doubleBytes (l : List W64) : List Byte := l.flatMap (fun d => leBytes 8 d.toNat)

/-- Doubles that the hardware stores from an address on for context ctx of partition q. -/
def State.storeDoubles (s : State) (q : Nat) (ctx : BitVec 9) (a : Nat) (l : List W64) : State := s.hwWriteFor q ctx a (doubleBytes l)

/-- Destinations of a transfer whose local scoreboard entries do not travel with an image. -/
def State.unboundRecvs (s : State) (x : Xfer) : Xfer :=
  { x with recvs := x.recvs.map (fun r => if s.recvLocal r then { r with sb := none } else r) }

/-- The focused core's state as an image keeps it (R38): SFC, the event flag, the L1 and the scoreboard are not saved. -/
def State.savedCore (s : State) : Core :=
  { s.core with arv := s.arvBit s.core.pc, sfc := 0, l1 := [], run := .idle, reserved := none, quiet := 0,
                sb := Vector.replicate 16 none,
                cp := { s.core.cp with xfers := s.core.cp.xfers.map s.unboundRecvs } }

/-- The bytes that a HASH covers: a header with double k read as zero, then the body (R347, R349). -/
def hashInput (header : List W64) (k : Nat) (body : List Byte) : List Byte :=
  doubleBytes (header.zipIdx.map (fun d => if d.2 = k then 0 else d.1)) ++ body

/-- What a record that leaves with its image leaves behind on the core (R29): the state of its context, without the record, its
queue entries, what they had under way and its faults. Entries that leave count as completed here (log entry 121, DESIGN CHOICE). -/
def Core.vacated (c : Core) : Core :=
  { c with wait := none, work := none, trig := false, run := .idle, reserved := none, entry := 0, wdog := 0, quiet := 0, stored := true,
           rsbHeld := false, qstop := false, qlevel := 0, outst := none, left := none, sent := [], parked := [], arv := false, pl := 0, l1 := [],
           eng := c.eng.map (fun x => { x with q := [], held := none, completed := x.issued }),
           vx := { c.vx with pend := [] }, mx := { c.mx with gos := [], tiles := [], reading := none },
           cp := { c.cp with xfers := [], colls := [] }, fr := { c.fr with xid := none, fails := [] },
           sb := Vector.replicate 16 none }

/-- The bytes of the parked list of an image written behind its content. -/
def State.writeParkedList (s : State) (i : SavedImage) : State :=
  (List.range i.parked.length).foldl (fun s k => s.writeParked i k) s

/-- An image exists from now on, live, and among those whose content memory may hold. -/
def State.addImage (s : State) (i : SavedImage) : State :=
  { s with images := s.images ++ [i], archive := i :: s.archive, nextImage := s.nextImage + 1 }

/-- The logical image that holds the saved state of a context on physical core p, the latest (R309). -/
def State.savedHere (s : State) (p : Nat) (vf : BitVec 9) : Option SavedImage :=
  s.images.reverse.find? (fun i => !i.scan && i.phys == p && i.vf == vf)

/-- The saved state of the focused core's context that no record waits in gives its area up to a new image. -/
def State.freeArea (s : State) : State :=
  { s with images := s.images.filter (fun i => i.scan || i.phys != s.cur || i.vf != s.vf || i.core.work.isSome) }

/-- The logical image of the focused core is written to its context's core-save area, header, HASH, body and parked list
(R346, R347). -/
def State.writeImage (s : State) (halted : Bool) : State :=
  let id := s.nextImage
  let a := s.pfBits (vfReg s.vf.toNat 0x48) 0 48 + 2 ^ 23 * s.cur
  let body := s.imageBody s.cur s.savedCore
  let h := s.imageHeader body.length
  let sum := Sha3.digest (hashInput h 3 body)
  let i : SavedImage :=
    { id := id, scan := false, vf := s.vf, part := s.core.part, phys := s.cur, log := s.self, addr := BitVec.ofNat 48 a,
      core := s.savedCore, spad := s.spadCells s.cur, poison := s.spadPoison s.cur, dets := s.spadDets s.cur, header := h, hash := sum,
      parked := s.core.parked, body := cellsOf 0 body, written := true, sealed := true, straggler := false, halted := halted }
  ((s.freeArea.hwBlock s.part s.vf a (doubleBytes (h ++ sum) ++ body)).writeParkedList i).addImage i

/-- An entry at the head of its level (R313): it takes up the slot that it kept (R310), a record without one a new slot. -/
def State.requeue (s : State) (e : TqEntry) : State :=
  if e.id = 0 then { s with tq := { e with id := s.nextSlot } :: s.tq, nextSlot := s.nextSlot + 1 }
  else { s with tq := e :: s.tq, taken := s.taken.filter (fun x => x.id != e.id) }

/-- The focused core is saved: the image, the record requeued, the core idle with the state that the record leaves there; the
pins of the SX.CARRY entries go with them (R29, R234, R313, R346). -/
def State.saveCore (s : State) (halted : Bool) : State :=
  let id := s.nextImage
  let t := s.writeImage halted
  let t := match s.core.work with
    | some r => t.requeue ⟨s.core.part, r.prio, r, 0, none, some id, s.core.entry⟩
    | none => t
  let t := (s.eng .sx).q.foldl (fun t x => t.pinSlots (slotMask .sx x.img) (· - 1)) t
  (t.upd Core.vacated).nowIdle

/-- Memory at an address holds the content of an image that its HASH covers, and that HASH (R347, R349). -/
def State.holdsContent (s : State) (i : SavedImage) (a : Nat) : Bool :=
  let skip := if i.scan then 5 else 3
  let base := if i.scan then 4096 else 128
  let n := if i.scan then 6553600 else (i.header.getD 8 0).toNat
  (i.header.zipIdx.all (fun d => d.2 == skip || s.load8 (a + 8 * d.2) == d.1)) &&
  (i.hash.zipIdx.all (fun d => s.load8 (a + 8 * (i.header.length + d.2)) == d.1)) &&
  s.cellsIn (a + base) n == i.body &&
  s.poison.all (fun u => decide (64 * u + 64 ≤ a) || decide (a + base + n ≤ 64 * u))

/-- The image whose content memory holds at an address, the latest: written there, or moved there (R380, R406). -/
def State.imageAt (s : State) (scan : Bool) (a : Nat) : Option SavedImage :=
  s.archive.find? (fun i => i.scan == scan && s.holdsContent i a)

/-- The checks a core makes on a logical image (R347): KIND, FMT, ARCH, VF and HASH. -/
def State.imageOk (s : State) (i : SavedImage) : Bool := s.holdsContent i i.addr.toNat

/-- An image no longer exists. -/
def State.dropImage (s : State) (id : Nat) : State := { s with images := s.images.filter (fun i => i.id != id) }

/-- A transfer of the focused core that a logical image has brought goes on (R256): its local destinations get scoreboard entries
again, remote ones whose header is not accepted and no longer under way a header. -/
def State.rebindXfer (s : State) (x : Xfer) : State :=
  if !x.begun then s else
  x.recvs.zipIdx.foldl (fun t r =>
    let sent := s.flits.any (fun f => f.msg == .header x.id r.2)
    if r.1.dead || r.1.acked || r.1.sb.isSome || r.1.hdr || sent then t else t.beginRecv x r.2 r.1) s

/-- The core of whose counters (R36, R369) and preloaded launches (R29, R316) a context's on the focused core are: the core itself
while the context is resident, else its saved state here. -/
def State.ownBank (s : State) (vf : BitVec 9) : Core :=
  if s.core.resident = some vf then s.core else
  match s.savedHere s.cur vf with
  | some i => i.core
  | none => .reset

/-- The state that the focused core takes from an image, the debug block, the ring stop's counts and what the scheduler holds of the
core apart; the orbit count is 0 after a scan restore (R352). -/
def State.imageCore (s : State) (i : SavedImage) (run : Run) : Core :=
  let c := s.core
  let own := if i.scan then i.core else s.ownBank i.vf
  { i.core with part := c.part, resident := some i.vf, run := run, dbg := c.dbg, ctr := own.ctr, preloaded := own.preloaded,
                orbit := if i.scan then 0 else c.orbit, accepted := if i.scan then 0 else c.accepted, reserved := c.reserved,
                idleAt := c.idleAt, stored := false, ev := true, sent := [], parked := [] }

/-- The focused core takes the state of an image (R347, R352): its parked arrivals are applied in order. -/
def State.loadImage (s : State) (i : SavedImage) (run : Run) : State :=
  let s := ({ s with core := s.imageCore i run }).placeSpad s.cur i
  let s := if i.scan then s else s.core.cp.xfers.foldl State.rebindXfer s
  (s.applyParked s.cur i.parked).dropImage i.id

/-- The focused core takes the state of its context from an image in which a record of the context still waits (R29, R309). -/
def State.shareImage (s : State) (i : SavedImage) : State :=
  { s with core := (s.imageCore i .idle).vacated }.placeSpad s.cur i

/-- The queues of a resumed core run on where no fault is held and no engine trap is still being handled (R344). -/
def State.resumeIfFree (s : State) : State := if s.anyHeld || s.core.qlevel != 0 then s else s.resumeQueues

/-- The resident context's state goes to its core-save area (R309), unless the area holds it already. -/
def State.leaveContext (s : State) : State :=
  match s.core.resident with
  | some vf => if s.core.stored && (s.savedHere s.cur vf).isSome then s else s.writeImage false
  | none => s

/-- The focused core's state becomes that of a context (R309): the old context's is saved, the new one's restored, or the
reset values taken. -/
def State.switchContext (s : State) (vf : BitVec 9) : State :=
  if s.core.resident = some vf then s else
  let s := s.leaveContext.coreReset s.cur s.part
  match s.savedHere s.cur vf with
  | some i => if i.core.work.isNone then s.loadImage i .idle else s.shareImage i
  | none => s.upd (fun c => { c with resident := some vf })

/-- A halted core without a record that an edge saved (R360): what the next grant of physical core p to its partition restores. -/
def State.haltedImage (s : State) (p : Nat) : Option SavedImage :=
  s.images.find? (fun i => !i.scan && i.phys == p && i.halted && i.core.work.isNone && s.coreHolder p == some i.part.toNat)

/-! ### Scan stops (R348–R351) -/

/-- Doubles 0 to 7 of a scan image's header (R349, R450), LOG the package logical number; ACCEPTED and PARKED are written at the
seal. -/
def State.scanHeader (s : State) (p reason : Nat) : List W64 :=
  let c := s.coreAt p
  [BitVec.ofNat 64 (0x00010001 * 2 ^ 32 + Config.tileRev.toNat), s.boot.devser,
   BitVec.ofNat 64 (p * 2 ^ 40 + s.pkgLog p % 256 * 2 ^ 32 + (c.resident.getD 0).toNat * 2 ^ 23 +
     c.part.toNat * 2 ^ 18 + reason * 2 ^ 16),
   BitVec.ofNat 64 (c.orbit.toNat * 2 ^ 32), 0x0000100000003200#64, 0, 6553600#64, 0]

/-- The scan image of physical core p, the latest. -/
def State.scanImage (s : State) (p : Nat) : Option SavedImage := s.images.reverse.find? (fun i => i.scan && i.phys == p)

/-- What is parked for a tile: at its ring stop, or in the image of a scan halt that it is in. -/
def State.parkedFor (s : State) (p : Nat) : List Parked :=
  match (s.coreAt p).run, s.scanImage p with
  | .scanStopped 2, some i => i.parked
  | _, _ => (s.coreAt p).parked

/-- The tile of physical core p freezes (R348): its state is streamed to an image at an address. -/
def State.scanStop (s : State) (p reason : Nat) (a : Addr) (halted : Bool) : State :=
  let c := s.coreAt p
  let i : SavedImage :=
    { id := s.nextImage, scan := true, vf := c.resident.getD 0, part := c.part, phys := p, log := s.pkgLog p,
      addr := a, core := { c with accepted := 0 }, spad := s.spadCells p, poison := s.spadPoison p,
      dets := s.spadDets p, header := s.scanHeader p reason, hash := [], parked := s.parkedFor p, body := [], written := false, sealed := false,
      straggler := reason == 0, halted := halted }
  let old (j : SavedImage) : Bool := j.scan && j.phys == p && c.run == .scanStopped 2
  let s := { s with images := s.images.filter (fun j => !old j) ++ [i], nextImage := s.nextImage + 1 }
  s.updAt p (fun c => { c with run := .scanStopped reason, accepted := 0, parked := [] })

/-- An image changed, and its content with it. -/
def State.updImage (s : State) (id : Nat) (f : SavedImage → SavedImage) : State :=
  { s with images := s.images.map (fun i => if i.id = id then f i else i),
           archive := s.archive.map (fun i => if i.id = id then f i else i) }

/-- An operation of a port stop on the core whose state an image holds (R353). -/
def State.onImage (s : State) (i : SavedImage) (f : State → State) : State :=
  let t := f { s with core := i.core }
  { t with core := s.core }.updImage i.id (fun i => { i with core := t.core })

end Sys2Proof.Machine
end

