-- ==== Sys2Proof/Machine/Sched.lean ====
section
/-!
DEFINITION. Records, launches and the choice of work (R123–R132, R306–R326, R328, R376): the instructions that make them and
the scheduler's own steps.
-/

namespace Sys2Proof.Machine

/-! ### Reading records (R124, R130) -/

/-- The double at a global address read by an agent; zeros for a poisoned unit under ZERO. -/
def State.readDouble (s : State) (ag : Agent) (ga : Nat) : Except Trap (W64 × State) := do
  let p ← s.place ag ga 8
  match p with
  | .here l =>
    if s.poisoned l.pa && !l.zero then throw (trAt l.poisonCause false ga)
    else
      let r := s.readZ 0 0 l 8
      return (BitVec.ofNat 64 (leNat r.1), r.2)
  | .remote _ _ => throw (trAt .translation false ga)

/-- n doubles from a global address on. -/
def State.readDoubles (s : State) (ag : Agent) (ga n : Nat) : Except Trap (List W64 × State) :=
  match n with
  | 0 => .ok ([], s)
  | k + 1 => do
    let (d, s) ← s.readDouble ag ga
    let (ds, s) ← s.readDoubles ag (ga + 8) k
    return (d :: ds, s)

/-- The checks of R124 on the address of a record, counter or launch record; ALIGN comes before TRANSLATION where both hold
(DESIGN CHOICE, log entry 102). -/
def objAddr (ga align : Nat) : Option Trap :=
  if ga % align ≠ 0 then some (trAt .align false ga)
  else if ga / 2 ^ 36 = 0 || 0xDFF < ga / 2 ^ 36 then some (trAt .translation false ga)
  else none

/-! ### Task queues (R307, R310) -/

/-- A record with the context, launch id, priority and table that its creator supplies (R307). -/
def State.childRec (s : State) (d : List W64) (prio : Nat) : Rec :=
  { d0 := d.getD 0 0, d1 := d.getD 1 0, d2 := d.getD 2 0, d3 := d.getD 3 0, vf := s.vf, lid := BitVec.ofNat 32 s.lid,
    prio := prio, ttab := (match s.core.work with
      | some r => r.ttab
      | none => 0), group := false }

/-- Task-queue entries that count against a context's quota (R310). -/
def State.quotaUsed (s : State) (vf : BitVec 9) : Nat :=
  ((s.tq ++ s.taken).filter (fun e => e.work.vf == vf)).length

/-- TQUOTA of a VF (R375). -/
def State.tquota (s : State) (vf : BitVec 9) : Nat := s.pfBits (vfReg vf.toNat 0x18) 0 32

/-- LQUOTA of a VF (R375). -/
def State.lquota (s : State) (vf : BitVec 9) : Nat := s.pfBits (vfReg vf.toNat 0x18) 32 32

/-- An entry appended to a level of a partition's task queue, with a slot number of its own (R310). -/
def State.enqueueAt (s : State) (part : BitVec 5) (prio : Nat) (r : Rec) (gang img : Option Nat) : State :=
  { s with tq := s.tq ++ [⟨part, prio, r, 0, gang, img, s.nextSlot⟩], nextSlot := s.nextSlot + 1 }

/-- A record appended to a partition's task queue (R310). -/
def State.enqueue (s : State) (part : BitVec 5) (r : Rec) : State := s.enqueueAt part r.prio r none none

/-- SPAWN's append, or its wait for quota (R125). -/
def State.spawnOr (s : State) (d : List W64) (prio : BitVec 2) : State :=
  if s.tquota s.vf ≤ s.quotaUsed s.vf then s.waitIn (.spawn (d.getD 0 0) (d.getD 1 0) (d.getD 2 0) (d.getD 3 0) prio)
  else (s.enqueue s.core.part (s.childRec d prio.toNat)).retire 1

/-- SPAWN (R123–R125). -/
def execSpawn (sa : Reg) (prio : BitVec 2) (s : State) : Out :=
  let ga := (s.addr sa).toNat
  .next (match objAddr ga 32 with
    | some t => s.trap t
    | none => match s.readDoubles (.ctl s.core.pl) ga 4 with
      | .error t => s.trap t
      | .ok (d, s) => s.spawnOr d prio)

/-- The quota that a SPAWN waits for has room (R125). -/
def execSpawnAppend (s : State) : Out :=
  .next (s.whenLive (match s.core.wait with
    | some (.spawn d0 d1 d2 d3 p) => s.spawnOr [d0, d1, d2, d3] p
    | _ => s))

/-- The continuation record at CONT (R127): read at the home slice, or the cause with EVAL holding CONT; bits 63:62 stay those of
the failing check (DESIGN CHOICE, log entry 105). -/
def State.continuation (s : State) (cont : Nat) : Except Trap (List W64 × State) :=
  let named (t : Trap) : Trap := ⟨t.cause, BitVec.ofNat 64 (bits t.val.toNat 62 2 * 2 ^ 62 + cont)⟩
  match objAddr cont 32 with
  | some t => .error (named t)
  | none => match s.readDoubles (.ctl s.core.pl) cont 4 with
    | .error t => .error (named t)
    | .ok x => .ok x

/-- The atomic step of JOIN on the counter at a place (R127), acquire and release at PACKAGE scope (R269, R290). -/
def State.joinAt (s : State) (l : Loc) : State :=
  let t := (s.atomic 0 0 l (fun x => x.store8 l.pa (x.load8 l.pa - 1))).acquire true
  let cont := bits (t.load8 (l.pa + 8)).toNat 0 48
  if t.load8 l.pa = 0 && cont != 0 then
    match t.continuation cont with
    | .error e => (t.retire 1).trap e
    | .ok (d, u) => (u.enqueue u.core.part (u.childRec d (bits (u.load8 (l.pa + 16)).toNat 0 2))).retire 1
  else t.retire 1

/-- JOIN (R124, R126, R127). -/
def execJoin (sa : Reg) (s : State) : Out :=
  let ga := (s.addr sa).toNat
  .next (match objAddr ga 32 with
    | some t => s.trap t
    | none => match s.place (.ctl s.core.pl) ga 32 with
      | .error t => s.trap t
      | .ok (.remote _ _) => s.trap (trAt .translation false ga)
      | .ok (.here l) => match s.stepPoison l with
        | some c => s.trap (trAt c false ga)
        | none => s.scrubGuard (s.joinAt l))

/-! ### Launch records (R130, R314–R318) -/

/-- Level l of a launch record (R314, R315). -/
def levelWord (d : List W64) (l : Nat) : Nat := bits (d.getD (8 + l / 2) 0).toNat (32 * (l % 2)) 32

/-- Launch id j of AFTER (R314). -/
def afterWord (d : List W64) (j : Nat) : Nat := bits (d.getD (12 + j / 2) 0).toNat (32 * (j % 2)) 32

/-- A level word read (R315). -/
def Level.of (w : Nat) : Level := ⟨bit w 23, bits w 16 3, bits w 0 16⟩

/-- A level word is valid (R315). -/
def levelOk (w : Nat) : Bool := bits w 24 8 == 0 && decide (bits w 19 4 ≤ 8) && decide (bits w 16 3 ≤ 5) && decide (1 ≤ bits w 0 16)

/-- Groups of a level-l block, B_l (R315). -/
def blockSize (ls : List Level) (l : Nat) : Nat := prod ((ls.take (l + 1)).map (·.count))

/-- Levels of a launch record that R318 refuses. -/
def levelsBad (ls : List Level) : Bool :=
  !(ls.head? == some ⟨false, 0, 1⟩) ||
  (ls.zip (ls.drop 1)).any (fun x => decide (x.2.domain < x.1.domain)) ||
  decide (2 ^ 32 ≤ prod (ls.map (·.count))) ||
  decide (1 < (ls.filter (·.gang)).length) ||
  (List.range ls.length).any (fun l => match ls[l]? with
    | some x => x.gang && !((x.domain == 1 && decide (blockSize ls l ≤ 4)) || (x.domain == 2 && decide (blockSize ls l ≤ 12)))
    | none => false)

/-- A launch record parsed: the launch, NTPRE and TPRE; none when R318 refuses it as malformed,
or R411 a DET launch. -/
def parseLaunch (d : List W64) (vf : BitVec 9) (part : BitVec 5) (recAddr ncore persists : Nat) (detOk : Bool) : Option (Launch × Nat × Nat) :=
  let g (k : Nat) : Nat := (d.getD k 0).toNat
  let nl := bits (g 6) 56 3 + 1
  let ndep := bits (g 6) 52 4
  let ls := (List.range nl).map (fun l => Level.of (levelWord d l))
  let groups := prod (ls.map (·.count))
  let det := bit (g 6) 61
  let persist := bit (g 6) 60
  let sflen := bits (g 6) 0 17
  let bad :=
    bits (g 0) 48 16 != 0 || bits (g 1) 48 16 != 0 || bits (g 2) 48 16 != 0 || bits (g 3) 48 16 != 0 ||
    bits (g 4) 57 7 != 0 || bits (g 5) 48 16 != 0 || bits (g 6) 17 35 != 0 || g 7 != 0 ||
    decide (8 < ndep) || decide (448 < bits (g 4) 48 9) || bits (g 4) 0 48 % 8 != 0 || bits (g 3) 0 48 % 8 != 0 ||
    (List.range 8).any (fun l => if l < nl then !levelOk (levelWord d l) else levelWord d l != 0) ||
    (List.range 8).any (fun j => decide (ndep ≤ j) && afterWord d j != 0) || levelsBad ls ||
    (det && (!detOk || decide (sflen < 256) || decide (65536 < sflen) || persist || decide (ncore < groups))) ||
    (!det && sflen != 0) || (persist && decide (4 ≤ persists))
  if bad then none else
  some ({ vf := vf, lid := 0, part := part, recAddr := BitVec.ofNat 48 recAddr, entry := BitVec.ofNat 48 (g 0),
          args := BitVec.ofNat 48 (g 1), ttab := BitVec.ofNat 48 (g 2), sched := BitVec.ofNat 48 (g 3), preload := [],
          done := BitVec.ofNat 48 (g 5), prio := bits (g 6) 62 2, det := det, persist := persist, fence := bit (g 6) 59,
          sflen := BitVec.ofNat 17 sflen, levels := ls,
          deps := (List.range ndep).map (fun j => BitVec.ofNat 32 (afterWord d j)), groups := groups, begun := false,
          nextIdx := 0, triggered := [], retired := [], replayed := false, unread := false, host := none },
        bits (g 4) 48 9, bits (g 4) 0 48)

/-- The image whose halfwords h0 to h15 lie in four doubles (R55, R316). -/
def doublesImage (d : List W64) : Image :=
  Image.of ((List.range 16).map (fun k => bits (d.getD (k / 4) 0).toNat (16 * (k % 4)) 16))

/-- A preload entry read (R316), none when malformed. -/
def preloadOf (d : List W64) : Option (Eng × Nat × Image) :=
  let x := (d.getD 0 0).toNat
  match Eng.ofNum (bits x 8 3) with
  | some e =>
    let m := doublesImage (d.drop 1)
    if x = bits x 8 3 * 2 ^ 8 + bits x 0 6 && imageDefined e m then some (e, bits x 0 6, m) else none
  | none => none

/-- The preload table, entry by entry; none inside `ok` when an entry is malformed. -/
def State.preloads (s : State) (ag : Agent) (ga n : Nat) : Except Trap (Option (List (Eng × Nat × Image)) × State) :=
  match n with
  | 0 => .ok (some [], s)
  | k + 1 => do
    let (d, s) ← s.readDoubles ag ga 5
    let (r, s) ← s.preloads ag (ga + 40) k
    return (match preloadOf d, r with
      | some x, some l => some (x :: l)
      | _, _ => none, s)

/-- The header of a copy schedule is well formed (R76, R318): nonzero reserved bits make it malformed, LASTSTG is not read (log entry
130, DESIGN CHOICE). -/
def schedHeaderOk (d : List W64) : Bool :=
  let h := (d.getD 0 0).toNat
  bits h 32 32 == 0 && decide (1 ≤ bits h 0 16) && decide (bits h 0 16 ≤ 4096) && (d.drop 1).all (· == 0)

/-- The header of a launch's copy schedule read; a launch without one has none to fail. -/
def State.schedHeader (s : State) (ag : Agent) (l : Launch) : Except Trap (Bool × State) :=
  if l.sched = 0 then .ok (true, s) else
  match s.readDoubles ag l.sched.toNat 4 with
  | .error t => .error t
  | .ok (d, s) => .ok (schedHeaderOk d, s)

/-- The tables a launch record names are read (R130, R318): the launch, none when one of them is malformed. -/
def State.launchTables (s : State) (ag : Agent) (l : Launch) (n tpre : Nat) : Except Trap (Option Launch × State) := do
  let (p, s) ← s.preloads ag tpre n
  let (h, s) ← s.schedHeader ag l
  return (match p with
    | some p => if h then some { l with preload := p } else none
    | none => none, s)

/-- Live launches of a context. -/
def State.live (s : State) (vf : BitVec 9) : Nat := (s.launches.filter (fun l => l.vf == vf)).length

/-- Live persistent launches of a partition. -/
def State.persists (s : State) (q : BitVec 5) : Nat := (s.launches.filter (fun l => l.part == q && l.persist)).length

/-- A launch accepted under an id (R130, R318). -/
def State.accept (s : State) (l : Launch) (lid : W32) : State := { s with launches := s.launches ++ [{ l with lid := lid }] }

/-- NEXTLID of a VF taken (R130). -/
def State.takeLid (s : State) (vf : BitVec 9) : W32 × State :=
  let n := s.pfBits (vfReg vf.toNat 0x50) 0 32
  (BitVec.ofNat 32 n, s.setPf (vfReg vf.toNat 0x50) (BitVec.ofNat 64 (if n = 2 ^ 32 - 1 then 1 else n + 1)))

/-- LAUNCH's result for a refusal (R130). -/
def refusedWord (reason : Nat) : W64 := BitVec.ofNat 64 (2 ^ 63 + reason * 2 ^ 32)

/-- LAUNCH (R123, R124, R130, R318). The tables that a malformed record names are not read (DESIGN CHOICE, log entry 102). -/
def execLaunch (sd sa : Reg) (s : State) : Out :=
  let ga := (s.addr sa).toNat
  let ag := Agent.ctl s.core.pl
  let done (s : State) (v : W64) : State := (s.wr sd v).retire 1
  .next (match objAddr ga 64 with
    | some t => s.trap t
    | none => match s.readDoubles ag ga 16 with
      | .error t => s.trap t
      | .ok (d, s1) => match parseLaunch d s.vf s.core.part ga (s.ncore s.part) (s.persists s.core.part) (s.feature 3) with
        | none => done s1 (refusedWord 1)
        | some (l, n, tpre) => match s1.launchTables ag l n tpre with
          | .error t => s.trap t
          | .ok (none, s2) => done s2 (refusedWord 1)
          | .ok (some l, s2) =>
            if s2.lquota s2.vf ≤ s2.live s2.vf then done s2 (refusedWord 2)
            else
              let (lid, s3) := s2.takeLid s2.vf
              done (s3.accept l lid) (lid.setWidth 64))

/-! ### Groups, coordinates, bindings (R307, R321) -/

/-- The launch of a record. -/
def State.launchOf (s : State) (vf : BitVec 9) (lid : W32) : Option Launch :=
  s.launches.find? (fun l => l.vf == vf && l.lid == lid)

/-- The launch of a record, live or complete: a record that SPAWN made can outlive its launch. -/
def State.launchInfo (s : State) (vf : BitVec 9) (lid : W32) : Option Launch :=
  (s.launches ++ s.past).find? (fun l => l.vf == vf && l.lid == lid)

/-- A launch changed. -/
def State.updLaunch (s : State) (vf : BitVec 9) (lid : W32) (f : Launch → Launch) : State :=
  { s with launches := s.launches.map (fun l => if l.vf = vf && l.lid = lid then f l else l) }

/-- The record of group i (R307). -/
def Launch.record (l : Launch) (i : Nat) : Rec :=
  { d0 := l.entry.setWidth 64, d1 := l.args.setWidth 64, d2 := 0, d3 := BitVec.ofNat 64 (i % 2 ^ 32), vf := l.vf, lid := l.lid,
    prio := l.prio, ttab := l.ttab, group := true }

/-- INDEX of a record (R306). -/
def Rec.index (r : Rec) : Nat := r.d3.toNat % 2 ^ 32

/-- The unit of a domain that holds physical core p (R2): cluster, sector, die; one package. -/
def unitOf (domain p : Nat) : Nat :=
  match domain with
  | 0 => p | 1 => p / 4 | 2 => p / 12 | 3 => p / 36 | _ => 0

/-- The levels that bind blocks to units (R321): no gang, a domain from CLUSTER to DIE. -/
def Launch.bindingLevels (l : Launch) : List Nat :=
  (List.range l.levels.length).filter (fun k => match l.levels[k]? with
    | some x => !x.gang && decide (1 ≤ x.domain) && decide (x.domain ≤ 3)
    | none => false)

/-- DOMAIN of level k. -/
def Launch.domainOf (l : Launch) (k : Nat) : Nat := match l.levels[k]? with
  | some x => x.domain
  | none => 0

/-- The binding of group i at level k. -/
def State.bindingOf (s : State) (l : Launch) (k i : Nat) : Option Binding :=
  s.bindings.find? (fun b => b.vf == l.vf && b.lid == l.lid && b.level == k && b.block == i / blockSize l.levels k)

/-- A record's domain binding admits physical core p (R321). -/
def State.bindingAdmits (s : State) (r : Rec) (p : Nat) : Bool :=
  if !r.group then true else
  match s.launchOf r.vf r.lid with
  | none => true
  | some l => l.bindingLevels.all (fun k => match s.bindingOf l k r.index with
      | some b => b.unit == unitOf b.domain p
      | none => true)

/-- The blocks of a group that starts on core p are bound (R321). -/
def State.bindBlocks (s : State) (r : Rec) (p : Nat) : State :=
  if !r.group then s else
  match s.launchOf r.vf r.lid with
  | none => s
  | some l => l.bindingLevels.foldl (fun s k => match s.bindingOf l k r.index with
      | some _ => s
      | none => { s with bindings := ⟨l.vf, l.lid, k, r.index / blockSize l.levels k, l.domainOf k,
                                      unitOf (l.domainOf k) p⟩ :: s.bindings }) s

/-- Bindings whose block's last group has retired end (R321). -/
def State.sweepBindings (s : State) (l : Launch) : State :=
  { s with bindings := s.bindings.filter (fun b => !(b.vf == l.vf && b.lid == l.lid &&
      (l.retired.filter (fun i => i / blockSize l.levels b.level == b.block)).length == blockSize l.levels b.level)) }

/-! ### Record entry (R29, R308) -/

/-- The preloads of a launch written to the templates (R29, R316); a later entry replaces an earlier. -/
def writePreloads (g : Engines) (l : List (Eng × Nat × Image)) : Engines :=
  match l with
  | [] => g
  | (e, t, m) :: r => writePreloads (g.set e { g.get e with tmpl := (g.get e).tmpl.setIfInBounds t m }) r

/-- The focused core begins a record of the context it holds (R29); n is the slot of its queue entry, 0 for none. Bits [1:0] of CODE,
as every other check of the record, wait for the first fetch (R308). -/
def State.enterRecord (s : State) (r : Rec) (n : Nat) : State :=
  let l := s.launchInfo r.vf r.lid
  let first := !s.core.preloaded.contains r.lid
  let t := s.upd (fun c =>
    { c with
      pc := BitVec.ofNat 48 r.d0.toNat,
      s := (c.s.setIfInBounds 1 (r.d1 &&& 0xFFFFFFFFFFFF#64)).setIfInBounds 2 (r.d2 &&& 0xFFFFFFFFFFFF#64),
      levelBase := r.d3, vrb := 0, lc0 := .off, lc1 := .off,
      det := (match l with
        | some l => l.det
        | none => false),
      sflen := (match l with
        | some l => l.sflen
        | none => 0),
      pl := 0, tok := Vector.replicate 64 0, ev := true, arv := false, wait := none, work := some r, trig := false,
      resident := some r.vf, entry := n, run := .running, reserved := none, stored := false, wdog := 0, quiet := 0, l1 := [],
      cp := { c.cp with stage := 0 },
      eng := (match l with
        | some l => if first then writePreloads c.eng l.preload else c.eng
        | none => c.eng),
      preloaded := if first then r.lid :: c.preloaded else c.preloaded })
  let t := t.bindBlocks r t.cur
  if r.d0.toNat / 2 ^ 49 ≠ 0 || r.d1.toNat / 2 ^ 48 ≠ 0 || r.d2.toNat / 2 ^ 48 ≠ 0 then
    t.raise 0 ⟨.illegalInstruction, r.d0⟩ 0 (BitVec.ofNat 48 r.d0.toNat)
  else t

/-- The focused core enters a record, of whatever context (R309, R29). -/
def State.beginRecord (s : State) (r : Rec) (n : Nat) : State := (s.switchContext r.vf).enterRecord r n

/-! ### The choice of work (R311, R312) -/

/-- The gang in HOLDING whose target contains physical core p (R324). -/
def State.holdingGang (s : State) (p : Nat) : Option Gang :=
  s.gangs.find? (fun g => g.st == .holding && g.target == some (unitOf g.domain p) && s.coreHolder p == some g.part.toNat)

/-- A core is idle, power-gated or not (R354). -/
def Core.isIdle (c : Core) : Bool := c.run == .idle || c.run == .gated false

/-- The begun DET launch of a partition. -/
def State.detLaunch (s : State) (q : BitVec 5) : Option Launch := s.launches.find? (fun l => l.part == q && l.det && l.begun)

/-- Physical core p is held for a begun DET launch that has not started (R330): each of the logical cores that its groups take is,
from the moment it is idle. -/
def State.detHeld (s : State) (p : Nat) : Bool :=
  match s.coreHolder p with
  | some q => (match s.detLaunch (BitVec.ofNat 5 q) with
    | some l => l.nextIdx == 0 && ((s.partCores q).take l.groups).contains p
    | none => false)
  | none => false

/-- The focused core is idle, gated or not (R354), and free to take work (R311, R324, R330, R368). -/
def State.free? (s : State) : Bool :=
  s.core.isIdle && s.core.reserved.isNone && !s.detHeld s.cur && !s.core.dbg.busy && (s.holdingGang s.cur).isNone &&
  !s.tst.marks.contains s.cur && !s.tst.cleaning.contains s.cur && s.coreHolder s.cur == some s.part &&
  s.boot.power == .ready

/-- No record of a VF is taken: it is stopping or stopped (R377). -/
def State.vfHalted (s : State) (vf : BitVec 9) : Bool := s.vfStopping vf.toNat || s.vfStopped vf.toNat

/-- An entry is eligible for the focused core (R311, R377). -/
def State.eligible (s : State) (e : TqEntry) : Bool :=
  e.part == s.core.part && e.gang.isNone && s.bindingAdmits e.work s.cur && s.vfPart e.work.vf.toNat == s.part &&
  !s.vfHalted e.work.vf

/-- The first eligible entry from the highest level down (R311). -/
def State.chosen (s : State) : Option TqEntry :=
  [3, 2, 1, 0].findSome? (fun p => s.tq.find? (fun e => e.prio == p && s.eligible e))

/-- The head of a level. -/
def headOf (l : List TqEntry) (part : BitVec 5) (p : Nat) : Option TqEntry := l.find? (fun e => e.part == part && e.prio == p)

/-- pass(h) for the head of a level (R312). -/
def passHead (l : List TqEntry) (part : BitVec 5) (p : Nat) : List TqEntry :=
  match headOf l part p with
  | none => l
  | some h =>
    let n := min 64 (h.pass + 1)
    if n = 64 && p < 3 && !bit h.work.d0.toNat 48 then l.erase h ++ [{ h with prio := p + 1, pass := 0 }]
    else l.replace h { h with pass := n }

/-- The focused core takes entry x (R311): it leaves the queue, keeps its slot until the next fence (R310), and the heads it
passed over are counted. -/
def State.takeEntry (s : State) (x : TqEntry) : State :=
  let levels := (List.range (x.prio + 1)).reverse.filter (fun q => headOf s.tq s.core.part q != some x)
  { s with tq := levels.foldl (fun l q => passHead l s.core.part q) (s.tq.erase x), taken := s.taken ++ [x] }

/-- The cores that take entry x before the focused one does (R311): those that have waited for it as long, with lower logical
numbers, or longer. A core waits from the append on, or from when it became idle. -/
def State.takesFirst (s : State) (x : TqEntry) : Bool :=
  let since (p : Nat) : Nat := max (s.coreAt p).idleAt x.id
  (s.partCores s.part).any (fun p => p != s.cur &&
    (since p < since s.cur || (since p == since s.cur && s.logIn s.part p < s.logIn s.part s.cur)) &&
    (s.focus p).free? && (s.focus p).chosen == some x)

/-- Nothing of an incoming transfer is under way at physical core p, or the core keeps its scratchpad: it holds the context already
and an entry brings no image (R309, R371). -/
def State.settled (s : State) (p : Nat) (vf : BitVec 9) (img : Option Nat) : Bool :=
  let c := s.coreAt p
  c.landed || (img.isNone && c.resident == some vf)

/-- The focused core resumes a saved record (R309, R347), or discards it when its image fails its check. -/
def State.resumeImage (s : State) (id : Nat) : State :=
  match s.images.find? (fun i => i.id == id) with
  | none => s
  | some i =>
    if !s.imageOk i then
      (s.causeEntry 0 0 i.vf.toNat s.part s.cur Cause.memPoison.code 0 (i.addr.setWidth 64)).dropImage id
    else
      let s := if s.core.resident = some i.vf then s else s.leaveContext
      let s := s.loadImage i (if i.halted then .halted else .running)
      if i.halted then s else s.resumeIfFree

/-- The focused core, which has taken entry x, begins its record or resumes it, at the level that the entry has reached (R312). -/
def State.runEntry (s : State) (x : TqEntry) : State :=
  match x.img with
  | some id => (s.resumeImage id).upd (fun c => { c with entry := x.id, work := c.work.map (fun r => { r with prio := x.prio }) })
  | none => s.beginRecord { x.work with prio := x.prio } x.id

/-- An idle core takes a record (R311), a gated one on waking (R354); it waits for what still lands in its scratchpad where the
record brings another state of it. -/
def execCoreTakeRecord (s : State) : Out :=
  .next (if !s.free? then s else
    match s.chosen with
    | none => s
    | some x => if s.takesFirst x || !s.settled s.cur x.work.vf x.img then s else s.scrubGuard ((s.takeEntry x).runEntry x))

/-! ### Triggers, retirement, completion (R128, R129, R320, R325, R328) -/

/-- TRIG (R129, R140). -/
def execTrig (s : State) : Out :=
  .next (if s.core.pl ≠ 0 then s.illegal else s.waitIn (.trig (Eng.all.map (fun e => (s.eng e).issued))))

/-- A group triggers (R129, R325), once: a record that has triggered stays so, wherever it resumes. A record that SPAWN or a join has
placed belongs to no group and triggers none (log entry 132, DESIGN CHOICE). -/
def State.triggerGroup (s : State) (r : Rec) : State :=
  if r.group && !s.core.trig then s.updLaunch r.vf r.lid (fun l =>
    if l.triggered.contains r.index then l else { l with triggered := r.index :: l.triggered }) else s

/-- The record runs in a stream (R326). -/
def State.inStream (s : State) (r : Rec) : Bool := match s.launchOf r.vf r.lid with
  | some l => l.persist
  | none => false

/-- Every entry dispatched before a TRIG has completed: the group is triggered (R129, R326). -/
def execTrigComplete (s : State) : Out :=
  .next (s.whenLive (match s.core.wait, s.core.work with
    | some (.trig marks), some r =>
      if Eng.all.map (fun e => (s.eng e).completed) = marks then
        let t := s.triggerGroup r
        (t.upd (fun c => { c with trig := true, wdog := if t.inStream r then 0 else c.wdog })).retire 1
      else s
    | _, _ => s))

/-- TEND (R128, R140). -/
def execTend (s : State) : Out := .next (if s.core.pl ≠ 0 then s.illegal else s.waitIn .tend)

/-- A gang whose entry replay puts back into its queue (R329): it waits again, its target kept (R323). -/
def Gang.again (g : Gang) : Gang := { g with st := .waiting, n := 0, asked := [], grants := [], denied := false }

/-- The partition's fence record and the replay words of its VFs (R328): the heads and tails of the task-queue rings lie
where the device keeps them, and are free values here. -/
def State.writeFence (s : State) (l : Launch) : State :=
  let q := l.part.toNat
  let n := (s.fenceOf q).fseq + 1
  let streams := s.launches.filter (fun x => x.part == l.part && x.persist)
  let pl (k : Nat) : Nat := match streams[k]? with
    | some x => x.recAddr.toNat
    | none => 0
  let pi (k : Nat) : Nat := match streams[k]? with
    | some x => x.lid.toNat
    | none => 0
  let (fr, s) := (List.range 8).foldl (fun (x : List W64 × State) _ => let d := x.2.draw; (x.1 ++ [d.1 &&& 0xFFFFFFFFFFFF#64], d.2)) ([], s)
  let ds : List W64 := [BitVec.ofNat 64 (n.toNat * 2 ^ 32 + l.vf.toNat), l.lid.setWidth 64] ++ fr ++
    (List.range 4).map (fun k => BitVec.ofNat 64 (pl k)) ++
    (List.range 2).map (fun k => BitVec.ofNat 64 (pi (2 * k + 1) * 2 ^ 32 + pi (2 * k)))
  let s := s.storeDoubles q l.vf (s.pfBits (partReg q 0x20) 0 48) ds
  let vfs := (List.range 512).filter (fun v => s.vfPart v == q)
  let s := vfs.foldl (fun s v =>
    let s := s.setPf (vfReg v 0x58) (s.pfRaw (vfReg v 0x50))
    (List.range 16).foldl (fun s i => s.setPf (vfReg v (0x180 + 8 * i)) (s.pfRaw (vfReg v (0x100 + 8 * i)))) s) s
  let gangs := (s.gangs.filter (fun g => g.part == l.part)).map Gang.again
  { s with fences := ⟨l.part, n, s.tq.filter (fun e => e.part == l.part), gangs, streams⟩ :: s.fences.filter (fun f => f.part != l.part),
           taken := s.taken.filter (fun e => e.part != l.part),
           subs := s.subs.filter (fun x => s.vfPart x.1.toNat != q || s.replays.contains x) }

/-- The DONE word, or the cause that keeps it unwritten (R320). -/
def State.writeDone (s : State) (l : Launch) : State :=
  if l.done = 0 then s else
  let ga := l.done.toNat
  let fail (c : Cause) : State := s.causeEntry 1 0 l.vf.toNat l.part.toNat 0xFF c.code 4 (l.done.setWidth 64)
  if ga % 8 ≠ 0 then fail .align else
  match s.place (.ctl 0) ga 8 with
  | .error t => fail t.cause
  | .ok (.remote _ _) => fail .translation
  | .ok (.here p) =>
    if s.poisoned p.pa && !p.zero then fail p.poisonCause
    else s.writeZ 0 0 p (leBytes 8 (2 ^ 63 + b2n l.replayed * 2 ^ 62 + l.lid.toNat))

/-- A launch completes (R320, R328, R330, R376). -/
def State.completeLaunch (s : State) (l : Launch) : State :=
  let s := { s with launches := s.launches.filter (fun x => !(x.vf == l.vf && x.lid == l.lid)),
                    past := l :: s.past.filter (fun x => !(x.vf == l.vf && x.lid == l.lid)),
                    bindings := s.bindings.filter (fun b => !(b.vf == l.vf && b.lid == l.lid)) }
  let s := if l.det then { s with markers := s.markers.filter (· != l.part) } else s
  let s := if l.fence then s.writeFence l else s
  let s := s.writeDone l
  match l.host with
  | some (_, true) => s.causeEntry 1 0 l.vf.toNat l.part.toNat 0xFF 0 0 (l.lid.setWidth 64)
  | _ => s

/-- The group of a record retires, and with the last one its launch (R128, R320, R321, R325). -/
def State.retireGroup (s : State) (r : Rec) : State :=
  if !r.group then s else
  let s := (s.triggerGroup r).updLaunch r.vf r.lid (fun l =>
    if l.retired.contains r.index then l else { l with retired := r.index :: l.retired })
  match s.launchOf r.vf r.lid with
  | none => s
  | some l =>
    let s := s.sweepBindings l
    if l.retired.length = l.groups then s.completeLaunch l else s

/-- Every queue is empty and every transfer visible: the record retires and the core is idle (R128). -/
def execRecordRetire (s : State) : Out :=
  .next (s.whenLive (s.scrubGuard (match s.core.wait, s.core.work with
    | some .tend, some r =>
      if Eng.all.all (fun e => (s.eng e).q.isEmpty) && s.core.cp.xfers.isEmpty && s.core.cp.colls.isEmpty then
        (((s.retireGroup r).retire 1).upd (fun c => { c with work := none, run := .idle, wdog := 0 })).nowIdle
      else s
    | _, _ => s)))

/-! ### Beginning a launch (R319, R322, R328, R330) -/

/-- A dependence is satisfied (R129, R130, R319, R325). -/
def State.depDone (s : State) (vf : BitVec 9) (lid : W32) : Bool :=
  match s.launchOf vf lid with
  | some l => l.triggered.length == l.groups
  | none => true

/-- A record of a partition that belongs to no live stream is queued or runs (R328). -/
def State.nonStreamWork (s : State) (q : BitVec 5) : Bool :=
  s.tq.any (fun e => e.part == q && !s.inStream e.work) ||
  (s.partCores q.toNat).any (fun p => match (s.coreAt p).work with
    | some r => !s.inStream r
    | none => false)

/-- The launches of a partition accepted before l. -/
def State.earlier (s : State) (l : Launch) : List Launch :=
  (s.launches.takeWhile (fun x => !(x.vf == l.vf && x.lid == l.lid))).filter (fun x => x.part == l.part)

/-- A launch may begin (R319, R328, R330, R377). -/
def State.mayBegin (s : State) (l : Launch) : Bool :=
  !l.begun && !l.unread && l.deps.all (s.depDone l.vf) && !(s.earlier l).any (·.fence) &&
  (!l.fence || ((s.earlier l).all (·.persist) && !s.nonStreamWork l.part)) &&
  (!l.det || !s.launches.any (fun x => x.part == l.part && x.det && x.begun)) && !s.vfHalted l.vf

/-- The gang level of a launch (R322). -/
def Launch.gangLevel (l : Launch) : Option Nat :=
  (List.range l.levels.length).find? (fun k => match l.levels[k]? with
    | some x => x.gang
    | none => false)

/-- The partition's cores of a unit, in ascending logical number. -/
def State.unitCores (s : State) (q : BitVec 5) (domain u : Nat) : List Nat :=
  (s.partCores q.toNat).filter (fun p => unitOf domain p == u)

/-- The eligible units of a gang in ascending physical number (R323). -/
def State.gangUnits (s : State) (g : Gang) : List Nat :=
  (List.range (if g.domain = 1 then 18 else 6)).filter (fun u =>
    decide (g.size ≤ (s.unitCores g.part g.domain u).length) &&
    (match s.launchOf g.vf g.lid with
    | some l => l.bindingLevels.all (fun k => match s.bindingOf l k g.first with
        | some b => (s.unitCores g.part g.domain u).all (fun p => unitOf b.domain p == b.unit)
        | none => true)
    | none => true))

/-- A gang with its target fixed by the deal (R323); a target that has left the list is dealt anew. -/
def State.deal (s : State) (g : Gang) : Gang :=
  let units := s.gangUnits g
  match g.target with
  | some u => if units.contains u then g else { g with target := units[g.rank % max 1 units.length]? }
  | none => { g with target := units[g.rank % max 1 units.length]? }

/-- A gang enters level `prio` as one entry at the position of its lowest INDEX, its target dealt (R319, R322, R323). -/
def State.enqueueGang (s : State) (l : Launch) (k first prio : Nat) : State :=
  let n := blockSize l.levels k
  let g := s.deal ⟨s.nextGang, l.part, l.vf, l.lid, first, n, first / n, l.domainOf k, none, .waiting, 0, [], [], false⟩
  { s with gangs := s.gangs ++ [g], nextGang := s.nextGang + 1 }.enqueueAt l.part prio (l.record first) (some g.id) none

/-- The records of a begun launch enter as quota allows (R319); k bounds how many entries. -/
def State.enqueueGroups (s : State) (l : Launch) (next k : Nat) : State × Nat :=
  match k with
  | 0 => (s, next)
  | k + 1 =>
    if next < l.groups && s.quotaUsed l.vf < s.tquota l.vf then
      match l.gangLevel with
      | some g => (s.enqueueGang l g next l.prio).enqueueGroups l (next + blockSize l.levels g) k
      | none => (s.enqueue l.part (l.record next)).enqueueGroups l (next + 1) k
    else (s, next)

/-- Group i of a DET launch on logical core i keeps every level's block within one unit (R330). -/
def State.detPlacementOk (s : State) (l : Launch) : Bool :=
  let cores := s.partCores l.part.toNat
  (List.range l.levels.length).all (fun k =>
    let b := blockSize l.levels k
    (List.range l.groups).all (fun i =>
      unitOf (l.domainOf k) (cores.getD i 0) == unitOf (l.domainOf k) (cores.getD (i / b * b) 0)))

/-- A launch refused when it begins (R330). -/
def State.refuseBegin (s : State) (l : Launch) : State :=
  let s := { s with launches := s.launches.filter (fun x => !(x.vf == l.vf && x.lid == l.lid)) }
  s.causeEntry 1 0 l.vf.toNat l.part.toNat 0xFF 0 1 (BitVec.ofNat 64 ((match l.host with
    | some (q, _) => q
    | none => 0) * 2 ^ 48 + l.recAddr.toNat))

/-- n doubles at a guest-physical address of a VF, read from host memory (R376, R400). -/
def State.guestDoubles (s : State) (v : BitVec 9) (a n : Nat) : Option (List W64) :=
  (List.range n).mapM (fun k =>
    let x := guestPa v.toNat (a + 8 * k)
    if s.poisoned x then none else some (s.load8 x))

/-- A state in which the descriptor table and the context of a launch are those of the focused core, for reading what a
launch record names. -/
def State.asLaunch (s : State) (l : Launch) : State := s.upd (fun c => { c with work := some (l.record 0) })

/-- The 16 doubles of the launch record at an address: a tensor address that one of the tables `ts` places, as LAUNCH reads it (R130),
else a guest address, as a queue names it (R376). -/
def State.recordDoubles (s : State) (v : BitVec 9) (ts : List Addr) (a : Nat) : Option (List W64) :=
  let r (t : Addr) : Rec := ⟨0, 0, 0, 0, v, 0, 0, t, false⟩
  let tensor (t : Addr) : Option (List W64) :=
    match (s.upd (fun c => { c with work := some (r t) })).readDoubles ⟨0, false, false, false, false⟩ a 16 with
    | .ok (d, _) => some d
    | .error _ => none
  if a < 2 ^ 36 then s.guestDoubles v a 16 else (ts.findSome? tensor).or (s.guestDoubles v a 16)

/-- The record of a stream that replay accepts again is read and checked (R318, R329), at its guest address where the host
submitted it. -/
def State.reread (s : State) (l : Launch) : Option Launch :=
  let ds : Option (List W64) := match l.host with
    | some _ => s.guestDoubles l.vf l.recAddr.toNat 16
    | none => s.recordDoubles l.vf [l.ttab] l.recAddr.toNat
  match ds with
  | none => none
  | some d => match parseLaunch d l.vf l.part l.recAddr.toNat (s.ncore l.part.toNat) 0 (s.feature 3) with
    | none => none
    | some (x, n, tpre) => match (s.asLaunch l).launchTables ⟨0, false, false, false, false⟩ x n tpre with
      | .ok (some x, _) => some { x with lid := l.lid, replayed := true, host := l.host }
      | _ => none

/-- A launch that may begin does, or a begun one appends more of its records (R319, R330): a DET launch, once begun, holds its cores. -/
def State.beginLaunch (s : State) (l : Launch) : State :=
  if l.det then
    if l.begun then s
    else if !s.detPlacementOk l then s.refuseBegin l
    else s.updLaunch l.vf l.lid (fun l => { l with begun := true })
  else
    let x := s.enqueueGroups l l.nextIdx (s.tquota l.vf - s.quotaUsed l.vf)
    x.1.updLaunch l.vf l.lid (fun l => { l with begun := true, nextIdx := x.2 })

/-- A launch begins, or appends more of its records (R319, R330); a stream that replay accepts again has its record read first, whether
it may begin yet or not (R329). -/
def execLaunchBegin (vf : BitVec 9) (lid : W32) (s : State) : Out :=
  .next (match s.launchOf vf lid with
    | none => s
    | some l =>
      if s.vfHalted vf then s
      else if l.unread then
        match s.reread l with
        | none => s.refuseBegin l
        | some x => s.updLaunch vf lid (fun _ => x)
      else if !l.begun && !s.mayBegin l then s
      else s.beginLaunch l)

/-! ### Deterministic launches and frames (R330, R331, R333) -/

/-- The cores that the groups of a DET launch take: one for each group, in logical order. -/
def State.detCores (s : State) (l : Launch) : List Nat := (s.partCores l.part.toNat).take l.groups

/-- Physical core p is idle and no stop, cleaning or scan request has taken it since it was reserved or held (R324, R330, R368). -/
def State.canEnter (s : State) (p : Nat) : Bool :=
  (s.coreAt p).isIdle && !(s.coreAt p).dbg.busy && !s.tst.marks.contains p && !s.tst.cleaning.contains p

/-- Every group of a DET launch has its core, free to enter its record. -/
def State.detReady (s : State) (l : Launch) : Bool :=
  decide ((s.detCores l).length = l.groups) && (s.detCores l).all (fun p => s.canEnter p && s.settled p l.vf none)

/-- All cores of a DET launch are held and idle: the signatures clear and the first marker is emitted (R330). -/
def execDetLaunchStart (part : BitVec 5) (s : State) : Out :=
  .next (match s.detLaunch part with
    | none => s
    | some l =>
      if l.nextIdx = 0 && !s.markers.contains part && !s.vfHalted l.vf && s.detReady l then
        let t := s.sieveClear part.toNat
        { t with markers := part :: t.markers }
      else s)

/-- The arithmetic clock is halved (R415). -/
def State.throttled (s : State) : Bool := s.pfBits 0xE0 63 1 == 1

/-- The frame master's SFC at which it emits (R331): 24 before the end while throttled, else 48. -/
def State.emitAt (s : State) (l : Launch) : Nat := l.sflen.toNat - (if s.throttled then 24 else 48)

/-- The frame master emits a marker (R331). -/
def execFrameMarkerEmit (part : BitVec 5) (s : State) : Out :=
  .next (match s.detLaunch part with
    | none => s
    | some l =>
      if l.nextIdx = l.groups && !s.markers.contains part &&
         (s.coreAt ((s.partCores part.toNat).getD 0 0)).sfc.toNat = s.emitAt l then
        { s with markers := part :: s.markers }
      else s)

/-- The stamped entry of engine e that R333 judges: the earliest not started whose STAMP is above the last SFC. The cycle with
that SFC is over, so SFC has gone one further. -/
def State.lateStamp (s : State) (e : Eng) : Option Entry :=
  (s.eng e).q.find? (fun x => x.phase == .queued && x.stamped e && decide (s.core.sfc.toNat ≤ x.img.hw 2))

/-- STAMP_OVERRUN at an entry that has not started (R332, R333, R352). -/
def State.stampOverrun (s : State) (e : Eng) (x : Entry) : State :=
  if (s.eng e).held.isSome then s else
  (s.upd (fun c => { c with ctr := { c.ctr with stampOvr := c.ctr.stampOvr + 1 } })).engineFault e
    ⟨.stampOverrun, BitVec.ofNat 64 (x.img.hw 2)⟩ x.seq

/-- A marker reaches the focused core (R331, R333, R137); a stopped tile, whose SFC stands, does not see it (R21, R350). -/
def State.markerAt (s : State) : State :=
  let t := Eng.all.foldl (fun s e => match s.lateStamp e with
    | some x => s.stampOverrun e x
    | none => s) s
  s.whenLive (t.upd (fun c => { c with sfc := 0, ev := true }))

/-- ID of a partition's frame markers (R388): the lowest phase of direction 0 that it owns in the running entry. -/
def State.frameId (s : State) (q : Nat) : Option Nat := (List.range 64).find? (fun φ => s.holder (128 + φ) == some q)

/-- The sideband field of a frame marker (R388): KIND 1 and ID. -/
def frameSideband (id : Nat) : Byte := BitVec.ofNat 8 (64 + id)

/-- The cores to which the stops deliver a frame marker with a sideband field (R388): those of the partition that ID names. -/
def State.sidebandCores (s : State) (b : Byte) : List Nat :=
  match s.holder (128 + b.toNat % 64) with
  | some q => s.partCores q
  | none => []

/-- The cores to which a partition's frame marker goes. -/
def State.markerCores (s : State) (q : Nat) : List Nat :=
  match s.frameId q with
  | some id => s.sidebandCores (frameSideband id)
  | none => []

/-- The marker of a partition is delivered to each of its cores (R330, R331, R333); the first starts the DET launch's groups, all of
them or, where a stop has taken one of their cores since it was emitted, none (log entry 122, DESIGN CHOICE). -/
def execFrameMarkerDelivery (part : BitVec 5) (s : State) : Out :=
  .next (if !s.markers.contains part then s else
    let s := { s with markers := s.markers.filter (· != part) }
    match s.detLaunch part with
    | none => s
    | some l =>
      let cores := s.markerCores part.toNat
      if l.nextIdx = 0 then if s.vfHalted l.vf || !s.detReady l then s else
        let t := (cores.zipIdx).foldl (fun s x =>
          if x.2 < l.groups then
            s.withCore x.1 (fun s => (s.beginRecord (l.record x.2) 0).upd (fun c => { c with sfc := 0 }))
          else s.withCore x.1 State.markerAt) s
        t.updLaunch l.vf l.lid (fun l => { l with nextIdx := l.groups })
      else cores.foldl (fun s p => s.withCore p State.markerAt) s)

/-! ### Gangs (R322–R324) -/

/-- A gang changed. -/
def State.updGang (s : State) (id : Nat) (f : Gang → Gang) : State :=
  { s with gangs := s.gangs.map (fun g => if g.id = id then f g else g) }

/-- A gang by its number. -/
def State.gangOf (s : State) (id : Nat) : Option Gang := s.gangs.find? (fun g => g.id == id)

/-- The gangs before g in the order of priority and queue position (R324). -/
def State.gangsBefore (s : State) (g : Gang) : List Nat :=
  let order := [3, 2, 1, 0].flatMap (fun p => (s.tq.filter (fun e => e.part == g.part && e.prio == p)).filterMap (·.gang))
  order.takeWhile (· != g.id)

/-- Another gang stands before g's attempt on unit u (R324): one that attempts on it now, or an earlier one that waits to. -/
def State.attempted (s : State) (g : Gang) (u : Nat) : Bool :=
  s.gangs.any (fun h => h.id != g.id && h.part == g.part && h.domain == g.domain &&
    (((h.st == .reserving || h.st == .placed) && h.target == some u) ||
     (h.st == .waiting && !s.vfHalted h.vf && (s.deal h).target == some u && (s.gangsBefore g).contains h.id)))

/-- RESERVE is sent to the first cores of the target (R324), which is fixed from now on, attempt or not (R323). -/
def State.attempt (s : State) (g : Gang) : State :=
  let g' := s.deal g
  match g'.target with
  | none => s
  | some u =>
    if s.attempted g u || s.vfHalted g.vf then s.updGang g.id (fun _ => g')
    else s.updGang g.id (fun _ =>
      { g' with st := .reserving, asked := (s.unitCores g.part g.domain u).take g.size, grants := [], denied := false })

/-- A waiting gang makes an attempt (R324). -/
def execGangAttempt (g : Nat) (s : State) : Out :=
  .next (match s.gangOf g with
    | some x => if x.st == .waiting then s.attempt x else s
    | none => s)

/-- Core p is idle, unreserved and held for nothing (R324). -/
def State.reservable (s : State) (p : Nat) : Bool :=
  let c := s.coreAt p
  c.isIdle && c.reserved.isNone && !s.detHeld p && !c.dbg.busy && !s.tst.marks.contains p && !s.tst.cleaning.contains p

/-- Core p reserved for gang g: a gated one wakes (R354). -/
def State.reserveFor (s : State) (g p : Nat) : State :=
  s.updAt p (fun c => { c with reserved := some g, run := .idle, quiet := 0 })

/-- Core p answers a RESERVE (R324); no core grants one for a VF that stops (R377). -/
def execReserve (g p : Nat) (s : State) : Out :=
  .next (match s.gangOf g with
    | some x =>
      if x.st == .reserving && x.asked.contains p then
        let grant := s.reservable p && (s.holdingGang p).isNone && !s.vfHalted x.vf
        let s := s.updGang g (fun x => { x with asked := x.asked.erase p,
                                                grants := if grant then x.grants ++ [p] else x.grants,
                                                denied := x.denied || !grant })
        if grant then s.reserveFor g p else s
      else s
    | none => s)

/-- Every reply of an attempt is there (R324): all GRANT, the gang is committed; a DENY, it backs off. -/
def execGangReplies (g : Nat) (s : State) : Out :=
  .next (match s.gangOf g with
    | some x =>
      if x.st == .reserving && x.asked.isEmpty then
        s.updGang g (fun x => if x.denied then { x with st := .backoff, n := min 4 (x.n + 1) } else { x with st := .placed })
      else s
    | none => s)

/-- A granting core of a failed attempt is released (R324). -/
def execRelease (g p : Nat) (s : State) : Out :=
  .next (match s.gangOf g with
    | some x =>
      if x.st == .backoff && x.grants.contains p then
        (s.updGang g (fun x => { x with grants := x.grants.erase p })).updAt p (fun c =>
          if c.reserved = some g then { c with reserved := none } else c)
      else s
    | none => s)

/-- Another gang holds the target of gang g (R324). -/
def State.unitHeld (s : State) (g : Gang) : Bool :=
  s.gangs.any (fun h => h.id != g.id && h.st == .holding && h.domain == g.domain && h.target == g.target)

/-- The back-off has passed (R324): another attempt, or after the fourth the priority reservation of a unit that no other
gang holds; a target that an edge has taken is dealt anew first (R323). -/
def execGangBackoffExpiry (g : Nat) (s : State) : Out :=
  .next (match s.gangOf g with
    | some x =>
      if x.st == .backoff && x.grants.isEmpty then
        let x := s.deal x
        if x.n < 4 || s.unitHeld x || x.target.isNone then s.attempt x
        else s.updGang g (fun _ => { x with st := .holding })
      else s
    | none => s)

/-- B_g cores of the target are held (R324). A target that an edge has taken is dealt anew (R323); where another gang holds the
new one, this gang goes back to its retries. -/
def execGangHoldComplete (g : Nat) (s : State) : Out :=
  .next (match s.gangOf g with
    | some x =>
      if x.st == .holding then
        let y := s.deal x
        if y.target != x.target then s.updGang g (fun _ => if s.unitHeld y then { y with st := .backoff } else y) else
        let ready := (s.unitCores x.part x.domain (x.target.getD 0)).filter s.reservable
        if x.size ≤ ready.length && x.target.isSome && !s.vfHalted x.vf then
          (ready.take x.size).foldl (fun s p => s.reserveFor g p)
            (s.updGang g (fun x => { x with st := .placed, grants := ready.take x.size }))
        else s
      else s
    | none => s)

/-- The level of a gang's entry, to which it may have been promoted (R312, R313). -/
def State.gangPrio (s : State) (g prio : Nat) : Nat := match s.tq.find? (fun e => e.gang == some g) with
  | some e => e.prio
  | none => prio

/-- Every core that a gang has secured can still enter its member's record (R324). -/
def State.gangReady (s : State) (x : Gang) : Bool :=
  x.grants.all (fun p => (s.coreAt p).reserved == some x.id && s.canEnter p)

/-- COMMIT (R322, R324): member j enters its record on the j-th core secured, all in one step. Where the VF has begun to stop (R377), or
a stop has taken one of the cores since it answered (log entry 122, DESIGN CHOICE), none enters: the cores are released. -/
def execCommit (g : Nat) (s : State) : Out :=
  .next (match s.gangOf g with
    | some x =>
      match s.launchOf x.vf x.lid with
      | some l =>
        if x.st == .placed then if s.vfHalted x.vf || !s.gangReady x then s.updGang g (fun x => { x with st := .reserving, denied := true })
        else if !x.grants.all (fun p => s.settled p x.vf none) then s
        else
          let prio := s.gangPrio g l.prio
          let cores := (s.partCores x.part.toNat).filter x.grants.contains
          let s := { s with gangs := s.gangs.filter (fun y => y.id != g),
                            taken := s.taken ++ s.tq.filter (fun e => e.gang == some g),
                            tq := s.tq.filter (fun e => e.gang != some g) }
          (cores.zipIdx).foldl (fun s c => s.withCore c.1 (fun s => s.beginRecord { l.record (x.first + c.2) with prio := prio } 0)) s
        else s
      | none => s
    | none => s)

/-! ### Watchdog and partition reset (R326, R327, R342, R371) -/

/-- The running record's cycle count passes the budget (R327); gating does not show (R354). -/
def execWatchdog (s : State) : Out :=
  let b := s.pfBits (partReg s.part 0x10) 0 48
  .next (if s.core.work.isSome && b != 0 && b < s.core.wdog.toNat && s.core.clocked then
      (s.causeEntry 0 0 s.vf.toNat s.part s.cur Cause.watchdog.code 0 (BitVec.ofNat 64 s.lid)).partitionReset s.part
        Cause.watchdog.code s.cur s.vf.toNat s.lid
    else s)

/-- The partition's RESET is written (R342, R374); between a soft stop and its edge it waits for the edge (R371). -/
def execPartitionResetRequest (part : BitVec 5) (s : State) : Out :=
  .next (s.whenUp (if s.tst.soft then s.setPfBits (partReg part.toNat 0x08) 1 1 1 else s.partitionReset part.toNat 0 0xFF 0 0))

/-! ### Submission queues (R376) -/

/-- A doorbell write (R375, R376). -/
def execDoorbell (vf : BitVec 9) (q : BitVec 4) (t : W32) (s : State) : Out :=
  let v := vf.toNat
  let i := q.toNat
  .next (if s.pfBits (vfReg v 0x20) 0 5 ≤ i then s
    else
      let head := s.pfBits (vfReg v (0x100 + 8 * i)) 0 32
      if 2 ^ s.pfBits (vfReg v (0x80 + 8 * i)) 59 5 < (t.toNat + 2 ^ 32 - head) % 2 ^ 32 then
        s.causeEntry 1 0 v (s.vfPart v) 0xFF 0 3 (BitVec.ofNat 64 (i * 2 ^ 48))
      else { s with doorbells := (16 * v + i, t) :: s.doorbells.filter (fun x => x.1 != 16 * v + i) })

/-- The launch that a queue entry submits, or the address of the record that is refused (R376). -/
def State.submitted (s : State) (v : BitVec 9) (i head : Nat) : Except Nat (Launch × Bool) :=
  let r := (s.pfRaw (vfReg v.toNat (0x80 + 8 * i))).toNat
  match s.guestDoubles v (bits r 0 48 + 16 * (head % 2 ^ bits r 59 5)) 2 with
  | none => .error 0
  | some e =>
    let d := (e.getD 0 0).toNat
    let a := bits d 0 48
    if bits d 48 15 ≠ 0 || e.getD 1 0 ≠ 0 || a % 64 ≠ 0 then .error a else
    match s.guestDoubles v a 16 with
    | none => .error a
    | some ds =>
      let q := s.vfPart v.toNat
      match parseLaunch ds v (BitVec.ofNat 5 q) a (s.ncore q) (s.persists (BitVec.ofNat 5 q)) (s.feature 3) with
      | none => .error a
      | some (l, n, tpre) => match (s.asLaunch l).launchTables ⟨0, false, false, false, false⟩ l n tpre with
        | .ok (some l, _) => .ok ({ l with host := some (i, bit d 63) }, false)
        | _ => .error a

/-- An entry of a submission queue waits for others to be accepted again before it (R329): those of its partition that were
accepted first, of VFs that can be read. -/
def State.replayWaits (s : State) (x : BitVec 9 × Nat × Nat × W32) : Bool :=
  let mine := s.replays.filter (fun y => s.vfPart y.1.toNat == s.vfPart x.1.toNat && s.vfEn y.1.toNat && !s.vfHalted y.1)
  mine.contains x && mine.head? != some x

/-- The device reads the next entry of a submission queue (R376, R329): an entry submitted again after replay keeps its id. -/
def execSubmissionQueueRead (vf : BitVec 9) (q : BitVec 4) (s : State) : Out :=
  let v := vf.toNat
  let i := q.toNat
  let hr := vfReg v (0x100 + 8 * i)
  let head := s.pfBits hr 0 32
  let tail := match s.doorbells.find? (fun x => x.1 == 16 * v + i) with
    | some x => x.2.toNat
    | none => 0
  .next (if !s.vfEn v || s.vfStopping v || s.vfStopped v || s.pfBits (vfReg v 0x20) 0 5 ≤ i || head = tail ||
      s.lquota vf ≤ s.live vf || s.boot.power != .ready then s
    else
      let again := s.replays.find? (fun x => x.1 == vf && x.2.1 == i && x.2.2.1 == head)
      if (again.map s.replayWaits).getD false then s else
      let t := s.setPf hr (BitVec.ofNat 64 ((head + 1) % 2 ^ 32))
      let t := { t with replays := t.replays.filter (fun x => some x != again) }
      match s.submitted vf i head with
      | .error a => t.causeEntry 1 0 v (s.vfPart v) 0xFF 0 1 (BitVec.ofNat 64 (i * 2 ^ 48 + a))
      | .ok (l, _) =>
        match again with
        | some x => t.accept { l with replayed := true } x.2.2.2
        | none =>
          let (lid, t) := t.takeLid vf
          { t.accept l lid with subs := (vf, i, head, lid) :: t.subs })

/-! ### SELF (R132) -/

/-- SELF 0 (R132). -/
def execSelfLaunchId (sd : Reg) (s : State) : Out := .next ((s.wr sd (BitVec.ofNat 64 s.lid)).retire 1)

/-- SELF 1 (R132, R306). -/
def execSelfIndex (sd : Reg) (s : State) : Out := .next ((s.wr sd (s.core.levelBase &&& 0xFFFFFFFF#64)).retire 1)

/-- SELF 2 (R132): the groups of the record's launch, complete or not; of one that this device has never held the number is a
free value. -/
def execSelfGroups (sd : Reg) (s : State) : Out :=
  .next (match s.launchInfo s.vf (BitVec.ofNat 32 s.lid) with
    | some l => (s.wr sd (BitVec.ofNat 64 l.groups)).retire 1
    | none => let d := s.draw; (d.2.wr sd d.1).retire 1)

/-- SELF 3 (R132). -/
def execSelfCores (sd : Reg) (s : State) : Out := .next ((s.wr sd (BitVec.ofNat 64 (s.ncore s.part))).retire 1)

end Sys2Proof.Machine
end

