-- ==== Sys2Proof/Machine/CtlSystem.lean ====
section
/-!
DEFINITION. Traps and return, CSR instructions, WFE, DBRK, YIELD and the words that are no instruction (R53, R131, R133–R138,
R140), with the logical halt (R359) and the soft stop of one core (R368) that they use.
-/

namespace Sys2Proof.Machine

/-- TRAP (R118, R133). -/
def execTrap (code : BitVec 12) (s : State) : Out :=
  .next (if s.core.pl = 3 then s.illegal
    else let t := s.retire 1; t.raise 0 ⟨.swtrap, code.setWidth 64⟩ 0 t.core.pc)

/-- ERET (R134, R344). -/
def execEret (s : State) : Out :=
  let n := s.core.pl
  let p := (s.bank n).epl.toNat % 4
  .next (if n = 0 then s.privilege else if n ≤ p then s.illegal else s.returnFrom n p)

/-- A CSR access that passes the checks of R30 carries out f. -/
def State.withCsr (s : State) (n : Nat) (write : Bool) (f : State → State) : State :=
  match csrCheck n s.core.pl write with
  | .illegal => s.illegal
  | .privilege => s.privilege
  | .ok => (f s).retire 1

/-- CSRR (R135). -/
def execCsrr (sd : Reg) (csr : BitVec 12) (s : State) : Out :=
  .next (s.withCsr csr.toNat false (fun s => s.wr sd (s.csr s.core.pl csr.toNat)))

/-- CSRW (R135). -/
def execCsrw (sd sa : Reg) (csr : BitVec 12) (s : State) : Out :=
  .next (s.withCsr csr.toNat true (fun s =>
    (s.setCsr s.core.pl csr.toNat (s.rd sa)).wr sd (s.csr s.core.pl csr.toNat)))

/-- CSRS (R135). -/
def execCsrs (sd sa : Reg) (csr : BitVec 12) (s : State) : Out :=
  .next (s.withCsr csr.toNat (sa.val != 0) (fun s =>
    let old := s.csr s.core.pl csr.toNat
    (if sa.val = 0 then s else s.setCsr s.core.pl csr.toNat (old ||| s.rd sa)).wr sd old))

/-- CSRC (R135). -/
def execCsrc (sd sa : Reg) (csr : BitVec 12) (s : State) : Out :=
  .next (s.withCsr csr.toNat (sa.val != 0) (fun s =>
    let old := s.csr s.core.pl csr.toNat
    (if sa.val = 0 then s else s.setCsr s.core.pl csr.toNat (old &&& ~~~(s.rd sa))).wr sd old))

/-- WFE (R137): completes on the event flag, which it clears. -/
def execWfe (s : State) : Out :=
  .next (if s.core.ev then (s.upd (fun c => { c with ev := false })).retire 1 else s.waitIn .wfe)

/-- A waiting WFE finds the event flag, or ends early (R137): whether it does without the flag is a free value. -/
def execWfeComplete (s : State) : Out :=
  .next (if s.core.wait ≠ some .wfe || s.frozen then s
    else if s.core.ev then (s.upd (fun c => { c with ev := false })).retire 1
    else if bit s.draw.1.toNat 0 then s.draw.2.retire 1 else s.draw.2)

/-- Debug is enabled for a partition (R357). -/
def State.debugOn (s : State) (q : Nat) : Bool := s.pfBits 0x150 q 1 == 1

/-- The focused core takes a logical halt (R359). -/
def State.haltLogical (s : State) : State :=
  (s.leaveRemote s.cur).upd (fun c => { c.leaveWait with qstop := true, ev := true, run := .halted, dbg := { c.dbg with quiescent := false } })

/-- DBRK (R138, R357). -/
def execDbrk (code : BitVec 12) (s : State) : Out :=
  let t := s.retire 1
  .next (if s.debugOn s.part then
      (t.upd (fun c => { c with dbg := { c.dbg with code := code } })).haltLogical
    else t)

/-- A word that is no instruction (R44, R45, R53). -/
def execIllegalCtlWord (w : W32) (s : State) : Out := .next (s.trapWith .illegalInstruction (w.setWidth 64))

/-- Every engine queue of the focused core is empty. -/
def State.queuesEmpty (s : State) : Bool := Eng.all.all (fun e => (s.eng e).q.isEmpty)

/-- A record of higher priority than the running one is runnable here (R131): a queue entry that R311 makes eligible for this
core; a gang entry is none (DESIGN CHOICE, log entry 107). -/
def State.higherReady (s : State) : Bool :=
  let p := match s.core.work with
    | some r => r.prio
    | none => 3
  s.tq.any (fun e => decide (p < e.prio) && s.eligible e)

/-- YIELD (R131, R140). While a queue is not empty it waits: nothing changes. -/
def execYield (s : State) : Out :=
  .next (if 2 ≤ s.core.pl then s.illegal
    else if !s.queuesEmpty then s
    else if s.higherReady then (s.retire 1).logicalStop s.cur false
    else s.retire 1)

/-- The soft stop of physical core p (R368): from here on it takes nothing new, and no gang that has reserved it enters. -/
def State.softStopCore (s : State) (p : Nat) : State :=
  let s := { s with tst := { s.tst with marks := if s.tst.marks.contains p then s.tst.marks else p :: s.tst.marks } }.updAt p
    (fun c => { c with reserved := none })
  let c := s.coreAt p
  match c.run with
  | .running | .halted | .gated true => s.logicalStop p false
  | .idle | .gated false => if c.resident.isSome then s.logicalStop p false else s
  | _ => s

/-- YIELD DONATE (R131, R372): the executing core is saved and every other core of the partition soft-stopped; a further one
in the entry saves its own core alone. -/
def execYieldDonate (s : State) : Out :=
  .next (if 2 ≤ s.core.pl then s.illegal
    else if !s.queuesEmpty then s
    else
      let q := s.core.part
      let t := (s.retire 1).logicalStop s.cur true
      let t := { t with tst := { t.tst with marks := t.cur :: t.tst.marks } }
      if s.tst.donating.contains q then t
      else
        let t := { t with tst := { t.tst with donating := q :: t.tst.donating } }
        ((t.partCores q.toNat).filter (· != s.cur)).foldl (fun t p => t.softStopCore p) t)

end Sys2Proof.Machine
end

