-- ==== Sys2Proof/Machine/Stops.lean ====
section
/-!
DEFINITION. Scan stops and restores, power gating, debug halts (R348–R354, R357–R360).
-/

namespace Sys2Proof.Machine

/-- A physical core is fused: it is no entry of the L2P table (R409, R410). -/
def State.fused (s : State) (p : Nat) : Bool := !s.l2p.contains p

/-- The 8 MiB from a device address lie in one HBM stack (R291, R348). -/
def inOneStack (a : Nat) : Bool := decide (a / 2 ^ 36 ≤ 5) && decide (a % 2 ^ 36 + 2 ^ 23 ≤ 183105 * 2 ^ 18)

/-- The code that refuses a SCAN_REQ of the focused core, 0 for none (R348). -/
def State.scanRefusal (s : State) (img : Nat) : Nat :=
  let c := s.core
  let stopped := match c.run with
    | .scanStopped _ | .halted => true
    | _ => false
  if s.fused s.cur then 16
  else if c.dbg.busy || stopped then 17
  else if img % 4096 ≠ 0 || !inOneStack img then 18
  else if c.work.isNone && c.resident.isNone then 19
  else if s.boot.power == .stopped then 20
  else 0

/-- SCAN_REQ with GO for the focused core (R348). -/
def execScanReqGo (img : Addr) (s : State) : Out :=
  let s := s.upd (fun c => { c with dbg := { c.dbg with reqImg := img } })
  let r := s.scanRefusal img.toNat
  .next (if r = 0 then
      (s.scanStop s.cur 1 img false).upd (fun c => { c with dbg := { c.dbg with busy := true } })
    else s.upd (fun c => { c with dbg := { c.dbg with result := BitVec.ofNat 8 r } }))

/-- The chain data of an image (R349): bytes that have meaning for the tile alone. -/
def chainData (id : Nat) : List Byte := (List.range 6553600).map (Config.chainByte id)

/-- The header and the chain data of the focused core's image are written, zeros between them (R348, R349), and the parked list
behind them: a pre-empted tile is reset, a halted one keeps its state. -/
def execScanStreamComplete (s : State) : Out :=
  .next (match s.scanImage s.cur with
    | none => s
    | some i =>
      if i.written then s else
      let d := chainData i.id
      let t := s.hwBlock i.part.toNat i.vf i.addr.toNat (doubleBytes i.header ++ List.replicate 4032 0 ++ d)
      let t := (t.writeParkedList i).updImage i.id (fun i => { i with written := true, body := cellsOf 0 d })
      s.scrubGuard (match s.core.run with
      | .scanStopped 2 => t
      | r => (t.coreReset s.cur s.part).upd (fun c => { c with run := r })))

/-- The image of the focused core is sealed once its orbit is empty (R351): HASH and SEALED are written, a requested stop
ends, and the core is idle again. -/
def execScanImageSeal (s : State) : Out :=
  .next (match s.scanImage s.cur with
    | none => s
    | some i =>
      if !i.written || i.sealed || (i.header.getD 3 0).toNat / 2 ^ 32 ≠ s.core.accepted.toNat then s else
      let h := i.header.set 3 (BitVec.ofNat 64 ((i.header.getD 3 0).toNat / 2 ^ 32 * 2 ^ 32 + s.core.accepted.toNat))
      let sum := Sha3.digest (hashInput h 5 (chainData i.id))
      let x := { i with header := h, hash := sum, sealed := true }
      let d5 : W64 := BitVec.ofNat 64 (i.parked.length * 2 ^ 32 + 1)
      let t := s.hwBlock i.part.toNat i.vf i.addr.toNat (doubleBytes (h.set 5 d5 ++ sum))
      let t := { t.updImage i.id (fun _ => x) with archive := x :: t.archive }
      s.scrubGuard (match s.core.run with
      | .scanStopped 1 => t.upd (fun c => { c with run := .idle, dbg := { c.dbg with busy := false, result := 0 } })
      | _ => t))

/-- HASH of a scan image in memory matches its header and chain data as memory holds them, none of them poisoned (R349, R352). -/
def State.scanHashOk (s : State) (a : Nat) : Bool :=
  let h := (List.range 8).map (fun k => s.load8 (a + 8 * k))
  s.poison.all (fun u => decide (64 * u + 64 ≤ a) || decide (a + 4096 + 6553600 ≤ 64 * u)) &&
  Sha3.digest (hashInput h 5 (s.bytes (a + 4096) 6553600)) == (List.range 4).map (fun k => s.load8 (a + 64 + 8 * k))

/-- What the scan image in memory at an address restores, where its HASH matches: memory holds a sealed image, or a header with the
chain data of one, and the header's context and partition then stand. Chain data that no tile has streamed have no meaning
(log entry 125, DESIGN CHOICE). -/
def State.scanSource (s : State) (a : Nat) : Option SavedImage :=
  match s.imageAt true a with
  | some i => some i
  | none =>
    if s.scanHashOk a then
      let d := (s.load8 (a + 16)).toNat
      (s.archive.find? (fun i => i.scan && s.cellsIn (a + 4096) 6553600 == i.body)).map (fun i =>
        { i with vf := BitVec.ofNat 9 (bits d 23 9), part := BitVec.ofNat 5 (bits d 18 5) })
    else none

/-- The code of the first failing check of R352 for the image at an address and the focused core, 0 for none; a gated core is
as idle as any (R354). -/
def State.restoreRefusal (s : State) (a : Nat) : Nat :=
  let d (k : Nat) : Nat := (s.load8 (a + 8 * k)).toNat
  if d 0 / 2 ^ 32 ≠ 0x00010001 then 1
  else if d 0 % 2 ^ 32 ≠ Config.tileRev.toNat then 2
  else if bits (d 2) 40 8 ≠ s.cur then 3
  else if d 1 ≠ s.boot.devser.toNat then 4
  else if !bit (d 5) 0 then 5
  else match s.scanSource a with
    | none => 6
    | some i =>
      if !(s.core.isIdle && s.coreHolder s.cur == some i.part.toNat &&
        (s.core.resident.isNone || s.core.resident == some i.vf)) then 7
      else 0

/-- A restore of the focused core from the image at an address begins, or is refused with a code (R352). -/
def State.beginRestore (s : State) (img : Addr) : State :=
  let r := s.restoreRefusal img.toNat
  if r = 0 then s.upd (fun c => { c with dbg := { c.dbg with busy := true, resImg := img } })
  else s.upd (fun c => { c with dbg := { c.dbg with result := BitVec.ofNat 8 r } })

/-- RESTORE_REQ with GO for the focused core (R348, R352). -/
def execRestoreReqGo (img : Addr) (s : State) : Out :=
  .next (if s.core.dbg.busy then s.upd (fun c => { c with dbg := { c.dbg with result := 17 } }) else s.beginRestore img)

/-- Every stamped entry of the focused core that has not started raises STAMP_OVERRUN (R352). -/
def State.overrunStamps (s : State) : State :=
  Eng.all.foldl (fun s e => match (s.eng e).q.find? (fun x => x.phase == .queued && x.stamped e) with
    | some x => s.stampOverrun e x
    | none => s) s

/-- The run condition in which a scan image resumes: that of the stop, a halted core halted (R360). -/
def SavedImage.resumeRun (i : SavedImage) : Run :=
  match i.core.run with
  | .halted | .saving _ true => .halted
  | .scanStopped 2 => .scanStopped 2
  | _ => if i.core.work.isSome then .running else .idle

/-- The chain data are back (R352, R353): the orbit count is 0, the parked arrivals are applied, the clock starts with SFC = 0; not
while a transfer still lands in the scratchpad (R25, R371). -/
def execScanRestoreComplete (s : State) : Out :=
  .next (if !s.core.dbg.busy || !s.core.isIdle || !s.core.landed then s else
    match s.scanSource s.core.dbg.resImg.toNat with
    | none => s
    | some i =>
      let t := (s.loadImage i i.resumeRun).upd (fun c =>
        { c with sfc := 0, dbg := { c.dbg with busy := false, result := 0 } })
      let t := if i.resumeRun == .running || i.resumeRun == .idle then t.resumeIfFree else t
      if t.core.det then t.overrunStamps else t)

/-! ### Power gating (R354) -/

/-- The focused core is quiet: nothing of it runs or is awaited. -/
def State.quietNow (s : State) : Bool :=
  let c := s.core
  let q := c.part
  (c.run == .idle || (c.run == .running && c.wait == some .wfe)) && s.queuesEmpty && c.sb.toList.all (·.isNone) &&
  c.cp.xfers.isEmpty && c.cp.colls.isEmpty && c.outst.isNone && c.reserved.isNone && !s.detHeld s.cur && !c.dbg.busy &&
  (s.holdingGang s.cur).isNone && (s.detLaunch q).isNone

/-- The focused core is gated once it has been quiet for 65,536 core cycles. -/
def execPowerGate (s : State) : Out :=
  .next (if s.quietNow && 65536 ≤ s.core.quiet then s.upd (fun c => { c with run := .gated (c.run == .running) }) else s)

/-- The focused core wakes. -/
def execCoreWake (s : State) : Out :=
  .next (match s.core.run with
    | .gated r => s.upd (fun c => { c with run := if r then .running else .idle, quiet := 0 })
    | _ => s)

/-! ### Debug (R357–R360) -/

/-- The focused core can be halted: it runs or is idle, and debug is enabled for its partition (R360). -/
def State.haltable (s : State) : Bool :=
  s.debugOn s.part && (match s.core.run with
    | .running | .idle | .gated _ => true
    | _ => false)

/-- What JTAG does: nothing while DBG_EN disables it (R357, R405). -/
def State.viaJtag (s t : State) : State := if s.pfBits 0x150 32 1 = 1 then t else s

/-- HALT = 1 for the focused core (R359). -/
def State.dbgHalt (s : State) : State := if s.haltable then s.haltLogical else s

/-- HALT = 1 of the focused core through JTAG (R358, R359). -/
def execDbgHaltLogical (s : State) : Out := .next (s.viaJtag s.dbgHalt)

/-- HALT = 2 for the focused core (R360): a scan stop whose image goes to the address in the request register; the request sets
the event flag (R137). -/
def State.dbgScanHalt (s : State) : State :=
  if s.haltable then (s.setEvent s.cur).scanStop s.cur 2 s.core.dbg.reqImg true else s

/-- HALT = 2 of the focused core through JTAG (R358, R360). -/
def execDbgHaltScan (s : State) : Out := .next (s.viaJtag s.dbgScanHalt)

/-- RESUME of the focused core (R359, R360): the parked arrivals are applied in order, then it runs. -/
def State.dbgResume (s : State) : State :=
  let go (s : State) : State := s.upd (fun c => { c with run := if c.work.isSome then .running else .idle })
  if !s.debugOn s.part then s else
    match s.core.run with
    | .halted =>
      let l := s.core.parked
      let t := s.upd (fun c => { c with parked := [], dbg := { c.dbg with quiescent := false } })
      (go (t.applyParked s.cur l)).resumeIfFree
    | .scanStopped 2 =>
      (match s.scanImage s.cur with
      | some i => go ((s.dropImage i.id).applyParked s.cur i.parked)
      | none => go s)
    | _ => s

/-- RESUME of the focused core through JTAG (R358). -/
def execDbgResume (s : State) : Out := .next (s.viaJtag s.dbgResume)

/-- Nothing writes the scratchpad of the halted focused core any more (R359). -/
def execQuiescent (s : State) : Out :=
  .next (if s.core.run == .halted && s.core.quiesced && s.core.sb.toList.all (·.isNone) &&
      s.core.cp.xfers.all (fun x => !x.begun) then
      s.upd (fun c => { c with dbg := { c.dbg with quiescent := true } })
    else s)

/-- DBG_DATA is live (R358). -/
def State.dbgLive (s : State) : Bool := s.core.run == .halted && s.core.dbg.quiescent && s.debugOn s.part

/-- SPACE and INDEX of DBG_SEL. -/
def State.dbgSel (s : State) : Nat × Nat := (bits s.core.dbg.sel.toNat 60 4, bits s.core.dbg.sel.toNat 0 22)

/-- The value of DBG_DATA (R358). -/
def State.dbgData (s : State) : W64 :=
  if !s.dbgLive then 0 else
  match s.dbgSel with
  | (0, i) => if i % 8 = 0 then s.load8 (spadPa s.cur i) else 0
  | (1, i) => if h : i < 32 then s.rd ⟨i, h⟩ else 0
  | (2, i) => if csrCheck i 1 false == .ok then s.csr 1 i else 0
  | (3, _) => s.core.pc.setWidth 64
  | _ => 0

/-- DBG_DATA is read through JTAG (R357, R358). -/
def execDbgDataRead (s : State) : Out :=
  .next { s with hostRd := if s.pfBits 0x150 32 1 = 1 then s.dbgData else 0 }

/-- DBG_DATA is written (R358). -/
def State.dbgWrite (s : State) (v : W64) : State :=
  if !s.dbgLive then s else
    match s.dbgSel with
    | (0, i) => if i % 8 = 0 then s.store8 (spadPa s.cur i) v else s
    | (1, i) => if h : i < 32 then s.wr ⟨i, h⟩ v else s
    | (2, i) => if csrCheck i 1 true == .ok then s.setCsr 1 i v else s
    | (3, _) => s.upd (fun c => { c with pc := BitVec.ofNat 48 (v.toNat / 4 * 4) })
    | _ => s

/-- DBG_DATA is written through JTAG (R358). -/
def execDbgDataWrite (v : W64) (s : State) : Out := .next (s.viaJtag (s.dbgWrite v))

end Sys2Proof.Machine
end

