-- ==== Sys2Proof/Machine/Tst.lean ====
section
/-!
DEFINITION. The tenancy slot table (R363–R372): validity and commit, soft stops, edges, cleaning, donation, and the
completion of a logical save.
-/

namespace Sys2Proof.Machine

/-! ### Validity (R363, R364) -/

/-- Offsets of the owner bytes of an entry. -/
def ownerOffsets : List Nat :=
  [8] ++ (List.range 72).map (· + 16) ++ (List.range 32).map (· + 96) ++ (List.range 128).map (· + 128) ++
  (List.range 264).map (· + 256)

/-- An owner byte is well formed (R363). -/
def ownerOk (b : Nat) : Bool := b / 64 == 0 && (!bit b 5 || b % 32 == 0)

/-- DUR and DRAIN of an entry (R363). -/
def State.dur (s : State) (base e : Nat) : Nat := s.pfBits (base + 1024 * e) 0 33
def State.drain (s : State) (base e : Nat) : Nat := s.pfBits (base + 1024 * e + 8) 32 32

/-- The lowest rule of R364 that an entry breaks, 0 for none. -/
def State.entryErr (s : State) (base e : Nat) : Nat :=
  let b (o : Nat) : Nat := s.tstByte base e o
  let owner (o : Nat) : Nat := if o = 8 then b o % 64 else b o
  if s.dur base e < 4096 || 2 ^ 32 < s.dur base e || s.dur base e < s.drain base e + 2048 then 1
  else if ownerOffsets.any (fun o => !ownerOk (owner o)) then 2
  else if (List.range 72).any (fun p => s.fused p && !bit (b (16 + p)) 5) then 3
  else if (List.range 72).any (fun p => match ownerOf (b (16 + p)) with
      | some q => (List.range 64).all (fun i => ownerOf (b (128 + i)) != some q)
      | none => false) then 4
  else 0

/-- ERR and ERRENT of the shadow of a length (R366, R411). -/
def State.shadowErr (s : State) (len : Nat) : Nat × Nat :=
  if len = 0 || 32 < len || (1 < len && !s.feature 1) then (5, 0) else
  match (List.range len).find? (fun e => s.entryErr 0x20000 e != 0) with
  | some e => (s.entryErr 0x20000 e, e)
  | none => (0, 0)

/-! ### TST_CTL (R366) -/

/-- TST_CTL written with COMMIT = 1 (R366): ignored before LOCK (R412). -/
def execTstCommit (slen : BitVec 6) (s : State) : Out :=
  .next (if s.tst.commit || !s.locked then s else { s with tst := { s.tst with commit := true, slen := slen.toNat } })

/-- TST_CTL written with COMMIT = 0 (R366): ignored once the commit is fixed; one that S found invalid is no longer pending at E. -/
def execTstCommitCancel (s : State) : Out :=
  .next (if s.tst.commit && !s.tst.fixed then { s with tst := { s.tst with commit := false, bad := none } } else s)

/-! ### The next entry -/

/-- The running entry is the last of the cycle. -/
def State.lastEntry (s : State) : Bool := s.tst.len ≤ s.tst.ent + 1

/-- A pending commit that is decided now succeeds (R366); in minimal mode the table stays at its reset entry (R413). -/
def State.commitNow (s : State) : Bool :=
  s.lastEntry && s.tst.commit && (s.shadowErr s.tst.slen).1 == 0 && !s.boot.minimal

/-- Table base and number of the next entry, `fixed` saying whether the shadow follows (R366). -/
def State.nextEntryAt (s : State) (fixed : Bool) : Nat × Nat :=
  if s.lastEntry then (if fixed then (0x20000, 0) else (0x28000, 0)) else (0x28000, s.tst.ent + 1)

/-- The sideband field of the marker that the sequencer has emitted (R388): KIND 2 soft stop, 3 slot edge, ID 0. -/
def Tst.sideband (t : Tst) : Byte := if t.sent = 0 then 0 else BitVec.ofNat 8 (64 * (t.sent + 1))

/-- The soft-stop marker is emitted, 80 rc before it takes effect (R367): not when DRAIN is 0. -/
def execSoftStopEmit (s : State) : Out :=
  .next (if s.tst.sent = 0 && !s.tst.soft && s.drain 0x28000 s.tst.ent != 0 then { s with tst := { s.tst with sent := 1 } } else s)

/-- S (R366, R368): the commit is decided, and every core whose owner changes is soft-stopped. -/
def execSoftStop (s : State) : Out :=
  .next (if s.tst.sent ≠ 1 || s.boot.power == .stopped then s else
    let fixed := s.commitNow
    let bad := if s.lastEntry && s.tst.commit && !fixed then some (s.shadowErr s.tst.slen) else none
    let n := s.nextEntryAt fixed
    let leaving := (List.range Config.cores).filter (fun p => match s.coreHolder p with
      | some q => ownerOf (s.tstByte n.1 n.2 (16 + p)) != some q
      | none => false)
    let t := { s with tst := { s.tst with sent := 0, soft := true, fixed := fixed, bad := bad } }
    leaving.foldl (fun t p => t.softStopCore p) t)

/-- The edge marker is emitted (R367). -/
def execSlotEdgeEmit (s : State) : Out :=
  .next (if s.tst.sent = 0 && (s.tst.soft || s.drain 0x28000 s.tst.ent == 0) then { s with tst := { s.tst with sent := 2 } } else s)

/-! ### Cleaning (R369) -/

/-- A core that its partition loses while its record is not saved (R368): scan-stopped, logged, its image at SIMG_BASE. -/
def State.straggler (s : State) (p q : Nat) : State :=
  let c := s.coreAt p
  let a := BitVec.ofNat 48 (s.pfBits (partReg q 0x18) 0 48 + 2 ^ 23 * p)
  let halted := match c.run with
    | .halted | .saving _ true => true
    | _ => false
  let t := s.scanStop p 0 a halted
  (t.causeEntry 0 0 (c.resident.getD 0).toNat q p Cause.slotOverrun.code 0 (BitVec.ofNat 64 p)).addPf (partReg q 0x38) 1

/-- Physical core p is to be cleaned (R369). -/
def State.markCleaning (s : State) (p : Nat) : State :=
  if s.tst.cleaning.contains p then s else { s with tst := { s.tst with cleaning := p :: s.tst.cleaning } }

/-- The cleaning of physical core p for its holder begins (R369). -/
def State.beginCleaning (s : State) (p own : Nat) : State :=
  ((s.coreReset p own).updAt p (fun c => { c with run := .cleaning })).markCleaning p

/-- Physical core p leaves partition q at an edge (R368, R369): an idle context is saved first, once nothing lands in it any more
(R371); a record, and a halted core (R360), becomes a straggler. -/
def State.coreLeaves (s : State) (p q : Nat) (next : Option Nat) : State :=
  let c := s.coreAt p
  let own := next.getD q
  match c.run with
  | .scanStopped 2 => (s.straggler p q).markCleaning p
  | .scanStopped _ => s.markCleaning p
  | .idle | .gated false =>
    if c.resident.isNone then s.beginCleaning p own
    else if c.landed then (s.withCore p State.leaveContext).beginCleaning p own
    else (s.logicalStop p false).markCleaning p
  | .saving _ _ | .running | .halted | .gated true => (s.straggler p q).markCleaning p
  | .cleaning => s.beginCleaning p own

/-- Physical core p, which no partition held, comes to a partition at an edge (R369, R370): it is cleaned, once what it still
streams or saves is complete. -/
def State.coreJoins (s : State) (p own : Nat) : State :=
  match (s.coreAt p).run with
  | .scanStopped _ | .saving _ _ => s.markCleaning p
  | _ => s.beginCleaning p own

/-- The ways of group g of die d are written back and invalidated (R369): memory holds their contents. -/
def State.cleanWays (s : State) (d g : Nat) : State :=
  { s with llc := s.llc.filter (fun b => !(dieOf b.sector == d && b.has g)),
           tst := { s.tst with cleaning := (100 + 16 * d + g) :: s.tst.cleaning.filter (· != 100 + 16 * d + g) } }

/-- Reservations and gang replies of cores that leave end (R324): an attempt that has lost one is denied, and releases the rest. -/
def State.dropGrants (s : State) (ps : List Nat) : State :=
  { s with gangs := s.gangs.map (fun g =>
      let hit := (g.asked ++ g.grants).any ps.contains
      { g with asked := g.asked.filter (fun p => !ps.contains p), grants := g.grants.filter (fun p => !ps.contains p),
               denied := g.denied || (hit && (g.st == .reserving || g.st == .placed)),
               st := if hit && g.st == .placed then .reserving else g.st }) }

/-- The grants change from what `s` holds to what `t` holds (R369): cores, way groups, signatures, phase buffers. -/
def State.regrant (s t : State) : State :=
  let cores := (List.range Config.cores).filter (fun p => s.coreHolder p != t.coreHolder p)
  let lost := cores.filterMap (fun p => s.coreHolder p)
  let groups := (List.range 32).filter (fun k => s.holder (96 + k) != t.holder (96 + k))
  let u := cores.foldl (fun u p => match s.coreHolder p with
      | some q => u.coreLeaves p q (t.coreHolder p)
      | none => u.coreJoins p ((t.coreHolder p).getD 0)) t
  let u := groups.foldl (fun u k => u.cleanWays (k / 16) (k % 16)) u
  let u := lost.dedup.foldl (fun u q => u.sieveClear q) u
  let ph := ((List.range 392).map (· + 128)).filter (fun k => s.holder k != t.holder k)
  { u.dropGrants cores with tst := { u.tst with phases := ph ++ u.tst.phases.filter (fun k => !ph.contains k) } }

/-- A straggler's image of the partition that holds physical core p, which the next grant of the core restores (R368). -/
def State.dueImage (s : State) (p : Nat) : Option SavedImage :=
  s.images.find? (fun i => i.scan && i.straggler && i.phys == p && s.coreHolder p == some i.part.toNat)

/-- Cores that keep their owner at an edge but have a straggler's image to restore (R368): an idle one is cleaned and restored. -/
def State.dueCores (s : State) (kept : List Nat) : State :=
  kept.foldl (fun s p =>
    if (s.dueImage p).isSome && (s.coreAt p).run == .idle && (s.coreAt p).resident.isNone then
      s.beginCleaning p ((s.coreHolder p).getD 0)
    else s) s

/-- A halted core that was saved without a record is halted again (R359, R360). -/
def State.haltAgain (s : State) (p : Nat) : State :=
  match s.haltedImage p with
  | some i => if (s.coreAt p).run == .idle then s.withCore p (fun s => s.loadImage i .halted) else s
  | none => s

/-- The cores whose save for a donation is not complete at the edge (R372): stragglers, though their owner may stay. -/
def State.lateDonors (s : State) : List Nat :=
  (List.range Config.cores).filter (fun p => match s.coreHolder p, (s.coreAt p).run with
    | some q, .saving _ _ => s.tst.donating.any (·.toNat == q) && !s.tst.passed.any (·.1.toNat == q)
    | _, _ => false)

/-- The shadow becomes the active table (R366). -/
def State.activate (s : State) : State :=
  let keep := s.pf.filter (fun x => !(0x28000 ≤ x.1 && x.1 < 0x30000))
  let sh := (s.pf.filter (fun x => 0x20000 ≤ x.1 && x.1 < 0x28000)).map (fun x => (x.1 + 0x8000, x.2))
  { s with pf := keep ++ sh }

/-- E (R366, R368, R369, R371, R372): the commit is applied, the next entry begins, and what changes owner is cleaned. -/
def execSlotEdge (s : State) : Out :=
  .next (if s.tst.sent ≠ 2 || s.boot.power == .stopped then s else
    let good := s.tst.fixed || (!s.tst.soft && s.commitNow)
    let bad := if !s.tst.soft && s.lastEntry && s.tst.commit && !good then some (s.shadowErr s.tst.slen) else s.tst.bad
    let pending := (List.range 32).filter (fun q => s.pfBits (partReg q 0x08) 1 1 == 1)
    let t := if good then s.activate else s
    let ts := t.tst
    let t := { t with tst := { ts with
      ent := if s.lastEntry then 0 else ts.ent + 1
      len := if good then ts.slen else ts.len
      cycles := if s.lastEntry then ts.cycles + 1 else ts.cycles
      err := if good then 0 else (bad.map Prod.fst).getD ts.err
      errent := if good then 0 else (bad.map Prod.snd).getD ts.errent
      commit := if good || bad.isSome then false else ts.commit
      fixed := false, bad := none, soft := false, sent := 0, marks := [], passed := [], donating := [] } }
    let t := s.tst.passed.foldl (fun t x => t.addPf (partReg x.1.toNat 0x30) (s.rc - x.2)) t
    let kept := (List.range Config.cores).filter (fun p => s.coreHolder p == t.coreHolder p)
    let t := kept.foldl State.haltAgain ((s.regrant t).dueCores kept)
    let t := (s.lateDonors.filter kept.contains).foldl (fun t p => (t.straggler p ((s.coreHolder p).getD 0)).markCleaning p) t
    pending.foldl (fun t q => (t.setPfBits (partReg q 0x08) 1 1 0).partitionReset q 0 0xFF 0 0) t)

/-- The cleaning of the focused core and of the way groups completes (R370), not before its save or its image; a straggler's
image of the new owner's is restored at once (R368), and a core that was halted is halted again (R360). -/
def execCleaningComplete (s : State) : Out :=
  let p := s.cur
  let t := { s with tst := { s.tst with cleaning := s.tst.cleaning.filter (· < 100) } }
  .next (if s.boot.power == .stopped then s
    else if !t.tst.cleaning.contains p then t
    else if (match s.core.run, s.scanImage p with
      | .scanStopped _, some i => !i.sealed
      | .saving _ _, _ => true
      | _, _ => false) then t
    else
      let q := match t.coreHolder p with
        | some q => q
        | none => t.part
      let t := { t with tst := { t.tst with cleaning := t.tst.cleaning.filter (· != p) } }
      let t := (t.coreReset p q).nowIdle
      match t.dueImage p with
      | some i => if i.sealed then t.beginRestore i.addr else t
      | none => t.haltAgain p)

/-- The offset in a TST entry of the owner byte of a flit's slot, where the slot belongs to a phase (R363, R387). -/
def Flit.phaseByte (f : Flit) : Option Nat := if f.slot < 128 then some (128 + 64 * f.dir + f.slot % 64) else none

/-- The link between two sectors (R363). -/
def linkNo (i j : Nat) : Nat :=
  let a := min i j
  let b := max i j
  5 * a - a * (a - 1) / 2 + (b - a - 1)

/-- The offset in a TST entry of the owner byte of phase φ of the link from sector i to sector j (R363). -/
def linkByte (i j φ : Nat) : Nat := 256 + 16 * linkNo i j + (if i < j then 0 else 8) + φ

/-- The owner byte of the phase in which a flit was launched, a position of the 8-rc frame of its link (R392). -/
def LinkFlit.phaseByte (f : LinkFlit) : Option Nat := f.sent.map (fun t => linkByte f.src f.dst (t.1 % 8))

/-- The phase buffers whose old owner's flits are all accepted are the new owner's (R369). -/
def execPhaseDrainComplete (s : State) : Out :=
  .next { s with tst := { s.tst with phases := s.tst.phases.filter (fun k =>
    s.flits.any (fun f => f.st == .inSlot && f.phaseByte == some k) || s.linkq.any (fun f => f.phaseByte == some k)) } }

/-! ### The completion of a save (R346, R371, R372) -/

/-- A core of partition q is being saved. -/
def State.anySaving (s : State) (q : Nat) : Bool :=
  (s.partCores q).any (fun p => match (s.coreAt p).run with
    | .saving _ _ => true
    | _ => false)

/-- The last save of a donating partition is complete: its grants pass to the beneficiary, from this ring cycle on (R372). -/
def State.passGrants (s : State) (q : BitVec 5) : State :=
  if s.tst.donating.contains q && !s.tst.passed.any (fun x => x.1 == q) && !s.anySaving q.toNat then
    s.regrant { s with tst := { s.tst with passed := (q, s.rc) :: s.tst.passed,
                                           marks := s.tst.marks.filter (fun p => s.coreHolder p != some q.toNat) } }
  else s

/-- The focused core's save completes (R346, R347): its engines stand at entry boundaries and nothing lands any more. -/
def execLogicalSaveComplete (s : State) : Out :=
  .next (match s.core.run with
    | .saving _ h => if s.core.quiesced && s.core.landed then s.scrubGuard ((s.saveCore h).passGrants s.core.part) else s
    | _ => s)

/-! ### The ring cycle (R373, R392, R415) -/

/-- A flit has crossed its link: after 12 rc within a die, 24 rc between dies (R392). -/
def State.linkDone (s : State) (f : LinkFlit) : Bool :=
  match f.sent with
  | some t => decide (t.1 + (if dieOf f.src = dieOf f.dst then 12 else 24) ≤ s.rc)
  | none => false

/-- The answer to a flit that has crossed. -/
def LinkFlit.answer (f : LinkFlit) : LinkFlit := ⟨f.dst, f.src, f.part, false, none⟩

/-- A waiting flit may be launched in this ring cycle (R392): in a phase of its partition's, or in an open phase for which a credit
of the receiving port is left; not while the phase drains (R369). The answer says whether it takes a credit. -/
def State.linkMay (s : State) (f : LinkFlit) : Option Bool :=
  let k := linkByte f.src f.dst (s.rc % 8)
  if s.tst.phases.contains k then none else
  match s.holder k with
  | some q => if f.part.toNat = q then some false else none
  | none =>
    let out := s.linkq.filter (fun g => g.src == f.src && g.dst == f.dst && (match g.sent with
      | some t => t.2
      | none => false))
    if out.length < Config.linkCredits then some true else none

/-- One flit at most is launched on a direction of a link (R392): the first of its waiting flits that may be. -/
def State.linkLaunch (s : State) (i j : Nat) : State :=
  match s.linkq.findIdx? (fun f => f.src == i && f.dst == j && f.sent.isNone && (s.linkMay f).isSome) with
  | some n => { s with linkq := s.linkq.modify n (fun f => { f with sent := (s.linkMay f).map (fun b => (s.rc, b)) }) }
  | none => s

/-- The sector links in a ring cycle (R392): what has crossed leaves, its answer waits, and each direction launches one. -/
def State.linkStep (s : State) : State :=
  if s.linkq.isEmpty then s else
  let t := { s with linkq := s.linkq.filter (fun f => !s.linkDone f) ++
                             ((s.linkq.filter (fun f => s.linkDone f && f.back)).map LinkFlit.answer) }
  (List.range 6).foldl (fun t i => (List.range 6).foldl (fun t j => t.linkLaunch i j) t) t

/-- A ring cycle passes: the sector links move; at the end of every throttled 10 rc, THRCYC and THROT_LOST of the partitions count them. -/
def State.rcTick (s : State) : State :=
  let t := { s with rc := s.rc + 1 }.linkStep
  if t.rc % 10 = 0 && t.throttled then
    (List.range 32).foldl (fun t q => if t.ncore q = 0 then t else t.addPf (partReg q 0x28) (3 * t.ncore q)) (t.addPf 0xE8 10)
  else t

end Sys2Proof.Machine
end

