-- ==== Sys2Proof/Machine/Vf.lean ====
section
/-!
DEFINITION. Stopping, resuming and migrating a virtual function (R377–R380, R400, R406), dirty-page reports, the scrub queue
(R384, R385) and the TDI states (R399).
-/

namespace Sys2Proof.Machine

/-! ### Stopping (R377, R379, R380) -/

/-- Physical cores that run a record of a VF or hold its state. -/
def State.vfCores (s : State) (v : BitVec 9) : List Nat :=
  (List.range Config.cores).filter (fun p =>
    (s.coreAt p).resident == some v || (match (s.coreAt p).work with
      | some r => r.vf == v
      | none => false))

/-- The cores of a VF that are not yet being saved stop as at a soft stop (R377). -/
def State.stopCores (s : State) (v : BitVec 9) : State :=
  (s.vfCores v).foldl (fun s p => match (s.coreAt p).run with
    | .saving _ _ | .scanStopped _ | .cleaning => s
    | _ => s.logicalStop p false) s

/-- STOP of a VF (R377, step 1 and 2). -/
def State.stopVf (s : State) (v : BitVec 9) : State :=
  if s.vfStopping v.toNat || s.vfStopped v.toNat then s
  else ((s.setPfBits (vfReg v.toNat 8) 2 1 1).setPfBits (vfReg v.toNat 8) 56 8 0).stopCores v

/-- The other bitmap becomes current, and SEQ increments (R379). -/
def State.swapDirty (s : State) (v : Nat) : State :=
  s.setPfBits (vfReg v 0x68) 32 32 (s.pfBits (vfReg v 0x68) 32 32 + 1)

/-- The queued records of a VF, level 3 first in queue order, a gang's as its members: level, image, record (R380). -/
def State.exportRecs (s : State) (v : BitVec 9) : List (Nat × Option Nat × Rec) :=
  [3, 2, 1, 0].flatMap (fun p => (s.tq.filter (fun e => e.prio == p && e.work.vf == v)).flatMap (fun e =>
    match e.gang with
    | none => [(p, e.img, e.work)]
    | some g => match s.gangOf g, s.launchOf e.work.vf e.work.lid with
      | some g, some l => (List.range g.size).map (fun j => (p, none, l.record (g.first + j)))
      | _, _ => []))

/-- The address of an image. -/
def State.imageAddr (s : State) (id : Nat) : W64 := match s.images.find? (fun i => i.id == id) with
  | some i => i.addr.setWidth 64
  | none => 0

/-- The 64 bytes of an exported record (R380). -/
def State.exportRec (s : State) (x : Nat × Option Nat × Rec) : List W64 :=
  [BitVec.ofNat 64 (x.1 * 2 ^ 62 + b2n x.2.1.isSome * 2 ^ 61 + x.2.2.lid.toNat),
   (match x.2.1 with
    | some id => s.imageAddr id
    | none => 0), x.2.2.d0, x.2.2.d1, x.2.2.d2, x.2.2.d3, 0, 0]

/-- The 64 bytes of an exported launch (R380). -/
def exportLaunch (l : Launch) : List W64 :=
  [l.recAddr.setWidth 64, l.lid.setWidth 64, BitVec.ofNat 64 l.nextIdx,
   BitVec.ofNat 64 (l.triggered.length * 2 ^ 32 + l.retired.length), 0, 0, 0, 0]

/-- The export block of a VF (R380). -/
def State.exportVf (s : State) (v : BitVec 9) : State :=
  let a := s.pfBits (vfReg v.toNat 0x70) 0 48
  if a = 0 then s else
  let recs := s.exportRecs v
  let ls := s.launches.filter (fun l => l.vf == v)
  s.storeDoubles (s.vfPart v.toNat) v a ([BitVec.ofNat 64 (recs.length * 2 ^ 32 + ls.length), BitVec.ofNat 64 (s.pfBits (vfReg v.toNat 0x50) 0 32),
    0, 0, 0, 0, 0, 0] ++ recs.flatMap s.exportRec ++ ls.flatMap exportLaunch)

/-- VF_STOP (R377). -/
def execVfStop (vf : BitVec 9) (s : State) : Out := .next (s.whenUp (s.stopVf vf))

/-- Steps 3 to 7 of R377, once every save is complete; a core whose scan image has come back is stopped again first. -/
def execVfStopComplete (vf : BitVec 9) (s : State) : Out :=
  let v := vf.toNat
  .next (if !s.vfStopping v then s
    else if !(s.vfCores vf).isEmpty then s.stopCores vf
    else if s.images.any (fun i => i.scan && i.vf == vf) then s
    else
      let t := if s.pfBits (vfReg v 0x68) 0 1 = 1 then s.swapDirty v else s
      let t := t.exportVf vf
      let t := (t.setPfBits (vfReg v 8) 2 1 0).setPfBits (vfReg v 8) 3 1 1
      s.scrubGuard (t.causeEntry 2 0 v (t.vfPart v) 0xFF 0 2 (BitVec.ofNat 64 (t.pfBits (vfReg v 0x68) 32 32))))

/-! ### Resuming and importing (R378, R380) -/

/-- A list brought to a length by entries from n on, which name no group. -/
def padTo (l : List Nat) (k n : Nat) : List Nat := if l.length = k then l else (List.range k).map (· + n)

/-- A launch entry of an export block taken up (R380): one that this device still holds, at its counts, or one read again from
its record, through the tables of the launches before it and of PL1 where LAUNCH submitted it (log entry 126, DESIGN CHOICE).
Which groups have triggered is not exported: the counts alone go on, and a record that resumes knows whether it has triggered. -/
def State.importLaunch (s : State) (v : BitVec 9) (ts : List Addr) (d : List W64) : Option Launch :=
  let g (k : Nat) : Nat := (d.getD k 0).toNat
  let lid := BitVec.ofNat 32 (g 1)
  let set (l : Launch) : Launch :=
    { l with lid := lid, begun := l.begun || g 2 != 0, nextIdx := g 2,
             triggered := padTo l.triggered (g 3 / 2 ^ 32) l.groups, retired := padTo l.retired (g 3 % 2 ^ 32) l.groups }
  match s.launchOf v lid with
  | some l => some (set l)
  | none => match s.recordDoubles v (ts ++ [BitVec.ofNat 48 (s.pfBits (vfReg v.toNat 0x40) 0 48)]) (g 0) with
    | none => none
    | some ds =>
      let q := s.vfPart v.toNat
      match parseLaunch ds v (BitVec.ofNat 5 q) (g 0) (s.ncore q) 0 true with
      | none => none
      | some (l, n, tpre) => match (s.asLaunch l).launchTables ⟨0, false, false, false, false⟩ l n tpre with
        | .ok (some l, _) => some (set l)
        | _ => none

/-- A record entry of an export block requeued (R380). -/
def State.importRec (s : State) (v : BitVec 9) (d : List W64) : State :=
  let h := (d.getD 0 0).toNat
  let lid := BitVec.ofNat 32 h
  let part := BitVec.ofNat 5 (s.vfPart v.toNat)
  let l := s.launchOf v lid
  let r : Rec :=
    { d0 := d.getD 2 0, d1 := d.getD 3 0, d2 := d.getD 4 0, d3 := d.getD 5 0, vf := v, lid := lid, prio := h / 2 ^ 62,
      ttab := (match l with
        | some l => l.ttab
        | none => 0),
      group := (match l with
        | some l => d.getD 2 0 == l.entry.setWidth 64 && d.getD 4 0 == 0
        | none => false) }
  if bit h 61 then
    match s.imageAt false ((d.getD 1 0).toNat % 2 ^ 48) with
    | some i =>
      let i : SavedImage := { i with addr := (d.getD 1 0).setWidth 48 }
      { s with images := s.images.filter (fun (j : SavedImage) => j.id != i.id) ++ [i] }.enqueueAt part r.prio (i.core.work.getD r) none (some i.id)
    | none => s.causeEntry 0 0 v.toNat part.toNat 0xFF Cause.memPoison.code 0 (d.getD 1 0)
  else match l with
    | some l => (match l.gangLevel with
      | some k =>
        if r.group then (if r.index % blockSize l.levels k = 0 then s.enqueueGang l k r.index r.prio else s)
        else s.enqueue part r
      | none => s.enqueue part r)
    | none => s.enqueue part r

/-- n doubles at a device address. -/
def State.loadDoubles (s : State) (a n : Nat) : List W64 := (List.range n).map (fun k => s.load8 (a + 8 * k))

/-- The export block imported (R380). -/
def State.importVf (s : State) (v : BitVec 9) : State :=
  let a := s.pfBits (vfReg v.toNat 0x70) 0 48
  if a = 0 then s else
  let h := (s.load8 a).toNat
  let nrec := h / 2 ^ 32
  let ls := (List.range (h % 2 ^ 32)).foldl (fun ls k =>
    ls ++ (s.importLaunch v (ls.map Launch.ttab) (s.loadDoubles (a + 64 + 64 * (nrec + k)) 8)).toList) []
  let gs := (s.gangs.filter (fun g => g.vf == v)).map (·.id)
  let t := { s with launches := s.launches.filter (fun (l : Launch) => l.vf != v) ++ ls,
                    tq := s.tq.filter (fun e => e.work.vf != v), gangs := s.gangs.filter (fun g => !gs.contains g.id) }
  let t := (List.range nrec).foldl (fun t k => t.importRec v (s.loadDoubles (a + 64 + 64 * k) 8)) t
  t.setPf (vfReg v.toNat 0x50) (BitVec.ofNat 64 ((s.load8 (a + 8)).toNat % 2 ^ 32))

/-- VF_RESUME (R378): code 2 refuses a VF that is not stopped. -/
def execVfResume (vf : BitVec 9) (s : State) : Out :=
  .next (s.whenUp (if !s.vfStopped vf.toNat then s.setPfBits (vfReg vf.toNat 8) 56 8 2
    else ((s.importVf vf).setPfBits (vfReg vf.toNat 8) 3 1 0).setPfBits (vfReg vf.toNat 8) 56 8 0))

/-- A function-level reset of a VF is a STOP (R406). -/
def execVfFlr (vf : BitVec 9) (s : State) : Out := .next (s.whenUp (s.stopVf vf))

/-- DIRTY_SWAP (R379). -/
def execDirtySwap (vf : BitVec 9) (s : State) : Out := .next (s.whenUp (s.swapDirty vf.toNat))

/-! ### TDI states (R399, R400) -/

/-- The TDI state of a VF. -/
def State.tdiOf (s : State) (v : BitVec 9) : Tdi := match s.tdi.find? (fun x => x.1 == v) with
  | some x => x.2
  | none => .unlocked

/-- A TDI state set. -/
def State.setTdi (s : State) (v : BitVec 9) (t : Tdi) : State := { s with tdi := (v, t) :: s.tdi.filter (fun x => x.1 != v) }

/-- A TDI enters ERROR: the VF stops (R400). -/
def execTdiError (vf : BitVec 9) (s : State) : Out := .next ((s.setTdi vf .error).stopVf vf)

/-! ### The scrub queue (R384, R385) -/

/-- A frame pushed by PL2 (R384): with 256 entries waiting, ERR is set and the push ignored. -/
def State.pushScrub (s : State) (w : W64) : State :=
  if 256 ≤ s.scrubq.length then s.setPfBits 0x130 63 1 1
  else { s with scrubq := s.scrubq ++ [w &&& 0x80000000001FFFFF#64] }

/-- SCRUB_PUSH (R384). -/
def execScrubPush (w : W64) (s : State) : Out := .next (s.whenUp (s.pushScrub w))

/-- The L1 lines of a device range invalidated in every core. -/
def State.dropL1 (s : State) (a n : Nat) : State :=
  let f (c : Core) : Core := { c with l1 := c.l1.filter (fun x => 64 * x < a || a + n ≤ 64 * x) }
  { s with core := f s.core, others := s.others.map (fun x => (x.1, f x.2)) }

/-- The oldest frame of the queue is zeroed, its copies invalidated, and released (R385). -/
def execScrubComplete (s : State) : Out :=
  .next (match s.scrubq with
    | [] => s
    | w :: r =>
      let a := devPa (w.toNat / 2 ^ 63) (w.toNat % 2 ^ 21) 0
      let t := { s with scrubq := r, mem := Memory.clear s.mem a (2 ^ 18),
                        poison := s.poison.filter (fun u => 64 * u < a || a + 2 ^ 18 ≤ 64 * u),
                        llc := s.llc.filter (fun b => 256 * b.sb < a || a + 2 ^ 18 ≤ 256 * b.sb) }
      (t.dropL1 a (2 ^ 18)).addPf 0x138 1)

end Sys2Proof.Machine
end

