-- ==== Sys2Proof/Machine/Bringup.lean ====
section
/-!
DEFINITION. Power, reset, the boot ROM, feature acceptance, attestation and throttling (R406–R417).
-/

namespace Sys2Proof.Machine

/-! ### Power and reset (R406, R407, R413, R417) -/

/-- The package as it stands when the boot ROM starts: only what flash keeps, and the memory that `keep` admits. -/
def State.restart (s : State) (keep : Nat → Bool) (p : Power) : State :=
  { State.reset with
    mem := s.mem.filter (fun c => keep c.1), poison := s.poison.filter (fun u => keep (64 * u)),
    boot := { Boot.reset with power := p, failcnt := s.boot.failcnt, lreason := s.boot.lreason, lstage := s.boot.lstage,
                              detail := s.boot.detail, devser := s.boot.devser, svn := s.boot.svn },
    free := s.free, turn := s.turn, agenda := s.agenda, hostRd := s.hostRd, ethTx := s.ethTx, msix := s.msix, spdm := s.spdm, archive := s.archive, nextImage := s.nextImage, rc := s.rc }

/-- Host memory, which lies outside the package. -/
def isHost (a : Nat) : Bool := 2 ^ 48 ≤ a

/-- PF_RESET (R406): HBM, cold store and flash contents are kept; the boot sequence runs from stage 1. -/
def execPfReset (s : State) : Out := .next (if s.boot.power == .off then s else s.restart (fun a => isHost a || a < 2 ^ 40) .booting)

/-- POWER_ON (R407). -/
def execPowerOn (s : State) : Out := .next (if s.boot.power == .off then s.restart isHost .booting else s)

/-- POWER_LOSS (R413). -/
def execPowerLoss (s : State) : Out := .next (s.restart isHost .off)

/-- TEMP0, TEMP1 and PWR as read (R415). -/
def State.sample (s : State) (t0 t1 : H16) : State := s.setPf 0xC0 (BitVec.ofNat 64 (t1.toNat * 2 ^ 16 + t0.toNat))

/-- THERMAL_CUT (R417): at 125 °C the package loses power; the next start finds reason 7. -/
def execThermalCut (t0 t1 : H16) (s : State) : Out :=
  .next (if 2000 ≤ t0.toInt || 2000 ≤ t1.toInt then
      let t := s.restart isHost .off
      { t with boot := { t.boot with lreason := 7, lstage := s.boot.stage, detail := 0 } }
    else s.sample t0 t1)

/-! ### Boot stages (R407–R410, R413) -/

/-- A stage fails with a reason and a detail (R407). -/
def State.bootFail (s : State) (reason detail : Nat) : State :=
  { s with boot := { s.boot with power := .failed, lreason := reason, lstage := s.boot.stage, detail := BitVec.ofNat 32 detail } }

/-- The enabled cores that the fuses leave, in ascending physical order. -/
def enabledCores (h0 h1 : BitVec 36) : List Nat :=
  (List.range 72).filter (fun p => !(if p < 36 then bit h0.toNat p else bit h1.toNat (p - 36)))

/-- NCORES and the L2P table written (R409, R410); fused cores are NONE in the reset entry of both TST tables (R364). -/
def State.setL2p (s : State) (l : List Nat) : State :=
  let s := s.setPf 0x58 (BitVec.ofNat 64 l.length)
  let s := (List.range 72).foldl (fun s n => s.setPfBits (0x60 + n / 8 * 8) (8 * (n % 8)) 8 (l.getD n 0xFF)) s
  (List.range 72).foldl (fun s p =>
    let v := if l.contains p then 0 else 0x20
    let o := (16 + p) / 8 * 8
    (s.setPfBits (0x20000 + o) (8 * ((16 + p) % 8)) 8 v).setPfBits (0x28000 + o) (8 * ((16 + p) % 8)) 8 v) s

/-- A firmware slot is accepted (R408). -/
def slotOk (x : SlotInfo) (svn : Nat) : Bool := x.sigOk && x.keyHashOk && decide (svn ≤ x.svn)

/-- The clusters of which a core is enabled. -/
def liveClusters (l : List Nat) : List Nat := (List.range 18).filter (fun c => l.any (fun p => p / 4 == c))

/-- The cluster of minimal mode (R413): the lowest of die 0 with four enabled cores that passes stage 6. -/
def minimalCluster (l bad : List Nat) : Option Nat :=
  (List.range 9).find? (fun c => (l.filter (fun p => p / 4 == c)).length == 4 && !bad.contains c)

/-- Stage 1: FAILCNT and the fuses (R407, R413). -/
def State.bootFuses (s : State) (i : BootIn) : State :=
  let b := s.boot
  let s := { s with boot := { b with minimal := b.failcnt == 3, failcnt := min 3 (b.failcnt + 1) } }
  if !i.fusesOk then s.bootFail 4 0
  else
    let s := { s with boot := { s.boot with devser := i.devser, harvest0 := i.harvest0, harvest1 := i.harvest1, svn := i.svn } }
    (s.setPf 0x48 (i.harvest0.setWidth 64)).setPf 0x50 (i.harvest1.setWidth 64)

/-- Stage 6: the enabled clusters tested (R407); minimal mode keeps one (R413). -/
def State.bootTest (s : State) (i : BootIn) : State :=
  let l := enabledCores s.boot.harvest0 s.boot.harvest1
  if s.boot.minimal then
    match minimalCluster l i.badClusters with
    | some c => s.setL2p (l.filter (fun p => p / 4 == c))
    | none => s.bootFail 5 (i.badClusters.headD 0)
  else match (liveClusters l).find? i.badClusters.contains with
    | some c => s.bootFail 5 c
    | none => s

/-- The work of a stage (R407). -/
def State.bootWork (s : State) (stage : Nat) (i : BootIn) : State :=
  match stage with
  | 1 => s.bootFuses i
  | 2 => if slotOk i.slotA s.boot.svn then { s with boot := { s.boot with slot := false, slotSvn := i.slotA.svn } }
    else if slotOk i.slotB s.boot.svn then { s with boot := { s.boot with slot := true, slotSvn := i.slotB.svn } }
    else s.bootFail 1 0
  | 3 => (match i.hbmBad with
    | some k => if s.boot.minimal && k != 0 then s else s.bootFail 2 k.toNat
    | none => s)
  | 4 => (match i.lpddrBad with
    | some k => s.bootFail 3 k.toNat
    | none => s)
  | 5 =>
    let l := enabledCores s.boot.harvest0 s.boot.harvest1
    if l.isEmpty then s.bootFail 4 0 else s.setL2p l
  | 6 => s.bootTest i
  | 7 => s.setPf 0 (if s.boot.minimal then 0x10 else 0x3F)
  | 8 => { s with boot := { s.boot with power := .ready } }
  | _ => s

/-- BOOT_STAGE (R407): the next stage writes its code, then does its work. -/
def execBootStage (inp : BootIn) (s : State) : Out :=
  .next (if s.boot.power == .booting && decide (s.boot.stage < 8) then
      let k := s.boot.stage + 1
      ({ s with boot := { s.boot with stage := k } }).bootWork k inp
    else s)

/-- BOOT_TEMP_SAMPLE (R407): 110 °C ends the start with reason 7. -/
def execBootTempSample (t0 t1 : H16) (s : State) : Out :=
  .next (if s.boot.power == .booting && decide (1 ≤ s.boot.stage) then
      let t := s.sample t0 t1
      if 1760 ≤ t0.toInt || 1760 ≤ t1.toInt then t.bootFail 7 0 else t
    else s)

/-- BOOT_STAGE_TIMEOUT (R407). -/
def execBootStageTimeout (s : State) : Out :=
  .next (if s.boot.power == .booting && decide (1 ≤ s.boot.stage) then s.bootFail 6 0 else s)

/-- FEATURE_LOCK (R412): ignored before READY; FACC is fixed and FAILCNT cleared. -/
def execFeatureLock (s : State) : Out :=
  .next (if s.boot.power == .ready && !s.locked then
      { s.setPfBits 0x40 63 1 1 with boot := { s.boot with failcnt := 0 } }
    else s)

/-! ### Throttling (R373, R415, R416) -/

/-- Telemetry read at a boundary (R415). -/
def State.telemetry (s : State) (t0 t1 : H16) (pwr : W32) : State := (s.sample t0 t1).setPf 0xC8 (pwr.setWidth 64)

/-- THR_ON and THR_OFF, signed (R415). -/
def State.thrOn (s : State) : Int := sint (s.pfBits 0xD8 0 16) 16
def State.thrOff (s : State) : Int := sint (s.pfBits 0xD8 16 16) 16

/-- The throttle may change: on a boundary of 10 rc (R373), once in a ring cycle (R416). -/
def State.thrTurn (s : State) : Bool := s.rc % 10 == 0 && s.thrAt != some s.rc

/-- The throttle has changed in this ring cycle. -/
def State.throttledNow (s : State) : State := { s with thrAt := some s.rc }

/-- THROTTLE_ONSET (R416). -/
def execThrottleOnset (t0 t1 : H16) (pwr : W32) (s : State) : Out :=
  let t := s.telemetry t0 t1 pwr
  .next (if s.thrTurn && !s.throttled && (s.thrOn ≤ t0.toInt || s.thrOn ≤ t1.toInt || s.pfBits 0xD0 0 32 < pwr.toNat) then
      ((t.setPfBits 0xE0 63 1 1).setPfBits 0xE0 0 32 (t.pfBits 0xE0 0 32 + 1)).causeEntry 3 0 0 0 0xFF Cause.throttle.code 0 1 |>.throttledNow
    else t)

/-- THROTTLE_END (R416). -/
def execThrottleEnd (t0 t1 : H16) (pwr : W32) (s : State) : Out :=
  let t := s.telemetry t0 t1 pwr
  .next (if s.thrTurn && s.throttled && t0.toInt < s.thrOff && t1.toInt < s.thrOff && pwr.toNat ≤ s.pfBits 0xD0 0 32 then
      (t.setPfBits 0xE0 63 1 0).causeEntry 3 0 0 0 0xFF Cause.throttle.code 0 0 |>.throttledNow
    else t)

/-! ### Attestation (R414) -/

/-- The bytes of n device addresses. -/
def State.tableBytes (s : State) (a n : Nat) : List Byte := (List.range n).map (fun k => s.byte (a + k))

/-- The second-stage table of a VF: the root, and every leaf that a valid root entry names, in index order (R414, R295). -/
def State.secondStage (s : State) (v : Nat) : List Byte :=
  let root := s.pfBits (vfReg v 0x30) 0 48
  s.tableBytes root (2 ^ 19) ++ (List.range (2 ^ 16)).flatMap (fun k =>
    let e := (s.load8 (root + 8 * k)).toNat
    if bit e 63 then s.tableBytes (bits e 0 48) (2 ^ 17) else [])

/-- The bytes that a measurement index covers (R414): the ROM, the firmware in use with its SVN, the monitor, FACC and LOCK, the
second-stage table of a VF. Of the ROM, of slots A and B and of the monitor the spec gives no bytes. -/
def State.measured (s : State) (index : Nat) : List Byte :=
  if index = 2 then Config.measuredCode (if s.boot.slot then 5 else 2) ++ leBytes 4 s.boot.slotSvn
  else if index = 4 then (List.range 4).flatMap (fun k => leBytes 8 (s.pfRaw (0x20 + 8 * k)).toNat) ++ leBytes 8 (b2n s.locked)
  else if 16 ≤ index then s.secondStage (index - 16)
  else Config.measuredCode index

/-- An index that GET_MEASUREMENTS reports (R414). -/
def measureIndex (index : Nat) : Bool := (1 ≤ index && index ≤ 4) || (16 ≤ index && index < 528)

/-- SPDM_REQUEST (R414): GET_MEASUREMENTS of an index answers its digest, of any other nothing; a failed start answers no request
(R407). -/
def execSpdmRequest (index : Nat) (s : State) : Out :=
  .next (s.whenUp { s with spdm := s.spdm ++ [if measureIndex index then Sha3.digest (s.measured index) else []] })

/-- A TDISP message (R399): 0 locks an unlocked interface, 1 starts a locked one, 2 stops and unlocks it, 3 asks for its report, which
carries measurement 16 + v (R414); a message that does not fit the state changes nothing. -/
def execTdispRequest (vf : BitVec 9) (msg : BitVec 2) (s : State) : Out :=
  .next (s.whenUp (match msg.toNat, s.tdiOf vf with
    | 0, .unlocked => s.setTdi vf .locked
    | 1, .locked => s.setTdi vf .run
    | 2, _ => s.setTdi vf .unlocked
    | 3, _ => { s with spdm := s.spdm ++ [Sha3.digest (s.measured (16 + vf.toNat))] }
    | _, _ => s))

end Sys2Proof.Machine
end

