-- ==== Sys2Proof/Machine/Ports.lean ====
section
/-!
DEFINITION. The Lorcy ports (R393–R397), the Ethernet ports (R401–R404) and the expiry of L1 lines (R290).
-/

namespace Sys2Proof.Machine

/-! ### Lorcy ports -/

/-- A port's state: east 0, west 1. -/
def State.port (s : State) (p : Bool) : LPort := s.ports.toList.getD (b2n p) LPort.reset

/-- A port's state changed. -/
def State.updPort (s : State) (p : Bool) (f : LPort → LPort) : State :=
  { s with ports := s.ports.setIfInBounds (b2n p) (f (s.port p)) }

/-- Packages of the ring, and this package's position (R397). -/
def State.npkg (s : State) : Nat := s.pfBits 0x400 8 4 + 1
def State.pos (s : State) : Nat := s.pfBits 0x400 0 4

/-- A port is enabled (R393, R397, R411). -/
def State.portEnabled (s : State) (p : Bool) : Bool :=
  s.feature 2 && s.pfBits 0x400 (if p then 62 else 63) 1 == 1 && s.npkg != 1

/-- The position of a port's neighbour (R393). -/
def State.neighbour (s : State) (p : Bool) : Nat := if p then (s.pos + s.npkg - 1) % s.npkg else (s.pos + 1) % s.npkg

/-- A LANE_SPARE entry (R382, R397). -/
def State.laneSpare (s : State) (event : Nat) (p : Bool) (lane spare : Nat) : State :=
  s.causeEntry 3 0 0 0 0xFF Cause.laneSpare.code 0 (BitVec.ofNat 64 (event * 2 ^ 24 + b2n p * 2 ^ 16 + lane * 2 ^ 8 + spare))

/-- Bytes of an element of a collective (R261). -/
def collBytes (typ : Nat) : Nat := if typ = 1 then 2 else 4

/-- Participants of a collective (R261). -/
def Coll.np (x : Coll) : Nat := ((List.range 16).filter (bit x.pmask)).length

/-- Elements that a collective writes at a participant (R262), by opcode. -/
def Coll.outCount (x : Coll) : Nat :=
  match x.kind with
  | 8 => x.np * x.count
  | 9 => x.count / x.np
  | _ => x.count

/-- The bytes [a, a + n) become poisoned; what the LLC holds of them is re-encoded (R300). -/
def State.poisonRange (s : State) (a n : Nat) : State :=
  if n = 0 then s else
  ((List.range ((a + n - 1) / 64 - a / 64 + 1)).foldl (fun t k => t.setPoison (64 * (a / 64 + k))) s).llcWrites a n s.part s.vf

/-- A collective ends with COPY_INTEGRITY (R260, R396). -/
def Coll.broken (x : Coll) : Coll := { x with written := true, pend := some ⟨.copyIntegrity, x.collid.setWidth 64⟩ }

/-- The collectives of physical core p that `f` picks end with COPY_INTEGRITY, their destinations poisoned (R260). -/
def State.breakCollsOf (s : State) (p : Nat) (f : Coll → Bool) : State :=
  let l := (s.coreAt p).cp.colls.filter (fun x => f x && !x.written)
  let s := l.foldl (fun t x => t.poisonRange (spadPa p x.dst) (x.outCount * collBytes x.typ)) s
  if l.isEmpty then s else
  s.updAt p (fun c => { c with cp := { c.cp with colls := c.cp.colls.map (fun x => if f x && !x.written then x.broken else x) } })

/-- The collectives that `f` picks in a scan image end likewise, as the restored tile finds them (R353, R396). -/
def SavedImage.breakColls (i : SavedImage) (f : Coll → Bool) : SavedImage :=
  let l := i.core.cp.colls.filter (fun x => f x && !x.written)
  let units (x : Coll) : List Nat :=
    let n := x.outCount * collBytes x.typ
    if n = 0 then [] else (List.range ((x.dst + n - 1) / 64 - x.dst / 64 + 1)).map (· + x.dst / 64)
  let cp := i.core.cp
  { i with poison := l.flatMap units ++ i.poison,
           core := { i.core with cp := { cp with colls := cp.colls.map (fun x => if f x && !x.written then x.broken else x) } } }

/-- Every collective of the package that `f` picks ends at its participants, those of a tile that a scan stop holds among them. -/
def State.breakColls (s : State) (f : Coll → Bool) : State :=
  let t := (List.range Config.cores).foldl (fun t p => t.breakCollsOf p f) s
  let held := s.images.filter (fun i => i.scan && i.core.cp.colls.any (fun x => f x && !x.written))
  held.foldl (fun t i => t.updImage i.id (fun i => i.breakColls f)) t

/-- A port goes DOWN (R396). -/
def State.portDown (s : State) (p : Bool) : State :=
  ((s.updPort p (fun x => { x with up := false, held := 0, moves := [], txMoves := [] })).laneSpare 3 p 0 0x1F).breakColls (fun _ => true)

/-- PORT_DOWN (R394, R396). -/
def execPortDown (port : Bool) (s : State) : Out := .next (if (s.port port).up then s.portDown port else s)

/-- A port that is not enabled, or whose ring has one package, is down (R393). -/
def State.checkPort (s : State) (p : Bool) : State := if (s.port p).up && !s.portEnabled p then s.portDown p else s

/-- LORCY_TRAINING (R393): the port comes up when its partner reports the same ring and the neighbouring position; else it stays
down, or goes down. -/
def execLorcyTraining (port : Bool) (peerPos peerN : Nat) (s : State) : Out :=
  .next (if s.portEnabled port && peerN == s.npkg && peerPos == s.neighbour port then
      s.updPort port (fun x =>
        { x with up := true, rxSeq := 0, txSeq := 0, txTop := 0, replays := 0, txReplays := 0, held := 0, stopped := false })
    else if (s.port port).up then s.portDown port
    else s)

/-! ### Lane maps (R395) -/

/-- A spare is unused, not retired, and not named by an announced change. -/
def LPort.spareFree (x : LPort) (k : Nat) : Bool :=
  (if k = 16 then x.sp16 else x.sp17).toNat == 0x1F && !bit x.bad.toNat k &&
  !x.moves.any (fun m => m.spare == some (BitVec.ofNat 5 k) || m.failing == k)

/-- The same of the transmit direction. -/
def LPort.txSpareFree (x : LPort) (k : Nat) : Bool :=
  (if k = 16 then x.txSp16 else x.txSp17).toNat == 0x1F && !bit x.txBad.toNat k &&
  !x.txMoves.any (fun m => m.spare == some (BitVec.ofNat 5 k) || m.failing == k)

/-- The lowest spare of a receive direction that is unused and not retired (R395). -/
def LPort.freeSpare (x : LPort) : Option Nat := [16, 17].find? x.spareFree

/-- The receive lane that a spare carries. -/
def LPort.carried (x : LPort) (spare : Nat) : Option Nat :=
  let v := if spare = 16 then x.sp16.toNat else x.sp17.toNat
  if v = 0x1F then none else some v

/-- A physical lane retired. -/
def LPort.retireLane (x : LPort) (l : Nat) : LPort :=
  { x with bad := x.bad ||| BitVec.ofNat 18 (2 ^ l), sp16 := if l = 16 then 0x1F else x.sp16, sp17 := if l = 17 then 0x1F else x.sp17 }

/-- A physical lane of the transmit direction retired. -/
def LPort.txRetireLane (x : LPort) (l : Nat) : LPort :=
  { x with txBad := x.txBad ||| BitVec.ofNat 18 (2 ^ l), txSp16 := if l = 16 then 0x1F else x.txSp16,
           txSp17 := if l = 17 then 0x1F else x.txSp17 }

/-- Lanes that work once every announced change is in force. -/
def LPort.working (x : LPort) : Nat :=
  ((List.range 18).filter (fun l => !bit x.bad.toNat l && !x.moves.any (fun m => m.failing == l))).length

/-- The port narrows, or has been told to. -/
def LPort.narrows (x : LPort) : Bool := x.narrow || x.moves.any (fun m => m.spare.isNone)

/-- The same of the transmit direction. -/
def LPort.txNarrows (x : LPort) : Bool := x.txNarrow || x.txMoves.any (fun m => m.spare.isNone)

/-- The transmitter's map after an announced change: the failing lane carries nothing any more. -/
def LPort.txApply (x : LPort) (m : LaneMove) : LPort :=
  let y := x.txRetireLane m.failing
  match m.spare with
  | some k => if k.toNat = 16 then { y with txSp16 := m.lane } else { y with txSp17 := m.lane }
  | none => { y with txNarrow := true }

/-- The receiver's map after an announced change: the failing lane is retired. -/
def LPort.rxApply (x : LPort) (m : LaneMove) : LPort :=
  let y := x.retireLane m.failing
  match m.spare with
  | some k => if k.toNat = 16 then { y with sp16 := m.lane } else { y with sp17 := m.lane }
  | none => { y with narrow := true }

/-- A change of the receive direction takes effect, with its entry (R395, R436). -/
def State.rxSwitch (s : State) (p : Bool) (m : LaneMove) : State :=
  let t := s.updPort p (fun x => x.rxApply m)
  match m.spare with
  | some k => t.laneSpare 1 p m.lane.toNat k.toNat
  | none => t.laneSpare 2 p m.lane.toNat 0x1F

/-- The announced changes that n transmissions leave outstanding, each so much nearer. -/
def stillDue (n : Nat) (l : List LaneMove) : List LaneMove :=
  (l.filter (fun m => decide (n ≤ m.left))).map (fun m => { m with left := m.left - n })

/-- Transmissions that n flits take: a narrowed direction sends each twice (R395). -/
def transmissions (narrow : Bool) (n : Nat) : Nat := if narrow then 2 * n else n

/-- Port p sends n flits, data or control, replayed or new: a change whose 32nd transmission is among them is in force (R395). -/
def State.sends (s : State) (p : Bool) (n : Nat) : State :=
  s.updPort p (fun x =>
    let w := transmissions x.txNarrow n
    (x.txMoves.filter (fun m => decide (m.left < w))).foldl LPort.txApply { x with txMoves := stillDue w x.txMoves })

/-- Port p receives a flit, whatever it is: the changes whose 32nd transmission it is are in force (R395). -/
def State.receives (s : State) (p : Bool) : State :=
  let w := transmissions (s.port p).narrow 1
  let due := (s.port p).moves.filter (fun m => decide (m.left < w))
  due.foldl (fun t m => t.rxSwitch p m) (s.updPort p (fun x => { x with moves := stillDue w x.moves }))

/-- LINK_FLIT_RECEIVE (R394): stop/go by the flits held, at most 256, after `drained` have left; a REPLAY for a bad or missing
flit. A control flit without a row of its own is a flit to discard. -/
def execLinkFlitReceive (port : Bool) (crcOk : Bool) (seq : H16) (drained : Nat) (s : State) : Out :=
  let s1 := s.receives port
  let x := s1.port port
  let d := (seq - x.rxSeq).toNat
  let room := decide (x.held - drained < 256)
  let good := crcOk && d == 0 && room
  let again := !crcOk || (d == 0 && !room) || (d != 0 && decide (d < 2 ^ 15))
  let held := x.held - drained + b2n good
  let stop := if 192 ≤ held then true else if held ≤ 128 then false else x.stopped
  let t := s1.updPort port (fun x =>
    { x with rxSeq := if good then x.rxSeq + 1 else x.rxSeq, replays := if good then 0 else if again then x.replays + 1 else x.replays,
             held := held, stopped := stop })
  .next (if !(s.port port).up then s else if 64 ≤ (t.port port).replays then t.portDown port
    else t.sends port (b2n again + b2n (stop != x.stopped)))

/-- REPLAY_REQUEST (R394): transmission resumes from the flit named, one of the last 512 sent. -/
def execReplayRequest (port : Bool) (seq : H16) (s : State) : Out :=
  let s1 := s.receives port
  let x := s1.port port
  let count := (x.txTop - seq).toNat
  let n := if x.lastReplay = seq && 0 < x.txReplays then x.txReplays + 1 else 1
  let t := s1.updPort port (fun x => { x with txSeq := seq, lastReplay := seq, txReplays := n })
  .next (if !(s.port port).up then s else if !(decide (1 ≤ count) && decide (count ≤ 512)) then s1
    else if 64 ≤ n then t.portDown port else t.sends port count)

/-- The bits of a lane need a new place (R395): a free spare, else the port narrows; with fewer than 8 lanes left it goes down
(R394). The request leaves, and the change comes 32 transmissions after its announcement, which a free value places
(log entry 50). -/
def State.moveLane (s : State) (p : Bool) (lane failing : Nat) : State :=
  let n := (Config.freeWord s.free).toNat
  let m (x : LPort) : LaneMove :=
    { failing := failing, lane := BitVec.ofNat 5 lane, spare := if x.narrows then none else x.freeSpare.map (BitVec.ofNat 5),
      left := (x.moves.map LaneMove.left).foldl max 31 + 1 + n }
  let t := ({ s with free := s.free + 1 }).updPort p (fun x => { x with moves := x.moves ++ [m x] })
  if (t.port p).working < 8 then t.portDown p else t.sends p 1

/-- An unused spare retired (R395): a change that names it is planned again. -/
def State.spareRetired (s : State) (p : Bool) (k : Nat) : State :=
  let named := (s.port p).moves.filter (fun m => m.spare == some (BitVec.ofNat 5 k))
  let s := (s.updPort p (fun x =>
    { x.retireLane k with moves := x.moves.filter (fun m => m.spare != some (BitVec.ofNat 5 k)) })).laneSpare 5 p k 0x1F
  named.foldl (fun t m => t.moveLane p m.lane.toNat m.failing) s

/-- LANE_ERROR_WINDOW (R395): a lane's count in a window, judged against ERRTH; a retired lane counts no more. -/
def execLaneErrorWindow (port : Bool) (lane : BitVec 5) (errs : W32) (s : State) : Out :=
  let l := lane.toNat
  let x := s.port port
  let passed := decide (x.errth.toNat < errs.toNat)
  let t := s.updPort port (fun x =>
    { x with errs := x.errs.setIfInBounds l (x.errs.toList.getD l 0 + errs),
             overs := if passed then x.overs.setIfInBounds l (x.overs.toList.getD l 0 + 1) else x.overs })
  .next (if 18 ≤ l || bit x.bad.toNat l then s
    else if !passed || x.moves.any (fun m => m.failing == l) then t
    else if l < 16 then t.moveLane port l l
    else match x.carried l with
      | some d => t.moveLane port d l
      | none => t.spareRetired port l)

/-- A change of the transmit direction announced (R395): the lowest spare that is unused and not retired takes the lane, else the
direction narrows; the announcement is a transmission itself. -/
def State.announce (s : State) (p : Bool) (lane failing : Nat) : State :=
  (s.sends p 1).updPort p (fun x =>
    { x with txMoves := x.txMoves ++ [⟨failing, BitVec.ofNat 5 lane,
        if x.txNarrows then none else ([16, 17].find? x.txSpareFree).map (BitVec.ofNat 5), 31⟩] })

/-- SPARE_REQ (R395): the transmitter names the lane and the spare, or narrows. A spare that carries the lane is what fails. For an
unused spare nothing moves: it is retired here too, and what named it is announced again (log entry 50). -/
def execSpareReq (port : Bool) (lane : BitVec 5) (s : State) : Out :=
  let l := lane.toNat
  let t := s.receives port
  let x := t.port port
  .next (if !(s.port port).up || 18 ≤ l then s
    else if x.txSp16 = lane then t.announce port l 16
    else if x.txSp17 = lane then t.announce port l 17
    else if l < 16 then t.announce port l l
    else
      let carried := if l = 16 then x.txSp16 else x.txSp17
      if carried.toNat ≠ 0x1F then t.announce port carried.toNat l else
      let named := x.txMoves.filter (fun m => m.spare == some lane)
      let u := t.updPort port (fun x => { x.txRetireLane l with txMoves := x.txMoves.filter (fun m => m.spare != some lane) })
      named.foldl (fun u m => u.announce port m.lane.toNat m.failing) u)

/-- LANE_MAP_SWITCH (R395): a change whose 31 transmissions have passed takes effect before the 32nd: the receive direction's, else
the transmit direction's. -/
def execLaneMapSwitch (port : Bool) (s : State) : Out :=
  let x := s.port port
  let due (l : List LaneMove) : Option LaneMove := l.head?.filter (fun m => m.left == 0)
  .next (match due x.moves, due x.txMoves with
    | some m, _ => (s.updPort port (fun x => { x with moves := x.moves.tail })).rxSwitch port m
    | none, some m => s.updPort port (fun x => { x.txApply m with txMoves := x.txMoves.tail })
    | none, none => s)

/-- The lanes that the two spares of a direction carry, 0x1F for none, and whether it runs narrow, when a retrain has found the lanes
of `bad` failing: the failing data lanes, lowest first, take the spares that work (R395). -/
def laneMap (bad : BitVec 18) : BitVec 5 × BitVec 5 × Bool :=
  let lost := (List.range 16).filter (bit bad.toNat)
  let free := [16, 17].filter (fun k => !bit bad.toNat k)
  let on (k : Nat) : BitVec 5 := match (free.zip lost).find? (fun x => x.1 == k) with
    | some x => BitVec.ofNat 5 x.2
    | none => 0x1F
  (on 16, on 17, decide (free.length < lost.length))

/-- A port as a retrain leaves it whose test has found the lanes of `bad` failing, and its partner's those of `txBad` (R395): the
others are restored, spares and width with them. -/
def LPort.retested (x : LPort) (bad txBad : BitVec 18) : LPort :=
  let r := laneMap bad
  let t := laneMap txBad
  { x with retrains := x.retrains + 1, bad := bad, sp16 := r.1, sp17 := r.2.1, narrow := r.2.2, moves := [],
           txBad := txBad, txSp16 := t.1, txSp17 := t.2.1, txNarrow := t.2.2, txMoves := [] }

/-- The port retrained (R395, R397): every lane is tested again; which ones fail is a free value. -/
def State.retrain (s : State) (p : Bool) : State :=
  let f (k : Nat) : BitVec 18 := (Config.freeWord (s.free + k)).setWidth 18
  let t := ({ s with free := s.free + 2 }.updPort p (fun x => x.retested (f 0) (f 1))).laneSpare 4 p 0 0x1F
  if (t.port p).up && (t.port p).working < 8 then t.portDown p else t

/-- RETRAIN (R397). -/
def execRetrain (port : Bool) (s : State) : Out := .next (s.whenUp (s.retrain port))

/-! ### Ethernet ports -/

/-- An operation carried out as an agent of a VF that is no core (R401). -/
def State.asVf (s : State) (v : BitVec 9) (f : State → State) : State :=
  let t := f { s with core := { Core.reset with part := BitVec.ofNat 5 (s.vfPart v.toNat), resident := some v } }
  { t with core := s.core }

/-- The place of n bytes at a global address for the port, as PL1 code of a VF (R401): it is no core, so it owns nothing (R296). -/
def State.portPlace (s : State) (v : BitVec 9) (ga n : Nat) : Except Trap Loc := do
  let r : Regime := ⟨s.pfBits (vfReg v.toNat 0x40) 0 48, some v, 1⟩
  if ga / 2 ^ 36 = 0 || 0xDFF < ga / 2 ^ 36 then throw (trAt .translation false ga)
  let t ← s.descriptor r ga (ga / 2 ^ 36)
  if !t.offsetOk (ga % 2 ^ 36) n then throw (trAt .translation false ga)
  match ← s.tileLoc r ⟨1, true, false, true, false⟩ { t with owner := 256 } ga (ga % 2 ^ 36 / 2 ^ 18) (ga % 2 ^ 18) with
  | .here l => return l
  | .remote _ _ => throw (trAt .translation false ga)

/-- n bytes at a global address read by the port, or the failing cause and the state after. -/
def State.portRead (s : State) (v : BitVec 9) (ga n : Nat) : Except Trap (Nat × State) := do
  let l ← s.portPlace v ga n
  if (s.firstPoison l.pa n).isSome && !l.zero then throw (trAt .memPoison false ga)
  let d := (s.readZ 0 0 l n).1
  return (leNat d, s.asVf v (fun s => (s.readZ 0 0 l n).2))

/-- Bytes written by the port at a place. -/
def State.portWrite (s : State) (v : BitVec 9) (l : Loc) (d : List Byte) : State := s.asVf v (fun s => s.writeZ 0 0 l d)

/-- Double k of entry e of a port's kept table (R402). -/
def State.ethDouble (s : State) (port e k : Nat) : Nat := ((s.ethTabs.toList.getD port []).getD (8 * e + k) 0).toNat

/-- Bits of CBPORTS. -/
def popCount4 (x : Nat) : Nat := ((List.range 4).filter (bit x)).length

/-- An entry, by its doubles, is one the port accepts (R402). -/
def State.ethEntryOk (s : State) (port : Nat) (d : List W64) : Bool :=
  let g (k : Nat) : Nat := (d.getD k 0).toNat
  let v := BitVec.ofNat 9 (bits (g 0) 49 9)
  let slog := bits (g 4) 60 4
  let gate := bits (g 4) 52 8
  let cb := bits (g 4) 48 4
  let ring := bits (g 1) 0 48
  decide (11 ≤ slog) && decide (slog ≤ 14) && ring % 2 ^ slog == 0 && bits (g 2) 0 48 % 4 == 0 && bits (g 3) 0 48 % 4 == 0 &&
  (decide (gate ≤ 63) || gate == 0xFF) && decide (popCount4 (if bit cb port then cb - 2 ^ port else cb) ≤ 1) &&
  decide (1 ≤ bits (g 4) 0 16) && s.vfEn v.toNat &&
  (match s.descriptor ⟨s.pfBits (vfReg v.toNat 0x40) 0 48, some v, 1⟩ ring (ring / 2 ^ 36) with
  | .ok t => t.kind == 1 && t.offsetOk (ring % 2 ^ 36) 1 && t.offsetOk (ring % 2 ^ 36 + bits (g 4) 0 16 * 2 ^ slog - 1) 1
  | .error _ => false)

/-- The port reads its table (R402): an entry that is not acceptable is kept as not valid, and the first is reported. -/
def State.ethLoad (s : State) (port : Nat) (a : Nat) : State :=
  let es := (List.range 64).map (fun e => (List.range 8).map (fun k => s.load8 (a + 64 * e + 8 * k)))
  let bad (d : List W64) : Bool := bit (d.getD 0 0).toNat 63 && !s.ethEntryOk port d
  let kept := es.flatMap (fun d => if bad d then d.set 0 (d.getD 0 0 &&& 0x7FFFFFFFFFFFFFFF#64) else d)
  let status := match es.findIdx? bad with
    | some e => 2 ^ 62 + e * 2 ^ 56
    | none => 0
  { s with ethTabs := s.ethTabs.setIfInBounds port kept }.setPf (0x500 + 8 * port) (BitVec.ofNat 64 (status + a % 2 ^ 48))

/-- ETH_TAB_LOAD (R402). -/
def execEthTabLoad (port : BitVec 2) (addr : Addr) (s : State) : Out := .next (s.whenUp (s.ethLoad port.toNat addr.toNat))

/-- DROPS (5) or FRAMES (6) of an entry raised by one (R402). -/
def State.ethCount (s : State) (port e k : Nat) : State :=
  let a := s.pfBits (0x500 + 8 * port) 0 48 + 64 * e + 8 * k
  let v := bits (s.ethDouble port e 0) 49 9
  s.storeDoubles (s.vfPart v) (BitVec.ofNat 9 v) a [s.load8 a + 1]

/-- A failing access of a port (R382, R403). -/
def State.ethCause (s : State) (port e : Nat) (v : BitVec 9) (t : Trap) (ga : Nat) : State :=
  s.causeEntry 0 0 v.toNat (s.vfPart v.toNat) 0xFF t.cause.code (port * 64 + e) (BitVec.ofNat 64 ga)

/-- The lowest valid receive entry that a frame matches (R403). -/
def State.ethMatch (s : State) (port : Nat) (f : EthFrame) : Option Nat :=
  (List.range 64).find? (fun e =>
    let d0 := s.ethDouble port e 0
    let d1 := s.ethDouble port e 1
    bit d0 63 && !bit d0 62 && bits d0 0 48 == f.dmac.toNat && (!bit d0 61 || bits d0 58 3 == f.pcp.toNat) &&
    (!bit d1 63 || f.vid == some (BitVec.ofNat 12 (bits d1 48 12))))

/-- ETH_RX_FRAME (R403). -/
def execEthRxFrame (port : BitVec 2) (f : EthFrame) (s : State) : Out :=
  let p := port.toNat
  .next (s.scrubGuard (match s.ethMatch p f with
    | none => s
    | some e =>
      let d (k : Nat) : Nat := s.ethDouble p e k
      let v := BitVec.ofNat 9 (bits (d 0) 49 9)
      let size := 2 ^ bits (d 4) 60 4
      let n := f.payload.length
      let widx := bits (d 2) 0 48
      let ridx := bits (d 3) 0 48
      let drop (s : State) : State := s.ethCount p e 5
      let fails (s : State) (t : Trap) (ga : Nat) : State := (drop s).ethCause p e v t ga
      let cb := bits (d 4) 48 4 != 0
      if (f.filtered && bits (d 4) 52 8 != 0xFF) || (f.dup && cb) then s
      else if !f.fcsOk || size < n + 16 || (bit (d 4) 16 && n % 24 != 0) then drop s
      else match s.portRead v widx 4 with
        | .error t => fails s t widx
        | .ok (w, s) => match s.portRead v ridx 4 with
          | .error t => fails s t ridx
          | .ok (r, s) =>
            let count := bits (d 4) 0 16
            if (w + 2 ^ 32 - r) % 2 ^ 32 = count then drop s else
            let ga := bits (d 1) 0 48 + w % count * size
            match s.portPlace v ga (n + 16), s.portPlace v widx 4 with
            | .error t, _ => fails s t ga
            | _, .error t => fails s t widx
            | .ok l, .ok wl =>
              if (s.firstPoison wl.pa 4).isSome && !wl.zero then fails s (trAt .memPoison false widx) widx else
              let hdr := leBytes 8 ((if cb then f.seq.toNat else 0) * 2 ^ 48 + p * 2 ^ 40 + n) ++ leBytes 8 f.ts.toNat
              let s := s.portWrite v l (hdr ++ f.payload)
              (s.portWrite v wl (leBytes 4 ((w + 1) % 2 ^ 32))).ethCount p e 6))

/-- The ports that a transmit stream's frame leaves by (R401, R402). -/
def txPorts (port cb : Nat) : List Nat := port :: (List.range 4).filter (fun q => q != port && bit cb q)

/-- A frame that a transmit entry with doubles d0 and d1 sends by a port (R402): the VLAN tag where VIDM or PCPM asks for it. -/
def ethOut (d0 d1 : Nat) (payload : List Byte) (port : Nat) : EthOut :=
  { port := port, dmac := BitVec.ofNat 48 d0,
    tag := if bit d0 61 || bit d1 63 then
        some (if bit d0 61 then BitVec.ofNat 3 (bits d0 58 3) else 0, if bit d1 63 then BitVec.ofNat 12 (bits d1 48 12) else 0)
      else none,
    tc := BitVec.ofNat 3 (bits d1 60 3), payload := payload }

/-- ETH_TX_SLOT (R403, R404): the next written slot of a transmit entry leaves, and the read index advances. -/
def execEthTxSlot (port : BitVec 2) (entry : BitVec 6) (s : State) : Out :=
  let p := port.toNat
  let e := entry.toNat
  let d (k : Nat) : Nat := s.ethDouble p e k
  let v := BitVec.ofNat 9 (bits (d 0) 49 9)
  let size := 2 ^ bits (d 4) 60 4
  let widx := bits (d 2) 0 48
  let ridx := bits (d 3) 0 48
  let fails (s : State) (t : Trap) (ga : Nat) : State := (s.ethCount p e 5).ethCause p e v t ga
  .next (s.scrubGuard (if !(bit (d 0) 63 && bit (d 0) 62) then s else
    match s.portRead v widx 4 with
    | .error t => fails s t widx
    | .ok (w, s) => match s.portRead v ridx 4, s.portPlace v ridx 4 with
      | .error t, _ => fails s t ridx
      | _, .error t => fails s t ridx
      | .ok (r, s), .ok rl =>
        if w = r then s else
        let adv (s : State) : State := s.portWrite v rl (leBytes 4 ((r + 1) % 2 ^ 32))
        let ga := bits (d 1) 0 48 + r % max 1 (bits (d 4) 0 16) * size
        match s.portRead v ga 16 with
        | .error t => fails (adv s) t ga
        | .ok (h, s) =>
          let n := h % 2 ^ 16
          if size < n + 16 then (adv s).ethCount p e 5 else
          match s.portRead v (ga + 16) (max 1 n) with
          | .error t => fails (adv s) t (ga + 16)
          | .ok (x, s) =>
            let s := { s with ethTx := s.ethTx ++ (txPorts p (bits (d 4) 48 4)).map (ethOut (d 0) (d 1) (leBytes n x)) }
            (adv s).ethCount p e 6))

/-! ### The L1 (R290) -/

/-- A line of the focused core's L1 expires (R290). -/
def execL1LineExpiry (line : Nat) (s : State) : Out := .next (s.upd (fun c => { c with l1 := c.l1.filter (· != line) }))

end Sys2Proof.Machine
end

