-- ==== Sys2Proof/Machine/Pf.lean ====
section
/-!
DEFINITION. The PF register space as software reads and writes it (R361, R362, R366, R374, R375, R384, R397, R402, R409, R412,
R415): who may write what, and the registers that act.
-/

namespace Sys2Proof.Machine

/-! ### Reads -/

/-- A partition is fixed (R365): each owner field of the active table names it in every entry or in none, with one weight. -/
def State.fixedPart (s : State) (q : Nat) : Bool :=
  let es := List.range s.tst.len
  let same (f : Nat → Bool) : Bool := es.all f || es.all (fun e => !f e)
  ownerOffsets.all (fun o => same (fun e => ownerOf (s.tstByte 0x28000 e o) == some q)) &&
  es.all (fun e => bits (s.tstByte 0x28000 e (520 + q / 2)) (4 * (q % 2)) 4 ==
    bits (s.tstByte 0x28000 0 (520 + q / 2)) (4 * (q % 2)) 4)

/-- BOOT_STAT (R409). -/
def State.bootStat (s : State) : Nat :=
  let b := s.boot
  b2n s.locked * 2 ^ 63 + b2n b.minimal * 2 ^ 62 + b.failcnt * 2 ^ 58 + b2n b.slot * 2 ^ 57 + b.stage * 2 ^ 48 +
  b.lreason * 2 ^ 40 + b.lstage * 2 ^ 36 + b.detail.toNat

/-- TST_STAT (R366). -/
def State.tstStat (s : State) : Nat :=
  let t := s.tst
  t.cycles.toNat * 2 ^ 32 + t.errent * 2 ^ 24 + t.err * 2 ^ 16 + t.ent * 2 ^ 8 + t.len

/-- A register of a partition block (R374). -/
def State.partRead (s : State) (q r : Nat) : Nat :=
  if r = 0 then 0
  else if r = 8 then
    s.ncore q * 2 ^ 8 + b2n (s.fixedPart q) * 4 + bits (s.pfRaw (partReg q 8)).toNat 1 1 * 2 + b2n (decide (0 < s.ncore q))
  else if r = 0x50 then s.plogSize q
  else (s.pfRaw (partReg q r)).toNat

/-- A register of a core block (R348, R358). -/
def State.coreRead (s : State) (p r : Nat) : Nat :=
  let d := (s.coreAt p).dbg
  let dbg (x : Nat) : Nat := if s.debugOn (s.coreAt p).part.toNat then x else 0
  let halted := match (s.coreAt p).run with
    | .halted => if (s.coreAt p).quiesced then 1 else 0
    | .scanStopped 2 => 2
    | _ => 0
  let asked := match (s.coreAt p).run with
    | .halted => !(s.coreAt p).quiesced
    | _ => false
  if r = 0 then d.reqImg.toNat
  else if r = 8 then d.resImg.toNat
  else if r = 0x10 then b2n d.busy * 2 ^ 63 + d.result.toNat
  else if r = 0x28 then dbg (d.code.toNat * 2 ^ 52 + b2n (s.focus p).anyHeld * 16 + b2n d.quiescent * 8 + halted * 2 + b2n asked)
  else if r = 0x30 then dbg d.sel.toNat
  else if r = 0x38 then (s.focus p).dbgData.toNat
  else 0

/-- A register of a VF block (R375). -/
def State.vfRead (s : State) (v r : Nat) : Nat :=
  let x := (s.pfRaw (vfReg v r)).toNat
  if r = 0 then x % 2
  else if r = 8 then x + b2n (s.images.any (fun i => i.scan && i.vf.toNat == v)) * 2
  else if 0x80 ≤ r && r < 0x200 then (if r % 0x80 / 8 < s.pfBits (vfReg v 0x20) 0 5 then x else 0)
  else x

/-- A register of a Lorcy port block (R397). -/
def State.portRegRead (s : State) (p : Bool) (r : Nat) : Nat :=
  let x := s.port p
  if r = 0 then
    b2n x.up * 2 ^ 63 + b2n x.narrow * 2 ^ 62 + x.sp16.toNat * 2 ^ 48 + x.sp17.toNat * 2 ^ 40 + x.bad.toNat * 2 ^ 22 + x.retrains.toNat
  else if r = 8 then x.errth.toNat
  else if r = 0x10 then x.sel.toNat
  else (x.overs.toList.getD x.sel.toNat 0).toNat * 2 ^ 32 + (x.errs.toList.getD x.sel.toNat 0).toNat

/-- The value of a PF register (R361, R362). After a failed start only the region at 0 answers (R407). What a write-only register or
bit reads as the spec does not say: here 0 (log entry 101, DESIGN CHOICE). -/
def State.pfRead (s : State) (off : Nat) : W64 :=
  if s.boot.power == .failed && 0x100 ≤ off then 0
  else if off = 0x40 then BitVec.ofNat 64 s.bootStat
  else if off = 0x100 then BitVec.ofNat 64 (b2n s.tst.commit * 2 ^ 8 + s.tst.slen)
  else if off = 0x108 then BitVec.ofNat 64 s.tstStat
  else if off = 0x128 then 0
  else if off = 0x130 then BitVec.ofNat 64 (s.pfBits 0x130 63 1 * 2 ^ 63 + (256 - s.scrubq.length))
  else if 0x410 ≤ off && off < 0x430 then BitVec.ofNat 64 (s.portRegRead false (off - 0x410))
  else if 0x450 ≤ off && off < 0x470 then BitVec.ofNat 64 (s.portRegRead true (off - 0x450))
  else if 0x30000 ≤ off && off < 0x32000 then BitVec.ofNat 64 (s.partRead ((off - 0x30000) / 256) (off % 256))
  else if 0x40000 ≤ off && off < 0x44800 then BitVec.ofNat 64 (s.coreRead ((off - 0x40000) / 256) (off % 256))
  else if 0x80000 ≤ off && off < 0xC0000 then BitVec.ofNat 64 (s.vfRead ((off - 0x80000) / 512) (off % 512))
  else s.pfRaw off

/-- A read of the I3C port (R405): the region at 0, in which the telemetry registers lie; it answers nothing else. -/
def State.i3cRead (s : State) (off : Nat) : Option W64 := if off < 0x100 then some (s.pfRead off) else none

/-! ### Writes -/

/-- A register's RW field, bits [lo + n − 1 : lo], written. -/
def State.field (s : State) (off lo n : Nat) (v : W64) : State := s.setPfBits off lo n (bits v.toNat lo n)

/-- Bits that a write of 1 clears. -/
def State.w1c (s : State) (off lo n : Nat) (v : W64) : State :=
  s.setPfBits off lo n (bits (s.pfRaw off).toNat lo n &&& (2 ^ n - 1 - bits v.toNat lo n))

/-- A double of the shadow TST with its reserved bits zero (R363). -/
def tstMask (r : Nat) (v : Nat) : Nat :=
  let owners (x : Nat) : Nat := (List.range 8).foldl (fun y k => y + bits x (8 * k) 6 * 2 ^ (8 * k)) 0
  if r = 0 then v % 2 ^ 33
  else if r = 8 then v / 2 ^ 32 * 2 ^ 32 + v % 2 ^ 6
  else if r < 88 then owners v
  else if r < 96 then 0
  else if r < 520 then owners v
  else if r < 536 then v
  else 0

/-- No state of a VF exists: nothing queued, running, resident or saved (R375). -/
def State.vfClear (s : State) (v : BitVec 9) : Bool :=
  (s.vfCores v).isEmpty && s.tq.all (fun e => e.work.vf != v) && s.launches.all (fun l => l.vf != v) &&
  s.images.all (fun i => i.vf != v)

/-- PART written: the replay words are those of this moment (R329, R375). -/
def State.writePart (s : State) (v : Nat) (x : W64) : State :=
  if (!s.vfEn v && s.vfClear (BitVec.ofNat 9 v)) || s.vfStopped v then
    let s := s.field (vfReg v 0x10) 0 5 x
    let s := s.setPf (vfReg v 0x58) (s.pfRaw (vfReg v 0x50))
    (List.range 16).foldl (fun s i => s.setPf (vfReg v (0x180 + 8 * i)) (s.pfRaw (vfReg v (0x100 + 8 * i)))) s
  else s

/-- A register of a VF block written (R375, R411, R412). -/
def State.vfWrite (s : State) (v r : Nat) (x : W64) : State :=
  let o := vfReg v r
  let vf := BitVec.ofNat 9 v
  if r = 0 then
    let s := if s.locked && (v == 0 || s.feature 5) then s.field o 0 1 x else s
    let s := if bit x.toNat 1 then s.stopVf vf else s
    if bit x.toNat 2 then (if !s.vfStopped v then s.setPfBits (vfReg v 8) 56 8 2
      else ((s.importVf vf).setPfBits (vfReg v 8) 3 1 0).setPfBits (vfReg v 8) 56 8 0) else s
  else if r = 0x10 then s.writePart v x
  else if r = 0x18 then s.setPf o x
  else if r = 0x20 then s.setPfBits o 0 5 (min 16 (bits x.toNat 0 5))
  else if r = 0x28 then s.field o 0 16 x
  else if r = 0x30 || r = 0x38 || r = 0x40 || r = 0x48 || r = 0x60 || r = 0x70 then s.field o 0 48 x
  else if r = 0x68 then
    let s := ((s.field o 8 5 x).w1c o 2 1 x).field o 0 1 x
    if bit x.toNat 1 then s.swapDirty v else s
  else if 0x80 ≤ r && r < 0x100 && (r - 0x80) / 8 < s.pfBits (vfReg v 0x20) 0 5 then
    (s.field o 59 5 x).field o 0 48 x
  else s

/-- A register of a partition block written (R342, R345, R374). -/
def State.partWrite (s : State) (q r : Nat) (x : W64) : State :=
  let o := partReg q r
  if r = 0 then
    (if bit x.toNat 0 then
      (if s.tst.soft then s.setPfBits (partReg q 8) 1 1 1 else s.partitionReset q 0 0xFF 0 0) else s)
  else if r = 0x10 || r = 0x18 || r = 0x20 || r = 0x48 then s.field o 0 48 x
  else if r = 0x40 then s.field o 0 6 x
  else if r = 0x50 then s.setPfBits o 0 5 (min 20 (max 8 (bits x.toNat 0 5)))
  else if r = 0x60 then s.field o 0 32 x
  else if r = 0x68 then s.w1c o 0 32 x
  else s

/-- A register of a core block written at PL2 or PL3 (R348, R352, R357–R360). -/
def State.coreWrite (s : State) (p r : Nat) (x : W64) : State :=
  let img : Addr := BitVec.ofNat 48 x.toNat
  let go := bit x.toNat 56
  let run (o : Out) (s : State) : State := match o with
    | .next t => t
    | _ => s
  s.withCore p (fun s =>
    if r = 0 then (if go then run (execScanReqGo img s) s else s.upd (fun c => { c with dbg := { c.dbg with reqImg := img } }))
    else if r = 8 then (if go then run (execRestoreReqGo img s) s else s.upd (fun c => { c with dbg := { c.dbg with resImg := img } }))
    else if !s.debugOn s.part then s
    else if r = 0x20 then
      let s := if x.toNat % 4 = 1 then s.dbgHalt else if x.toNat % 4 = 2 then s.dbgScanHalt else s
      if bit x.toNat 2 then s.dbgResume else s
    else if r = 0x30 then s.upd (fun c => { c with dbg := { c.dbg with sel := x &&& 0xF0000000003FFFFF#64 } })
    else if r = 0x38 then s.dbgWrite x
    else s)

/-- A register of the debug block of physical core p is read (its value in `hostRd`) or written through JTAG (R358), where DBG_EN
allows (R357). -/
def State.jtag (s : State) (p r : Nat) (v : Option W64) : State :=
  if r < 0x20 || 0x38 < r then s else
  match v with
  | some x => s.viaJtag (s.coreWrite p r x)
  | none => { s with hostRd := if s.pfBits 0x150 32 1 = 1 then BitVec.ofNat 64 (s.coreRead p r) else 0 }

/-- A register of a Lorcy port block written (R397). -/
def State.portRegWrite (s : State) (p : Bool) (r : Nat) (x : W64) : State :=
  if r = 8 then
    let s := s.updPort p (fun y => { y with errth := x.setWidth 16 })
    if bit x.toNat 32 then s.retrain p else s
  else if r = 0x10 then s.updPort p (fun y => { y with sel := x.setWidth 5 })
  else s

/-- An accepted feature word written (R412). -/
def State.writeFacc (s : State) (off : Nat) (x : W64) : State :=
  if s.boot.stage = 8 && s.boot.power == .ready && !s.locked then s.setPf off (x &&& s.pfRaw (off - 0x20)) else s

/-- A PF register written by an agent of level lvl: 0 the host, 2 or 3 device code (R361). -/
def State.pfWrite (s : State) (lvl off : Nat) (x : W64) : State :=
  let dev := decide (2 ≤ lvl)
  if 0x20 ≤ off && off < 0x40 then s.writeFacc off x
  else if off = 0x40 then
    (if bit x.toNat 63 then (match execFeatureLock s with
      | .next t => t
      | _ => s) else s)
  else if off = 0xD0 || off = 0xD8 then (if dev then s.field off 0 32 x else s)
  else if off = 0x100 then
    (match (if bit x.toNat 8 then execTstCommit (x.setWidth 6) s else execTstCommitCancel s) with
    | .next t => if bit x.toNat 8 || s.tst.commit || !s.locked then t else { t with tst := { t.tst with slen := x.toNat % 64 } }
    | _ => s)
  else if off = 0x118 then s.field off 0 32 x
  else if off = 0x120 then s.w1c off 0 32 x
  else if off = 0x128 then (if dev then s.pushScrub x else s)
  else if off = 0x130 then s.w1c off 63 1 x
  else if off = 0x140 || off = 0x148 then s.field off 0 48 x
  else if off = 0x150 then (if lvl = 3 then s.field off 0 33 x else s)
  else if off = 0x400 then
    (if dev then
      let s := (s.field off 8 4 x).field off 0 4 x
      let s := if s.feature 2 then s.field off 62 2 x else s
      (s.checkPort false).checkPort true
    else s)
  else if 0x410 ≤ off && off < 0x430 then (if dev then s.portRegWrite false (off - 0x410) x else s)
  else if 0x450 ≤ off && off < 0x470 then (if dev then s.portRegWrite true (off - 0x450) x else s)
  else if 0x500 ≤ off && off < 0x520 then
    (if dev then
      (if bit x.toNat 63 then s.ethLoad ((off - 0x500) / 8) (bits x.toNat 0 48) else s.field off 0 48 x)
    else s)
  else if 0x20000 ≤ off && off < 0x28000 then
    (if s.tst.commit then s else s.setPf off (BitVec.ofNat 64 (tstMask (off % 1024) x.toNat)))
  else if 0x30000 ≤ off && off < 0x32000 then s.partWrite ((off - 0x30000) / 256) (off % 256) x
  else if 0x40000 ≤ off && off < 0x44800 then (if dev then s.coreWrite ((off - 0x40000) / 256) (off % 256) x else s)
  else if 0x80000 ≤ off && off < 0xC0000 then s.vfWrite ((off - 0x80000) / 512) (off % 512) x
  else s

/-- REGISTER_WRITE (R361, R407): an aligned 8-byte write of the host; a failed start answers no write. -/
def execRegisterWrite (off : BitVec 24) (val : W64) (s : State) : Out :=
  .next (if off.toNat % 8 ≠ 0 || s.boot.power == .off || s.boot.power == .failed then s else s.pfWrite 0 off.toNat val)

end Sys2Proof.Machine
end

