-- ==== Sys2Proof/Machine/CtlMem.lean ====
section
/-!
DEFINITION. Loads, stores, ordered accesses, atomics, fences, ownership, barriers and chunk counters of CTL (R141–R160).
-/

namespace Sys2Proof.Machine

/-! ### Access by CTL (R142–R146) -/

/-- The place of an access of n bytes by CTL, or its trap, in the order of R142. -/
def State.ctlPlace (s : State) (ea : Addr) (n : Nat) : Except Trap Place :=
  if ea.toNat % n ≠ 0 then .error (trAt .align false ea.toNat)
  else s.place { Agent.ctl s.core.pl with ctl8 := n == 8 } ea.toNat n

/-- An access of n bytes by an instruction of `words` words, an acquire at CLUSTER scope or wider where `acq` holds: to a control
frame, here, held by the scoreboard (R26), or through the ring. -/
def State.access (s : State) (ea : Addr) (n words : Nat) (op : RemoteOp) (acq : Bool) (ctrl : Nat → State) (here : Loc → State) : State :=
  match s.ctlPlace ea n with
  | .error t => s.trap t
  | .ok (.remote p o) => s.remote p ⟨s.nextFlit, s.cur, s.vf, s.core.part, ea, o, op, words, acq⟩
  | .ok (.here l) =>
    match l.dev with
    | .ctrl off => ctrl off
    | .spad => if s.sbHit (l.pa - spadPa s.cur 0) n then s.rsbStall else here l
    | _ => here l

/-- A control frame refuses an access that is no LD.D or ST.D (R361). -/
def State.noCtrl (s : State) (ea : Addr) (_ : Nat) : State := s.trap (trAt .translation false ea.toNat)

/-- A plain access is judged by the sieve at PL0 under DET (R335, R336). -/
def State.judged (s : State) : Bool := s.core.det && s.core.pl == 0

/-- A load of n bytes (R141, R144). -/
def State.load (s : State) (ea : Addr) (n : Nat) (signed : Bool) (sd : Reg) (words : Nat) (plain : Bool) (acq : Bool) : State :=
  s.access ea n words (.load n signed sd) acq
    (fun off => if plain then (s.wr sd (s.pfRead off)).retire words else s.noCtrl ea off)
    (fun l => match s.stepPoison l with
      | some c => s.trap (trAt c false ea.toNat)
      | none => match s.judge (plain && s.judged) false l ea.toNat n with
        | (t, some g) => t.trap (trAt .conflict false g)
        | (t, none) =>
          let r := t.readZ 0 0 l n
          let u := ((r.2.wr sd (extend n signed (leNat r.1))).acquire acq).retire words
          if (t.firstPoison l.pa n).isSome then s.scrubGuard u else u)

/-- A store finds the scrub queue full at a leaf entry that it, or what the hardware writes with it, unmaps (R384). -/
def State.scrubFull (s : State) (l : Loc) (n v : Nat) : Bool := s.scrubWaits (s.writeZ 0 0 l (leBytes n v))

/-- A store of n bytes (R141, R144, R145, R384). -/
def State.store (s : State) (ea : Addr) (n : Nat) (v : W64) (words : Nat) (plain : Bool) : State :=
  s.access ea n words (.store n v) false
    (fun off => if plain then (s.retire words).pfWrite s.core.pl off v else s.noCtrl ea off)
    (fun l => match s.stepPoison l with
      | some c => s.trap (trAt c false ea.toNat)
      | none => match s.judge (plain && s.judged) true l ea.toNat n with
        | (t, some g) => t.trap (trAt .conflict false g)
        | (t, none) => if s.scrubFull l n v.toNat then s else (t.writeZ 0 0 l (leBytes n v.toNat)).retire words)

/-- LD (R141, R142). -/
def execLd (sd base : Reg) (sz : LdSize) (imm : BitVec 9) (s : State) : Out :=
  .next (s.load (s.eaImm base imm (ldBytes sz)) (ldBytes sz) (ldSigned sz) sd 1 true false)

/-- LD.X (R141, R142). -/
def execLdX (sd base : Reg) (sz : LdSize) (lit : W32) (s : State) : Out :=
  .next (s.load (s.eaLit base lit) (ldBytes sz) (ldSigned sz) sd 2 true false)

/-- ST (R141, R142). -/
def execSt (src base : Reg) (sz : StSize) (imm : BitVec 9) (s : State) : Out :=
  .next (s.store (s.eaImm base imm (stBytes sz)) (stBytes sz) (s.rd src) 1 true)

/-- ST.X (R141, R142). -/
def execStX (src base : Reg) (sz : StSize) (lit : W32) (s : State) : Out :=
  .next (s.store (s.eaLit base lit) (stBytes sz) (s.rd src) 2 true)

/-- LDA (R147). -/
def execLda (sd base : Reg) (sz : LdSize) (sc : Scope) (s : State) : Out :=
  .next (s.load (s.addr base) (ldBytes sz) (ldSigned sz) sd 1 false (wideScope sc))

/-- STL (R147). -/
def execStl (src base : Reg) (sz : StSize) (_sc : Scope) (s : State) : Out :=
  .next (s.store (s.addr base) (stBytes sz) (s.rd src) 1 false)

/-! ### Atomics (R148) -/

/-- An AMO (R148); a failed CAS that zeroes no poisoned unit writes nothing. -/
def State.amo (s : State) (fn : Nat) (sd sa : Reg) (ord : Order) (dbl : Bool) (sc : Scope) : State :=
  let n := if dbl then 8 else 4
  let ea := s.addr sa
  let v := s.rd sd
  let new := s.rd ⟨(sd.val + 1) % 32, Nat.mod_lt _ (by decide)⟩
  let acq := (ord == .acq || ord == .ar) && (wideScope sc)
  s.access ea n 1 (.amo fn dbl v new sd) acq (s.noCtrl ea)
    (fun l => match s.stepPoison l with
      | some c => s.trap (trAt c false ea.toNat)
      | none =>
        let old := (if s.poisoned l.pa then s.zeroUnit (l.pa / 64) else s).loadLE l.pa n
        let t := match amoNew fn (8 * n) old (v.toNat % 2 ^ (8 * n)) (new.toNat % 2 ^ (8 * n)) with
          | some x => s.atomic 0 0 l (fun t => t.storeLE l.pa n x)
          | none => if s.poisoned l.pa then s.atomic 0 0 l (fun t => t) else s.touchRead 0 l n
        s.scrubGuard (((t.wr sd (extend n true old)).acquire acq).retire 1))

/-- AMO.ADD (R148). -/
def execAmoAdd (sd sa : Reg) (ord : Order) (dbl : Bool) (sc : Scope) (s : State) : Out := .next (s.amo 0 sd sa ord dbl sc)

/-- AMO.AND (R148). -/
def execAmoAnd (sd sa : Reg) (ord : Order) (dbl : Bool) (sc : Scope) (s : State) : Out := .next (s.amo 1 sd sa ord dbl sc)

/-- AMO.OR (R148). -/
def execAmoOr (sd sa : Reg) (ord : Order) (dbl : Bool) (sc : Scope) (s : State) : Out := .next (s.amo 2 sd sa ord dbl sc)

/-- AMO.XOR (R148). -/
def execAmoXor (sd sa : Reg) (ord : Order) (dbl : Bool) (sc : Scope) (s : State) : Out := .next (s.amo 3 sd sa ord dbl sc)

/-- AMO.MIN (R148). -/
def execAmoMin (sd sa : Reg) (ord : Order) (dbl : Bool) (sc : Scope) (s : State) : Out := .next (s.amo 4 sd sa ord dbl sc)

/-- AMO.MAX (R148). -/
def execAmoMax (sd sa : Reg) (ord : Order) (dbl : Bool) (sc : Scope) (s : State) : Out := .next (s.amo 5 sd sa ord dbl sc)

/-- AMO.MINU (R148). -/
def execAmoMinu (sd sa : Reg) (ord : Order) (dbl : Bool) (sc : Scope) (s : State) : Out := .next (s.amo 6 sd sa ord dbl sc)

/-- AMO.MAXU (R148). -/
def execAmoMaxu (sd sa : Reg) (ord : Order) (dbl : Bool) (sc : Scope) (s : State) : Out := .next (s.amo 7 sd sa ord dbl sc)

/-- AMO.SWAP (R148). -/
def execAmoSwap (sd sa : Reg) (ord : Order) (dbl : Bool) (sc : Scope) (s : State) : Out := .next (s.amo 8 sd sa ord dbl sc)

/-- AMO.CAS (R148). -/
def execAmoCas (sd sa : Reg) (ord : Order) (dbl : Bool) (sc : Scope) (s : State) : Out := .next (s.amo 9 sd sa ord dbl sc)

/-! ### Fences and prefetches (R143, R149) -/

/-- FENCE.ACQ (R149, R290). -/
def execFenceAcq (sc : Scope) (s : State) : Out := .next ((s.acquire (wideScope sc)).retire 1)

/-- FENCE.REL (R149): every access is performed when it executes. -/
def execFenceRel (_sc : Scope) (s : State) : Out := .next (s.retire 1)

/-- FENCE.FULL (R149, R290). -/
def execFenceFull (sc : Scope) (s : State) : Out := .next ((s.acquire (wideScope sc)).retire 1)

/-- PREF (R143): the line is fetched where every check passes; nothing traps. -/
def State.prefetch (s : State) (llc : Bool) (ea : Addr) : State :=
  let tid := ea.toNat / 2 ^ 36
  if tid = 0 || 0xE00 ≤ tid then s else
  match s.place (.ctl s.core.pl) (ea.toNat / 64 * 64) 64 with
  | .ok (.here l) => if l.dev == .hbm then (if llc then s.llcTouch l.pa s.part s.vf false else s.touchRead 0 l 64) else s
  | _ => s

/-- PREF.L1 (R143). -/
def execPrefL1 (base : Reg) (imm : BitVec 9) (s : State) : Out := .next ((s.prefetch false (s.eaImm base imm 64)).retire 1)

/-- PREF.LLC (R143); the displacement is scaled by 64 (R49). -/
def execPrefLlc (base : Reg) (imm : BitVec 9) (s : State) : Out := .next ((s.prefetch true (s.eaImm base imm 64)).retire 1)

/-- PREF.X (R143). -/
def execPrefX (llc : Bool) (base : Reg) (lit : W32) (s : State) : Out := .next ((s.prefetch llc (s.eaLit base lit)).retire 2)

/-! ### Ownership (R150–R154) -/

/-- Global address of offset 0 of a tid, as GIVE and TAKE report it. -/
def tidAddr (tid : BitVec 12) : Nat := tid.toNat * 2 ^ 36

/-- The physical address of a tid's ownership word: double 1 of its descriptor. -/
def State.ownerPa (s : State) (tid : BitVec 12) : Except Trap Nat :=
  let r := s.regime s.core.pl
  let ga := tidAddr tid
  let gpa := r.table + 64 * tid.toNat + 8
  match r.s2 with
  | none => .ok gpa
  | some v => match s.stage2 v (gpa / 2 ^ 18) with
    | .error () => .error (trAt .memPoison false ga)
    | .ok (some (0, dfn)) => .ok (devPa 0 dfn (gpa % 2 ^ 18))
    | .ok _ => .error ⟨.translation, BitVec.ofNat 64 (2 ^ 63 + 2 ^ 62 + gpa % 2 ^ 48)⟩

/-- The descriptor and the place of the ownership word of a tid (R150). -/
def State.ownership (s : State) (tid : BitVec 12) : Except Trap (TDesc × Nat) := do
  if tid.toNat = 0 || 0xDFF < tid.toNat then throw (trAt .translation false (tidAddr tid))
  let t ← s.descriptor (s.regime s.core.pl) (tidAddr tid) tid.toNat
  let a ← s.ownerPa tid
  return (t, a)

/-- OWNER and TAKEN of a tid written (R152, R153). -/
def State.setOwner (s : State) (a owner : Nat) (taken : Bool) : State :=
  s.devWrite a s.part s.vf [BitVec.ofNat 8 owner, BitVec.ofNat 8 (s.loadLE (a + 1) 1 % 128 + b2n taken * 128)]

/-- GIVE (R152): the checks, then its wait. -/
def execGive (sa : Reg) (tid : BitVec 12) (s : State) : Out :=
  .next (match s.ownership tid with
    | .error t => s.trap t
    | .ok (t, _) =>
      if t.kind ≠ 0 || t.owner ≠ s.self || !t.taken then s.trap (trAt .ownership false (tidAddr tid))
      else if s.ncore s.part ≤ (s.rd sa).toNat then s.trap (trAt .translation false ((0xE00 + (s.rd sa).toNat % 256) * 2 ^ 36))
      else s.waitIn (.give tid ((s.rd sa).toNat % 256)))

/-- Engines and transfers are done: the receiver owns the tensor (R152). -/
def execGiveComplete (s : State) : Out :=
  .next (s.whenLive (match s.core.wait with
    | some (.give tid n) =>
      if s.queuesEmpty && s.core.cp.xfers.isEmpty then
        match s.ownership tid with
        | .error t => s.trap t
        | .ok (_, a) => s.scrubGuard ((s.setOwner a n false).retire 1)
      else s
    | _ => s))

/-- TAKE (R153): the check, then its wait. -/
def execTake (tid : BitVec 12) (s : State) : Out :=
  .next (match s.ownership tid with
    | .error t => s.trap t
    | .ok (t, _) => if t.kind ≠ 0 then s.trap (trAt .ownership false (tidAddr tid)) else s.waitIn (.take tid))

/-- The core owns the tensor: TAKEN is set, an acquire at PACKAGE scope (R153). -/
def execTakeComplete (s : State) : Out :=
  .next (s.whenLive (match s.core.wait with
    | some (.take tid) =>
      (match s.ownership tid with
      | .error t => s.trap t
      | .ok (t, a) => if t.owner = s.self then s.scrubGuard (((s.setOwner a t.owner true).acquire true).retire 1) else s)
    | _ => s))

/-- OWNQ (R154). -/
def execOwnq (sd : Reg) (tid : BitVec 12) (s : State) : Out :=
  .next (match s.ownership tid with
    | .error t => s.trap t
    | .ok (t, _) =>
      (s.wr sd (BitVec.ofNat 64 (t.kind * 2 ^ 16 + (if t.kind = 0 then b2n t.taken * 2 ^ 15 + t.owner else 0)))).retire 1)

/-! ### Barriers (R155–R157) -/

/-- A step on a barrier object by CTL: alignment, translation, ownership, the scoreboard, then poison by `poison`. -/
def State.barrier (s : State) (ea : Addr) (op : RemoteOp) (acq : Bool) (poison : Loc → Option Cause) (here : Loc → State) : State :=
  s.access ea 64 1 op acq (s.noCtrl ea) (fun l => match poison l with
    | some c => s.trap (trAt c false ea.toNat)
    | none => s.scrubGuard (here l))

/-- The barrier's ARRIVED bit of this core is looked at: clear completes the instruction, else it waits (R156). -/
def State.barTestBit (s : State) (l : Loc) (ea : Addr) (acq : Bool) : State :=
  let bad := s.poisoned l.pa
  let t := (s.readZ 0 0 l 64).2
  if !bad && s.arrivedBit l.pa s.self then t.waitIn (.bar ea acq) else (t.acquire acq).retire 1

/-- BAR.WAIT at an address (R156). -/
def State.barWaitAt (s : State) (ea : Addr) (acq : Bool) : State :=
  s.barrier ea (.barPoll s.self) acq s.stepPoison (fun l => s.barTestBit l ea acq)

/-- BAR.ARVW and BAR.DBAR (R156, R157): the arrival is made once; with ARV it executes as WAIT. -/
def State.barArriveWait (s : State) (ea : Addr) (det acq : Bool) : State :=
  if s.core.arv then s.barWaitAt ea acq
  else s.barrier ea (.barArv s.self det true) acq s.stepPoison (fun l =>
    ((s.atomic 0 0 l (fun t => t.ctlArrive l.pa t.part t.self det)).upd (fun c => { c with arv := true })).barTestBit l ea acq)

/-- BAR.INIT (R156). -/
def execBarInit (sd sa : Reg) (_sc : Scope) (s : State) : Out :=
  .next (s.barrier (s.addr sa) (.barInit ((s.rd sd).setWidth 32)) false s.stepPoison (fun l =>
    (s.atomic 0 0 l (fun t => t.barInitAt l.pa ((s.rd sd).toNat % 2 ^ 32))).retire 1))

/-- BAR.ARV (R156). -/
def execBarArv (sa : Reg) (_sc : Scope) (s : State) : Out :=
  .next (s.barrier (s.addr sa) (.barArv s.self false false) false s.stepPoison (fun l =>
    (s.atomic 0 0 l (fun t => t.ctlArrive l.pa t.part t.self false)).retire 1))

/-- BAR.WAIT (R156). -/
def execBarWait (sa : Reg) (sc : Scope) (s : State) : Out := .next (s.barWaitAt (s.addr sa) (wideScope sc))

/-- BAR.ARVW (R156). -/
def execBarArvw (sa : Reg) (sc : Scope) (s : State) : Out := .next (s.barArriveWait (s.addr sa) false (wideScope sc))

/-- BAR.TEST (R156). -/
def execBarTest (sd sa : Reg) (sc : Scope) (s : State) : Out :=
  .next (s.barrier (s.addr sa) (.barTest sd) (wideScope sc) s.stepPoison (fun l =>
    let r := s.readZ 0 0 l 8
    ((r.2.wr sd (BitVec.ofNat 64 (leNat r.1))).acquire (wideScope sc)).retire 1))

/-- BAR.DBAR (R156, R157). -/
def execBarDbar (sa : Reg) (sc : Scope) (s : State) : Out := .next (s.barArriveWait (s.addr sa) s.core.det (wideScope sc))

/-- A waiting BAR instruction finds its bit clear (R156). -/
def execBarWaitComplete (s : State) : Out :=
  .next (s.whenLive (match s.core.wait with
    | some (.bar ea acq) => s.barWaitAt ea acq
    | _ => s))

/-! ### Chunk counters (R159, R160) -/

/-- An atomic step f on a chunk counter (R144, R159). -/
def State.chunkStep (s : State) (sa : Reg) (f : Loc → State) : State :=
  let ga := (s.addr sa).toNat
  match objAddr ga 32 with
  | some t => s.trap t
  | none => match s.place (.ctl s.core.pl) ga 32 with
    | .error t => s.trap t
    | .ok (.remote _ _) => s.trap (trAt .translation false ga)
    | .ok (.here l) => match s.stepPoison l with
      | some c => s.trap (trAt c false ga)
      | none => f l

/-- The size of the next chunk (R160). -/
def chunkSize (remain least div : Nat) : Nat := min remain (max (max 1 least) (ceilDiv remain (max 1 div)))

/-- CHUNK (R160), acquire-release at PACKAGE scope (R269). -/
def execChunk (sd sa : Reg) (s : State) : Out :=
  .next (s.chunkStep sa (fun l =>
    let t := if s.poisoned l.pa then s.zeroUnit (l.pa / 64) else s
    let next := t.loadLE (l.pa + 4) 4
    let remain := t.loadLE l.pa 4
    let c := chunkSize remain (t.loadLE (l.pa + 8) 4) (t.loadLE (l.pa + 12) 4)
    let u := s.atomic 0 0 l (fun t => (t.storeLE (l.pa + 4) 4 ((next + c) % 2 ^ 32)).storeLE l.pa 4 (remain - c))
    s.scrubGuard (((u.wr sd (BitVec.ofNat 64 (c * 2 ^ 32 + next))).acquire true).retire 1)))

/-- CHINIT (R160). -/
def execChinit (sd sa sb : Reg) (s : State) : Out :=
  let v := (s.rd sd).toNat
  .next (s.chunkStep sa (fun l =>
    s.scrubGuard ((s.atomic 0 0 l (fun t =>
      let t := (t.storeLE l.pa 4 ((s.rd sb).toNat % 2 ^ 32)).storeLE (l.pa + 4) 4 0
      let t := (t.storeLE (l.pa + 8) 4 (max 1 (v % 2 ^ 32))).storeLE (l.pa + 12) 4 (max 1 (v / 2 ^ 32))
      t.storeLE (l.pa + 16) 4 ((t.loadLE (l.pa + 16) 4 + 1) % 2 ^ 32))).retire 1)))

end Sys2Proof.Machine
end

