-- ==== Sys2Proof/Machine/Fabric.lean ====
section
/-!
DEFINITION. The core ring (R386–R391): launch, arrival, NACK and relaunch of flits, what a ring stop does with a buffered
access (R146, R355), a reply (R356) and a transfer header (R27).
-/

namespace Sys2Proof.Machine

/-! ### Classes and slots -/

/-- The partition that holds phase φ of a direction in the running TST entry (R363). -/
def State.phaseHolder (s : State) (dir φ : Nat) : Option Nat := s.holder (128 + 64 * dir + φ)

/-- A flit is reserved traffic (R389): its partition owns a phase of the flit's direction. -/
def State.reservedFlit (s : State) (f : Flit) : Bool :=
  (List.range 64).any (fun φ => s.phaseHolder f.dir φ == some f.part.toNat)

/-- The phase of a slot drains at an edge: it carries no new flit before its old owner's are accepted (R369). -/
def State.slotDrains (s : State) (dir slot : Nat) : Bool := decide (slot < 128) && s.tst.phases.contains (128 + 64 * dir + slot % 64)

/-- A flit may take a slot (R387, R389). -/
def State.slotAllowed (s : State) (f : Flit) (slot : Nat) : Bool :=
  decide (slot < Config.ringSlots) && !s.slotDrains f.dir slot &&
  !s.flits.any (fun g => g.st == .inSlot && g.dir == f.dir && g.slot == slot) &&
  (if s.reservedFlit f then decide (slot < 128) && s.phaseHolder f.dir (slot % 64) == some f.part.toNat
   else decide (128 ≤ slot) || (s.phaseHolder f.dir (slot % 64)).isNone)

/-- A flit in a slot is on a reserved phase of its partition. -/
def State.onReserved (s : State) (f : Flit) : Bool :=
  decide (f.slot < 128) && s.phaseHolder f.dir (f.slot % 64) == some f.part.toNat

/-- A header-class flit (R390). -/
def Flit.header (f : Flit) : Bool :=
  match f.msg with
  | .access _ | .header _ _ => true
  | _ => false

def State.flit (s : State) (fid : Nat) : Option Flit := s.flits.find? (fun f => f.id == fid)

def State.updFlit (s : State) (fid : Nat) (g : Flit → Flit) : State :=
  { s with flits := s.flits.map (fun f => if f.id = fid then g f else f) }

/-- A flit changed, and put behind the others: the list keeps flits in slots in launch order, buffered ones in arrival order. -/
def State.moveFlit (s : State) (fid : Nat) (g : Flit → Flit) : State :=
  { s with flits := s.flits.filter (fun f => f.id != fid) ++ (s.flits.filter (fun f => f.id == fid)).map g }

def State.dropFlit (s : State) (fid : Nat) : State := { s with flits := s.flits.filter (fun f => f.id != fid) }

/-- A flit leaves its stop (R391): the orbit count rises. -/
def State.orbitUp (s : State) (p : Nat) : State := s.updAt p (fun c => { c with orbit := c.orbit + 1 })

/-- A flit is accepted, or answered by a NACK (R391, R351). -/
def State.orbitDown (s : State) (p : Nat) : State :=
  s.updAt p (fun c => { c with orbit := c.orbit - 1, accepted := if c.scanned then c.accepted + 1 else c.accepted })

/-! ### Launch and arrival -/

/-- The request of a flit is still wanted: CTL waits in it, and it has not left the stop before (R356). -/
def State.stillWanted (s : State) (f : Flit) : Bool :=
  match f.msg with
  | .access r => let c := s.coreAt f.src; c.wait == some (.remote r) && c.outst.isNone
  | _ => true

/-- The access of a flit is outstanding from its launch on (R356). -/
def State.noteLaunch (s : State) (f : Flit) : State :=
  match f.msg with
  | .access r => s.updAt f.src (fun c => { c with outst := some r })
  | _ => s

/-- A waiting flit takes a slot (R387, R389). -/
def execRingFlitLaunch (fid slot : Nat) (s : State) : Out :=
  .next (match s.flit fid with
    | none => s
    | some f =>
      if f.st != .waiting || s.boot.power == .stopped || (s.coreAt f.src).scanned then s
      else if !s.stillWanted f then s.dropFlit fid
      else if !s.slotAllowed f slot then s
      else ((s.moveFlit fid (fun f => { f with st := .inSlot, slot := slot })).noteLaunch f).orbitUp f.src)

/-- A slot is of the phase on which a flit got its NACK, where its partition still owns that phase (R390). -/
def State.samePhase (s : State) (f : Flit) (slot : Nat) : Bool := !s.onReserved f || slot % 64 == f.slot % 64

/-- A flit answered by a NACK is launched again in a slot of its phase (R390). -/
def execNackRelaunch (fid slot : Nat) (s : State) : Out :=
  .next (match s.flit fid with
    | none => s
    | some f =>
      if f.st != .nacked || s.boot.power == .stopped || (s.coreAt f.src).scanned || !s.slotAllowed f slot || !s.samePhase f slot then s
      else (s.moveFlit fid (fun f => { f with st := .inSlot, slot := slot })).orbitUp f.src)

/-- The first slot that a flit may take, as the machine's own order has it launched. -/
def State.slotFor (s : State) (f : Flit) : Nat :=
  ((List.range Config.ringSlots).find? (fun j => s.slotAllowed f j && (f.st != .nacked || s.samePhase f j))).getD f.slot

/-- The stop of the destination takes the header of a transfer: its tile is not stopped (R350), and an entry of the incoming
half of the range scoreboard is free (R27). -/
def State.takesHeader (s : State) (p : Nat) : Bool :=
  let c := s.coreAt p
  !c.scanned && (sbFree c 8).isSome

/-- Open flits in the receive buffer of a stop, for a direction (R390). -/
def State.openBuffered (s : State) (f : Flit) : Nat :=
  (s.flits.filter (fun g => g.st == .buffered && g.dst == f.dst && g.dir == f.dir && !s.onReserved g)).length

/-- The header entry of the flit's phase is occupied (R390). -/
def State.headerBusy (s : State) (f : Flit) : Bool :=
  s.flits.any (fun g => g.st == .buffered && g.dst == f.dst && g.dir == f.dir && g.slot % 64 == f.slot % 64 &&
    s.onReserved g && g.header)

/-- A STARVE flit heads for the same open buffer (R390). -/
def State.starveNear (s : State) (f : Flit) : Bool :=
  s.flits.any (fun g => g.st == .inSlot && g.dst == f.dst && g.dir == f.dir && decide (4 ≤ g.deflections) && g.id != f.id)

/-- The image that waits for the answer of an access (R350, R356), on whichever core it was saved. -/
def State.imageAwaiting (s : State) (r : Remote) : Option SavedImage := s.images.find? (fun i => i.core.outst == some r)

/-- The stop of the destination does not accept a flit now: the header of a transfer (R27), or one that finds the parking region full
(R350). -/
def State.turnsAway (s : State) (f : Flit) : Bool :=
  match f.msg with
  | .header _ _ => !s.takesHeader f.dst
  | .access r => !s.parkRoom (s.reach f.dst r.vf)
  | .reply r _ => (match s.imageAwaiting r with
    | some i => !i.hasRoom
    | none => false)
  | .contrib _ => false

/-- An open flit deflects (R27, R350, R390). -/
def State.deflects (s : State) (f : Flit) : Bool :=
  let n := s.openBuffered f
  let held := s.turnsAway f
  decide (16 ≤ n) || held || (decide (n = 15) && decide (f.deflections < 4) && s.starveNear f)

/-- Flits from one stop to one destination on one reserved phase arrive in launch order (R391): an earlier one is under way. -/
def State.followsFlit (s : State) (f : Flit) : Bool :=
  (s.flits.takeWhile (fun g => g.id != f.id)).any (fun g => g.st == .inSlot && g.src == f.src && g.dst == f.dst && g.dir == f.dir &&
    g.slot % 64 == f.slot % 64 && s.onReserved g)

/-- A flit reaches the stop of its destination (R390, R391). -/
def State.flitArrives (s : State) (fid : Nat) (f : Flit) : State :=
  if f.st != .inSlot || s.boot.power == .stopped then s
  else if s.onReserved f then
    (if s.followsFlit f then s
     else if f.header && s.headerBusy f then (s.moveFlit fid (fun f => { f with st := .nacked })).orbitDown f.src
     else (s.moveFlit fid (fun f => { f with st := .buffered })).orbitDown f.src)
  else if s.deflects f then s.updFlit fid (fun f => { f with deflections := f.deflections + 1 })
  else (s.moveFlit fid (fun f => { f with st := .buffered })).orbitDown f.src

/-! ### Buffered flits -/

/-- The first buffered flit at the focused core's stop that carries an access, with it. -/
def State.bufferedAccess (s : State) : Option (Nat × Remote) :=
  s.flits.findSome? (fun f => match f.msg with
    | .access r => if f.st == .buffered && f.dst == s.cur then some (f.id, r) else none
    | _ => none)

/-- The first buffered flit at the focused core's stop that carries a reply, with it. -/
def State.bufferedReply (s : State) : Option (Nat × Remote × Reply) :=
  s.flits.findSome? (fun f => match f.msg with
    | .reply r a => if f.st == .buffered && f.dst == s.cur then some (f.id, r, a) else none
    | _ => none)

/-- The focused core's ring stop applies, parks or refuses a buffered access (R146, R350, R355); one that finds the parking region
full stays where it is (R350). -/
def execRemoteAccessApply (s : State) : Out :=
  .next (match s.bufferedAccess with
    | none => s
    | some (fid, r) =>
      if s.boot.power == .stopped || !s.parkRoom (s.reach s.cur r.vf) then s else
      let x := s.treatRemote s.cur r
      let t := x.1.dropFlit fid
      s.scrubGuard (match x.2 with
      | some a => t.sendReply s.cur r a
      | none => t))

/-- The physical core that a remote access names (R42). -/
def State.remoteTarget (s : State) (r : Remote) : Nat :=
  (s.partCores r.part.toNat).getD (r.ea.toNat / 2 ^ 36 - 0xE00) 0

/-- The core that waits for the answer of an access: the one that made it, or one that has resumed its record since (R356). -/
def State.coreAwaiting (s : State) (r : Remote) : Option Nat :=
  (List.range Config.cores).find? (fun p => (s.coreAt p).outst == some r)

/-- The focused core takes the answer of its remote access (R146, R356): parked while it is halted. -/
def State.answered (s : State) (r : Remote) (a : Reply) : State :=
  if s.core.run == .halted then s.upd (fun c => { c with parked := c.parked ++ [.reply r a] })
  else s.completeRemote (s.remoteTarget r) r a

/-- A buffered reply (R146, R350, R356): it completes the access of the core that waits for it, or is parked in the image that
does. -/
def State.takeReply (s : State) (fid : Nat) (r : Remote) (a : Reply) : State :=
  match s.imageAwaiting r with
  | some i => if i.hasRoom then (s.parkInImage i.id (.reply r a)).dropFlit fid else s
  | none =>
    match s.coreAwaiting r with
    | none => s.dropFlit fid
    | some p => (match (s.coreAt p).run with
      | .running | .halted => (s.dropFlit fid).withCore p (fun t => t.answered r a)
      | _ => s)

/-- The answer of a remote access reaches CTL (R146, R356). -/
def execRemoteReply (s : State) : Out :=
  .next (if s.boot.power == .stopped then s else
    match s.core.wait with
    | some (.reply r a) => if s.runs then s.completeRemote (s.remoteTarget r) r a else s
    | _ =>
      match s.bufferedReply with
      | some (fid, r, a) => s.takeReply fid r a
      | none => s)

/-- The transfer with a number and its context: of a core, or of a saved one. -/
def State.xferOf (s : State) (xid : Nat) : Option (BitVec 9 × Xfer) :=
  match s.xferAt xid with
  | some (p, x) => some ((s.coreAt p).resident.getD 0, x)
  | none => s.images.findSome? (fun i => (i.core.cp.xfers.find? (fun x => x.id == xid)).map (fun x => (i.vf, x)))

/-- Destination j of a transfer changed, in its core and in the image of its core. -/
def State.updRecvOf (s : State) (xid j : Nat) (f : Recv → Recv) : State :=
  let g (c : Core) : Core :=
    { c with cp := { c.cp with xfers := c.cp.xfers.map (fun x => if x.id = xid then x.updRecv j f else x) } }
  let s := match s.xferAt xid with
    | some (p, _) => s.updAt p g
    | none => s
  { s with images := s.images.map (fun i => { i with core := g i.core }) }

/-- A header flit of a transfer that is buffered at the focused core's stop: its number and the destination. -/
def State.bufferedHeader (s : State) (xid : Nat) : Option (Nat × Nat) :=
  s.flits.findSome? (fun f => match f.msg with
    | .header x j => if x == xid && f.st == .buffered && f.dst == s.cur then some (f.id, j) else none
    | _ => none)

/-- The header of a transfer is accepted (R27, R390): an entry of the incoming half is allocated. A core that refuses the
sender's context (R355) takes the header and drops the bytes. -/
def execTransferHeaderAccept (xid : Nat) (s : State) : Out :=
  .next (match s.bufferedHeader xid, s.xferOf xid with
    | some (fid, j), some (vf, x) =>
      if s.frozen then s else
      (match s.reach s.cur vf, sbFree s.core 8, x.recvs.toArray[j]? with
      | .refused, _, _ => (s.updRecvOf xid j (fun r => { r with hdr := true })).dropFlit fid
      | .applied, some i, some r =>
        ((s.sbAlloc s.cur i ⟨r.off, x.extent, x.ch⟩).updRecvOf xid j (fun r => { r with hdr := true, sb := some i })).dropFlit fid
      | _, _, _ => s)
    | some (fid, _), none => s.dropFlit fid
    | _, _ => s)

end Sys2Proof.Machine
end

