-- ==== Sys2Proof/Machine/Copy.lean ====
section
/-!
DEFINITION. The copy engine CP: copies, fills and multicasts unit by unit (R253–R256, R258), drains and signals (R257), the
static copy schedule (R259).
-/

namespace Sys2Proof.Machine

/-! ### Spans: bytes an engine reads and writes -/

/-- The global address of byte `off` of a tid. -/
def gaddr (tid off : Nat) : Nat := tid * 2 ^ 36 + off

/-- A value of a trap that names a global address. -/
def gaTrap (c : Cause) (ga : Nat) : Trap := ⟨c, BitVec.ofNat 64 ga⟩

/-- The place of n bytes at an offset of a tid: offsets are exact (R255, R163). -/
def State.spanPlace (s : State) (ag : Agent) (tid off n : Nat) : Except Trap Place :=
  if 2 ^ 36 < off + n then .error (trAt .translation false (gaddr tid off)) else s.place ag (gaddr tid off) n

/-- What reading or writing a span gives: the bytes, the state, the cause of the completion boundary. -/
structure Span where
  data : List Byte
  st : State
  trap : Option Trap

/-- The sieve's cause for an access of an engine entry (R335). -/
def conflictOf (x : State × Option Nat) : Option Trap := x.2.map (fun a => gaTrap .conflict a)

/-- n bytes read at a place by an engine (R144, R166, R255): a poisoned unit reads zero and is logged; under TRAP, and at a
refusal by a reset core, the cause follows at the completion boundary. -/
def State.readSpan (s : State) (eng : Nat) (seq : W32) (det pois : Bool) (ga n : Nat) (pl : Place) : Span :=
  match s.goTo pl with
  | .hold => ⟨List.replicate n 0, s, none⟩
  | .refused => ⟨List.replicate n 0, s, some (gaTrap .signalLost ga)⟩
  | .ok l =>
    let j := s.judge det false l ga n
    let zero := if l.dev == .spad then pois else l.zero
    let t := if zero then none else (s.firstPoison l.pa n).map (fun a => gaTrap l.poisonCause (ga + (a - l.pa)))
    let r := j.1.readZ eng seq l n
    ⟨r.1, r.2, t.or (conflictOf j)⟩

/-- Bytes written at a place by an engine: a poisoned unit that they cover in part is zeroed and logged (R166); under TRAP,
where `trap` holds, the first poisoned unit that they touch gives the cause of the completion boundary. -/
def State.writeSpan (s : State) (eng : Nat) (seq : W32) (det trap pois : Bool) (ga : Nat) (data : List Byte) (pl : Place) :
    State × Option Trap :=
  match s.goTo pl with
  | .hold => (s, none)
  | .refused => (s, some (gaTrap .signalLost ga))
  | .ok l =>
    let n := data.length
    let j := s.judge det true l ga n
    let zero := if l.dev == .spad then pois else l.zero
    let t := if trap && !zero then (s.firstPoison l.pa n).map (fun a => gaTrap l.poisonCause (ga + (a - l.pa))) else none
    (j.1.writeZ eng seq l data, t.or (conflictOf j))

/-- A place lies in the own scratchpad, as its first offset. -/
def State.ownOffset (s : State) (pl : Place) : Option Nat :=
  match pl with
  | .here l => if l.dev == .spad then some (l.pa - spadPa s.cur 0) else none
  | .remote p o => if p = s.cur then some o else none

/-! ### Units (R255) -/

/-- The runs of consecutive offsets of a row-and-pitch layout that bytes q to e − 1 lie in, cut at tile boundaries. -/
def runsOf (off pitch bytes fuel q e : Nat) : List (Nat × Nat) :=
  match fuel with
  | 0 => []
  | k + 1 =>
    if e ≤ q then [] else
    let o := off + q / bytes * pitch + q % bytes
    let n := min (min (bytes - q % bytes) (e - q)) (2 ^ 18 - o % 2 ^ 18)
    (o, n) :: runsOf off pitch bytes k (q + n) e

/-- Bytes of a transfer. -/
def Xfer.total (x : Xfer) : Nat := x.rows * x.bytes

/-- Units of a transfer. -/
def Xfer.units (x : Xfer) : Nat := ceilDiv x.total 4096

/-- The source runs of unit u. -/
def Xfer.srcRuns (x : Xfer) (u : Nat) : List (Nat × Nat) :=
  runsOf x.soff x.sp x.bytes 8192 (4096 * u) (min (4096 * u + 4096) x.total)

/-- The destination runs of unit u at a destination. -/
def Xfer.dstRuns (x : Xfer) (r : Recv) (u : Nat) : List (Nat × Nat) :=
  runsOf r.off x.dp x.bytes 8192 (4096 * u) (min (4096 * u + 4096) x.total)

/-- The bytes of a fill's unit u (R255). -/
def Xfer.fillBytes (x : Xfer) (u : Nat) : List Byte :=
  (List.range (min 4096 (x.total - 4096 * u))).map (fun k =>
    BitVec.ofNat 8 (x.pattern.toNat / 256 ^ ((4096 * u + k) % x.bytes % 4)))

/-- The places of runs of a tid, or the first that fails (R142). -/
def State.runPlaces (s : State) (tid : Nat) (l : List (Nat × Nat)) : Except Trap (List (Nat × Nat × Place)) :=
  match l with
  | [] => .ok []
  | (o, n) :: r =>
    match s.spanPlace .copy tid o n with
    | .error t => .error t
    | .ok p => (s.runPlaces tid r).map ((gaddr tid o, n, p) :: ·)

/-- A run waits: its core is saved or halted (R355). -/
def State.runHolds (s : State) (l : List (Nat × Nat × Place)) : Bool :=
  l.any (fun x => match s.goTo x.2.2 with
    | .hold => true
    | _ => false)

/-- Runs read in order. -/
def State.readRuns (s : State) (eng : Nat) (seq : W32) (det pois : Bool) (l : List (Nat × Nat × Place)) : Span :=
  match l with
  | [] => ⟨[], s, none⟩
  | (ga, n, p) :: r =>
    let a := s.readSpan eng seq det pois ga n p
    let b := a.st.readRuns eng seq det pois r
    ⟨a.data ++ b.data, b.st, a.trap.or b.trap⟩

/-- Bytes written to runs in order; `trap` and `pois` as in `writeSpan`. -/
def State.storeRuns (s : State) (eng : Nat) (seq : W32) (det trap pois : Bool) (data : List Byte) (l : List (Nat × Nat × Place)) :
    State × Option Trap :=
  match l with
  | [] => (s, none)
  | (ga, n, p) :: r =>
    let a := s.writeSpan eng seq det trap pois ga (data.take n) p
    let b := a.1.storeRuns eng seq det trap pois (data.drop n) r
    (b.1, a.2.or b.2)

/-- Bytes written to runs in order, poisoned destinations giving no cause (R255). -/
def State.writeRuns (s : State) (eng : Nat) (seq : W32) (det : Bool) (data : List Byte) (l : List (Nat × Nat × Place)) :
    State × Option Trap := s.storeRuns eng seq det false true data l

/-- A run of an accepted transfer lands in a stopped tile's scratchpad: at a halted core at once (R359), at a scan-stopped one
it is parked (R350). -/
def State.landing (s : State) (pl : Place) : Option (Nat × Nat × Reach) :=
  match pl with
  | .here _ => none
  | .remote p o => match (s.coreAt p).run, s.reach p s.vf with
    | .halted, .atStop => some (p, o, .applied)
    | .scanStopped _, .inImage id => some (p, o, .inImage id)
    | _, _ => none

/-- A run of a destination that has taken its header waits: it can neither be written nor parked. -/
def State.landHolds (s : State) (hdr : Bool) (l : List (Nat × Nat × Place)) : Bool :=
  l.any (fun x => match s.goTo x.2.2, s.landing x.2.2 with
    | .hold, some (_, _, r) => !hdr || !s.parkRoom r
    | .hold, none => true
    | _, _ => false)

/-- MX of a core computes a tile from a bank group in which the bytes [o, o + n) of its scratchpad lie, so that CP and FR writes
there wait (R220); not while R26 holds the tile itself. -/
def Core.mxKeeps (c : Core) (o n : Nat) : Bool :=
  match c.mx.reading with
  | some r => !r.a.isEmpty && !r.held && c.mx.gos.any (fun g => g.seq == r.go &&
      [g.opnd.ga, g.opnd.gb].any (fun k => decide (o < (k + 1) * 2 ^ 20) && decide (k * 2 ^ 20 < o + n)))
  | none => false

/-- A run of a destination waits for MX (R220). -/
def State.mxHolds (s : State) (l : List (Nat × Nat × Place)) : Bool :=
  l.any (fun x => match s.goTo x.2.2 with
    | .ok l => isSpad l.pa && (s.coreAt ((l.pa - 2 ^ 40) / 2 ^ 22)).mxKeeps ((l.pa - 2 ^ 40) % 2 ^ 22) x.2.1
    | _ => false)

/-- Bytes of an accepted transfer land in order (R255, R350, R359). -/
def State.landRuns (s : State) (seq : W32) (det : Bool) (data : List Byte) (l : List (Nat × Nat × Place)) : State × Option Trap :=
  match l with
  | [] => (s, none)
  | (ga, n, p) :: r =>
    let d := data.take n
    let a := match s.goTo p, s.landing p with
      | .hold, some (c, o, .applied) => (s.landBytes c o d s.cur seq, none)
      | .hold, some (c, o, x) => (s.parkAt c x (.data o d s.cur seq), none)
      | _, _ => s.writeSpan Eng.cp.num seq det false true ga d p
    let b := a.1.landRuns seq det (data.drop n) r
    (b.1, a.2.or b.2)

/-- Runs in own or remote scratchpads and tensors become poisoned (R256). -/
def State.poisonRuns (s : State) (l : List (Nat × Nat × Place)) : State :=
  l.foldl (fun t x => match t.goTo x.2.2 with
    | .ok l => t.poisonRange l.pa x.2.1
    | _ => t) s

/-! ### Transfers -/

/-- A transfer begins (R254, R25). -/
def State.beginXfer (s : State) (x : Xfer) : State :=
  let s := s.updXfer s.cur x.id (fun y => { y with begun := true })
  x.recvs.zipIdx.foldl (fun t r => t.beginRecv x r.2 r.1) s

/-- A transfer may begin: its channel has fewer than 4 that run, earlier ones of the channel have begun, and R27 does not
withhold a scoreboard entry. -/
def State.roomFor (s : State) (ch : Nat) (recvs : List Recv) : Bool :=
  let c := s.core.cp.xfers.filter (fun y => y.ch == ch)
  decide ((c.filter (·.begun)).length < 4) && (!recvs.any s.recvLocal || (sbFree s.core 0).isSome)

/-- Scheduled transfers that may now begin do so, in issue order on each channel (R254, R259). -/
def State.beginXfers (s : State) : State :=
  s.core.cp.xfers.foldl (fun t x =>
    let first := (t.core.cp.xfers.find? (fun y => y.ch == x.ch && !y.begun)).map (·.id)
    if first = some x.id && t.roomFor x.ch x.recvs then t.beginXfer x else t) s

/-- A transfer joins CP's list. -/
def State.addXfer (s : State) (x : Xfer) : State :=
  { s with core := { s.core with cp := { s.core.cp with xfers := s.core.cp.xfers ++ [{ x with id := s.nextXfer }] } },
           nextXfer := s.nextXfer + 1 }

/-- A destination with nothing verified. -/
def Recv.new (tid off : Nat) : Recv := ⟨tid, off, [], [], false, false, none, false⟩

/-- The pitches of R253. -/
def pitchOf (f psh : Nat) : Nat := f * 2 ^ (4 * psh)

/-- Offset and tid of an address of a CP image: h[15:12] and h[11:0] with a pair (R253). -/
def cpAddr (h : H16) (p : W32) : Nat × Nat := (bits h.toNat 0 12, bits h.toNat 12 4 * 2 ^ 32 + p.toNat)

/-- The channel of an image. -/
def cpCh (a : CpArgs) : Nat := bits a.h15.toNat 0 3

/-- The transfer of a CP.COPY, CP.FILL or CP.MCAST (R253, R255, R258). -/
def cpXfer (a : CpArgs) (e : Entry) (core : Nat) (k : XferKind) : Xfer :=
  let src := cpAddr a.h12 a.p0
  let dst := cpAddr a.h13 a.p1
  let psh := bits a.h15.toNat 6 2
  let rows := if k = .mcast then 1 else a.h14.toNat
  let recvs := match k with
    | .mcast => ((List.range 16).filter (bit a.h14.toNat)).map (fun i => Recv.new (0xE00 + bits a.h15.toNat 8 8 + i) a.p1.toNat)
    | _ => [Recv.new dst.1 dst.2]
  let bar : Nat := if k = .mcast then gaddr dst.1 (bits a.h13.toNat 12 4 * 2 ^ 32 + a.p3.toNat) else 0
  { id := 0, core := core, seq := e.seq, ch := cpCh a, kind := k, stid := src.1, soff := src.2, rows := rows, bytes := a.p2.toNat,
    sp := if k = .copy then pitchOf (bits a.p3.toNat 0 16) psh else 0,
    dp := if k = .mcast then 0 else pitchOf (bits a.p3.toNat 16 16) psh,
    pattern := a.p0, pois := bit a.h15.toNat 3, det := e.det, recvs := recvs, bar := BitVec.ofNat 48 bar, sentArr := false,
    pend := none, begun := false }

/-- An engine entry is refused in its pre-start check: its queue stops with the entry not started (R40). -/
def State.refuse (s : State) (e : Eng) (x : Entry) (t : Trap) : State :=
  if (s.eng e).held.isSome then s else s.engineFault e t x.seq

/-- A transfer of an entry starts where its channel and the scoreboard allow (R254). -/
def State.startXfer (s : State) (x : Entry) (y : Xfer) : Option State :=
  if s.core.cp.xfers.any (fun z => z.ch == y.ch && !z.begun) || !s.roomFor y.ch y.recvs then none
  else
    let y := { y with id := s.nextXfer }
    some (((s.start .cp x .started).addXfer y).beginXfer y)

/-- The CI12P tensor that a transfer would touch (R83), by its first address. -/
def State.ci12pAt (s : State) (tid off : Nat) : Option Trap :=
  if tid = 0 || 0xDFF < tid then none else
  match s.descriptor (s.regime 0) (gaddr tid off) tid with
  | .ok t => if t.typ = 13 then some (gaTrap .illegalInstruction (gaddr tid off)) else none
  | .error _ => none

/-- CP.COPY and CP.FILL start (R253–R255). -/
def State.startCopy (s : State) (a : CpArgs) (k : XferKind) (x : Entry) : Option State :=
  let y := cpXfer a x s.cur k
  let bad := (if k = .copy then s.ci12pAt y.stid y.soff else none).or (y.recvs.findSome? (fun r => s.ci12pAt r.tid r.off))
  match bad with
  | some t => some (s.refuse .cp x t)
  | none => s.startXfer x y

/-- CP.MCAST starts (R258): a receiver beyond the enabled count, a barrier that is not aligned, a CI12P tensor (R83). -/
def State.startMcast (s : State) (a : CpArgs) (x : Entry) : Option State :=
  let y := cpXfer a x s.cur .mcast
  match y.recvs.find? (fun r => s.ncore s.part ≤ r.tid - 0xE00) with
  | some r => some (s.refuse .cp x (gaTrap .translation (gaddr r.tid r.off)))
  | none =>
    if y.bar.toNat % 64 ≠ 0 then some (s.refuse .cp x (gaTrap .align y.bar.toNat))
    else match (s.ci12pAt y.stid y.soff).or (s.ci12pAt (y.bar.toNat / 2 ^ 36) (y.bar.toNat % 2 ^ 36)) with
      | some t => some (s.refuse .cp x t)
      | none => s.startXfer x y

/-- CP_COPY (R255). -/
def execCpCopy (a : CpArgs) (s : State) : Out := .next (s.starting .cp (fun s x => s.startCopy a .copy x))

/-- CP_FILL (R255). -/
def execCpFill (a : CpArgs) (s : State) : Out := .next (s.starting .cp (fun s x => s.startCopy a .fill x))

/-- CP_MCAST (R258). -/
def execCpMcast (a : CpArgs) (s : State) : Out := .next (s.starting .cp (fun s x => s.startMcast a x))

/-! ### Arrivals made for CP entries (R257, R258, R144) -/

/-- An arrival of the focused core at a barrier object: the state and the cause of the completion boundary; at a saved or halted
core it is parked, none where the parking region is full (R350, R355). -/
def State.copyArrive (s : State) (seq : W32) (ga : Nat) (marked : Bool) : Option (State × Option Trap) :=
  match s.place .engine ga 64 with
  | .error t => some (s, some t)
  | .ok pl =>
    match s.goTo pl with
    | .hold =>
      (match pl with
      | .remote p o =>
        let r := s.reach p s.vf
        if s.parkRoom r then some (s.parkAt p r (.signal o s.part s.self marked), none) else none
      | .here _ => none)
    | .refused => some (s, some (gaTrap .signalLost ga))
    | .ok l =>
      match s.stepPoison l with
      | some c => some (s, some (gaTrap c ga))
      | none =>
        let t := s.atomic Eng.cp.num seq l (fun s => s.arrive l.pa s.part s.self marked)
        some (match pl with
          | .remote p _ => (t.setEvent p, none)
          | .here _ => (t, none))

/-! ### Units verified and resent (R256) -/

/-- The transfers of an entry stop at a stop of the queue: a fill runs on (R41, R256). -/
def Xfer.restartable (x : Xfer) : Bool := x.kind != .fill

/-- The first unverified unit of a destination. -/
def Recv.first (r : Recv) (units : Nat) : Nat :=
  ((List.range units).find? (fun u => !r.ok.contains u)).getD units

/-- A unit may be under way at a destination (R256): at most 32 unverified units, within the map of the progress record. -/
def Recv.mayRun (r : Recv) (units u : Nat) : Bool :=
  let f := r.first units
  decide (u < units) && !r.ok.contains u && decide (u ≤ f + 32) &&
  decide (((List.range (u - f)).filter (fun k => !r.ok.contains (f + k))).length < 32)

/-- A unit waits for its resend. -/
def Recv.wantsResend (r : Recv) (u : Nat) : Bool := (r.fails.filter (· == u)).length % 2 == 1

/-- A destination takes units: no end has come, and its header has been taken where it needs one. -/
def State.recvOpen (s : State) (r : Recv) : Bool := !r.dead && !r.acked && ((s.recvRemote r).isNone || r.hdr)

/-- The transfers of the focused core issue units (R41, R343, R353); those that have started run to completion in a logical halt
(R359). -/
def State.issues (s : State) (x : Xfer) : Bool :=
  x.begun && !s.frozen && !(s.core.qstop && x.restartable && s.core.run != .halted)

/-- Bytes at places cross no sector link and no ring: they lie in the own scratchpad (R42), or in the HBM of the own sector (R291). -/
def State.nearBy (s : State) (l : List (Nat × Nat × Place)) : Bool :=
  l.all (fun x => match x.2.2 with
    | .here p => (match p.dev with
      | .spad => true
      | .hbm => s.cur / 12 == stackOf p.pa
      | _ => false)
    | .remote p _ => p == s.cur)

/-- Unit u of a transfer crosses no link that carries a CRC (R256): both ends are near by. -/
def State.noLink (s : State) (src dst : List (Nat × Nat × Place)) : Bool := s.nearBy src && s.nearBy dst

/-- The receiver's scoreboard entry retires (R25). -/
def State.retireRecv (s : State) (r : Recv) : State :=
  match r.sb, s.spadCore r.tid with
  | some i, some p => s.sbRetire p i
  | _, _ => s

/-- A cause joins a transfer's; of two causes of a fill's units the lower address is the first. -/
def mergePend (k : XferKind) (a b : Option Trap) : Option Trap :=
  match k, a, b with
  | .fill, some x, some y => if y.val.toNat < x.val.toNat then some y else some x
  | _, _, _ => a.or b

/-- A cause joins a transfer. -/
def State.pendXfer (s : State) (x : Xfer) (t : Option Trap) : State :=
  s.updXfer s.cur x.id (fun y => { y with pend := mergePend y.kind y.pend t })

/-- Destination j of a transfer changed. -/
def State.setRecv (s : State) (x : Xfer) (j : Nat) (f : Recv → Recv) : State :=
  s.updXfer s.cur x.id (fun y => y.updRecv j f)

/-- A destination has verified its last unit: the scoreboard entry retires, a multicast's receiver arrives (R256, R258). -/
def State.ackRecv (s : State) (x : Xfer) (j : Nat) (r : Recv) : State :=
  let s := (s.setRecv x j (fun r => { r with acked := true, sb := none })).retireRecv r
  match x.kind with
  | .mcast =>
    (match s.copyArrive x.seq x.bar.toNat false with
    | some (t, e) => t.pendXfer x e
    | none => s)
  | _ => s

/-- The arrival that a multicast's receiver makes at its last unit can be made. -/
def State.canAck (s : State) (x : Xfer) : Bool := x.kind != .mcast || (s.copyArrive x.seq x.bar.toNat false).isSome

/-- Unit u of destination j is verified. -/
def State.unitOk (s : State) (x : Xfer) (j u : Nat) (r : Recv) : State :=
  let s := s.setRecv x j (fun r => { r with ok := u :: r.ok })
  if r.ok.length + 1 = x.units then s.ackRecv x j r else s

/-- n bytes that are free. -/
def State.freeBytes (s : State) (n : Nat) : List Byte × State :=
  ((List.range n).map (fun k => (Config.freeWord (s.free + k)).setWidth 8), { s with free := s.free + n })

/-- Unit u of destination j fails its check (R256): what landed is not its data; after the third failed resend the destination
is poisoned and given up. -/
def State.unitFails (s : State) (x : Xfer) (j u : Nat) (r : Recv) (d : List (Nat × Nat × Place)) (n : Nat) : State :=
  let b := s.freeBytes n
  let s := (b.2.writeRuns Eng.cp.num x.seq false b.1 d).1
  let s := s.setRecv x j (fun r => { r with fails := u :: r.fails })
  if (r.fails.filter (· == u)).length < 6 then s else
  let s := (s.poisonRuns d).setRecv x j (fun r => { r with dead := true, sb := none })
  (s.retireRecv r).pendXfer x (d.head?.map (fun y => gaTrap .copyIntegrity y.1))

/-- A unit fails its address check (R255): a copy stops there, a fill goes on without it. -/
def State.unitRefused (s : State) (x : Xfer) (j u : Nat) (r : Recv) (t : Trap) : State :=
  if x.restartable then (if (s.eng .cp).held.isSome then s else s.engineFault .cp t x.seq)
  else
    let first := (x.dstRuns r u).head?.map (fun y => gaddr r.tid y.1)
    (s.pendXfer x (some ⟨t.cause, BitVec.ofNat 64 (first.getD t.val.toNat)⟩)).unitOk x j u r

/-- The source runs of a unit, none for a fill. -/
def State.srcPlaces (s : State) (x : Xfer) (u : Nat) : Except Trap (List (Nat × Nat × Place)) :=
  if x.kind = .fill then .ok [] else (s.runPlaces x.stid (x.srcRuns u)).map (s.resolved .cp)

/-- A source run in the own scratchpad is held by the scoreboard (R26), the transfer's own entry apart. -/
def State.srcHeld (s : State) (x : Xfer) (l : List (Nat × Nat × Place)) : Bool :=
  let own := x.recvs.filterMap (fun r => if s.recvLocal r then r.sb else none)
  l.any (fun y => match s.ownOffset y.2.2 with
    | some o => s.core.sb.toList.zipIdx.any (fun e => match e.1 with
      | some b => !own.contains e.2 && decide (o < b.start + b.len) && decide (b.start < o + y.2.1)
      | none => false)
    | none => false)

/-- The check of a unit's addresses (R255). -/
def State.unitBad (s : State) (x : Xfer) (r : Recv) (u : Nat) : Option Trap :=
  match s.srcPlaces x u, s.runPlaces r.tid (x.dstRuns r u) with
  | .error t, _ => some t
  | _, .error t => some t
  | _, _ => none

/-- The first unit of a copy or multicast up to u that fails its check: units are issued, and checked, in ascending order, and
the transfer stops at the first that fails (R255). -/
def State.firstBad (s : State) (x : Xfer) (r : Recv) (u : Nat) : Option (Nat × Trap) :=
  if !x.restartable then none else
  (List.range (u - r.first x.units)).findSome? (fun k =>
    let v := r.first x.units + k
    if r.ok.contains v then none else (s.unitBad x r v).map (v, ·))

/-- Unit u of destination j of a transfer of the focused core is checked (R255, R256). -/
def State.verifyUnit (s : State) (x : Xfer) (j u : Nat) (r : Recv) (ok : Bool) : State :=
  if !s.issues x || !s.recvOpen r || !r.mayRun x.units u || r.wantsResend u then s else
  if (s.firstBad x r u).isSome then s else
  match s.srcPlaces x u, s.runPlaces r.tid (x.dstRuns r u) with
  | .error t, _ => if x.restartable && r.first x.units != u then s else s.unitRefused x j u r t
  | _, .error t => if x.restartable && r.first x.units != u then s else s.unitRefused x j u r t
  | .ok a, .ok d =>
    if (!ok && s.noLink a d) || s.landHolds r.hdr d || s.mxHolds d then s
    else if s.runHolds a then s.parkRuns .cp a
    else if s.srcHeld x a then s.rsbStall
    else if !s.canAck x then s
    else if ok then
      let i := s.readRuns Eng.cp.num x.seq x.det x.pois a
      let data := if x.kind = .fill then x.fillBytes u else i.data
      let w := i.st.landRuns x.seq x.det data d
      ((w.1.runsMade .cp a).pendXfer x (i.trap.or w.2)).unitOk x j u r
    else s.unitFails x j u r d (min 4096 (x.total - 4096 * u))

/-- Bytes of an FR transfer's unit that fails are given up after the third failed resend (R252). -/
def Fr.noteFail (r : Fr) (j u : Nat) : Fr := { r with fails := (j, u) :: r.fails }

/-- The core whose FR runs a transfer. -/
def State.frCore (s : State) (xid : Nat) : Option Nat :=
  (List.range Config.cores).find? (fun p => (s.coreAt p).fr.xid == some xid)

/-- How often a unit of an FR transfer has failed or been resent. -/
def Fr.count (r : Fr) (j u : Nat) : Nat := (r.fails.filter (· == (j, u))).length

/-- Every unit has been sent once to a destination. -/
def Recv.sentAll (r : Recv) (units : Nat) : Bool :=
  r.dead || r.acked || decide (units = 0) || r.ok.contains (units - 1) || r.mayRun units (units - 1)

/-- Every unit of a multicast has been sent once to a destination: none on the way to the last fails its check (R255, R258). -/
def State.sentTo (s : State) (x : Xfer) (r : Recv) : Bool :=
  r.sentAll x.units && (r.dead || r.acked || ((s.firstBad x r x.units).isNone && ((s.recvRemote r).isNone || r.hdr)))

/-- MCAST_SENDER_ARRIVAL (R258). -/
def execMcastSenderArrival (xid : Nat) (s : State) : Out :=
  .next (match s.xferAt xid with
    | some (p, x) =>
      s.scrubGuard (s.withCore p (fun s =>
        if x.kind = .mcast && !x.sentArr && s.issues x && x.recvs.all (s.sentTo x) then
          match s.copyArrive x.seq x.bar.toNat true with
          | some (t, e) => (t.updXfer s.cur x.id (fun y => { y with sentArr := true })).pendXfer x e
          | none => s
        else s))
    | none => s)

/-! ### Completion (R254, R257, R259) -/

/-- A transfer's destinations have all ended. -/
def Xfer.ended (x : Xfer) : Bool :=
  x.begun && x.recvs.all (fun r => r.dead || r.acked || x.units == 0) && (x.kind != .mcast || x.sentArr)

/-- Opcode of the entry a transfer belongs to. -/
def State.cpOpc (s : State) (seq : W32) : Nat :=
  match (s.eng .cp).q.find? (fun y => y.seq == seq) with
  | some y => y.img.opc
  | none => 0

/-- A transfer of the focused core has completed: it leaves the list, and its entry is finished, or a CP.STAGE's takes its
cause (R254, R259). -/
def State.endXfer (s : State) (x : Xfer) : State :=
  let s := x.recvs.foldl (fun t r => t.retireRecv r) s
  let s := s.upd (fun c => { c with cp := { c.cp with xfers := c.cp.xfers.filter (fun y => y.id != x.id) } })
  let s := if s.cpOpc x.seq = 3 then s.updEntry .cp x.seq (fun y => { y with pend := y.pend.or x.pend })
    else s.finish .cp x.seq x.pend
  s.beginXfers

/-- TRANSFER_COMPLETE (R254). -/
def execTransferComplete (xid : Nat) (s : State) : Out :=
  .next (match s.xferAt xid with
    | some (p, x) => s.withCore p (fun s => if x.ended then s.whenLive (s.endXfer x) else s)
    | none => s)

/-- Entry a is earlier than entry b of one queue (R10). -/
def seqBefore (a b : W32) : Bool := decide (0 < (b - a).toNat) && decide ((b - a).toNat < 2 ^ 31)

/-- Every transfer issued before entry `seq` on a channel of a mask has completed (R257). -/
def State.drained (s : State) (mask : Nat) (seq : W32) : Bool :=
  s.core.cp.xfers.all (fun x => !(bit mask x.ch && seqBefore x.seq seq)) &&
  s.core.cp.colls.all (fun x => !(bit mask x.ch && seqBefore x.seq seq))

/-- CP.DRAIN starts (R257). -/
def State.startDrain (s : State) (_a : CpArgs) (x : Entry) : Option State := some (s.start .cp x .started)

/-- CP_DRAIN (R257). -/
def execCpDrain (a : CpArgs) (s : State) : Out := .next (s.starting .cp (fun s x => s.startDrain a x))

/-- The barrier of a CP.SIG (R253). -/
def sigBarrier (a : CpArgs) : Nat := gaddr (bits a.h12.toNat 0 12) (bits a.h12.toNat 12 4 * 2 ^ 32 + a.p0.toNat)

/-- CP.SIG starts (R257): its barrier is checked as R156 says. -/
def State.startSig (s : State) (a : CpArgs) (x : Entry) : Option State :=
  let ga := sigBarrier a
  if ga % 64 ≠ 0 then some (s.refuse .cp x (gaTrap .align ga))
  else match s.place .engine ga 64 with
    | .error t => some (s.refuse .cp x t)
    | .ok _ => some (s.start .cp x .started)

/-- CP_SIG (R257). -/
def execCpSig (a : CpArgs) (s : State) : Out := .next (s.starting .cp (fun s x => s.startSig a x))

/-- A started CP entry of an opcode that waits, where the engine may go on (R41). -/
def State.waitingCp (s : State) (opc : Nat) : List Entry :=
  if s.core.qstop || s.frozen then [] else
  (s.eng .cp).q.filter (fun x => x.phase == .started && x.img.opc == opc)

/-- CP_DRAIN_COMPLETE (R257). -/
def execCpDrainComplete (s : State) : Out :=
  .next (match (s.waitingCp 4).find? (fun x => s.drained (x.img.hw 14 % 256) x.seq) with
    | some x => s.finish .cp x.seq none
    | none => s)

/-- CP_SIG_ARRIVAL (R257). -/
def execCpSigArrival (s : State) : Out :=
  .next (match (s.waitingCp 6).find? (fun x => s.drained (2 ^ (x.img.hw 15 % 8)) x.seq) with
    | some x =>
      (match s.copyArrive x.seq (sigBarrier (CpArgs.ofImage x.img)) true with
      | some (t, e) => s.scrubGuard (t.finish .cp x.seq e)
      | none => s)
    | none => s)

/-! ### Static copy schedules (R76, R259) -/

/-- The transfer of a schedule entry (R76, R259). -/
def schedXfer (d : List W64) (x : Entry) (core : Nat) : Xfer :=
  let g (k : Nat) : Nat := (d.getD k 0).toNat
  { id := 0, core := core, seq := x.seq, ch := bits (g 0) 48 3, kind := .copy, stid := bits (g 0) 36 12, soff := bits (g 0) 0 36,
    rows := bits (g 2) 32 16, bytes := bits (g 2) 0 32, sp := bits (g 3) 0 32, dp := bits (g 3) 32 32, pattern := 0,
    pois := false, det := x.det, recvs := [Recv.new (bits (g 1) 36 12) (bits (g 1) 0 36)], bar := 0, sentArr := false,
    pend := none, begun := false }

/-- The entries of a stage among n entries from a global address on (R259). -/
def State.stageEntries (s : State) (x : Entry) (ga n stage : Nat) : Except Trap (List Xfer × State) :=
  match n with
  | 0 => .ok ([], s)
  | k + 1 =>
    match s.readDoubles .engine ga 4 with
    | .error t => .error t
    | .ok (d, s) =>
      match s.stageEntries x (ga + 32) k stage with
      | .error t => .error t
      | .ok (l, s) => .ok (if bits (d.getD 1 0).toNat 48 16 = stage then schedXfer d x s.cur :: l else l, s)

/-- What a CP.STAGE releases: nothing in a launch without a schedule. -/
def State.stageRelease (s : State) (x : Entry) : Except Trap (List Xfer × State) :=
  let sched := match s.core.work with
    | some r => (match s.launchInfo r.vf r.lid with
      | some l => l.sched.toNat
      | none => 0)
    | none => 0
  if sched = 0 then .ok ([], s) else
  match s.readDouble .engine sched with
  | .error t => .error t
  | .ok (h, s) => s.stageEntries x (sched + 32) (h.toNat % 2 ^ 16) s.core.cp.stage.toNat

/-- The first address of a released transfer that fails its check (R259, R142). -/
def State.xferBad (s : State) (x : Xfer) : Option Trap :=
  (List.range x.units).findSome? (fun u =>
    match s.runPlaces x.stid (x.srcRuns u), x.recvs.findSome? (fun r =>
      match s.runPlaces r.tid (x.dstRuns r u) with
      | .error t => some t
      | .ok _ => none) with
    | .error t, _ => some t
    | .ok _, t => t)

/-- CP.STAGE starts (R259): every address of what it releases is checked first. -/
def State.startStage (s : State) (_a : CpArgs) (x : Entry) : Option State :=
  match s.stageRelease x with
  | .error t => some (s.refuse .cp x t)
  | .ok (l, s1) =>
    match l.findSome? s1.xferBad with
    | some t => some (s1.refuse .cp x t)
    | none =>
      let s2 := s1.start .cp x .started
      let s3 := s2.upd (fun c => { c with cp := { c.cp with stage := c.cp.stage + 1 } })
      some (l.foldl (fun t y => t.addXfer y) s3).beginXfers

/-- CP_STAGE (R259). -/
def execCpStage (a : CpArgs) (s : State) : Out := .next (s.starting .cp (fun s x => s.startStage a x))

/-- CP_STAGE_COMPLETE (R259). -/
def execCpStageComplete (s : State) : Out :=
  .next (match (s.waitingCp 3).find? (fun x => s.core.cp.xfers.all (fun y => y.seq != x.seq)) with
    | some x => s.finish .cp x.seq none
    | none => s)

end Sys2Proof.Machine
end

