-- ==== Sys2Proof/Machine/Collective.lean ====
section
/-!
DEFINITION. Ring collectives (R104, R105, R260–R263, R398): the part of this package's participants and of its port stops.
-/

namespace Sys2Proof.Machine

/-! ### Sums in a free order (R95) -/

/-- A sum in an order and grouping that free picks from number k on choose, each partial sum exact or rounded (R95). -/
def fastSum (k : Nat) (fuel : Nat) (l : List Num) : Num :=
  match fuel, l with
  | _, [] => .zero true
  | _, [x] => x
  | 0, x :: _ => x
  | n + 1, l =>
    let i := Config.fastPick k % l.length
    let rest := l.eraseIdx i
    let j := Config.fastPick (k + 1) % rest.length
    let v := (l.getD i .nan).add false (rest.getD j .nan)
    fastSum (k + 3) n ((if Config.fastPick (k + 2) % 2 = 1 then rn32 v else v) :: rest.eraseIdx j)

/-! ### Elements (R261, R262) -/

/-- The FP32 words of an element, widened exactly (R105, R262). -/
def widenElem (typ : Nat) (x : W32) : List W32 :=
  match typ with
  | 0 => [x]
  | 1 => [w32 (val x.toNat .bf16)]
  | _ => [w32 (val (x.toNat % 2 ^ 16) .fp16), w32 (val (x.toNat / 2 ^ 16) .fp16)]

/-- The elements that FP32 words round to (R262). -/
def narrowWords (typ rnd : Nat) (l : List W32) : List W32 :=
  match typ, l with
  | 0, l => l.map (fun x => w32 (f32 x))
  | 1, l => l.map (fun x => BitVec.ofNat 32 (round (f32 x) .bf16 (Rnd.ofCode rnd) 0 none).1)
  | _ + 2, a :: b :: r =>
    BitVec.ofNat 32 ((round (f32 b) .fp16 (Rnd.ofCode rnd) 0 none).1 * 2 ^ 16 + (round (f32 a) .fp16 (Rnd.ofCode rnd) 0 none).1) ::
      narrowWords typ rnd r
  | _ + 2, _ => []

/-- FP32 words per element. -/
def collComps (typ : Nat) : Nat := if typ = 2 then 2 else 1

/-- One reduction step on FP32 words: OP 0 SUM, 1 MAX, 2 MIN (R104, R262). -/
def redStep (op : Nat) (a b : W32) : W32 :=
  match op with
  | 0 => w32 ((f32 a).add false (f32 b))
  | 1 => w32 ((f32 a).max (f32 b))
  | _ => w32 ((f32 a).min (f32 b))

/-! ### Participants (R260) -/

/-- Positions of the participants in rank order (R260). -/
def rankOrder (npkg pmask root : Nat) : List Nat :=
  ((List.range npkg).map (fun i => (root + i) % npkg)).filter (bit pmask)

/-- The rank of this package in a collective. -/
def State.rankIn (s : State) (x : Coll) : Nat := (rankOrder s.npkg x.pmask x.root).idxOf s.pos

/-- The collective reduces. -/
def Coll.reduces (x : Coll) : Bool := x.kind == 7 || x.kind == 9

/-- The contributions travel to the rank-0 package, which forms the reduction (R398): RED32, and FAST (R95). -/
def Coll.atRoot (x : Coll) : Bool := x.reduces && (x.prof == 0 || x.prof == 0xB)

/-- What a contribution looks like on the ring: widened where it is reduced, raw otherwise. -/
def Coll.wire (x : Coll) : List W32 := if x.reduces then (x.contrib.map (widenElem x.typ)).flatten else x.contrib

/-- A message of a collective with a rank; rank np marks the result lap. -/
def Coll.msg (x : Coll) (rank : Nat) (vals : List W32) : CollMsg :=
  { collid := x.collid, opc := BitVec.ofNat 8 x.kind, root := BitVec.ofNat 4 x.root, pmask := BitVec.ofNat 16 x.pmask,
    count := BitVec.ofNat 32 x.count, typ := BitVec.ofNat 2 x.typ, op := BitVec.ofNat 2 x.op, prof := BitVec.ofNat 8 x.prof,
    rank := rank, vals := vals }

/-- A message agrees with the local part of its collective (R260). -/
def Coll.agrees (x : Coll) (m : CollMsg) : Bool := { m with rank := 0, vals := [] } == x.msg 0 []

/-- The rank of a message that says that its collective has ended (R260): beyond that of a result lap of 16 packages. -/
def breakRank : Nat := 17

/-- Values can leave eastward: the port is up (R393, R396), or the ring is this package alone. -/
def State.eastOpen (s : State) : Bool := s.npkg == 1 || (s.portEnabled false && (s.port false).up)

/-- Link flits of 256 bytes that a message takes (R394). -/
def msgFlits (m : CollMsg) : Nat := max 1 (ceilDiv m.vals.length 64)

/-- A message leaves by the east port, which numbers its flits (R394). -/
def State.sendEast (s : State) (m : CollMsg) : State :=
  if !s.eastOpen then s else
  { (s.sends false (msgFlits m)).updPort false (fun x => { x with txTop := x.txTop + BitVec.ofNat 16 (msgFlits m), txSeq := x.txTop + BitVec.ofNat 16 (msgFlits m) }) with
    collTx := s.collTx ++ [m] }

/-- A collective that runs on a core of this package under an id. -/
def State.anyColl (s : State) (id : H16) : Option Coll :=
  (List.range Config.cores).findSome? (fun p => (s.coreAt p).cp.colls.find? (fun y => y.collid == id && !y.written))

/-- A collective ends at every participant (R260): here, and at the others once the message has gone round the ring. -/
def State.breakRing (s : State) (id : H16) : State :=
  match s.anyColl id with
  | none => s
  | some x => (s.breakColls (fun z => z.collid == id)).sendEast (x.msg breakRank [BitVec.ofNat 32 s.pos])

/-- The message that a collective has ended reaches this package (R260): it goes round to where it began. -/
def State.breakArrives (s : State) (m : CollMsg) : State :=
  let t := s.breakColls (fun z => z.collid == m.collid)
  if m.vals.head? = some (BitVec.ofNat 32 s.pos) then t else t.sendEast m

/-- The running value with the local contribution (R105, R262). -/
def Coll.combine (x : Coll) (v : List W32) : List W32 :=
  match x.kind with
  | 8 => v ++ x.wire
  | 10 => v
  | _ => (v.zip x.wire).map (fun p => redStep x.op p.1 p.2)

/-- Word i of every contribution, in rank order. -/
def column (l : List (List W32)) (i : Nat) : List Num := l.map (fun v => f32 (v.getD i 0))

/-- The reduction that the rank-0 package forms from all contributions in rank order: the tree of R104, FAST, or the exact MAX and
MIN of R262. -/
def State.reduceAll (s : State) (x : Coll) (l : List (List W32)) : List W32 × State :=
  let n := x.wire.length
  if x.op ≠ 0 then
    ((List.range n).map (fun i => match l.map (fun v => v.getD i 0) with
      | [] => 0
      | v :: r => r.foldl (redStep x.op) v), s)
  else if x.prof = 0 then
    ((List.range n).map (fun i => w32 (fastSum (s.free + 3 * l.length * i) l.length (column l i))),
     { s with free := s.free + 3 * l.length * n })
  else ((List.range n).map (fun i => w32 (red32 addRn (.zero true) (column l i))), s)

/-- A collective of physical core p changed. -/
def State.updColl (s : State) (collid : H16) (f : Coll → Coll) : State :=
  s.upd (fun c => { c with cp := { c.cp with colls := c.cp.colls.map (fun x => if x.collid = collid then f x else x) } })

/-- The result of a collective is formed here, and its lap begins (R398). -/
def State.collResult (s : State) (x : Coll) (v : List W32) : State :=
  (s.updColl x.collid (fun x => { x with result := some v })).sendEast (x.msg x.np v)

/-! ### Starting (R254, R260, R261) -/

/-- The collective of an image. -/
def collOf (a : CpArgs) (kind : Nat) (x : Entry) : Coll :=
  { collid := a.h14, seq := x.seq, kind := kind, src := a.p0.toNat, dst := a.p1.toNat, count := a.p2.toNat,
    pmask := bits a.p3.toNat 0 16, root := bits a.h15.toNat 12 4, typ := bits a.h15.toNat 8 2, op := bits a.h15.toNat 10 2,
    prof := a.long.prof.toNat, rnd := a.long.rnd.toNat, ch := cpCh a, contrib := [], got := [], result := none, here := false, written := false,
    sb := none, pend := none }

/-- Two ranges overlap. -/
def overlaps (a n b m : Nat) : Bool := decide (a < b + m) && decide (b < a + n)

/-- The pre-start check of R261: the first failure. -/
def State.collCheck (s : State) (x : Coll) : Option Trap :=
  let e := collBytes x.typ
  let sn := x.count * e
  let dn := x.outCount * e
  let reason (n : Nat) : Option Trap := some ⟨.illegalInstruction, BitVec.ofNat 64 n⟩
  let anyOverlap := x.kind == 8 || x.kind == 9
  if !bit x.pmask s.pos || !bit x.pmask x.root || x.pmask / 2 ^ s.npkg ≠ 0 then reason 1
  else if overlaps x.src sn x.dst dn && (anyOverlap || !(x.src == x.dst && sn == dn)) then reason 2
  else if x.count = 0 || 2 ^ 20 < x.count || (x.kind = 9 && x.count % x.np ≠ 0) then reason 3
  else if x.src % e ≠ 0 then some (gaTrap .align x.src)
  else if x.dst % e ≠ 0 then some (gaTrap .align x.dst)
  else if Config.spadBytes < x.src + sn then some (gaTrap .translation (max x.src Config.spadBytes))
  else if Config.spadBytes < x.dst + dn then some (gaTrap .translation (max x.dst Config.spadBytes))
  else none

/-- Elements of e bytes from a list of bytes. -/
def elemsOf (e fuel : Nat) (l : List Byte) : List W32 :=
  match fuel with
  | 0 => []
  | k + 1 => BitVec.ofNat 32 (leNat (l.take e)) :: elemsOf e k (l.drop e)

/-- A participant contributes its source: all but the receivers of a broadcast (R262). -/
def State.contributes (s : State) (x : Coll) : Bool := x.kind != 10 || s.rankIn x == 0

/-- The source of a collective is read (R261): poisoned rows read as zero and are logged; their cause comes at the boundary. -/
def State.collRead (s : State) (x : Coll) : Coll × State :=
  if !s.contributes x then (x, s) else
  let e := collBytes x.typ
  let l : Loc := ⟨spadPa s.cur x.src, .spad, false, false, none, 0⟩
  let bad := (s.firstPoison l.pa (x.count * e)).map (fun a => gaTrap .spPoison (x.src + (a - l.pa)))
  let r := s.readZ Eng.cp.num x.seq l (x.count * e)
  ({ x with contrib := elemsOf e x.count r.1, pend := bad }, r.2)

/-- The rank-0 package forms the reduction once it has every contribution, its own among them (R398). -/
def State.rootForm (s : State) (x : Coll) : State :=
  if !x.here || x.got.length + 1 < x.np then s else
  let all := x.wire :: (List.range (x.np - 1)).map (fun k => ((x.got.find? (fun g => g.1 == k + 1)).map (·.2)).getD [])
  let r := s.reduceAll x all
  r.2.collResult x r.1

/-- What a participant's stop does once its contribution is there (R398). -/
def State.collFirst (s : State) (x : Coll) : State :=
  let q := s.rankIn x
  if x.atRoot then (if q = 0 then s.rootForm x else s.sendEast (x.msg q x.wire))
  else if x.np = 1 then s.collResult x x.wire
  else if q = 0 then s.sendEast (x.msg 0 x.wire)
  else s

/-- The port stop to which a contribution travels (R398): the east one for what it sends east, the west one for what it adds. -/
def State.contribStop (s : State) (x : Coll) : Nat := if x.atRoot || s.rankIn x == 0 then lorcyEast else lorcyWest

/-- A participant's CP sends its contribution over the core ring to the port stop (R398). -/
def State.sendContrib (s : State) (x : Coll) : State :=
  if s.contributes x then s.post s.cur (s.contribStop x) s.core.part (.contrib x.collid) else s

/-- Collectives in flight in the package. -/
def State.collsInFlight (s : State) : Nat :=
  ((List.range Config.cores).map (fun p => (s.coreAt p).cp.colls.length)).foldl (· + ·) 0

/-- A core of the package has a collective with an id in flight. -/
def State.collidUsed (s : State) (id : H16) : Bool :=
  (List.range Config.cores).any (fun p => (s.coreAt p).cp.colls.any (fun y => y.collid == id && !y.written))

/-- A collective starts (R254, R261, R398): none while an earlier one of the core runs, eight are in flight, or the incoming
half of the scoreboard is full; the scoreboard holds a source that it reads (R26). -/
def State.startColl (s : State) (a : CpArgs) (kind : Nat) (x : Entry) : Option State :=
  let y := collOf a kind x
  match s.collCheck y with
  | some t => some (s.refuse .cp x t)
  | none =>
    if !s.core.cp.colls.isEmpty || 8 ≤ s.collsInFlight then none
    else if s.contributes y && s.sbHit y.src (y.count * collBytes y.typ) then some s.rsbStall
    else match sbFree s.core 8 with
    | none => none
    | some i =>
      let twice := s.collidUsed y.collid
      let r := (s.start .cp x .started).collRead y
      let y := { r.1 with sb := some i }
      let s := r.2.sbAlloc s.cur i ⟨y.dst, y.outCount * collBytes y.typ, y.ch⟩
      let s := s.upd (fun c => { c with cp := { c.cp with colls := c.cp.colls ++ [y] } })
      some (if twice then s.breakRing y.collid else s.sendContrib y)

/-- CP_ALLRED (R262). -/
def execCpAllred (a : CpArgs) (s : State) : Out := .next (s.starting .cp (fun s x => s.startColl a 7 x))

/-- CP_ALLGATH (R262). -/
def execCpAllgath (a : CpArgs) (s : State) : Out := .next (s.starting .cp (fun s x => s.startColl a 8 x))

/-- CP_REDSC (R262). -/
def execCpRedsc (a : CpArgs) (s : State) : Out := .next (s.starting .cp (fun s x => s.startColl a 9 x))

/-- CP_BCAST (R262). -/
def execCpBcast (a : CpArgs) (s : State) : Out := .next (s.starting .cp (fun s x => s.startColl a 10 x))

/-! ### The port stops (R398) -/

/-- The collective of the focused core with an id that still runs. -/
def State.coll (s : State) (id : H16) : Option Coll := s.core.cp.colls.find? (fun x => x.collid == id && !x.written)

/-- A contribution reaches the rank-0 package. -/
def State.rootStep (s : State) (x : Coll) (m : CollMsg) : State :=
  if m.rank = 0 || x.np ≤ m.rank || x.got.any (fun g => g.1 == m.rank) || m.vals.length != x.wire.length then s else
  let y := { x with got := (m.rank, m.vals) :: x.got }
  (s.updColl x.collid (fun _ => y)).rootForm y

/-- A running value reaches a participant on the ring. -/
def State.ringStep (s : State) (x : Coll) (m : CollMsg) : State :=
  let q := s.rankIn x
  if m.rank + 1 ≠ q || !x.got.isEmpty || (s.contributes x && !x.here) then s else
  let s := s.updColl x.collid (fun x => { x with got := [(m.rank, m.vals)] })
  let v := x.combine m.vals
  if q + 1 = x.np then s.collResult x v else s.sendEast (x.msg q v)

/-- What a west port stop does with a message before any part in its collective: it waits while no flit can leave, tells the end of a
collective on, compares it with a collective under way here (R260), and forwards what PMASK does not name (R398). -/
def State.westStop (s : State) (m : CollMsg) (f : Coll → State) : State :=
  if !s.eastOpen then s
  else if m.rank = breakRank then s.breakArrives m
  else if (match s.anyColl m.collid with
    | some x => !x.agrees m
    | none => false) then s.breakRing m.collid
  else if !bit m.pmask.toNat s.pos then s.sendEast m
  else match s.coll m.collid with
    | some x => s.whenLive (f x)
    | none => s

/-- COLLECTIVE_REDUCE_STEP (R398): a west port stop receives a running value or a contribution; at a stopped tile it waits (R353). -/
def execCollectiveReduceStep (m : CollMsg) (s : State) : Out :=
  .next (s.westStop m (fun x =>
    if x.atRoot then (if s.rankIn x = 0 then s.rootStep x m else s.sendEast m) else s.ringStep x m))

/-- The elements that a participant writes from the values of the result lap (R262). -/
def State.collOut (s : State) (x : Coll) (v : List W32) : List W32 :=
  let k := collComps x.typ
  match x.kind with
  | 7 => narrowWords x.typ x.rnd v
  | 9 => narrowWords x.typ x.rnd ((v.drop (s.rankIn x * x.outCount * k)).take (x.outCount * k))
  | _ => v

/-- Words of the result lap. -/
def Coll.lapWords (x : Coll) : Nat :=
  match x.kind with
  | 8 => x.np * x.count
  | 10 => x.count
  | _ => x.count * collComps x.typ

/-- The lap has reached its end at this participant: the last rank, or rank 0 where that package formed the result. -/
def State.lapEnds (s : State) (x : Coll) : Bool :=
  if x.atRoot then s.rankIn x == 0 else s.rankIn x + 1 == x.np

/-- The value of the result lap is the one this package formed, or one that another formed after this one's part. -/
def State.lapOk (s : State) (x : Coll) (m : CollMsg) : Bool :=
  m.rank == x.np && m.vals.length == x.lapWords &&
  (match x.result with
  | some v => v == m.vals
  | none => if s.lapEnds x then false else x.atRoot || s.rankIn x == 0 || !x.got.isEmpty)

/-- A participant's destination is written (R262). -/
def State.collWrite (s : State) (x : Coll) (v : List W32) : State :=
  let e := collBytes x.typ
  let data := ((s.collOut x v).map (fun w => leBytes e w.toNat)).flatten
  let l : Loc := ⟨spadPa s.cur x.dst, .spad, false, false, none, 0⟩
  (s.writeZ Eng.cp.num x.seq l data).updColl x.collid (fun x => { x with written := true })

/-- COLLECTIVE_RESULT_WRITE (R398). -/
def execCollectiveResultWrite (m : CollMsg) (s : State) : Out :=
  .next (s.westStop m (fun x =>
    if !s.lapOk x m || s.core.mxKeeps x.dst (x.outCount * collBytes x.typ) then s
    else
      let t := s.collWrite x m.vals
      if s.lapEnds x then t else t.sendEast m))

/-- COLLECTIVE_COMPLETE (R263): the destination is written and verified. -/
def execCollectiveComplete (collid : H16) (s : State) : Out :=
  .next (if s.frozen then s else match s.core.cp.colls.find? (fun x => x.collid == collid && x.written) with
    | some x =>
      let s := s.upd (fun c => { c with cp := { c.cp with colls := c.cp.colls.filter (fun y => y.seq != x.seq) } })
      let s := match x.sb with
        | some i => s.sbRetire s.cur i
        | none => s
      s.finish .cp x.seq x.pend
    | none => s)

/-! ### Contributions on the core ring (R389, R398) -/

/-- A collective's own contribution is at its port stop. -/
def State.contribTaken (t : State) (id : H16) : State :=
  match t.coll id with
  | some x => (t.updColl id (fun x => { x with here := true })).collFirst { x with here := true }
  | none => t

/-- A contribution has reached its port stop: what the stop then does; it waits in the buffer while no flit can leave the package.
A stopped tile's goes on too (R353): its image then holds the collective. -/
def State.contribArrives (s : State) (fid src : Nat) (id : H16) : State :=
  if !s.eastOpen then s else
  let s := s.dropFlit fid
  match s.images.reverse.find? (fun i => i.scan && i.phys == src && i.core.cp.colls.any (fun x => x.collid == id)),
      (s.coreAt src).cp.colls.any (fun x => x.collid == id) with
  | some i, false => s.withCore src (fun t => t.onImage i (fun u => u.contribTaken id))
  | _, _ => s.withCore src (fun t => t.contribTaken id)

/-- RING_FLIT_ARRIVAL (R390, R391); a port stop takes a contribution from its buffer at once. -/
def execRingFlitArrival (fid : Nat) (s : State) : Out :=
  .next (match s.flit fid with
    | none => s
    | some f =>
      let t := if f.st == .buffered then s else s.flitArrives fid f
      match f.msg, t.flit fid with
      | .contrib id, some g => if g.st == .buffered then t.contribArrives fid f.src id else t
      | _, _ => t)

end Sys2Proof.Machine
end

