-- ==== Sys2Proof/Machine/Frames.lean ====
section
/-!
DEFINITION. The frame engine FR (R242–R252): session tables, snapshot pools, slots.
-/

namespace Sys2Proof.Machine

/-! ### Session tables (R242, R243) -/

/-- n bytes of a tensor as FR's checks see them (R246): no note is taken, a poisoned unit under ZERO reads zero. -/
def State.peek (s : State) (tid off n : Nat) : Except Trap Nat :=
  if tid = 0 || 0xDFF < tid then .error (trAt .ownership false (gaddr tid off)) else
  match s.spanPlace .frame tid off n with
  | .error t => .error t
  | .ok (.remote _ _) => .error (trAt .translation false (gaddr tid off))
  | .ok (.here l) =>
    if s.poisoned l.pa then (if l.zero then .ok 0 else .error (trAt l.poisonCause false (gaddr tid off)))
    else .ok (s.loadLE l.pa n)

/-- Offset of the entry of session i. -/
def sessOff (i : Nat) : Nat := 128 * (i + 1)

/-- A session entry (R242). -/
structure Sess where
  valid : Bool
  size : Nat
  gen : Nat
  home : Nat
  tv : Nat
  tags : List Nat

/-- A session entry from its doubles 0, 1, 2 and 4 to 7. -/
def Sess.of (d0 d1 d2 : Nat) (t : List Nat) : Sess :=
  ⟨bit d0 63, bits d0 32 9, bits d0 0 32, bits d1 0 48, bits d2 0 4, t.map (fun x => bits x 0 32)⟩

/-- A session entry as FR's checks see it. -/
def State.peekSess (s : State) (tab i : Nat) : Except Trap Sess := do
  let o := sessOff i
  let d0 ← s.peek tab o 8
  let d1 ← s.peek tab (o + 8) 8
  let d2 ← s.peek tab (o + 16) 8
  let t0 ← s.peek tab (o + 32) 8
  let t1 ← s.peek tab (o + 40) 8
  let t2 ← s.peek tab (o + 48) 8
  let t3 ← s.peek tab (o + 56) 8
  return Sess.of d0 d1 d2 [t0, t1, t2, t3]

/-- The valid tag with a value. -/
def Sess.tag (x : Sess) (v : Nat) : Option Nat := (List.range 4).find? (fun i => bit x.tv i && x.tags.getD i 0 == v)

/-- The first tag that is not valid. -/
def Sess.freeTag (x : Sess) : Option Nat := (List.range 4).find? (fun i => !bit x.tv i)

/-! ### The operands of an FR entry -/

/-- The slot an instruction names. -/
def State.frSlot (s : State) (i : Nat) : Slot := s.core.fr.slots.toList.getD i .empty

/-- Byte offset of slot i in the scratchpad (R247). -/
def Fr.slotBase (r : Fr) (i : Nat) : Nat := r.base + i * r.size * 4096

/-- The new home of an image, as tid and offset. -/
def frHome (a : FrArgs) : Nat × Nat := (a.htid.toNat, a.hoffhi.toNat * 2 ^ 32 + a.p1.toNat)

/-- The RES of the state, session and tag conditions (R248–R250), 0 for OK; `op` is the opcode of R245. -/
def State.frRes (s : State) (op : Nat) (a : FrArgs) : Except Trap Nat := do
  let sl := s.frSlot a.slot.toNat
  let sz := s.core.fr.size
  let tab := a.tab.toNat
  let sess := a.sess.toNat
  let empty := sl.st == .empty
  let resident := sl.st == .resident
  match op with
  | 2 =>
    if !empty then return 2
    let x ← s.peekSess tab sess
    return if x.valid && decide (x.size ≤ sz) then 0 else 3
  | 3 => return if resident then 0 else 2
  | 4 =>
    if !resident then return 2
    let x ← s.peekSess tab sess
    return if x.valid && decide (x.size ≤ sz) && sess != sl.sess.toNat then 0 else 3
  | 5 =>
    if !resident then return 2
    let x ← s.peekSess tab sl.sess.toNat
    return if (x.tag a.p1.toNat).isSome || x.freeTag.isSome then 0 else 5
  | 6 =>
    if !resident then return 2
    let x ← s.peekSess tab sl.sess.toNat
    return if (x.tag a.p1.toNat).isSome then 0 else 4
  | 7 =>
    if !resident then return 2
    let x ← s.peekSess tab sess
    return if x.valid then 3 else 0
  | 8 =>
    if !resident then return 2
    let x ← s.peekSess tab sl.sess.toNat
    return if a.all || (x.tag a.p1.toNat).isSome then 0 else 4
  | 10 =>
    let x ← s.peekSess tab sess
    return if x.valid then 0 else 3
  | _ => return 0

/-! ### The checks of R246 -/

/-- A tid that must name a FRAME tensor does not. -/
def State.frameBad (s : State) (tid off : Nat) : Option Trap :=
  let t := gaTrap .ownership (gaddr tid off)
  if tid = 0 || 0xDFF < tid then some t else
  match s.descriptor (s.regime 0) (gaddr tid off) tid with
  | .ok d => if d.kind = 3 then none else some t
  | .error _ => none

/-- The first of n blocks from an offset of a tid that fails its check. -/
def State.blocksBad (s : State) (tid off n : Nat) : Option Trap :=
  (List.range n).findSome? (fun k => match s.spanPlace .frame tid (off + 4096 * k) 4096 with
    | .error t => some t
    | .ok _ => none)

/-- The tid and offset of a global address. -/
def gaSplit (ga : Nat) : Nat × Nat := (ga / 2 ^ 36, ga % 2 ^ 36)

/-- Size of a session, 0 where its entry cannot be read. -/
def State.sizeOf (s : State) (tab i : Nat) : Nat :=
  match s.peekSess tab i with
  | .ok x => x.size
  | .error _ => 0

/-- The tid of the pool of a session table. -/
def State.poolTid (s : State) (tab : Nat) : Option Nat :=
  match s.peek tab 0 8 with
  | .ok h => some (h % 2 ^ 12)
  | .error _ => none

/-- The opcode uses the SESS field. -/
def frUsesSess (op : Nat) : Bool := op == 2 || op == 4 || op == 7 || op == 10

/-- Reasons 1 to 3 of R246; NSESS is read from a FRAME tensor only, any other table fails its own check. -/
def State.frReason (s : State) (op : Nat) (a : FrArgs) : Option Nat :=
  if op = 1 then
    (if a.slot ≠ 0 then some 1
     else if s.core.fr.slots.toList.any (fun x => x.st != .empty || x.pins != 0) then some 2 else none)
  else if s.core.fr.n ≤ a.slot.toNat then some 1
  else if frUsesSess op && (s.frameBad a.tab.toNat 0).isNone then
    (match s.peek a.tab.toNat 0 8 with
    | .ok h => if h / 2 ^ 32 ≤ a.sess.toNat then some 3 else none
    | .error _ => none)
  else none

/-- The OWNERSHIP check of R246. -/
def State.frOwn (s : State) (op : Nat) (a : FrArgs) : Option Trap :=
  let tab := a.tab.toNat
  let sl := s.frSlot a.slot.toNat
  if op = 1 then none
  else if op = 9 then (if sl.st == .empty then none else s.frameBad sl.tid.toNat 0)
  else
    let pool := match s.poolTid tab with
      | some p => s.frameBad p 0
      | none => none
    let home := if op = 7 || op = 10 then s.frameBad (frHome a).1 (frHome a).2 else none
    (s.frameBad tab 0).or (pool.or home)

/-- The ALIGN check of R246. -/
def frAlign (op : Nat) (a : FrArgs) : Option Trap :=
  let home := frHome a
  if (op = 7 || op = 10) && home.2 % 4096 ≠ 0 then some (gaTrap .align (gaddr home.1 home.2))
  else if op = 9 && a.p2.toNat % 4 ≠ 0 then some (gaTrap .align a.p2.toNat)
  else if op = 1 && a.p2.toNat % 4096 ≠ 0 then some (gaTrap .align a.p2.toNat)
  else none

/-- A snapshot pool with the place of the tag maps. -/
structure Pool where
  tab : Nat
  tid : Nat
  nblk : Nat
  mapoff : Nat

/-- Offset of word k of the map of tag i of session n (R243). -/
def Pool.mapWord (p : Pool) (n i k : Nat) : Nat := p.mapoff + (4 * n + i) * 1024 + 4 * k

/-- Offset of the count of pool block k. -/
def Pool.countOff (p : Pool) (k : Nat) : Nat := 4096 * p.nblk + 2 * k

/-- A span of a tid fails its check. -/
def State.spanBad (s : State) (tid off n : Nat) : Option Trap :=
  match s.spanPlace .frame tid off n with
  | .error t => some t
  | .ok _ => none

/-- Bytes [0, n) of a tid lie in its tensor (R293), which is no CI12P tensor (R83). -/
def State.extentBad (s : State) (tid n : Nat) : Option Trap :=
  match s.descriptor (s.regime 0) (gaddr tid 0) tid with
  | .error t => some t
  | .ok d =>
    if !(n = 0 || (decide (n ≤ 2 ^ 36) && d.offsetOk (n - 1) 1)) then some (trAt .translation false (gaddr tid (n - 1)))
    else if d.typ = 13 then some (trAt .illegalInstruction false (gaddr tid 0)) else none

/-- A word of a tag map as FR's checks see it: a poisoned one is zero here, and its cause comes once it is read (R252). -/
def State.peekWord (s : State) (tid off : Nat) : Nat :=
  match s.spanPlace .frame tid off 4 with
  | .ok (.here l) => if s.poisoned l.pa then 0 else s.loadLE l.pa 4
  | _ => 0

/-- The header's pool, its NBLK and MAPOFF, as FR's checks see them. -/
def State.peekPool (s : State) (tab : Nat) : Except Trap Pool := do
  let a ← s.peek tab 0 8
  let b ← s.peek tab 8 8
  let c ← s.peek tab 16 8
  return ⟨tab, a % 2 ^ 12, b % 2 ^ 32, c⟩

/-- The map of tag i of session n, the counts of the blocks that it names, and where `blocks` holds the blocks themselves. -/
def State.mapBad (s : State) (p : Pool) (n i size : Nat) (blocks : Bool) : Option Trap :=
  (s.spanBad p.tab (p.mapWord n i 0) (4 * size)).or ((List.range size).findSome? (fun k =>
    let w := s.peekWord p.tab (p.mapWord n i k)
    if w = 0 then none else
    (if blocks then s.spanBad p.tid (4096 * w) 4096 else none).or (s.spanBad p.tid (p.countOff w) 2)))

/-- The maps of tags of a mask, with what they name. -/
def State.mapsBad (s : State) (p : Pool) (n size mask : Nat) (blocks : Bool) : Option Trap :=
  (List.range 4).findSome? (fun i => if bit mask i then s.mapBad p n i size blocks else none)

/-- The addresses of an FR.SNAP, FR.ROLL or FR.DROP beyond the session's entry (R249, R250): maps, counts and pool blocks. What an
FR.SNAP will allocate is not known before its start: the whole pool with its counts lies in its tensor. -/
def State.tagsBad (s : State) (op : Nat) (a : FrArgs) : Option Trap :=
  let tab := a.tab.toNat
  let n := (s.frSlot a.slot.toNat).sess.toNat
  match s.peekPool tab, s.peekSess tab n with
  | .error t, _ => some t
  | _, .error t => some t
  | .ok p, .ok x =>
    let i := x.tag a.p1.toNat
    match op with
    | 5 => (s.mapsBad p n x.size x.tv true).or ((s.spanBad tab (p.mapWord n (i.getD (x.freeTag.getD 0)) 0) 1024).or
        (s.extentBad p.tid (4098 * p.nblk)))
    | 6 => s.mapBad p n (i.getD 0) x.size true
    | _ => s.mapsBad p n x.size (if a.all then x.tv else 2 ^ i.getD 0) false

/-- A trap of an `Except`. -/
def errorOf {α : Type} (x : Except Trap α) : Option Trap :=
  match x with
  | .error t => some t
  | .ok _ => none

/-- The home of session i of a table fails its check, where its entry is valid; an entry that cannot be read fails. -/
def State.liveHomeBad (s : State) (tab i : Nat) : Option Trap :=
  match s.peekSess tab i with
  | .error t => some t
  | .ok x => if x.valid then s.blocksBad (gaSplit x.home).1 (gaSplit x.home).2 x.size else none

/-- Size of a session whose entry is valid, 0 otherwise. -/
def State.liveSize (s : State) (tab i : Nat) : Nat :=
  match s.peekSess tab i with
  | .ok x => if x.valid then x.size else 0
  | .error _ => 0

/-- The range check of R246, whatever RES the entry will decide: session entries, the homes of valid sessions, a new home. The tag maps
are known where the tag conditions hold; of a new home whose size no session gives, the first block is checked (log entry 124,
DESIGN CHOICE). -/
def State.frRange (s : State) (op : Nat) (a : FrArgs) (ok : Bool) : Option Trap :=
  let tab := a.tab.toNat
  let sl := s.frSlot a.slot.toNat
  let own := if sl.st == .empty then none else s.liveHomeBad tab sl.sess.toNat
  let ownSize := if sl.st == .empty then 0 else s.liveSize tab sl.sess.toNat
  let sess := s.liveHomeBad tab a.sess.toNat
  let home (n : Nat) : Option Trap := s.blocksBad (frHome a).1 (frHome a).2 (max 1 n)
  match op with
  | 2 => sess
  | 3 => own
  | 4 => own.or sess
  | 5 | 6 | 8 => if ok then s.tagsBad op a else none
  | 7 => (errorOf (s.peekSess tab a.sess.toNat)).or (home ownSize)
  | 10 => sess.or (home (s.liveSize tab a.sess.toNat))
  | _ => none

/-- The address check of R246. -/
def State.frAddr (s : State) (op : Nat) (a : FrArgs) : Option Trap :=
  let tab := a.tab.toNat
  let sl := s.frSlot a.slot.toNat
  match op with
  | 1 =>
    let e := a.p2.toNat + (a.nm1.toNat + 1) * (a.szm1.toNat + 1) * 4096
    if Config.spadBytes < e then some (gaTrap .translation (max a.p2.toNat Config.spadBytes)) else none
  | 9 =>
    if Config.spadBytes < a.p2.toNat + 16 then some (gaTrap .translation (max a.p2.toNat Config.spadBytes))
    else if sl.st == .empty then none else errorOf (s.peekSess sl.tid.toNat sl.sess.toNat)
  | _ =>
    (errorOf (s.peek tab 0 8)).or ((errorOf (s.peek tab 8 8)).or ((errorOf (s.peek tab 16 8)).or
      (match s.frRes op a with
      | .error t => some t
      | .ok r => s.frRange op a (r == 0))))

/-- The checks of R246 in the order of its table. -/
def State.frCheck (s : State) (op : Nat) (a : FrArgs) : Option Trap :=
  match s.frReason op a with
  | some r => some ⟨.illegalInstruction, BitVec.ofNat 64 r⟩
  | none => (s.frOwn op a).or ((frAlign op a).or (s.frAddr op a))

/-! ### What FR reads and writes once started -/

/-- A cause joins the entry's completion boundary. -/
def State.frPend (s : State) (seq : W32) (t : Option Trap) : State :=
  match t with
  | none => s
  | some t => s.updEntry .fr seq (fun y => { y with pend := y.pend.or (some t) })

/-- n bytes of a tensor read by FR (R252): zeros where they cannot be reached, with the cause at the boundary. -/
def State.frRead (s : State) (seq : W32) (tid off n : Nat) : List Byte × State :=
  match s.spanPlace .frame tid off n with
  | .error t => (List.replicate n 0, s.frPend seq (some t))
  | .ok p => let r := s.readSpan Eng.fr.num seq false true (gaddr tid off) n p; (r.data, r.st.frPend seq r.trap)

/-- Bytes of a tensor written by FR. -/
def State.frWrite (s : State) (seq : W32) (tid off : Nat) (d : List Byte) : State :=
  match s.spanPlace .frame tid off d.length with
  | .error t => s.frPend seq (some t)
  | .ok p => let r := s.writeSpan Eng.fr.num seq false false true (gaddr tid off) d p; r.1.frPend seq r.2

/-- A number of n bytes read. -/
def State.frLoad (s : State) (seq : W32) (tid off n : Nat) : Nat × State := let r := s.frRead seq tid off n; (leNat r.1, r.2)

/-- A number of n bytes written. -/
def State.frStore (s : State) (seq : W32) (tid off n v : Nat) : State := s.frWrite seq tid off (leBytes n v)

/-- Block k of the slot, poisoned rows as zeros, logged (R252). -/
def State.slotRead (s : State) (seq : W32) (slot k : Nat) : List Byte × State :=
  s.readZ Eng.fr.num seq ⟨spadPa s.cur (s.core.fr.slotBase slot + 4096 * k), .spad, true, false, none, 0⟩ 4096

/-- Unit k of destination j has been given up (R252). -/
def State.frLost (s : State) (j k : Nat) : Bool := decide (7 ≤ s.core.fr.count j k)

/-- Block k written into the slot, or poisoned where its unit has been given up (R252). -/
def State.slotWrite (s : State) (seq : W32) (slot k : Nat) (d : List Byte) : State :=
  let o := s.core.fr.slotBase slot + 4096 * k
  if s.frLost 0 k then (s.poisonRange (spadPa s.cur o) 4096).frPend seq (some (gaTrap .copyIntegrity o))
  else s.writeZ Eng.fr.num seq ⟨spadPa s.cur o, .spad, true, false, none, 0⟩ d

/-- A block written to a tensor as unit k, or poisoned where its unit has been given up (R252). -/
def State.blockWrite (s : State) (seq : W32) (k tid off : Nat) (d : List Byte) : State :=
  if s.frLost 1 k then
    let t := match s.spanPlace .frame tid off 4096 with
      | .ok p => s.poisonRuns [(gaddr tid off, 4096, p)]
      | .error _ => s
    t.frPend seq (some (gaTrap .copyIntegrity (gaddr tid off)))
  else s.frWrite seq tid off d

/-- Session i of a table, read by a started entry. -/
def State.frSess (s : State) (seq : W32) (tab i : Nat) : Sess × State :=
  let o := sessOff i
  let r := s.frRead seq tab o 64
  let g (k : Nat) : Nat := leNat ((r.1.drop (8 * k)).take 8)
  (Sess.of (g 0) (g 1) (g 2) [g 4, g 5, g 6, g 7], r.2)

/-- GEN of session i raised (R248, R250). -/
def State.genUp (s : State) (seq : W32) (tab i : Nat) : State :=
  let r := s.frLoad seq tab (sessOff i) 4
  r.2.frStore seq tab (sessOff i) 4 ((r.1 + 1) % 2 ^ 32)

/-- Block k of a home moved into a slot. -/
def State.blockIn (s : State) (seq : W32) (slot home k : Nat) : State :=
  let r := s.frRead seq (gaSplit home).1 ((gaSplit home).2 + 4096 * k) 4096
  r.2.slotWrite seq slot k r.1

/-- Block k of a slot moved to a home. -/
def State.blockOut (s : State) (seq : W32) (slot home k : Nat) : State :=
  let r := s.slotRead seq slot k
  r.2.blockWrite seq k (gaSplit home).1 ((gaSplit home).2 + 4096 * k) r.1

/-- A slot changed. -/
def State.setSlot (s : State) (i : Nat) (f : Slot → Slot) : State := s.upd (fun c => { c with fr := c.fr.updSlot i f })

/-- The home's frames lie in the cold frame store: bit 56 of its tile-table entry (R250, R294). -/
def State.coldHome (s : State) (tid off : Nat) : Bool :=
  let r := s.regime 0
  match s.descriptor r (gaddr tid off) tid with
  | .error _ => false
  | .ok t =>
    match s.walkRead r (gaddr tid off) (t.ttp + 8 * (off / 2 ^ 18)) with
    | .ok e => bit e.toNat 56
    | .error _ => false

/-! ### Pools (R243, R249) -/

/-- The pool of a session table (R242). -/
def State.poolOf (s : State) (seq : W32) (tab : Nat) : Pool × State :=
  let a := s.frLoad seq tab 0 8
  let b := a.2.frLoad seq tab 8 8
  let c := b.2.frLoad seq tab 16 8
  (⟨tab, a.1 % 2 ^ 12, b.1 % 2 ^ 32, c.1⟩, c.2)

/-- The count of pool block k changed. -/
def State.poolCount (s : State) (seq : W32) (p : Pool) (k : Nat) (f : Nat → Nat) : State :=
  let r := s.frLoad seq p.tid (p.countOff k) 2
  r.2.frStore seq p.tid (p.countOff k) 2 (f r.1)

/-- Each nonzero word of a list of map words released. -/
def State.releaseWords (s : State) (seq : W32) (p : Pool) (l : List Nat) : State :=
  l.foldl (fun t k => if k = 0 then t else t.poolCount seq p k (· - 1)) s

/-- n words of a map read. -/
def State.mapWords (s : State) (seq : W32) (p : Pool) (n i size : Nat) : List Nat × State :=
  let r := s.frRead seq p.tab (p.mapWord n i 0) (4 * size)
  ((List.range size).map (fun k => leNat ((r.1.drop (4 * k)).take 4)), r.2)

/-- The lowest free pool block from row j of the counts on, each row of 64 bytes read by itself (R243). -/
def State.freeBlockFrom (s : State) (seq : W32) (p : Pool) (j rows : Nat) : Option Nat × State :=
  match rows with
  | 0 => (none, s)
  | n + 1 =>
    let m := min 32 (p.nblk - 32 * j)
    let r := s.frRead seq p.tid (p.countOff (32 * j)) (2 * m)
    match (List.range m).find? (fun k => 32 * j + k != 0 && leNat ((r.1.drop (2 * k)).take 2) == 0) with
    | some k => (some (32 * j + k), r.2)
    | none => r.2.freeBlockFrom seq p (j + 1) n

/-- The lowest free pool block (R243). -/
def State.freeBlock (s : State) (seq : W32) (p : Pool) : Option Nat × State := s.freeBlockFrom seq p 0 (ceilDiv p.nblk 32)

/-- The pool block of an earlier snapshot of the session that equals block k of the slot (R249). -/
def State.sameBlock (s : State) (seq : W32) (p : Pool) (maps : List (List Nat)) (k : Nat) (d : List Byte) : Option Nat × State :=
  maps.foldl (fun r m =>
    match r.1 with
    | some _ => r
    | none =>
      let b := m.getD k 0
      if b = 0 then r else
      let x := r.2.frRead seq p.tid (4096 * b) 4096
      if x.1 = d then (some b, x.2) else (none, x.2)) (none, s)

/-- The blocks of a snapshot from block k on: the map words so far, and whether the pool held out (R249). -/
def State.snapBlocks (s : State) (seq : W32) (p : Pool) (slot : Nat) (maps : List (List Nat)) (m : List Nat) (n : Nat) :
    List Nat × Bool × State :=
  match n with
  | 0 => (m, true, s)
  | r + 1 =>
    let k := m.length
    let b := s.slotRead seq slot k
    if b.1.all (· == 0) then b.2.snapBlocks seq p slot maps (m ++ [0]) r else
    match b.2.sameBlock seq p maps k b.1 with
    | (some x, t) => (t.poolCount seq p x (· + 1)).snapBlocks seq p slot maps (m ++ [x]) r
    | (none, t) =>
      match t.freeBlock seq p with
      | (none, t) => (m, false, t)
      | (some x, t) =>
        let t := t.poolCount seq p x (fun _ => 1)
        (t.blockWrite seq k p.tid (4096 * x) b.1).snapBlocks seq p slot maps (m ++ [x]) r

/-- FR.SNAP of session n in a slot under tag value v (R249): the state and the RES. -/
def State.snap (s : State) (seq : W32) (tab slot n v : Nat) : State × Nat :=
  let a := s.poolOf seq tab
  let p := a.1
  let b := a.2.frSess seq tab n
  let x := b.1
  let maps := (List.range 4).foldl (fun (r : List (List Nat) × State) j =>
    if bit x.tv j then (r.1 ++ [(r.2.mapWords seq p n j x.size).1], (r.2.mapWords seq p n j x.size).2) else r) ([], b.2)
  let i0 := (x.tag v).getD (x.freeTag.getD 0)
  match maps.2.snapBlocks seq p slot maps.1 [] x.size with
  | (m, false, t) => (t.releaseWords seq p m, 6)
  | (m, true, t) =>
    let t := if bit x.tv i0 then
      let o := t.mapWords seq p n i0 x.size
      o.2.releaseWords seq p o.1 else t
    let words := m ++ List.replicate (256 - m.length) 0
    let t := t.frWrite seq tab (p.mapWord n i0 0) ((words.map (leBytes 4)).flatten)
    let t := t.frStore seq tab (sessOff n + 32 + 8 * i0) 8 v
    (t.frStore seq tab (sessOff n + 16) 8 (x.tv ||| 2 ^ i0), 0)

/-- FR.ROLL of session n to tag i (R250). -/
def State.roll (s : State) (seq : W32) (tab slot n i : Nat) : State :=
  let a := s.poolOf seq tab
  let x := a.2.frSess seq tab n
  let m := x.2.mapWords seq a.1 n i x.1.size
  let t := (m.1.zipIdx).foldl (fun t w =>
    if w.1 = 0 then t.slotWrite seq slot w.2 (List.replicate 4096 0)
    else let r := t.frRead seq a.1.tid (4096 * w.1) 4096; r.2.slotWrite seq slot w.2 r.1) m.2
  t.genUp seq tab n

/-- The maps of tags released and their TV bits cleared (R250). -/
def State.dropTags (s : State) (seq : W32) (tab n mask : Nat) : State :=
  let a := s.poolOf seq tab
  let x := a.2.frSess seq tab n
  let t := (List.range 4).foldl (fun t i =>
    if bit mask i && bit x.1.tv i then let m := t.mapWords seq a.1 n i x.1.size; m.2.releaseWords seq a.1 m.1 else t) x.2
  t.frStore seq tab (sessOff n + 16) 8 ((List.range 4).foldl (fun v i => if bit x.1.tv i && !bit mask i then v + 2 ^ i else v) 0)

/-! ### The instructions -/

/-- Blocks 0 to n − 1 moved in order. -/
def State.eachBlock (s : State) (n : Nat) (f : State → Nat → State) : State := (List.range n).foldl f s

/-- The effect of a transfer instruction of FR at its completion (R248–R250): the state and the RES; `op` is its opcode. -/
def State.frDo (s : State) (seq : W32) (op : Nat) (a : FrArgs) : State × Nat :=
  let slot := a.slot.toNat
  let tab := a.tab.toNat
  let sess := a.sess.toNat
  let own := (s.frSlot slot).sess.toNat
  match op with
  | 2 =>
    let x := s.frSess seq tab sess
    ((x.2.eachBlock x.1.size (fun t k => t.blockIn seq slot x.1.home k)).setSlot slot
      (fun y => { y with st := .resident, sess := a.sess, tid := a.tab }), 0)
  | 3 =>
    let x := s.frSess seq tab own
    let t := (x.2.eachBlock x.1.size (fun t k => t.blockOut seq slot x.1.home k)).genUp seq tab own
    (t.setSlot slot (fun y => if a.keep then { y with st := .resident } else { y with st := .empty, sess := 0, tid := 0 }), 0)
  | 4 =>
    let x := s.frSess seq tab own
    let z := x.2.frSess seq tab sess
    let t := z.2.eachBlock (max x.1.size z.1.size) (fun t k =>
      let t := if k < x.1.size then t.blockOut seq slot x.1.home k else t
      if k < z.1.size then t.blockIn seq slot z.1.home k else t)
    ((t.genUp seq tab own).setSlot slot (fun y => { y with st := .resident, sess := a.sess, tid := a.tab }), 0)
  | 5 => s.snap seq tab slot own a.p1.toNat
  | 6 =>
    let x := s.frSess seq tab own
    ((x.2.roll seq tab slot own ((x.1.tag a.p1.toNat).getD 0)).setSlot slot (fun y => { y with st := .resident }), 0)
  | 7 =>
    let x := s.frSess seq tab own
    let h := frHome a
    let t := x.2.eachBlock x.1.size (fun t k => t.blockOut seq slot (gaddr h.1 h.2) k)
    let d0 := 2 ^ 63 + b2n (t.coldHome h.1 h.2) * 2 ^ 62 + x.1.size * 2 ^ 32
    let o := sessOff sess
    let t := (t.frStore seq tab o 8 d0).frStore seq tab (o + 8) 8 (gaddr h.1 h.2)
    let t := t.frStore seq tab (o + 16) 8 0
    ((List.range 4).foldl (fun t i => t.frStore seq tab (o + 32 + 8 * i) 8 0) t, 0)
  | 8 =>
    if a.all then
      let t := s.dropTags seq tab own 15
      let r := t.frLoad seq tab (sessOff own) 8
      ((r.2.frStore seq tab (sessOff own) 8 (r.1 % 2 ^ 63)).setSlot slot
        (fun y => { y with st := .empty, sess := 0, tid := 0 }), 0)
    else
      let x := s.frSess seq tab own
      (x.2.dropTags seq tab own (2 ^ (x.1.tag a.p1.toNat).getD 0), 0)
  | 10 =>
    let x := s.frSess seq tab sess
    let h := frHome a
    let t := x.2.eachBlock x.1.size (fun t k =>
      let r := t.frRead seq (gaSplit x.1.home).1 ((gaSplit x.1.home).2 + 4096 * k) 4096
      r.2.blockWrite seq k h.1 (h.2 + 4096 * k) r.1)
    let o := sessOff sess
    let r := t.frLoad seq tab o 8
    let t := r.2.frStore seq tab o 8 (putBits r.1 62 1 (b2n (t.coldHome h.1 h.2)))
    (t.frStore seq tab (o + 8) 8 (gaddr h.1 h.2), 0)
  | _ => (s, 0)

/-- Bytes of the slot that an opcode writes (R248, R250). -/
def State.slotBytes (s : State) (op : Nat) (a : FrArgs) : Nat :=
  match op with
  | 2 | 4 => s.sizeOf a.tab.toNat a.sess.toNat * 4096
  | 6 => s.sizeOf a.tab.toNat (s.frSlot a.slot.toNat).sess.toNat * 4096
  | _ => 0

/-- The slot state while an opcode's transfer runs (R248, R250). -/
def busyState (op : Nat) (x : SlotSt) : SlotSt :=
  match op with
  | 2 | 6 => .loading
  | 3 => .writing
  | 4 => .swapping
  | _ => x

/-- Owner mark of FR's scoreboard entry of a slot (R25). -/
def frOwner (slot : Nat) : Nat := 256 + slot

/-- The transfer of a started FR entry begins (R248): the slot's state, the scoreboard entry. -/
def State.frBegin (s : State) (x : Entry) (op : Nat) (a : FrArgs) : State :=
  let slot := a.slot.toNat
  let n := s.slotBytes op a
  let s := if n = 0 then s else
    match sbFree s.core 0 with
    | some i => s.sbAlloc s.cur i ⟨s.core.fr.slotBase slot, n, frOwner slot⟩
    | none => s
  let s := { s with core := { s.core with fr := { s.core.fr with xid := some s.nextXfer, fails := [] } },
                    nextXfer := s.nextXfer + 1 }
  (s.setSlot slot (fun y => { y with st := busyState op y.st })).updEntry .fr x.seq (fun y => { y with prog := 1 })

/-- The opcode waits for the pin (R245). -/
def frWaitsPin (op : Nat) : Bool := 3 ≤ op && op ≤ 8

/-- R27 withholds a scoreboard entry from the opcode's slot write. -/
def State.frHeld (s : State) (op : Nat) (a : FrArgs) : Bool := s.slotBytes op a != 0 && (sbFree s.core 0).isNone

/-- A started entry ends at once with a RES. -/
def State.frEnd (s : State) (x : Entry) (a : FrArgs) (res : Nat) : State :=
  (s.setSlot a.slot.toNat (fun y => { y with res := res })).finish .fr x.seq none

/-- A moving instruction of FR starts (R246, R248–R250); none while its predecessor runs or R27 withholds an entry. -/
def State.startFrame (s : State) (op : Nat) (a : FrArgs) (x : Entry) : Option State :=
  if !s.isHead .fr x then none else
  match s.frCheck op a with
  | some t => some (s.refuse .fr x t)
  | none =>
    match s.frRes op a with
    | .error t => some (s.refuse .fr x t)
    | .ok (r + 1) => some ((s.start .fr x .started).frEnd x a (r + 1))
    | .ok 0 =>
      let pins := (s.frSlot a.slot.toNat).pins
      if frWaitsPin op && pins != 0 then
        some (if a.nowait then (s.start .fr x .started).frEnd x a 1 else s.start .fr x .started)
      else if s.frHeld op a then none
      else some ((s.start .fr x .started).frBegin x op a)

/-- FR.SLOTS starts and completes (R247). -/
def State.startSlots (s : State) (a : FrArgs) (x : Entry) : Option State :=
  if !s.isHead .fr x then none else
  match s.frCheck 1 a with
  | some t => some (s.refuse .fr x t)
  | none =>
    let fr : Fr := ⟨Vector.replicate 32 .empty, a.p2.toNat, a.nm1.toNat + 1, a.szm1.toNat + 1, none, []⟩
    some ((s.startDone .fr x none).upd (fun c => { c with fr := fr }))

/-- FR.STAT starts and completes (R251). -/
def State.startStat (s : State) (a : FrArgs) (x : Entry) : Option State :=
  if !s.isHead .fr x then none else
  match s.frCheck 9 a with
  | some t => some (s.refuse .fr x t)
  | none =>
    if s.core.mxKeeps a.p2.toNat 16 then none else
    let sl := s.frSlot a.slot.toNat
    let s1 := s.startDone .fr x none
    let r : (Nat × Nat) × State := if sl.st == .empty then ((0, 0), s1)
      else let y := s1.frSess x.seq sl.tid.toNat sl.sess.toNat; ((y.1.gen, y.1.tv), y.2)
    let w0 := s.core.fr.size * 2 ^ 16 + sl.pins * 2 ^ 8 + sl.res * 16 + sl.st.code
    let w1 := if sl.st == .empty then 0 else sl.sess.toNat
    let d := leBytes 4 w0 ++ leBytes 4 w1 ++ leBytes 4 r.1.1 ++ leBytes 4 r.1.2
    some (r.2.writeZ Eng.fr.num x.seq ⟨spadPa s.cur a.p2.toNat, .spad, true, false, none, 0⟩ d)

/-- FR_SLOTS (R247). -/
def execFrSlots (a : FrArgs) (s : State) : Out := .next (s.starting .fr (fun s x => s.startSlots a x))

/-- FR_IN (R248). -/
def execFrIn (a : FrArgs) (s : State) : Out := .next (s.starting .fr (fun s x => s.startFrame 2 a x))

/-- FR_OUT (R248). -/
def execFrOut (a : FrArgs) (s : State) : Out := .next (s.starting .fr (fun s x => s.startFrame 3 a x))

/-- FR_SWAP (R248). -/
def execFrSwap (a : FrArgs) (s : State) : Out := .next (s.starting .fr (fun s x => s.startFrame 4 a x))

/-- FR_SNAP (R249). -/
def execFrSnap (a : FrArgs) (s : State) : Out := .next (s.starting .fr (fun s x => s.startFrame 5 a x))

/-- FR_ROLL (R250). -/
def execFrRoll (a : FrArgs) (s : State) : Out := .next (s.starting .fr (fun s x => s.startFrame 6 a x))

/-- FR_FORK (R250). -/
def execFrFork (a : FrArgs) (s : State) : Out := .next (s.starting .fr (fun s x => s.startFrame 7 a x))

/-- FR_DROP (R250), ALL = 0. -/
def execFrDrop (a : FrArgs) (s : State) : Out := .next (s.starting .fr (fun s x => s.startFrame 8 a x))

/-- FR_DROP_ALL (R250), ALL = 1. -/
def execFrDropAll (a : FrArgs) (s : State) : Out := .next (s.starting .fr (fun s x => s.startFrame 8 a x))

/-- FR_STAT (R251). -/
def execFrStat (a : FrArgs) (s : State) : Out := .next (s.starting .fr (fun s x => s.startStat a x))

/-- FR_COLD (R250). -/
def execFrCold (a : FrArgs) (s : State) : Out := .next (s.starting .fr (fun s x => s.startFrame 10 a x))

/-- The started entry of FR, where the core is not frozen: a started FR entry runs on at a stop (R40, R246). -/
def State.frStarted (s : State) : Option Entry := if s.frozen then none else s.entryIn .fr .started

/-- FR_PIN_RELEASE_PROCEED (R246). -/
def execFrPinReleaseProceed (s : State) : Out :=
  .next (match s.frStarted with
    | some x =>
      let a := FrArgs.ofImage x.img
      if x.prog = 0 && (s.frSlot a.slot.toNat).pins = 0 && !s.frHeld x.img.opc a then s.frBegin x x.img.opc a else s
    | none => s)

/-- Bytes of the slot that an opcode reads: FR.OUT, FR.SWAP, FR.SNAP and FR.FORK read the frame of its session (R248–R250). -/
def State.frSrcBytes (s : State) (op : Nat) (a : FrArgs) : Nat :=
  match op with
  | 3 | 4 | 5 | 7 => s.sizeOf a.tab.toNat (s.frSlot a.slot.toNat).sess.toNat * 4096
  | _ => 0

/-- The slot's bytes that an entry reads are held by another transfer's scoreboard entry (R26, R248). -/
def State.frSrcHeld (s : State) (op : Nat) (a : FrArgs) : Bool :=
  let slot := a.slot.toNat
  let n := s.frSrcBytes op a
  n != 0 && s.core.sb.toList.any (fun e => match e with
    | some x => x.owner != frOwner slot && overlaps (s.core.fr.slotBase slot) n x.start x.len
    | none => false)

/-- The scoreboard entry of a slot retires. -/
def State.frRetire (s : State) (slot : Nat) : State :=
  s.upd (fun c => { c with sb := c.sb.map (fun e => match e with
    | some x => if x.owner = frOwner slot then none else e
    | none => none) })

/-- The transfer of the started entry completes (R248–R250, R252). -/
def State.frFinish (s : State) (x : Entry) : State :=
  let a := FrArgs.ofImage x.img
  let slot := a.slot.toNat
  let r := s.frDo x.seq x.img.opc a
  let t := (r.1.setSlot slot (fun y => { y with res := r.2 })).frRetire slot
  (t.upd (fun c => { c with fr := { c.fr with xid := none, fails := [] } })).finish .fr x.seq none

/-- FR_TRANSFER_COMPLETE (R248). -/
def execFrTransferComplete (s : State) : Out :=
  .next (match s.frStarted with
    | some x =>
      let a := FrArgs.ofImage x.img
      if x.prog = 0 || s.core.fr.fails.any (fun u => s.core.fr.count u.1 u.2 % 2 == 1 && decide (s.core.fr.count u.1 u.2 < 7)) then s
      else if s.frSrcHeld x.img.opc a then s.rsbStall
      else if s.core.mxKeeps (s.core.fr.slotBase a.slot.toNat) (s.slotBytes x.img.opc a) then s
      else s.scrubGuard (s.frFinish x)
    | none => s)

/-! ### Units that fail (R252, R256) -/

/-- n bytes of a tensor lie in the HBM of the own sector, or cannot be reached. -/
def State.nearTensor (s : State) (tid off n : Nat) : Bool :=
  match s.spanPlace .frame tid off n with
  | .ok p => s.nearBy [(gaddr tid off, n, p)]
  | .error _ => true

/-- Block k of the home of session i lies in the own sector. -/
def State.nearHome (s : State) (tab i k : Nat) : Bool :=
  match s.peekSess tab i with
  | .ok x => s.nearTensor (gaSplit x.home).1 ((gaSplit x.home).2 + 4096 * k) 4096
  | .error _ => true

/-- Pool block w lies in the own sector; no block at all does. -/
def State.nearPool (s : State) (tab w : Nat) : Bool :=
  match s.peekPool tab with
  | .ok p => w == 0 || s.nearTensor p.tid (4096 * w) 4096
  | .error _ => true

/-- Word k of the map of tag value v of a session, as FR's checks see it. -/
def State.tagWord (s : State) (tab i v k : Nat) : Nat :=
  match s.peekPool tab, s.peekSess tab i with
  | .ok p, .ok x => s.peekWord p.tab (p.mapWord i ((x.tag v).getD 0) k)
  | _, _ => 0

/-- Unit k of destination j of the FR transfer that runs crosses a sector link (R252, R291): destination 0 is the slot, 1 the home or pool.
The block that an FR.SNAP takes is chosen as it runs; any that the pool holds outside the own sector may be it. -/
def State.frCrosses (s : State) (j k : Nat) : Bool :=
  match s.entryIn .fr .started with
  | none => false
  | some x =>
    let a := FrArgs.ofImage x.img
    let tab := a.tab.toNat
    let own := (s.frSlot a.slot.toNat).sess.toNat
    let home : Bool := s.nearTensor (frHome a).1 ((frHome a).2 + 4096 * k) 4096
    !(match x.img.opc, j with
      | 2, 0 | 4, 0 => s.nearHome tab a.sess.toNat k
      | 6, 0 => s.nearPool tab (s.tagWord tab own a.p1.toNat k)
      | 3, 1 | 4, 1 => s.nearHome tab own k
      | 5, 1 => (match s.peekPool tab with
        | .ok p => (List.range p.nblk).all (s.nearPool tab)
        | .error _ => true)
      | 7, 1 => home
      | 10, 1 => home && s.nearHome tab a.sess.toNat k
      | _, _ => true)

/-- UNIT_VERIFY (R256, R252). -/
def execUnitVerify (xid recv unit : Nat) (ok : Bool) (s : State) : Out :=
  .next (match s.xferAt xid with
    | some (p, x) =>
      s.scrubGuard (s.withCore p (fun s => match x.recvs.toArray[recv]? with
        | some r => s.verifyUnit x recv unit r ok
        | none => s))
    | none =>
      match s.frCore xid with
      | some p => s.withCore p (fun s =>
          if ok || s.core.fr.count recv unit % 2 = 1 || 7 ≤ s.core.fr.count recv unit || !s.frCrosses recv unit then s
          else s.upd (fun c => { c with fr := c.fr.noteFail recv unit }))
      | none => s)

/-- UNIT_RESEND (R256, R252): a failed unit is under way again. -/
def execUnitResend (xid recv unit : Nat) (s : State) : Out :=
  .next (match s.xferAt xid with
    | some (p, x) =>
      s.withCore p (fun s => match x.recvs.toArray[recv]? with
        | some r =>
          if s.issues x && !r.dead && r.wantsResend unit then
            s.setRecv x recv (fun r => { r with fails := unit :: r.fails })
          else s
        | none => s)
    | none =>
      match s.frCore xid with
      | some p => s.updAt p (fun c =>
          if c.fr.count recv unit % 2 = 1 && c.fr.count recv unit < 7 then { c with fr := c.fr.noteFail recv unit } else c)
      | none => s)

end Sys2Proof.Machine
end

