-- ==== Sys2Proof/Machine/Scan.lean ====
section
/-!
DEFINITION. The scan engine SX (R102, R103, R230–R241): configuration, carries, the scans cycle by cycle, the fade counters.
-/

namespace Sys2Proof.Machine

/-! ### Step operators (R102, R237) -/

/-- A step operator (A, b, r) of R102, its components in the order of memory. -/
structure StepOp where
  a : List Num
  b : List Num
  r : Bool

/-- The exact product of a step's A with a state, by mode: DIAG and SCAL real, CDIAG complex, BLK2 a 2 × 2 matrix (R237). -/
def scanMul (mode : Nat) (a h : List Num) : List Num :=
  match mode, a, h with
  | 1, [ar, ai], [hr, hi] => [(ar.mul hr).sub false (ai.mul hi), (ar.mul hi).add false (ai.mul hr)]
  | 3, [p, q, u, v], [x, y] => [(p.mul x).add false (q.mul y), (u.mul x).add false (v.mul y)]
  | _, [p], [x] => [p.mul x]
  | _, _, h => h

/-- The exact product of two steps' A, the first argument applied last. -/
def scanMat (mode : Nat) (a b : List Num) : List Num :=
  match mode, a, b with
  | 3, [p, q, u, v], [e, f, g, h] =>
    [(p.mul e).add false (q.mul g), (p.mul f).add false (q.mul h), (u.mul e).add false (v.mul g), (u.mul f).add false (v.mul h)]
  | _, a, b => scanMul mode a b

/-- Exact sum by component. -/
def addL (x y : List Num) : List Num := (x.zip y).map (fun p => p.1.add false p.2)

/-- rn by component. -/
def rnL (x : List Num) : List Num := x.map rn32

/-- `comb` of R102 on operators; none is the identity. -/
def comb (mode : Nat) (p q : Option StepOp) : Option StepOp :=
  match p, q with
  | p, none => p
  | none, some q => some q
  | some p, some q =>
    if q.r then some q else some ⟨rnL (scanMat mode q.a p.a), rnL (addL (scanMul mode q.a p.b) q.b), p.r⟩

/-- `app` of R102. -/
def appOp (mode : Nat) (p : StepOp) (h : List Num) : List Num :=
  if p.r then p.b else rnL (addL (scanMul mode p.a h) p.b)

/-- `fade` by component, with the number of components that fade (R92). -/
def fadeL (f : Nat) (h : List Num) : List Num × Nat :=
  (h.map (fun x => (fade x f).1), (h.filter (fun x => (fade x f).2)).length)

/-- One pass of the tree of R102: position i takes comb of i − d and i where `hit` holds. -/
def treePass (mode d : Nat) (hit : Nat → Bool) (l : List (Option StepOp)) : List (Option StepOp) :=
  l.zipIdx.map (fun x => if hit x.2 then comb mode (l.getD (x.2 - d) none) x.1 else x.1)

/-- The up-sweep of R102 for d from `d` on. -/
def upSweep (mode n fuel d : Nat) (l : List (Option StepOp)) : List (Option StepOp) :=
  match fuel with
  | 0 => l
  | k + 1 => if n ≤ d then l else upSweep mode n k (2 * d) (treePass mode d (fun i => (i + 1) % (2 * d) == 0) l)

/-- The down-sweep of R102 for d from `d` down to 1. -/
def downSweep (mode fuel d : Nat) (l : List (Option StepOp)) : List (Option StepOp) :=
  match fuel with
  | 0 => l
  | k + 1 =>
    if d = 0 then l
    else downSweep mode k (d / 2) (treePass mode d (fun i => (i + 1) % (2 * d) == d && decide (2 * d ≤ i)) l)

/-- The block prefixes T of R102 for the operators of a chunk. -/
def blockPrefixes (mode : Nat) (ops : List StepOp) : List (Option StepOp) :=
  let b := ceilDiv ops.length 8
  let n := pow2Above b
  let total (j : Nat) : Option StepOp := ((ops.drop (8 * j)).take 8).foldl (fun p q => comb mode p (some q)) none
  let l := (List.range n).map (fun j => if j < b then total j else none)
  downSweep mode 6 (n / 4) (upSweep mode n 6 1 l)

/-- The carry-in of block j before it is faded (R102). -/
def blockIn (mode : Nat) (ops : List StepOp) (hin : List Num) (j : Nat) : List Num :=
  match (blockPrefixes mode ops).getD (j - 1) none with
  | some p => appOp mode p hin
  | none => hin

/-- h[t] under SCAN32 (R102), with the fade counts that step t adds: those of its value, and of its block's carry-in at the
block's first step. -/
def scan32 (mode f : Nat) (ops : List StepOp) (hin : List Num) (t : Nat) : List Num × Nat :=
  let j := t / 8
  let c0 := if j = 0 then (hin, 0) else fadeL f (blockIn mode ops hin j)
  let run := ((ops.drop (8 * j)).take (t % 8 + 1)).foldl (fun (c : List Num × Nat) p => fadeL f (appOp mode p c.1)) (c0.1, 0)
  (run.1, run.2 + (if t % 8 = 0 then c0.2 else 0))

/-- A state of SCANC by component: (hi, lo). -/
abbrev HiLo := List (Num × Num)

/-- One step of SCANC (R103): the pair, and the fade counts. -/
def stepC (mode f : Nat) (p : StepOp) (c : HiLo) : HiLo × Nat :=
  let v : HiLo := if p.r then p.b.map (fun x => (x, .zero false))
    else (addL (scanMul mode p.a (c.map (fun x => x.1.add false x.2))) p.b).map (fun x =>
      let hi := rn32 x
      (hi, if hi.isNan || hi.isInf then .zero false else rn32 (x.sub false hi)))
  (v.map (fun x => let y := fade x.1 f; (y.1, if y.2 then .zero false else x.2)),
   (v.filter (fun x => (fade x.1 f).2)).length)

/-- h[t] under SCANC (R103), with the fade counts as in `scan32`. -/
def scanC (mode f : Nat) (ops : List StepOp) (hin : List Num) (t : Nat) : List Num × Nat :=
  let j := t / 8
  let c0 := if j = 0 then (hin, 0) else fadeL f (blockIn mode ops hin j)
  let run := ((ops.drop (8 * j)).take (t % 8 + 1)).foldl (fun (c : HiLo × Nat) p => stepC mode f p c.1)
    (c0.1.map (fun x => (x, .zero false)), 0)
  (run.1.map (fun x => rn32 (x.1.add false x.2)), run.2 + (if t % 8 = 0 then c0.2 else 0))

/-- h after a list of operators under a bracketing that free picks from number k on choose (R95), each state value faded. The spec
does not say whether fades of a chosen bracketing's intermediate states count: here only those of h[t] do (log entry 104, DESIGN
CHOICE). -/
def scanFast (mode f k fuel : Nat) (h : List Num × Nat) (ops : List StepOp) : List Num × Nat :=
  match fuel, ops with
  | _, [] => h
  | 0, _ => h
  | n + 1, p :: r =>
    let i := Config.fastPick k % (r.length + 1)
    match i with
    | 0 => scanFast mode f (k + 1) n (fadeL f (appOp mode p h.1)) r
    | j + 1 =>
      let l := p :: r
      match comb mode l[j]? l[j + 1]? with
      | some c => scanFast mode f (k + 1) n h (l.take j ++ c :: l.drop (j + 2))
      | none => h

/-- h[t] of a chunk under a profile (R95, R102, R103); `k` is the first free pick of FAST. -/
def scanAt (prof mode f k : Nat) (ops : List StepOp) (hin : List Num) (t : Nat) : List Num × Nat :=
  match prof with
  | 0xA => scanC mode f ops hin t
  | 0 => scanFast mode f k (2 * t + 2) (hin, 0) (ops.take (t + 1))
  | _ => scan32 mode f ops hin t

/-! ### Contraction (R102, R103, R237) -/

/-- SEQ32 from −0 (R97, R102). -/
def seq32 (l : List Num) : Num := l.foldl (fun a p => rn32 (a.add false p)) (.zero true)

/-- COMP32 from (−0, +0), read once (R93, R97, R103). -/
def comp32 (l : List Num) : Num :=
  let c := l.foldl (fun (c : Num × Num) p => csum c.1 c.2 p) (.zero true, .zero false)
  rn32 (c.1.add false c.2)

/-- A sum of exact terms under a scan profile. -/
def contrSum (prof k : Nat) (l : List Num) : Num :=
  match prof with
  | 0xA => comp32 l
  | 0 => rn32 (fastSum k l.length (.zero true :: l))
  | _ => seq32 l

/-- y of a group from its c and h elements (R237): complex under CDIAG, c0·h0 then c1·h1 under BLK2. -/
def contract (prof mode k : Nat) (cs hs : List (List Num)) : List Num :=
  let ps := cs.zip hs
  match mode with
  | 1 =>
    let t := ps.map (fun p => scanMul 1 p.1 p.2)
    [contrSum prof k (t.map (fun x => x.getD 0 .nan)), contrSum prof (k + 256) (t.map (fun x => x.getD 1 .nan))]
  | _ => [contrSum prof k ((ps.map (fun p => (p.1.zip p.2).map (fun q => q.1.mul q.2))).flatten)]

/-! ### Geometry (R231, R235) -/

/-- The geometry of a scan. -/
structure Geo where
  mode : Nat
  l : Nat
  nb : Nat
  nv : Nat
  g : Nat
  mbase : Option Nat

/-- The geometry of the configuration word (R231). -/
def geoOf (cfg : W64) : Geo :=
  let c := cfg.toNat
  ⟨bits c 0 2, bits c 3 8 + 1, bits c 11 5 + 1, bits c 16 12 + 1, bits c 28 6 + 1,
   if bit c 51 then some (bits c 34 17 * 32) else none⟩

/-- Sizes of the x, h and carry element, of the A element, of the c and of the y element; elements per cycle (R235). -/
def Geo.ex (z : Geo) : Nat := if z.mode = 1 || z.mode = 3 then 8 else 4
def Geo.ea (z : Geo) : Nat := if z.mode = 1 then 8 else if z.mode = 3 then 16 else 4
def Geo.ec (z : Geo) : Nat := z.ex
def Geo.ey (z : Geo) : Nat := if z.mode = 1 then 8 else 4
def Geo.p (z : Geo) : Nat := if z.mode = 1 then 64 else if z.mode = 3 then 32 else 128
def Geo.ng (z : Geo) : Nat := ceilDiv z.nv z.p
def Geo.w (z : Geo) : Nat := z.ng * z.l

/-- Bytes of the A operand. -/
def Geo.aBytes (z : Geo) : Nat := if z.mode = 2 then z.nb * z.l * 4 else z.nb * z.l * z.nv * z.ea

/-- Offset of A(b, t, n) from ABASE (R235). -/
def Geo.aOff (z : Geo) (b t n : Nat) : Nat := if z.mode = 2 then (b * z.l + t) * 4 else ((b * z.l + t) * z.nv + n) * z.ea

/-! ### The carry descriptor (R234) -/

def carryMask (d : W64) : Nat := bits d.toNat 32 32
def carryOff (d : W64) : Nat := bits d.toNat 2 30 * 4
def carryOut (d : W64) : Bool := bit d.toNat 1
def carryIn (d : W64) : Bool := bit d.toNat 0

/-- The slots of a descriptor, row by row. -/
def carrySlots (d : W64) : List Nat := (List.range 32).filter (bit (carryMask d))

/-! ### Short entries (R232–R234, R241) -/

/-- SX may start an entry (R238): every earlier entry has completed, but for a waiting SX.CARRY. -/
def State.sxFree (s : State) (x : Entry) : Bool :=
  ((s.eng .sx).q.takeWhile (fun y => y.seq != x.seq)).all (fun y =>
    y.phase == .done || (y.phase == .started && y.img.opc == 4))

/-- SX.CFG starts and completes (R232). -/
def State.startSxCfg (s : State) (a : SxCfgArgs) (x : Entry) : Option State :=
  if !s.sxFree x then none else
  let w (c : Nat) : Nat := putBits (putBits (putBits (putBits (putBits c 0 2 a.mode.toNat) 3 8 a.lm1.toNat) 11 5 a.nbm1.toNat)
    16 12 a.nvm1.toNat) 28 6 a.gm1.toNat
  some ((s.startDone .sx x none).upd (fun c => { c with sx := { c.sx with cfg := BitVec.ofNat 64 (w c.sx.cfg.toNat) } }))

/-- SX.RESET starts and completes (R233). -/
def State.startSxReset (s : State) (a : SxResetArgs) (x : Entry) : Option State :=
  if !s.sxFree x then none else
  if a.moff.toNat % 32 ≠ 0 && a.en then some (s.refuse .sx x (gaTrap .align a.moff.toNat)) else
  let w (c : Nat) : Nat := if a.en then putBits (putBits c 51 1 1) 34 17 (a.moff.toNat / 32) else putBits c 51 1 0
  some ((s.startDone .sx x none).upd (fun c => { c with sx := { c.sx with cfg := BitVec.ofNat 64 (w c.sx.cfg.toNat) } }))

/-- A descriptor word (R234). -/
def carryWord (a : SxCarryArgs) : W64 :=
  BitVec.ofNat 64 (a.slots.toNat * 2 ^ 32 + a.coff.toNat / 4 * 4 + b2n a.cout * 2 + b2n a.cin)

/-- SX.CARRY starts (R234): an earlier one that waits for its scan completes, its descriptor discarded. -/
def State.startSxCarry (s : State) (a : SxCarryArgs) (x : Entry) : Option State :=
  if !s.sxFree x then none else
  if a.coff.toNat % 4 ≠ 0 then some (s.refuse .sx x (gaTrap .align a.coff.toNat)) else
  let s := match s.entryIn .sx .started with
    | some y => s.completeNow .sx y
    | none => s
  some ((s.start .sx x .started).upd (fun c => { c with sx := { c.sx with staged := carryWord a } }))

/-- SX.FADEQ starts and has its effects (R241); the scoreboard holds its write (R26). -/
def State.startSxFadeq (s : State) (a : SxFadeqArgs) (x : Entry) : Option State :=
  if !s.sxFree x then none else
  let o := a.off.toNat
  if o % 2 ≠ 0 then some (s.refuse .sx x (gaTrap .align o))
  else if Config.spadBytes < o + 128 then some (s.refuse .sx x (gaTrap .translation (max o Config.spadBytes)))
  else if s.sbHit o 128 then some s.rsbStall
  else
    let d := ((List.range 64).map (fun i => leBytes 2 (s.core.sx.fade.toList.getD i 0).toNat)).flatten
    let s1 := (s.startDone .sx x none).writeZ Eng.sx.num x.seq ⟨spadPa s.cur o, .spad, true, false, none, 0⟩ d
    some (if a.clr then s1.upd (fun c => { c with sx := { c.sx with fade := Vector.replicate 64 0 } }) else s1)

/-- SX_CFG (R232). -/
def execSxCfg (a : SxCfgArgs) (s : State) : Out := .next (s.starting .sx (fun s x => s.startSxCfg a x))

/-- SX_RESET (R233). -/
def execSxReset (a : SxResetArgs) (s : State) : Out := .next (s.starting .sx (fun s x => s.startSxReset a x))

/-- SX_CARRY (R234). -/
def execSxCarry (a : SxCarryArgs) (s : State) : Out := .next (s.starting .sx (fun s x => s.startSxCarry a x))

/-- SX_FADEQ (R241). -/
def execSxFadeq (a : SxFadeqArgs) (s : State) : Out := .next (s.starting .sx (fun s x => s.startSxFadeq a x))

/-! ### Scans: the start (R237, R238) -/

/-- The operands of a scan: the geometry, the bases, the profile, F, the descriptor, and what is stored. -/
structure ScanSet where
  z : Geo
  x : Nat
  a : Nat
  h : Option Nat
  c : Option (Nat × Nat)
  prof : Nat
  f : Nat
  pois : Bool
  slots : List Nat
  d : W64

/-- The operands of SX.SCAN (`contr` false) and SX.CONTR (true) under a descriptor (R236). -/
def State.scanSet (s : State) (contr : Bool) (a : SxScanArgs) (d : W64) : ScanSet :=
  let r := s.core.fr
  { z := geoOf s.core.sx.cfg, x := a.x.toNat, a := a.a.toNat,
    h := if contr || a.noh then none else some a.p2.toNat,
    c := if contr then some (a.p2.toNat, a.p3.toNat) else none,
    prof := a.long.prof.toNat, f := a.long.fade.toNat, pois := a.pois,
    slots := (carrySlots d).map (fun i => r.slotBase i + carryOff d), d := d }

/-- The scratchpad ranges of a scan's operands and results (R235, R238). -/
def ScanSet.ranges (q : ScanSet) : List (Nat × Nat) :=
  let z := q.z
  [(q.x, z.nb * z.l * z.nv * z.ex), (q.a, z.aBytes)] ++
  (match q.h with
  | some h => [(h, z.nb * z.l * z.nv * z.ex)]
  | none => []) ++
  (match q.c with
  | some (c, y) => [(c, z.nb * z.l * z.g * z.ec), (y, z.nb * z.l * (z.nv / z.g) * z.ey)]
  | none => []) ++
  (match z.mbase with
  | some m => [(m, 32 * (z.nb - 1) + (z.l - 1) / 8 + 1)]
  | none => []) ++
  q.slots.map (fun o => (o, z.nv * z.ex))

/-- The scratchpad bytes that a scan reads and writes (R26, R235): of the mask those of each row, of a slot the carry where it is
read or written. -/
def ScanSet.touched (q : ScanSet) : List (Nat × Nat) :=
  let z := q.z
  let plain := { q with z := { z with mbase := none }, slots := [] }
  plain.ranges ++
  (match z.mbase with
  | some m => (List.range z.nb).map (fun b => (m + 32 * b, (z.l - 1) / 8 + 1))
  | none => []) ++
  (if carryIn q.d || carryOut q.d then q.slots.map (fun o => (o, z.nv * z.ex)) else [])

/-- The base addresses of a scan's image, in the order of its pairs. -/
def ScanSet.bases (q : ScanSet) : List Nat :=
  [q.x, q.a] ++ (match q.h with
  | some h => [h]
  | none => []) ++ (match q.c with
  | some (c, y) => [c, y]
  | none => [])

/-- The checks of R238, in order. -/
def State.scanCheck (s : State) (q : ScanSet) : Option Trap :=
  let r := s.core.fr
  let l := carrySlots q.d
  let reason (n : Nat) : Option Trap := some ⟨.illegalInstruction, BitVec.ofNat 64 n⟩
  if (if l.isEmpty then carryIn q.d || carryOut q.d else l.length != q.z.nb) then reason 1
  else if l.any (fun i => decide (r.n ≤ i)) then reason 2
  else if l.any (fun i => (s.frSlot i).st == .empty) then reason 3
  else if !l.isEmpty && decide (r.size * 4096 < carryOff q.d + q.z.nv * q.z.ex) then reason 4
  else match q.bases.find? (fun b => b % 4 != 0) with
    | some b => some (gaTrap .align b)
    | none => (q.ranges.find? (fun x => decide (Config.spadBytes < x.1 + x.2))).map
        (fun x => gaTrap .translation (max x.1 Config.spadBytes))

/-- SX.SCAN or SX.CONTR starts (R234, R238): the staged descriptor becomes the active one. -/
def State.startScan (s : State) (contr : Bool) (a : SxScanArgs) (x : Entry) : Option State :=
  if !s.sxFree x then none else
  match s.scanCheck (s.scanSet contr a s.core.sx.staged) with
  | some t => some (s.refuse .sx x t)
  | none =>
    let s1 := match s.entryIn .sx .started with
      | some y => s.updEntry .sx y.seq (fun e => { e with prog := 1 })
      | none => s
    some ((s1.start .sx x .started).upd (fun c => { c with sx := { c.sx with active := c.sx.staged, staged := 0 } }))

/-- SX_SCAN (R237). -/
def execSxScan (a : SxScanArgs) (s : State) : Out := .next (s.starting .sx (fun s x => s.startScan false a x))

/-- SX_CONTR (R237). -/
def execSxContr (a : SxScanArgs) (s : State) : Out := .next (s.starting .sx (fun s x => s.startScan true a x))

/-! ### Scans: the schedule of R239 -/

/-- A scan under way: the state, the operators and carries read so far, the values delivered, the first poisoned address. -/
structure ScanRun where
  s : State
  ops : List ((Nat × Nat × Nat) × StepOp)
  hin : List ((Nat × Nat) × List Num)
  hs : List ((Nat × Nat × Nat) × List Num)
  cs : List ((Nat × Nat) × List (List Num))
  bad : Option Nat

/-- n bytes read at offset o by SX (R240): zeros for a poisoned row, logged. -/
def ScanRun.read (r : ScanRun) (seq : W32) (o n : Nat) : List Byte × ScanRun :=
  let pa := spadPa r.s.cur o
  let bad := (r.s.firstPoison pa n).map (fun a => o + (a - pa))
  let x := r.s.readZ Eng.sx.num seq ⟨pa, .spad, true, false, none, 0⟩ n
  (x.1, { r with s := x.2, bad := r.bad.or bad })

/-- The FP32 values of bytes. -/
def numsOf (n : Nat) (l : List Byte) : List Num := (elemsOf 4 n l).map f32

/-- The value kept under a key. -/
def assoc {α β : Type} [BEq α] (l : List (α × β)) (k : α) (d : β) : β := ((l.find? (fun x => x.1 == k)).map (·.2)).getD d

/-- The carry-in of row b is read (R237, R239). -/
def ScanRun.carryRead (r : ScanRun) (q : ScanSet) (seq : W32) (b : Nat) : ScanRun :=
  let k := q.z.ex / 4
  (List.range q.z.nv).foldl (fun r n =>
    if carryIn q.d then
      let x := r.read seq (q.slots.getD b 0 + n * q.z.ex) q.z.ex
      { x.2 with hin := ((b, n), numsOf k x.1) :: x.2.hin }
    else { r with hin := ((b, n), List.replicate k (.zero false)) :: r.hin }) r

/-- The reset flag of row b at step t (R233). -/
def ScanRun.flag (r : ScanRun) (q : ScanSet) (seq : W32) (b t : Nat) : Bool × ScanRun :=
  match q.z.mbase with
  | none => (false, r)
  | some m => let x := r.read seq (m + 32 * b + t / 8) 1; (bit (x.1.getD 0 0).toNat (t % 8), x.2)

/-- A, x and r of step t of group g of row b are read (R239). -/
def ScanRun.stepRead (r : ScanRun) (q : ScanSet) (seq : W32) (b g t : Nat) : ScanRun :=
  let z := q.z
  let f := r.flag q seq b t
  (List.range (min z.p (z.nv - g * z.p))).foldl (fun r j =>
    let n := g * z.p + j
    let a := r.read seq (q.a + z.aOff b t n) z.ea
    let x := a.2.read seq (q.x + ((b * z.l + t) * z.nv + n) * z.ex) z.ex
    let op : StepOp := ⟨numsOf (z.ea / 4) a.1, numsOf (z.ex / 4) x.1, f.1⟩
    { x.2 with ops := ((b, t, n), op) :: x.2.ops }) f.2

/-- The c elements of step t of row b are read, with the last group's operands. -/
def ScanRun.contrRead (r : ScanRun) (q : ScanSet) (seq : W32) (b t : Nat) : ScanRun :=
  match q.c with
  | none => r
  | some (c, _) =>
    let x := r.read seq (c + (b * q.z.l + t) * q.z.g * q.z.ec) (q.z.g * q.z.ec)
    let k := q.z.ec / 4
    let v := (List.range q.z.g).map (fun j => numsOf k (x.1.drop (j * q.z.ec)))
    { x.2 with cs := ((b, t), v) :: x.2.cs }

/-- Fade counter of a lane raised, stopping at 0xFFFF, for an entry whose held FCE is 1 (R22, R92). -/
def State.countFades (s : State) (fce : Bool) (lane k : Nat) : State :=
  if !fce || k = 0 then s else
  s.upd (fun c => { c with sx := { c.sx with
    fade := c.sx.fade.setIfInBounds lane (BitVec.ofNat 16 (min ((c.sx.fade.toList.getD lane 0).toNat + k) 0xFFFF)) } })

/-- FP32 values written at offset o by SX (R240). -/
def ScanRun.write (r : ScanRun) (seq : W32) (o : Nat) (v : List Num) : ScanRun :=
  let d := (v.map (fun x => leBytes 4 (w32 x).toNat)).flatten
  { r with s := r.s.writeZ Eng.sx.num seq ⟨spadPa r.s.cur o, .spad, true, false, none, 0⟩ d }

/-- h of step t of group g of row b is delivered (R237, R239), and stored where the instruction stores it. -/
def ScanRun.deliver (r : ScanRun) (q : ScanSet) (x : Entry) (free b g t : Nat) : ScanRun :=
  let z := q.z
  (List.range (min z.p (z.nv - g * z.p))).foldl (fun r j =>
    let n := g * z.p + j
    let ops := (List.range z.l).map (fun u => assoc r.ops (b, u, n) ⟨[], [], true⟩)
    let h := scanAt q.prof z.mode q.f (free + ((b * z.nv + n) * z.l + t) * 512) ops (assoc r.hin (b, n) []) t
    let r := { r with s := r.s.countFades x.fce (n % 64) h.2, hs := ((b, t, n), h.1) :: r.hs }
    match q.h with
    | some o => r.write x.seq (o + ((b * z.l + t) * z.nv + n) * z.ex) h.1
    | none => r) r

/-- y(b, t, ·) is written (R237, R239). -/
def ScanRun.contrWrite (r : ScanRun) (q : ScanSet) (seq : W32) (free b t : Nat) : ScanRun :=
  let z := q.z
  match q.c with
  | none => r
  | some (_, y) =>
    (List.range (z.nv / z.g)).foldl (fun r k =>
      let hs := (List.range z.g).map (fun j => assoc r.hs (b, t, k * z.g + j) [])
      let v := contract q.prof z.mode (free + ((b * z.l + t) * z.nv + k) * 512) (assoc r.cs (b, t) []) hs
      r.write seq (y + ((b * z.l + t) * (z.nv / z.g) + k) * z.ey) v) r

/-- The carry-out of row b (R237, R239). -/
def ScanRun.carryWrite (r : ScanRun) (q : ScanSet) (seq : W32) (b : Nat) : ScanRun :=
  if !carryOut q.d then r else
  (List.range q.z.nv).foldl (fun r n =>
    r.write seq (q.slots.getD b 0 + n * q.z.ex) (assoc r.hs (b, q.z.l - 1, n) [])) r

/-- One cycle of the schedule of R239, counted from c0: its reads, then its writes. -/
def ScanRun.cycle (r : ScanRun) (q : ScanSet) (x : Entry) (free c : Nat) : ScanRun :=
  let z := q.z
  let w := z.w
  let total := z.nb * w
  let r := if c < total then
      let r := if c % w = 0 then r.carryRead q x.seq (c / w) else r
      let r := r.stepRead q x.seq (c / w) (c % w / z.l) (c % z.l)
      if c % w / z.l + 1 = z.ng then r.contrRead q x.seq (c / w) (c % z.l) else r
    else r
  let r := if 16 ≤ c && c - 16 < total then r.deliver q x free ((c - 16) / w) ((c - 16) % w / z.l) ((c - 16) % z.l) else r
  let r := if 17 ≤ c && c - 17 < total && (c - 17) % w / z.l + 1 = z.ng then
      r.contrWrite q x.seq (free + total * 65536) ((c - 17) / w) ((c - 17) % z.l) else r
  if 16 < c && (c - 16) % w = 0 && (c - 16) / w ≤ z.nb then r.carryWrite q x.seq ((c - 16) / w - 1) else r

/-- Every access of a scan, cycle by cycle (R237, R239). -/
def State.runScan (s : State) (q : ScanSet) (x : Entry) : ScanRun :=
  let n := q.z.nb * q.z.w + 18
  (List.range n).foldl (fun r c => r.cycle q x s.free c) ⟨{ s with free := s.free + 2 * n * 65536 }, [], [], [], [], none⟩

/-- The started scan of SX, where the core is not frozen: it runs on at a stop (R40, R240). -/
def State.scanStarted (s : State) : Option Entry :=
  if s.frozen then none else
  (s.eng .sx).q.find? (fun x => x.phase == .started && (x.img.opc == 2 || x.img.opc == 5))

/-- A started scan has every effect (R237–R240). -/
def State.scanFinish (s : State) (x : Entry) : State :=
  let q := s.scanSet (x.img.opc == 5) (SxScanArgs.ofImage x.img) s.core.sx.active
  if q.touched.any (fun r => s.sbHit r.1 r.2) then s.rsbStall else
  let r := s.runScan q x
  let t := if q.pois then none else r.bad.map (fun o => gaTrap .spPoison o)
  r.s.finish .sx x.seq t

/-- SX_SCAN_COMPLETE (R239): the scan's effects are done; once it has completed, its SX.CARRY has too (R234). -/
def execSxScanComplete (s : State) : Out :=
  .next (match s.scanStarted with
    | some x => s.scanFinish x
    | none => s)

end Sys2Proof.Machine
end

