-- ==== Sys2Proof/Machine/Feed.lean ====
section
/-!
DEFINITION. The feed engine FE (R162–R168): addresses, pre-start checks, the entries each instruction pushes.
-/

namespace Sys2Proof.Machine

/-! ### Types and addresses (R162, R163) -/

/-- The format of an element type 0 to 9 (R162). -/
def fdFmt (typ : Nat) : Fmt :=
  match typ with
  | 0 => .int8 | 1 => .uint8 | 2 => .int12 | 3 => .int16 | 4 => .int32 | 5 => .e4m3 | 6 => .e5m2 | 7 => .bf16 | 8 => .fp16
  | _ => .fp32

/-- The integer of a value. -/
def Num.toInt (x : Num) : Int :=
  match x with
  | .fin m e => if 0 ≤ e then m * 2 ^ e.toNat else m / 2 ^ (-e).toNat
  | _ => 0

/-- WIDEN of an element to FP32 or INT32 (R90, R163). -/
def widenTo (f : Fmt) (b : Nat) : W32 :=
  if f.isInt then BitVec.ofInt 32 (val b f).toInt else w32 (val b f)

/-- Lane l of an entry of 256 bytes. -/
def rawLanes (d : List Byte) : Lanes := lanesOf (fun l => BitVec.ofNat 32 (leNat ((d.drop (4 * l)).take 4)))

/-- Lanes from 64 elements of e bytes, widened. -/
def wideLanes (typ : Nat) (d : List Byte) : Lanes :=
  let e := typeBytes typ
  lanesOf (fun l => widenTo (fdFmt typ) (leNat ((d.drop (e * l)).take e)))

/-- Base offset of an image: OFFHI and A (R163). -/
def fdBase (a : FdArgs) : Nat := a.offhi.toNat * 2 ^ 32 + a.a.toNat

/-- The global address of an offset, as a trap reports it. -/
def gaInt (tid : Nat) (off : Int) : Nat := (((gaddr tid 0 : Int) + off) % 2 ^ 48).toNat

/-- Bytes of a memory entry: 256 under RAW, 64 elements under WIDEN or NARROW. -/
def fdBytes (a : FdArgs) : Nat := if a.conv = 0 then 256 else 64 * typeBytes a.typ.toNat

/-- The places of n bytes at an offset of a tid, cut at tile boundaries (R163, R142). -/
def State.ioPlaces (s : State) (ag : Agent) (tid : Nat) (off : Int) (n : Nat) : Except Trap (List (Nat × Nat × Place)) :=
  if off < 0 then .error (trAt .translation false (gaInt tid off)) else
  (runsOf off.toNat 0 n 16 0 n).mapM (fun r => match s.spanPlace ag tid r.1 r.2 with
    | .error t => .error t
    | .ok p => .ok (gaddr tid r.1, r.2, p))

/-- An access whose A, B or displacement is no multiple of u raises ALIGN (R163). -/
def ioAlign (a : FdArgs) (u : Nat) (stride disp : Int) : Option Trap :=
  if a.a.toNat % u ≠ 0 || stride % u ≠ 0 || disp % u ≠ 0 then
    some (trAt .align false (gaInt a.tid.toNat ((fdBase a : Int) + disp)))
  else none

/-- The runs of an entry of engine e at a displacement, after its alignment (R163). -/
def State.ioEntry (s : State) (e : Eng) (ag : Agent) (a : FdArgs) (u n : Nat) (stride disp : Int) : Except Trap (List (Nat × Nat × Place)) :=
  match ioAlign a u stride disp with
  | some t => .error t
  | none => (s.ioPlaces ag a.tid.toNat ((fdBase a : Int) + disp) n).map (s.resolved e)

/-- A run in the own scratchpad is held by the range scoreboard (R26). -/
def State.runsHeld (s : State) (l : List (Nat × Nat × Place)) : Bool :=
  l.any (fun x => match s.ownOffset x.2.2 with
    | some o => s.sbHit o x.2.1
    | none => false)

/-- n bytes of the own scratchpad as an index or bit list (R164): range, then the bytes with zeros for poisoned ones and the
cause under TRAP. -/
def State.listRead (s : State) (eng : Nat) (seq : W32) (pois : Bool) (o n : Nat) : Except Trap Span :=
  match s.spanPlace .engine 0 o n with
  | .error t => .error t
  | .ok p => .ok (s.readSpan eng seq false pois o n p)

/-- Index v of a list of bytes. -/
def indexOf (d : List Byte) (v : Nat) : Nat := leNat ((d.drop (4 * v)).take 4)

/-! ### Coordinate forms (R164, R167) -/

/-- The six coordinates of FE.LDG and DE.STG. -/
def coordsOf (a : FdArgs) : List Nat := [a.a.toNat, a.b.toNat, a.c.toNat, a.d.toNat, a.h13.toNat, a.h14.toNat]

/-- The descriptor of a coordinate form, checked (R83, R163, R164); a complex type under WIDEN or NARROW is refused with an
EVAL that the spec leaves open. -/
def State.coordDesc (s : State) (a : FdArgs) : Except Trap TDesc :=
  let tid := a.tid.toNat
  let ga := gaddr tid 0
  if tid = 0 || 0xDFF < tid then .error (trAt .translation false ga) else
  match s.descriptor (s.regime 0) ga tid with
  | .error t => .error t
  | .ok t =>
    if t.typ = 13 then
      let p := t.locate (coordsOf a)
      .error (gaTrap .illegalInstruction ((ga + p.1 * 2 ^ 18 + p.2) % 2 ^ 48))
    else if a.conv ≠ 0 && 9 < t.typ then .error ⟨.illegalInstruction, Config.freeWord s.free⟩
    else if ((coordsOf a).drop t.rank).any (· != 0) then .error (trAt .translation false ga)
    else .ok t

/-- Elements of an entry of a coordinate form: 64 under WIDEN or NARROW, else as many as 256 bytes hold. -/
def coordCount (a : FdArgs) (t : TDesc) : Nat := if a.conv = 0 then 256 / t.e else 64

/-- The run of element j of entry v, none beyond an extent (R167, R169). -/
def State.coordRun (s : State) (a : FdArgs) (t : TDesc) (v j : Nat) : Except Trap (Option (Nat × Nat × Place)) :=
  let c := coordsOf a
  let c := [c.getD 0 0 + j, c.getD 1 0 + v] ++ c.drop 2
  let beyond := (List.range 6).any (fun i => decide ((if i < t.rank then t.ext.getD i 0 else 1) ≤ c.getD i 0))
  if beyond then .ok none else
  let p := t.locate c
  let o := p.1 * 2 ^ 18 + p.2
  match s.spanPlace .engine a.tid.toNat o t.e with
  | .error t => .error t
  | .ok q => .ok (some (gaddr a.tid.toNat o, t.e, q))

/-- The runs of entry v of a coordinate form. -/
def State.coordEntry (s : State) (a : FdArgs) (t : TDesc) (v : Nat) : Except Trap (List (Option (Nat × Nat × Place))) :=
  (List.range (coordCount a t)).mapM (s.coordRun a t v)

/-! ### Pushing (R165, R167) -/

/-- Operand queue n. -/
def State.opQ (s : State) (n : Nat) : OpQueue := s.core.vx.q.toList.getD n ⟨0, 0, []⟩

/-- Operand queue n changed. -/
def State.updQ (s : State) (n : Nat) (f : OpQueue → OpQueue) : State :=
  s.upd (fun c => { c with vx := { c.vx with q := c.vx.q.setIfInBounds n (f (c.vx.q.toList.getD n ⟨0, 0, []⟩)) } })

/-- An entry pushed to operand queue n. -/
def State.pushQ (s : State) (n : Nat) (v : Lanes) : State := s.updQ n (fun q => { q with ents := q.ents ++ [v] })

/-- What reading the entries of an FE instruction gives: the lanes in order, the state, the cause of the boundary. -/
structure Fed where
  lanes : List Lanes
  s : State
  trap : Option Trap

/-- The entries of a list of runs, read in order and formed by f. -/
def State.feedRuns (s : State) (a : FdArgs) (x : Entry) (f : List Byte → Lanes) (l : List (List (Nat × Nat × Place))) : Fed :=
  l.foldl (fun r e =>
    let d := r.s.readRuns Eng.fe.num x.seq x.det a.pois e
    ⟨r.lanes ++ [f d.data], d.st, r.trap.or d.trap⟩) ⟨[], s, none⟩

/-- A non-restartable FE entry starts (R165): the pre-start check of the queue binding and of what `go` checks, then room for
COUNT entries, then every effect. `go` answers a trap, or the runs it reads (for R26 and R355) with the entries they give. -/
def State.startFeed (s : State) (a : FdArgs) (x : Entry)
    (go : Except Trap (List (List (Nat × Nat × Place)) × (State → Fed))) : Option State :=
  let n := a.q.toNat
  let q := s.opQ n
  if !s.isHead .fe x then none
  else if q.prod ≠ Eng.fe.num then some (s.refuse .fe x ⟨.queueBind, BitVec.ofNat 64 n⟩)
  else match go with
    | .error t => some ({ s with free := s.free + 1 }.refuse .fe x t)
    | .ok (runs, f) =>
      if 4 < q.ents.length + a.count.toNat then none
      else if runs.any s.runHolds then some (s.parkRuns .fe runs.flatten)
      else if runs.any s.runsHeld then some s.rsbStall
      else
        let r := f s
        some (((r.lanes.foldl (fun t v => t.pushQ n v) r.s).runsMade .fe runs.flatten).startDone .fe x r.trap)

/-- The runs of entries 0 to COUNT − 1 at displacements. -/
def State.entryRuns (s : State) (e : Eng) (ag : Agent) (a : FdArgs) (u n : Nat) (stride : Int) (disp : Nat → Int) :
    Except Trap (List (List (Nat × Nat × Place))) :=
  (List.range a.count.toNat).mapM (fun v => s.ioEntry e ag a u n stride (disp v))

/-- The lanes of an FE entry's bytes under its CONV. -/
def feForm (a : FdArgs) (d : List Byte) : Lanes := if a.conv = 0 then rawLanes d else wideLanes a.typ.toNat d

/-- FE.LD starts (R167). -/
def State.startLd (s : State) (a : FdArgs) (x : Entry) : Option State :=
  s.startFeed a x ((s.entryRuns .fe .engine a (typeBytes a.typ.toNat) (fdBytes a) a.b.toInt (fun v => v * a.b.toInt)).map
    (fun l => (l, fun s => s.feedRuns a x (feForm a) l)))

/-- A CI12P value as a CI12 container, or as CF16 (R79, R83, R167). -/
def unpkElem (cf16 : Bool) (v : Nat) : W32 :=
  let i := sint v 12
  let q := sint (v / 2 ^ 12) 12
  let g (k : Int) : Nat := if cf16 then (round (Num.of k 0) .fp16 .rne 0 none).1 else ofInt 16 k
  BitVec.ofNat 32 (g q * 2 ^ 16 + g i)

/-- FE.UNPK starts (R167). -/
def State.startUnpk (s : State) (a : FdArgs) (x : Entry) : Option State :=
  let f (d : List Byte) : Lanes := lanesOf (fun l => unpkElem (a.h13 == 1) (leNat ((d.drop (3 * l)).take 3)))
  s.startFeed a x ((s.entryRuns .fe .pack a 24 192 a.b.toInt (fun v => v * a.b.toInt)).map
    (fun l => (l, fun s => s.feedRuns a x f l)))

/-- FE.BCST starts (R167). -/
def State.startBcst (s : State) (a : FdArgs) (x : Entry) : Option State :=
  let n := a.count.toNat
  if a.h13 = 1 then s.startFeed a x (.ok ([], fun s => ⟨List.replicate n (Vector.replicate 64 a.b), s, none⟩))
  else
    let e := typeBytes a.typ.toNat
    let f (d : List Byte) : Lanes := Vector.replicate 64 (widenTo (fdFmt a.typ.toNat) (leNat d))
    s.startFeed a x ((s.entryRuns .fe .engine a e e 0 (fun _ => 0)).map (fun l => (l, fun s => s.feedRuns a x f l)))

/-- Entry v of an address generator (R167, R169). -/
def agenLanes (a : FdArgs) (v : Nat) : Lanes := lanesOf (fun l => BitVec.ofNat 32 (a.d.toNat + l * a.b.toNat + v * a.c.toNat))

/-- FE.AGEN starts (R167). -/
def State.startFeAgen (s : State) (a : FdArgs) (x : Entry) : Option State :=
  s.startFeed a x (.ok ([], fun s => ⟨(List.range a.count.toNat).map (agenLanes a), s, none⟩))

/-- The positions of the set bits among bits 0 to n − 1 of bytes. -/
def setBits (d : List Byte) (n : Nat) : List Nat := (List.range n).filter (fun p => bit (d.getD (p / 8) 0).toNat (p % 8))

/-- FE.IDX starts (R167). A bound D lies outside R60's check: with D = 0 no position is found and every lane is all ones, and beyond 2^25
the read is judged by R296 as any other (log entry 108, DESIGN CHOICE). -/
def State.startIdx (s : State) (a : FdArgs) (x : Entry) : Option State :=
  let o := a.a.toNat
  let n := ceilDiv a.d.toNat 8
  s.startFeed a x (match s.ioPlaces .engine 0 o n with
    | .error t => .error t
    | .ok l => .ok ([l], fun s =>
        let d := s.readRuns Eng.fe.num x.seq x.det a.pois l
        let p := setBits d.data a.d.toNat
        let lane (v l : Nat) : W32 := match p[64 * v + l]? with
          | some k => BitVec.ofNat 32 k
          | none => 0xFFFFFFFF
        ⟨(List.range a.count.toNat).map (fun v => lanesOf (lane v)), d.st, d.trap⟩))

/-- The lanes of an entry of a coordinate form from its elements, zeros beyond an extent (R167). -/
def coordLanes (a : FdArgs) (t : TDesc) (l : List (List Byte)) : Lanes :=
  if a.conv = 0 then rawLanes (l.flatten)
  else lanesOf (fun k => widenTo (fdFmt t.typ) (leNat (l.getD k [])))

/-- The elements of an entry of a coordinate form, read in order. -/
def State.coordRead (s : State) (a : FdArgs) (x : Entry) (t : TDesc) (l : List (Option (Nat × Nat × Place))) : Fed :=
  let r := l.foldl (fun (r : List (List Byte) × State × Option Trap) e =>
    match e with
    | none => (r.1 ++ [List.replicate t.e 0], r.2)
    | some q =>
      let d := r.2.1.readRuns Eng.fe.num x.seq x.det a.pois [q]
      (r.1 ++ [d.data], d.st, r.2.2.or d.trap)) ([], s, none)
  ⟨[coordLanes a t r.1], r.2.1, r.2.2⟩

/-- FE.LDG starts (R167). -/
def State.startLdg (s : State) (a : FdArgs) (x : Entry) : Option State :=
  s.startFeed a x (match s.coordDesc a with
    | .error t => .error t
    | .ok t =>
      match (List.range a.count.toNat).mapM (s.coordEntry a t) with
      | .error e => .error e
      | .ok l => .ok (l.map (fun r => r.filterMap id), fun s =>
          l.foldl (fun r e => let d := r.s.coordRead a x t e; ⟨r.lanes ++ d.lanes, d.s, r.trap.or d.trap⟩) ⟨[], s, none⟩))

/-- FE_LD (R167). -/
def execFeLd (a : FdArgs) (s : State) : Out := .next (s.starting .fe (fun s x => s.startLd a x))

/-- FE_LDG (R167). -/
def execFeLdg (a : FdArgs) (s : State) : Out := .next (s.starting .fe (fun s x => s.startLdg a x))

/-- FE_UNPK (R167). -/
def execFeUnpk (a : FdArgs) (s : State) : Out := .next (s.starting .fe (fun s x => s.startUnpk a x))

/-- FE_BCST (R167). -/
def execFeBcst (a : FdArgs) (s : State) : Out := .next (s.starting .fe (fun s x => s.startBcst a x))

/-- FE_AGEN (R167). -/
def execFeAgen (a : FdArgs) (s : State) : Out := .next (s.starting .fe (fun s x => s.startFeAgen a x))

/-- FE_IDX (R167). -/
def execFeIdx (a : FdArgs) (s : State) : Out := .next (s.starting .fe (fun s x => s.startIdx a x))

/-! ### Gathers and streams (R165, R166, R168) -/

/-- A gather or stream of a CI12P tensor (R83), with the address of its first element. -/
def State.gathCi12p (s : State) (a : FdArgs) (x : Entry) : Option Trap :=
  let tid := a.tid.toNat
  if tid = 0 || 0xDFF < tid then none else
  match s.descriptor (s.regime 0) (gaddr tid 0) tid with
  | .ok t =>
    let i := if x.img.opc = 8 then 0 else s.loadLE (spadPa s.cur a.c.toNat) 4
    if t.typ = 13 then some (gaTrap .illegalInstruction (gaInt tid ((fdBase a : Int) + i * a.b.toInt))) else none
  | .error _ => none

/-- A gather or stream starts (R165): it waits on its queue element by element; a CI12P tensor is refused before (R83). -/
def State.startGath (s : State) (a : FdArgs) (x : Entry) : Option State :=
  if !s.isHead .fe x then none
  else match s.gathCi12p a x with
    | some t => some (s.refuse .fe x t)
    | none => some (s.start .fe x .started)

/-- FE_GATH (R168). -/
def execFeGath (a : FdArgs) (s : State) : Out := .next (s.starting .fe (fun s x => s.startGath a x))

/-- FE_GATHQ (R168). -/
def execFeGathq (a : FdArgs) (s : State) : Out := .next (s.starting .fe (fun s x => s.startGath a x))

/-- FE_STRM (R167). -/
def execFeStrm (a : FdArgs) (s : State) : Out := .next (s.starting .fe (fun s x => s.startGath a x))

/-- Elements of a gather or stream. -/
def gathTotal (opc : Nat) (a : FdArgs) : Nat := if opc = 8 then a.count.toNat * a.d.toNat else a.count.toNat

/-- Displacement of element k of a stream (R167). -/
def strmDisp (a : FdArgs) (k : Nat) : Int := (k / a.count.toNat : Nat) * a.b.toInt + (k % a.count.toNat) * fdBytes a

/-- The index of element k of a gather is read (R168): the index, the state, the cause under TRAP. -/
def State.gathIndex (s : State) (a : FdArgs) (x : Entry) (k : Nat) : Except Trap (Nat × State) :=
  let o := a.c.toNat + 4 * k
  if o % 4 ≠ 0 then .error (gaTrap .align o) else
  match s.listRead Eng.fe.num x.seq a.pois o 4 with
  | .error t => .error t
  | .ok d => match d.trap with
    | some t => .error t
    | none => .ok (leNat d.data, d.st)

/-- The displacement of the next element of a started gather or stream. -/
def State.gathDisp (s : State) (a : FdArgs) (x : Entry) : Except Trap (Int × State) :=
  if x.img.opc = 8 then .ok (strmDisp a x.prog, s)
  else match s.gathIndex a x x.prog with
    | .error t => .error t
    | .ok (i, t) => .ok (i * a.b.toInt, t)

/-- Element `prog` of a started gather or stream is delivered, or its cause raised before anything of it is (R166); of a CONFLICT the
sieve keeps what it says of both cores (R335). -/
def State.deliver (s : State) (a : FdArgs) (x : Entry) : State :=
  let n := a.q.toNat
  let q := s.opQ n
  let fail (t : Trap) : State := s.engineFault .fe t x.seq
  if q.prod ≠ Eng.fe.num then fail ⟨.queueBind, BitVec.ofNat 64 n⟩
  else if 4 ≤ q.ents.length then s
  else if x.img.opc ≠ 8 && s.sbHit (a.c.toNat + 4 * x.prog) 4 then s.rsbStall
  else match s.gathDisp a x with
    | .error t => fail t
    | .ok (d, s1) =>
      match s1.ioEntry .fe .engine a (typeBytes a.typ.toNat) (fdBytes a) a.b.toInt d with
      | .error t => fail t
      | .ok l =>
        if s.runHolds l then s.parkRuns .fe l
        else if s.runsHeld l then s.rsbStall
        else
          let r := s1.readRuns Eng.fe.num x.seq x.det a.pois l
          match r.trap with
          | some t =>
            if t.cause = .conflict then { s with sieve := r.st.sieve, conflicts := r.st.conflicts }.engineFault .fe t x.seq else fail t
          | none =>
            let t := ((r.st.pushQ n (feForm a r.data)).runsMade .fe l).updEntry .fe x.seq (fun y => { y with prog := x.prog + 1 })
            if x.prog + 1 = gathTotal x.img.opc a then t.finish .fe x.seq none else t

/-- FE_ELEMENT_DELIVERY (R166). FE.STRM with a bound D = 0 has nothing to deliver and completes (log entry 108, DESIGN CHOICE). -/
def execFeElementDelivery (s : State) : Out :=
  .next (if s.core.qstop || s.core.scanned || s.boot.power == .stopped then s else
    match s.entryIn .fe .started with
    | some x =>
      if (s.eng .fe).held.isSome then s
      else
        let a := FdArgs.ofImage x.img
        if x.prog < gathTotal x.img.opc a then s.scrubGuard (s.deliver a x) else s.finish .fe x.seq none
    | none => s)

end Sys2Proof.Machine
end

