-- ==== Sys2Proof/Machine/Drain.lean ====
section
/-!
DEFINITION. The drain engine DE (R162–R166, R169, R170): pops, addresses, the bytes each instruction writes.
-/

namespace Sys2Proof.Machine

/-! ### Elements (R163, R169) -/

/-- A lane as the value it holds for a format: INT32 or FP32 (R163). -/
def laneNum (f : Fmt) (w : W32) : Num := if f.isInt then Num.of (sint w.toNat 32) 0 else f32 w

/-- NARROW of a lane (R163). -/
def narrowElem (f : Fmt) (rnd : Nat) (w : W32) : Nat := (round (laneNum f w) f (Rnd.ofCode rnd) 0 none).1

/-- The sum that DE.ADDST stores (R169). -/
def addElem (f : Fmt) (rnd old : Nat) (w : W32) : Nat :=
  (round ((val old f).add (rnd == 2) (laneNum f w)) f (Rnd.ofCode rnd) 0 none).1

/-- The bytes of 64 elements of e bytes each. -/
def elemBytes (e : Nat) (f : Nat → Nat) : List Byte := ((List.range 64).map (fun l => leBytes e (f l))).flatten

/-- The bytes of an entry under its CONV (R163). -/
def deForm (a : FdArgs) (v : Lanes) : List Byte :=
  let t := a.typ.toNat
  if a.conv = 0 then laneBytes v else elemBytes (typeBytes t) (fun l => narrowElem (fdFmt t) a.rnd.toNat (lane v l))

/-- A CI12P value from a CI12 container, or from CF16 rounded to INT12 by component (R79, R83, R169). -/
def packElem (cf16 : Bool) (rnd : Nat) (w : W32) : Nat :=
  let x := w.toNat
  let g (b : Nat) : Nat := if cf16 then (round (val b .fp16) .int12 (Rnd.ofCode rnd) 0 none).1 % 2 ^ 12 else b % 2 ^ 12
  g (x / 2 ^ 16) * 2 ^ 12 + g (x % 2 ^ 16)

/-! ### Starting (R165, R166) -/

/-- The head entry of operand queue n popped. -/
def State.popQ (s : State) (n : Nat) : Lanes × State :=
  ((s.opQ n).ents.headD zeroLanes, s.updQ n (fun q => { q with ents := q.ents.drop 1 }))

/-- The runs of a DE entry written: under TRAP a poisoned unit gives a cause at the boundary (R166). -/
def State.drainRuns (s : State) (a : FdArgs) (x : Entry) (d : List Byte) (l : List (Nat × Nat × Place)) : State × Option Trap :=
  s.storeRuns Eng.de.num x.seq x.det true a.pois d l

/-- A DE entry starts (R165): the pre-start check of the queue binding and of what `go` checks, COUNT entries in the queue, then
entry by entry a pop and `put` with the runs of that entry. `t0` is a cause that the checks leave for the boundary. -/
def State.startDrainE (s : State) (a : FdArgs) (x : Entry) (useQ : Bool)
    (go : Except Trap (List (List (Nat × Nat × Place)) × State × Option Trap))
    (put : State → Lanes → List (Nat × Nat × Place) → State × Option Trap) : Option State :=
  let n := a.q.toNat
  let q := s.opQ n
  if !s.isHead .de x then none
  else if useQ && q.cons ≠ Eng.de.num then some (s.refuse .de x ⟨.queueBind, BitVec.ofNat 64 n⟩)
  else match go with
    | .error t => some ({ s with free := s.free + 1 }.refuse .de x t)
    | .ok (runs, s1, t0) =>
      if useQ && q.ents.length < a.count.toNat then none
      else if runs.any s.runHolds then some (s.parkRuns .de runs.flatten)
      else if runs.any s.runsHeld then some s.rsbStall
      else
        let r := runs.foldl (fun (r : State × Option Trap) l =>
          let p := if useQ then r.1.popQ n else (zeroLanes, r.1)
          let w := put p.2 p.1 l
          (w.1, r.2.or w.2)) (s1, t0)
        some ((r.1.runsMade .de runs.flatten).startDone .de x r.2)

/-- The runs of a strided DE instruction, with nothing else checked. -/
def State.stridedRuns (s : State) (ag : Agent) (a : FdArgs) (u n : Nat) (stride : Int) (disp : Nat → Int) :
    Except Trap (List (List (Nat × Nat × Place)) × State × Option Trap) :=
  (s.entryRuns .de ag a u n stride disp).map (fun l => (l, s, none))

/-- DE.ST starts (R169). -/
def State.startSt (s : State) (a : FdArgs) (x : Entry) : Option State :=
  s.startDrainE a x true
    (s.stridedRuns .engine a (typeBytes a.typ.toNat) (fdBytes a) a.b.toInt (fun v => v * a.b.toInt))
    (fun s v l => s.drainRuns a x (deForm a v) l)

/-- DE.PACK starts (R169). -/
def State.startPack (s : State) (a : FdArgs) (x : Entry) : Option State :=
  s.startDrainE a x true (s.stridedRuns .pack a 24 192 a.b.toInt (fun v => v * a.b.toInt))
    (fun s v l => s.drainRuns a x (elemBytes 3 (fun k => packElem (a.h13 == 1) a.rnd.toNat (lane v k))) l)

/-- The runs of an indexed DE instruction: the index list (R164, R166), then every address. -/
def State.indexedRuns (s : State) (a : FdArgs) (x : Entry) : Except Trap (List (List (Nat × Nat × Place)) × State × Option Trap) :=
  let o := a.c.toNat
  if o % 4 ≠ 0 then .error (gaTrap .align o) else
  match s.listRead Eng.de.num x.seq a.pois o (4 * a.count.toNat) with
  | .error t => .error t
  | .ok d =>
    match s.entryRuns .de .engine a (typeBytes a.typ.toNat) (fdBytes a) a.b.toInt (fun v => indexOf d.data v * a.b.toInt) with
    | .error t => .error t
    | .ok l => .ok (l, d.st, d.trap)

/-- DE.SCAT starts (R169). -/
def State.startScat (s : State) (a : FdArgs) (x : Entry) : Option State :=
  s.startDrainE a x true (s.indexedRuns a x) (fun s v l => s.drainRuns a x (deForm a v) l)

/-- The sums of an entry of DE.ADDST over the old bytes of its elements (R170). -/
def addForm (a : FdArgs) (old : List Byte) (v : Lanes) : List Byte :=
  let t := a.typ.toNat
  let e := typeBytes t
  elemBytes e (fun l => addElem (fdFmt t) a.rnd.toNat (leNat ((old.drop (e * l)).take e)) (lane v l))

/-- An entry of DE.ADDST (R170). -/
def State.addEntry (s : State) (a : FdArgs) (x : Entry) (v : Lanes) (l : List (Nat × Nat × Place)) : State × Option Trap :=
  let d := s.readRuns Eng.de.num x.seq x.det a.pois l
  let w := d.st.drainRuns a x (addForm a d.data v) l
  (w.1, d.trap.or w.2)

/-- DE.ADDST starts (R169, R170). -/
def State.startAddst (s : State) (a : FdArgs) (x : Entry) : Option State :=
  s.startDrainE a x true
    (if a.h13 = 1 then s.indexedRuns a x
     else s.stridedRuns .engine a (typeBytes a.typ.toNat) (fdBytes a) a.b.toInt (fun v => v * a.b.toInt))
    (fun s v l => s.addEntry a x v l)

/-- The elements of an entry of DE.STG written, those beyond an extent left out (R169). -/
def State.coordPut (s : State) (a : FdArgs) (x : Entry) (t : TDesc) (v : Lanes) (l : List (Option (Nat × Nat × Place))) :
    State × Option Trap :=
  let raw := laneBytes v
  let elem (j : Nat) : List Byte :=
    if a.conv = 0 then (raw.drop (t.e * j)).take t.e else leBytes t.e (narrowElem (fdFmt t.typ) a.rnd.toNat (lane v j))
  l.zipIdx.foldl (fun r e => match e.1 with
    | none => r
    | some q => let w := r.1.drainRuns a x (elem e.2) [q]; (w.1, r.2.or w.2)) (s, none)

/-- DE.STG starts (R169). -/
def State.startStg (s : State) (a : FdArgs) (x : Entry) : Option State :=
  let n := a.q.toNat
  let q := s.opQ n
  if !s.isHead .de x then none
  else if q.cons ≠ Eng.de.num then some (s.refuse .de x ⟨.queueBind, BitVec.ofNat 64 n⟩)
  else match s.coordDesc a with
    | .error t => some ({ s with free := s.free + 1 }.refuse .de x t)
    | .ok t =>
      match (List.range a.count.toNat).mapM (s.coordEntry a t) with
      | .error e => some (s.refuse .de x e)
      | .ok runs =>
        if q.ents.length < a.count.toNat then none else
        let r := runs.foldl (fun (r : State × Option Trap) l =>
          let p := r.1.popQ n
          let w := p.2.coordPut a x t p.1 l
          (w.1, r.2.or w.2)) (s, none)
        some (r.1.startDone .de x r.2)

/-- DE.AGEN starts (R169). -/
def State.startDeAgen (s : State) (a : FdArgs) (x : Entry) : Option State :=
  let n := a.count.toNat
  match (List.range n).mapM (fun v => s.ioEntry .de .engine a 1 256 0 (256 * v : Nat)) with
  | .error t => if s.isHead .de x then some (s.refuse .de x t) else none
  | .ok runs =>
    if !s.isHead .de x then none
    else if runs.any s.runHolds then some (s.parkRuns .de runs.flatten)
    else if runs.any s.runsHeld then some s.rsbStall
    else
      let r := runs.zipIdx.foldl (fun (r : State × Option Trap) l =>
        let w := r.1.drainRuns a x (laneBytes (agenLanes a l.2)) l.1
        (w.1, r.2.or w.2)) (s, none)
      some ((r.1.runsMade .de runs.flatten).startDone .de x r.2)

/-- DE_ST (R169). -/
def execDeSt (a : FdArgs) (s : State) : Out := .next (s.starting .de (fun s x => s.startSt a x))

/-- DE_STG (R169). -/
def execDeStg (a : FdArgs) (s : State) : Out := .next (s.starting .de (fun s x => s.startStg a x))

/-- DE_SCAT (R169). -/
def execDeScat (a : FdArgs) (s : State) : Out :=
  .next (s.starting .de (fun s x => s.startScat a x))

/-- DE_ADDST (R170). -/
def execDeAddst (a : FdArgs) (s : State) : Out :=
  .next (s.starting .de (fun s x => s.startAddst a x))

/-- DE_PACK (R169). -/
def execDePack (a : FdArgs) (s : State) : Out := .next (s.starting .de (fun s x => s.startPack a x))

/-- DE_AGEN (R169). -/
def execDeAgen (a : FdArgs) (s : State) : Out := .next (s.starting .de (fun s x => s.startDeAgen a x))

end Sys2Proof.Machine
end

