-- ==== Sys2Proof/Machine/Functions.lean ====
section
/-!
DEFINITION. The special functions of R189 and of EP.ACT. Algebraic ones are exact up to a sticky bit below hundreds of bits;
transcendental ones are evaluated in 1,100-bit fixed point, cut, and given a sticky bit.
-/

namespace Sys2Proof.Machine

/-- Fraction bits of the fixed-point evaluation. -/
def fxBits : Nat := 1100

/-- One in fixed point. -/
def fxOne : Nat := 2 ^ fxBits

/-- A fixed-point product, cut. -/
def fxMul (a b : Nat) : Nat := a * b / fxOne

/-- The sum of a series from term k on, each term made from the one before; `fuel` bounds the terms. -/
def fxSeries (next : Nat → Nat → Nat) (use : Nat → Nat → Nat) (fuel k t : Nat) : Nat :=
  match fuel with
  | 0 => 0
  | n + 1 => if t = 0 then 0 else use k t + fxSeries next use n (k + 1) (next k t)

/-- atanh of a fixed-point number below 1/2: the odd series. -/
def fxAtanh (t : Nat) : Nat :=
  let t2 := fxMul t t
  fxSeries (fun _ u => fxMul u t2) (fun k u => u / (2 * k + 1)) 1200 0 t

/-- ln 2. -/
def fxLn2 : Nat := 2 * fxAtanh (fxOne / 3)

/-- ln of a fixed-point number from 1 to 2. -/
def fxLn (z : Nat) : Nat := 2 * fxAtanh ((z - fxOne) * fxOne / (z + fxOne))

/-- e^r for a fixed-point r below 1. -/
def fxExp (r : Nat) : Nat := fxSeries (fun k u => fxMul u r / (k + 1)) (fun _ u => u) 400 0 fxOne

/-- e^−x for a fixed-point x at or above 0. -/
def fxExpNeg (x : Nat) : Nat :=
  let k := x / fxLn2
  fxExp (fxLn2 - x % fxLn2) / 2 ^ (k + 1)

/-- A positive fixed-point value that is not exact: its last bit is sticky. -/
def fxNum (neg : Bool) (v : Nat) : Num := .fin ((if neg then -1 else 1) * ((2 * v + 1 : Nat) : Int)) (-((fxBits : Int) + 1))

/-- A value too small for any format, not exact. -/
def tinyNum (neg : Bool) : Num := .fin (if neg then -1 else 1) (-1000)

/-- |m · 2^e| in fixed point. -/
def fxAbs (m e : Int) : Nat := m.natAbs * 2 ^ (e + fxBits).toNat / (if e + fxBits < 0 then 2 ^ (-(e + fxBits)).toNat else 1)

/-- A magnitude at or above 300. -/
def fxFar (m e : Int) : Bool := decide (9 ≤ lg m e) || decide (300 * fxOne ≤ fxAbs m e)

/-- The integer square root, bit by bit from bit k − 1 down. -/
def isqrtFrom (n k r : Nat) : Nat :=
  match k with
  | 0 => r
  | j + 1 => let t := r + 2 ^ j; isqrtFrom n j (if t * t ≤ n then t else r)

/-- The integer square root. -/
def isqrt (n : Nat) : Nat := isqrtFrom n (n.log2 / 2 + 1) 0

/-- q · 2^e with a sticky bit below it unless exact. -/
def sticky (q : Nat) (e : Int) (exact : Bool) : Num :=
  if exact then Num.of q e else .fin ((2 * q + 1 : Nat) : Int) (e - 1)

/-- 2^x (R189). -/
def fnExp2 (x : Num) : Num :=
  match x with
  | .nan => .nan
  | .inf s => if s then .zero false else .inf false
  | .zero _ => .fin 1 0
  | .fin m e =>
    if fxFar m e then (if m < 0 then tinyNum false else .fin 3 1000)
    else
      let v : Int := (if m < 0 then -1 else 1) * (fxAbs m e : Int)
      let k := v / (fxOne : Int)
      let f := (v % (fxOne : Int)).toNat
      if f = 0 then .fin 1 k
      else
        match fxNum false (fxExp (fxMul f fxLn2)) with
        | .fin a b => .fin a (b + k)
        | y => y

/-- log2 x (R189). -/
def fnLog2 (x : Num) : Num :=
  match x with
  | .nan => .nan
  | .inf s => if s then .nan else .inf false
  | .zero _ => .inf true
  | .fin m e =>
    if m < 0 then .nan
    else
      let k := m.natAbs.log2
      let n : Int := e + k
      let z := m.natAbs * fxOne / 2 ^ k
      if z = fxOne then Num.of n 0
      else
        let v : Int := n * (fxOne : Int) + ((fxLn z * fxOne / fxLn2 : Nat) : Int)
        if v < 0 then .fin (-((2 * v.natAbs - 1 : Nat) : Int)) (-((fxBits : Int) + 1)) else fxNum false v.toNat

/-- 1/x (R189). -/
def fnRcp (x : Num) : Num :=
  match x with
  | .nan => .nan
  | .inf s => .zero s
  | .zero s => .inf s
  | .fin m e =>
    let q := 2 ^ 400 / m.natAbs
    let y := sticky q (-e - 400) (q * m.natAbs == 2 ^ 400)
    if m < 0 then y.neg else y

/-- The mantissa and half exponent of m · 2^e with an even exponent. -/
def evenExp (m : Nat) (e : Int) : Nat × Int := if e % 2 = 0 then (m, e / 2) else (2 * m, (e - 1) / 2)

/-- 1/√x (R189). -/
def fnRsq (x : Num) : Num :=
  match x with
  | .nan => .nan
  | .inf s => if s then .nan else .zero false
  | .zero s => .inf s
  | .fin m e =>
    if m < 0 then .nan
    else
      let p := evenExp m.natAbs e
      let r := isqrt (2 ^ 800 / p.1)
      sticky r (-p.2 - 400) (r * r * p.1 == 2 ^ 800)

/-- √x (R189). -/
def fnSqrt (x : Num) : Num :=
  match x with
  | .nan => .nan
  | .inf s => if s then .nan else .inf false
  | .zero s => .zero s
  | .fin m e =>
    if m < 0 then .nan
    else
      let p := evenExp m.natAbs e
      let r := isqrt (p.1 * 2 ^ 400)
      sticky r (p.2 - 200) (r * r == p.1 * 2 ^ 400)

/-- 1/(1 + e^−x) in fixed point. -/
def fxSigm (neg : Bool) (x : Nat) : Nat :=
  let t := fxExpNeg x
  (if neg then t else fxOne) * fxOne / (fxOne + t)

/-- 1/(1 + e^−x) (R189). -/
def fnSigm (x : Num) : Num :=
  match x with
  | .nan => .nan
  | .inf s => if s then .zero false else .fin 1 0
  | .zero _ => .fin 1 (-1)
  | .fin m e =>
    if fxFar m e then (if m < 0 then tinyNum false else .fin (2 ^ 1000 - 1) (-1000))
    else fxNum false (fxSigm (m < 0) (fxAbs m e))

/-- tanh x (R189). -/
def fnTanh (x : Num) : Num :=
  match x with
  | .nan => .nan
  | .inf s => .fin (if s then -1 else 1) 0
  | .zero s => .zero s
  | .fin m e =>
    let y : Num := if fxFar m e then .fin (2 ^ 1000 - 1) (-1000)
      else let t := fxExpNeg (2 * fxAbs m e); fxNum false ((fxOne - t) * fxOne / (fxOne + t))
    if m < 0 then y.neg else y

/-- x/(1 + e^−x) (R189). -/
def fnSilu (x : Num) : Num :=
  match x with
  | .nan => .nan
  | .inf s => if s then .zero true else .inf false
  | .zero s => .zero s
  | .fin m e =>
    if fxFar m e then (if m < 0 then tinyNum true else .fin (m * 2 ^ 1000 - 1) (e - 1000))
    else x.mul (fxNum false (fxSigm (m < 0) (fxAbs m e)))

/-- ln(1 + e^x) (R189). -/
def fnSoftp (x : Num) : Num :=
  match x with
  | .nan => .nan
  | .inf s => if s then .zero false else .inf false
  | .zero _ => fxNum false fxLn2
  | .fin m e =>
    if fxFar m e then (if m < 0 then tinyNum false else .fin (m * 2 ^ 1000 + 1) (e - 1000))
    else
      let t := fxExpNeg (fxAbs m e)
      fxNum false ((if m < 0 then 0 else fxAbs m e) + fxLn (fxOne + t))

end Sys2Proof.Machine
end

