-- ==== Sys2Proof/Machine/Vector.lean ====
section
/-!
DEFINITION. VX: operands and constants (R172–R176), slots and the exposed pipeline (R177–R183), what every instruction's result
goes through.
-/

namespace Sys2Proof.Machine

/-! ### Elements of a lane (R173) -/

/-- The element format of a TYPE: components for the complex types. -/
def vxFmt (typ : Nat) : Fmt :=
  match typ with
  | 0 => .fp32 | 1 => .fp16 | 2 => .bf16 | 3 => .int32 | 4 => .int16 | 5 => .fp16 | 6 => .int12 | _ => .fp32

/-- Elements per lane. -/
def vxElems (typ : Nat) : Nat :=
  match typ with
  | 1 | 2 | 4 | 5 | 6 => 2
  | _ => 1

/-- Element j of a word of n elements. -/
def elem (n : Nat) (w : W32) (j : Nat) : Nat := bits w.toNat (32 / n * j) (32 / n)

/-- A word from its elements, lowest first. -/
def wordOf (n : Nat) (l : List Nat) : W32 :=
  BitVec.ofNat 32 (l.zipIdx.foldl (fun x e => x + e.1 % 2 ^ (32 / n) * 2 ^ (32 / n * e.2)) 0)

/-! ### Source operands (R174, R175) -/

/-- A constant of R175 as FP32, FP16, BF16 and integer, by selector. -/
def constRow (sel : Nat) : Nat × Nat × Nat × Nat :=
  match sel with
  | 85 => (0x3F800000, 0x3C00, 0x3F80, 1)
  | 86 => (0xBF800000, 0xBC00, 0xBF80, 0xFFFFFFFF)
  | 87 => (0x3F000000, 0x3800, 0x3F00, 0)
  | 88 => (0x40000000, 0x4000, 0x4000, 2)
  | 89 => (0xBF000000, 0xB800, 0xBF00, 0)
  | 90 => (0x3E800000, 0x3400, 0x3E80, 0)
  | 91 => (0x40400000, 0x4200, 0x4040, 3)
  | 92 => (0x3FB8AA3B, 0x3DC5, 0x3FB9, 0)
  | 93 => (0x3F317218, 0x398C, 0x3F31, 0)
  | 94 => (0x7F800000, 0x7C00, 0x7F80, 0)
  | _ => (0, 0, 0, 0)

/-- The word of a constant in lane l for a TYPE (R175). -/
def constWord (typ sel l : Nat) : W32 :=
  let c := constRow sel
  if sel = 95 then 0xFFFFFFFF else
  match typ with
  | 0 => BitVec.ofNat 32 c.1
  | 1 => wordOf 2 [c.2.1, c.2.1]
  | 2 => wordOf 2 [c.2.2.1, c.2.2.1]
  | 3 => BitVec.ofNat 32 c.2.2.2
  | 4 => wordOf 2 [c.2.2.2 % 2 ^ 16, c.2.2.2 % 2 ^ 16]
  | 5 => wordOf 2 [c.2.1, 0]
  | 6 => wordOf 2 [c.2.2.2 % 2 ^ 16, 0]
  | _ => if l % 2 = 0 then BitVec.ofNat 32 c.1 else 0

/-- The value of a source selector (R174). -/
def State.vxSrc (s : State) (typ sel : Nat) : Lanes :=
  let v := s.core.vx
  if sel < 64 then v.v.toList.getD sel zeroLanes
  else if sel < 80 then (s.opQ (sel % 8)).ents.headD zeroLanes
  else if sel < 84 then v.y.toList.getD (sel - 80) zeroLanes
  else if sel < 96 then lanesOf (constWord typ sel)
  else Vector.replicate 64 (v.k.toList.getD (sel - 96) 0)

/-- The queue that a source selector names. -/
def srcQueue (sel : Nat) : Option Nat := if 64 ≤ sel && sel < 80 then some (sel % 8) else none

/-- A source selector pops. -/
def popsQueue (sel : Nat) : Bool := 64 ≤ sel && sel < 72

/-! ### Masks (R182, R173) -/

/-- Mask register n. -/
def State.maskReg (s : State) (n : Nat) : W64 := s.core.vx.m.toList.getD n 0

/-- A mask register written. -/
def State.setMask (s : State) (n : Nat) (v : W64) : State :=
  s.upd (fun c => { c with vx := { c.vx with m := c.vx.m.setIfInBounds n v } })

/-- A mask from a predicate on lanes. -/
def maskOf (f : Nat → Bool) : W64 := BitVec.ofNat 64 ((List.range 64).foldl (fun x l => if f l then x + 2 ^ l else x) 0)

/-- Lane l is active under MSEL; under CF32P the even lane decides for its pair (R182, R173). -/
def State.active (s : State) (a : VxArgs) (l : Nat) : Bool :=
  let l := if a.typ = 7 then l / 2 * 2 else l
  a.msel == 0 || bit (s.maskReg a.msel.toNat).toNat l

/-! ### Visibility (R179, R180) -/

/-- A register's lanes after a write under a mask (R182). -/
def mergeLanes (old new : Lanes) (mask : W64) (mz : Bool) : Lanes :=
  lanesOf (fun l => if bit mask.toNat l then lane new l else if mz then 0 else lane old l)

/-- A value with zeros in inactive lanes. -/
def maskLanes (v : Lanes) (mask : W64) : Lanes := lanesOf (fun l => if bit mask.toNat l then lane v l else 0)

/-- A y register written. -/
def State.writeY (s : State) (p : VxPend) : State :=
  match p.y with
  | none => s
  | some n => s.upd (fun c => { c with vx := { c.vx with
      y := c.vx.y.setIfInBounds n (mergeLanes (c.vx.y.toList.getD n zeroLanes) p.val p.mask p.mz) } })

/-- A result becomes visible: destination write, y update, queue push; its entry has every effect (R179, R180). -/
def State.visible (s : State) (p : VxPend) : State :=
  let s := match p.dst with
    | .v n => s.upd (fun c => { c with vx := { c.vx with
        v := c.vx.v.setIfInBounds n (mergeLanes (c.vx.v.toList.getD n zeroLanes) p.val p.mask p.mz) } })
    | .q n => s.pushQ n (maskLanes p.val p.mask)
    | .none => s
  (s.writeY p).finish .vx p.seq none

/-- A slot begins (R178, R179): the results whose slot it is become visible, in issue order. -/
def State.vxSlot (s : State) : State :=
  let l := s.core.vx.pend
  let t := s.upd (fun c => { c with vx := { c.vx with
    pend := (l.filter (fun p => p.left != 0)).map (fun p => { p with left := p.left - 1 }) } })
  (l.filter (fun p => p.left == 0)).foldl State.visible t

/-! ### The checks of R181 -/

/-- The verdict of R181 on an entry. -/
inductive VxCheck where
  | ok | frozen | held | trap (t : Trap)
  deriving DecidableEq, Repr

/-- Pending pushes to queue n. -/
def State.pendingPushes (s : State) (n : Nat) : Nat :=
  (s.core.vx.pend.filter (fun p => match p.dst with
    | .q k => k == n
    | _ => false)).length

/-- Steps 1 to 4 of R181 for source selectors and the queue that D names; of queues that fail one step EVAL names the first of A, B, C,
D (log entry 134, DESIGN CHOICE). -/
def State.vxQueues (s : State) (srcs : List Nat) (dq : Option Nat) : VxCheck :=
  let qs := srcs.filterMap srcQueue
  let q (c : Cause) (n : Nat) : VxCheck := .trap ⟨c, BitVec.ofNat 64 n⟩
  match qs.find? (fun n => (s.opQ n).cons != Eng.vx.num), dq.filter (fun n => (s.opQ n).prod != Eng.vx.num) with
  | some n, _ => q .queueBind n
  | none, some n => q .queueBind n
  | none, none =>
    match qs.find? (fun n => (s.opQ n).prod == Eng.vx.num && (s.opQ n).ents.isEmpty) with
    | some n => q .queueUnderflow n
    | none =>
      if qs.any (fun n => (s.opQ n).ents.isEmpty) then .frozen
      else match dq with
        | some n =>
          let pops := (srcs.filter (fun x => popsQueue x && x % 8 == n)).length
          if 4 < (s.opQ n).ents.length - pops + s.pendingPushes n + 1 then q .queueOverflow n else .ok
        | none => .ok

/-- Words of the scratchpad that VX.MOV.LDS or STS touches: those of active lanes. -/
def State.spadWords (s : State) (a : VxArgs) : List Nat :=
  ((List.range 64).filter (s.active a)).map (fun l => a.imm.toNat + 4 * l)

/-- Steps 5 and 6 of R181 (R193). -/
def State.vxSpad (s : State) (a : VxArgs) : VxCheck :=
  let o := a.imm.toNat
  if o % 4 ≠ 0 then .trap (gaTrap .align o)
  else if Config.spadBytes < o + 256 then .trap (gaTrap .translation o)
  else
    let ws := s.spadWords a
    match (if bit a.fn.toNat 7 then none else ws.find? (fun w => s.poisoned (spadPa s.cur w))) with
    | some w => .trap (gaTrap .spPoison w)
    | none => if ws.any (fun w => s.sbHit w 4) then .held else .ok

/-- The queue that D names as a destination. -/
def dstQueue (d : Nat) : Option Nat := if 64 ≤ d && d < 72 then some (d % 8) else none

/-- The pops of an instruction's sources, after they have been read. -/
def State.popSrcs (s : State) (srcs : List Nat) : State :=
  srcs.foldl (fun t x => if popsQueue x then (t.popQ (x % 8)).2 else t) s

/-- An entry issues (R178, R181): the slot begins, the checks are made, and `body` gives its effects on the state in which its
sources are read; a check that fails is no slot. `srcs` are the source selectors it reads, `dq` the queue D names. -/
def State.vxIssue (s : State) (x : Entry) (srcs : List Nat) (dq : Option Nat) (spad : State → VxCheck)
    (body : State → State) : Option State :=
  let t := s.vxSlot
  let c := match t.vxQueues srcs dq with
    | .ok => spad t
    | r => r
  match c with
  | .trap e => some (s.refuse .vx x e)
  | .frozen => none
  | .held => some s.rsbStall
  | .ok => some (body ((t.start .vx x .started).popSrcs srcs))

/-- No check of the scratchpad. -/
def noSpad (_ : State) : VxCheck := .ok

/-! ### Results (R177, R183) -/

/-- What an instruction produces: the lanes, the saturation flags, the LFSRs. -/
structure VxOut where
  val : Lanes
  sat : W64
  lfsr : Lanes

/-- Lane by lane on active lanes: f gives the word, the saturation flag and the LFSR of a lane (R183, R87). -/
def State.vxLanes (s : State) (a : VxArgs) (f : Nat → W32 → W32 × Bool × W32) : VxOut :=
  let r (l : Nat) : W32 × Bool × W32 :=
    let g := lane s.core.vx.lfsr l
    if s.active a l then f l g else (0, false, g)
  ⟨lanesOf (fun l => (r l).1), maskOf (fun l => (r l).2.1), lanesOf (fun l => (r l).2.2)⟩

/-- The LFSRs and saturation flags of a result take effect in the issue slot (R179, R183). -/
def State.vxSide (s : State) (a : VxArgs) (o : VxOut) : State :=
  let s := s.upd (fun c => { c with vx := { c.vx with lfsr := o.lfsr } })
  if a.smen then s.setMask a.sm.toNat o.sat else s

/-- Where D sends a result (R176). -/
def vxTarget (d : Nat) : VxTarget := if d < 64 then .v d else if d < 72 then .q (d - 64) else .none

/-- A result joins the pending-write list with latency n and the y register it updates (R39, R177, R179). -/
def State.vxPend (s : State) (a : VxArgs) (x : Entry) (n : Nat) (y : Option Nat) (o : VxOut) : State :=
  let p : VxPend := ⟨vxTarget a.d.toNat, y, o.val, maskOf (s.active a), a.mz, n - 1, x.seq⟩
  (s.vxSide a o).upd (fun c => { c with vx := { c.vx with pend := c.vx.pend ++ [p] } })

/-- A slot effect has every effect at once (R177, R180). -/
def State.vxDone (s : State) (x : Entry) : State := s.finish .vx x.seq none

/-- The y register of an ALU instruction. -/
def aluY (a : VxArgs) : Option Nat := some (b2n a.pb)

/-- The source selectors of an instruction that reads A; A and B; A, B and C. -/
def srcs1 (a : VxArgs) : List Nat := [a.a.toNat]
def srcs2 (a : VxArgs) : List Nat := [a.a.toNat, a.b.toNat]
def srcs3 (a : VxArgs) : List Nat := [a.a.toNat, a.b.toNat, a.c.toNat]

/-- An instruction whose result becomes visible n slots later (R183): `f` gives it from the sources, read in the slot. -/
def State.vxOp (s : State) (a : VxArgs) (x : Entry) (srcs : List Nat) (n : Nat) (y : Option Nat)
    (f : State → List Lanes → VxOut) : Option State :=
  let v (t : State) : List Lanes := srcs.map (t.vxSrc a.typ.toNat)
  let t := s.vxSlot
  s.vxIssue x srcs (dstQueue a.d.toNat) noSpad (fun u => u.vxPend a x n y (f u (v t)))

/-- Lane l of source i. -/
def src (v : List Lanes) (i l : Nat) : W32 := lane (v.getD i zeroLanes) l

/-- Rounding of one element in a lane (R86, R87, R91): the bits, the saturation flag, the LFSR after. -/
def roundStep (f : Fmt) (rc : Rnd) (ftz : Bool) (x : Num) (qs : Option Int) (g : W32) : Nat × Bool × W32 :=
  let r := round x f rc g qs
  (flush ftz r.1 f, r.2, if rc = .sr then lfsrStep g else g)

/-- The elements of a lane, one after the other (R183): f gives element j with the LFSR, and the word is put together. -/
def elemsRun (n : Nat) (g : W32) (f : Nat → W32 → Nat × Bool × W32) : W32 × Bool × W32 :=
  let r := (List.range n).foldl (fun (r : List Nat × Bool × W32) j =>
    let e := f j r.2.2
    (r.1 ++ [e.1], r.2.1 || e.2.1, e.2.2)) ([], false, g)
  (wordOf n r.1, r.2.1, r.2.2)

/-- The slot in which nothing issues (R178): no entry is queued, the next waits for tokens, or a VX.QCFG waits. -/
def State.emptySlot (s : State) : Bool :=
  match s.nextEntry .vx with
  | none => true
  | some x => !s.core.tokensReady Eng.vx.num (imgWait x.img) ||
      (x.img.opc == 0xE6 && s.vxSlot.pendingPushes (bits (x.img.hw 2) 0 7 - 64) != 0)

/-- VX_RESULT_VISIBLE (R178, R179): an empty slot. -/
def execVxResultVisible (s : State) : Out :=
  .next (if s.core.qstop || s.core.scanned || s.boot.power == .stopped || !s.emptySlot then s else s.vxSlot)

end Sys2Proof.Machine
end

