-- ==== Sys2Proof/Machine/VectorOps.lean ====
section
/-!
DEFINITION. The VX instructions (R184–R202), one meaning each over the shared slots and results of Vector.
-/

namespace Sys2Proof.Machine

/-- A VX instruction's start (R178, R181). -/
def State.runVx (s : State) (f : State → Entry → Option State) : Out := .next (s.starting .vx f)

/-! ### Float (R184–R186) -/

/-- The rounding mode of a VX image (R172). -/
def vxRnd (a : VxArgs) : Rnd := Rnd.ofCode a.rnd.toNat

/-- The operand values of element j in lane l. -/
def floatVals (a : VxArgs) (v : List Lanes) (l j : Nat) : List Num :=
  v.map (fun w => valZ a.ftz (elem (vxElems a.typ.toNat) (lane w l) j) (vxFmt a.typ.toNat))

/-- An element-wise float instruction: `op` gives the exact value, which is rounded once (R183, R184). -/
def State.vxFloat (s : State) (a : VxArgs) (x : Entry) (srcs : List Nat) (n : Nat) (y : Option Nat) (rc : Rnd)
    (op : List Num → Num) : Option State :=
  s.vxOp a x srcs n y (fun u v => u.vxLanes a (fun l g =>
    elemsRun (vxElems a.typ.toNat) g (fun j g => roundStep (vxFmt a.typ.toNat) rc a.ftz (op (floatVals a v l j)) none g)))

/-- Operand i of a list of values. -/
def nth (l : List Num) (i : Nat) : Num := l.getD i .nan

/-- VX_FADD (R184). -/
def execVxFadd (a : VxArgs) (s : State) : Out :=
  s.runVx (fun s x => s.vxFloat a x (srcs2 a) 4 (some 2) (vxRnd a) (fun l => (nth l 0).add (vxRnd a == .rdn) (nth l 1)))

/-- VX_FSUB (R184). -/
def execVxFsub (a : VxArgs) (s : State) : Out :=
  s.runVx (fun s x => s.vxFloat a x (srcs2 a) 4 (some 2) (vxRnd a) (fun l => (nth l 0).sub (vxRnd a == .rdn) (nth l 1)))

/-- VX_FMUL (R184). -/
def execVxFmul (a : VxArgs) (s : State) : Out :=
  s.runVx (fun s x => s.vxFloat a x (srcs2 a) 4 (some 2) (vxRnd a) (fun l => (nth l 0).mul (nth l 1)))

/-- VX_FMA (R184). -/
def execVxFma (a : VxArgs) (s : State) : Out :=
  s.runVx (fun s x => s.vxFloat a x (srcs3 a) 4 (some 2) (vxRnd a)
    (fun l => ((nth l 0).mul (nth l 1)).add (vxRnd a == .rdn) (nth l 2)))

/-- VX_FMS (R184). -/
def execVxFms (a : VxArgs) (s : State) : Out :=
  s.runVx (fun s x => s.vxFloat a x (srcs3 a) 4 (some 2) (vxRnd a)
    (fun l => ((nth l 0).mul (nth l 1)).sub (vxRnd a == .rdn) (nth l 2)))

/-- VX_FMIN (R184, R104). -/
def execVxFmin (a : VxArgs) (s : State) : Out :=
  s.runVx (fun s x => s.vxFloat a x (srcs2 a) 2 (aluY a) .rne (fun l => (nth l 0).min (nth l 1)))

/-- VX_FMAX (R184, R104). -/
def execVxFmax (a : VxArgs) (s : State) : Out :=
  s.runVx (fun s x => s.vxFloat a x (srcs2 a) 2 (aluY a) .rne (fun l => (nth l 0).max (nth l 1)))

/-- VX_FABS (R184). -/
def execVxFabs (a : VxArgs) (s : State) : Out :=
  s.runVx (fun s x => s.vxFloat a x (srcs1 a) 2 (aluY a) .rne (fun l => (nth l 0).abs))

/-- VX_FNEG (R184). -/
def execVxFneg (a : VxArgs) (s : State) : Out :=
  s.runVx (fun s x => s.vxFloat a x (srcs1 a) 2 (aluY a) .rne (fun l => (nth l 0).neg))

/-- Bit l of a mask destination: the result in an active lane, the old bit or 0 in an inactive one (R185). -/
def State.writeMask (s : State) (a : VxArgs) (f : Nat → Bool) : State :=
  let d := a.d.toNat % 8
  let old := (s.maskReg d).toNat
  s.setMask d (maskOf (fun l => if s.active a l then f l else !a.mz && bit old l))

/-- A compare: a slot effect on the mask register that D names (R185, R187). -/
def State.vxCompare (s : State) (a : VxArgs) (x : Entry) (f : List Lanes → Nat → Bool) : Option State :=
  let v (t : State) : List Lanes := (srcs2 a).map (t.vxSrc a.typ.toNat)
  let t := s.vxSlot
  s.vxIssue x (srcs2 a) none noSpad (fun u => (u.writeMask a (f (v t))).vxDone x)

/-- The conditions of VX.FCMP (R185). -/
def floatCond (c : Nat) (x y : Num) : Bool :=
  match c with
  | 0 => x.eqv y
  | 1 => !x.eqv y
  | 2 => x.lt y
  | 3 => x.lt y || x.eqv y
  | 4 => y.lt x
  | 5 => y.lt x || x.eqv y
  | 6 => x.isNan || y.isNan
  | _ => !(x.isNan || y.isNan)

/-- VX_FCMP (R185). -/
def execVxFcmp (a : VxArgs) (s : State) : Out :=
  s.runVx (fun s x => s.vxCompare a x (fun v l =>
    let w := floatVals a v l (b2n (bit a.fn.toNat 7))
    floatCond (a.fn.toNat % 8) (nth w 0) (nth w 1)))

/-- The class word of an encoded value (R185). -/
def classWord (ftz : Bool) (b : Nat) (f : Fmt) : Nat :=
  let neg := bit b (f.size - 1)
  match valZ ftz b f with
  | .nan => 2 ^ 8
  | .inf s => if s then 1 else 2 ^ 7
  | .zero s => if s then 2 ^ 3 else 2 ^ 4
  | .fin _ _ => if isSub b f then (if neg then 2 ^ 2 else 2 ^ 5) else if neg then 2 else 2 ^ 6

/-- VX_FCLASS (R185). -/
def execVxFclass (a : VxArgs) (s : State) : Out :=
  s.runVx (fun s x => s.vxOp a x (srcs1 a) 2 (aluY a) (fun u v => u.vxLanes a (fun l g =>
    let n := vxElems a.typ.toNat
    (wordOf n ((List.range n).map (fun j => classWord a.ftz (elem n (src v 0 l) j) (vxFmt a.typ.toNat))), false, g))))

/-- One value rounded to an integral value of its own format (R186). -/
def integral (ftz : Bool) (b : Nat) (f : Fmt) (rc : Rnd) (g : W32) : Nat :=
  match valZ ftz b f with
  | .nan => f.nan
  | .inf s => encInf f s
  | .zero s => encFin f s 0 0
  | .fin m e => if (f.fbits : Int) ≤ lg m e then b else encFin f (m < 0) (roundMag m.natAbs e 0 (m < 0) rc (-quantum b f) g) 0

/-- VX_FRND (R186). -/
def execVxFrnd (a : VxArgs) (s : State) : Out :=
  s.runVx (fun s x => s.vxOp a x (srcs1 a) 3 none (fun u v => u.vxLanes a (fun l g =>
    let n := vxElems a.typ.toNat
    elemsRun n g (fun j g =>
      (integral a.ftz (elem n (src v 0 l) j) (vxFmt a.typ.toNat) (vxRnd a) g, false,
        if vxRnd a = .sr then lfsrStep g else g)))))

/-! ### Integer (R187) -/

/-- Bits of an integer element. -/
def intWidth (a : VxArgs) : Nat := 32 / vxElems a.typ.toNat

/-- An element as INT, signed or unsigned. -/
def intVal (uns : Bool) (w b : Nat) : Int := if uns then (b % 2 ^ w : Nat) else sint b w

/-- S and U of an integer image. -/
def intS (a : VxArgs) : Bool := bit a.fn.toNat 0
def intU (a : VxArgs) : Bool := bit a.fn.toNat 1

/-- An exact integer wrapped, or clamped under S (R187, R89). -/
def intEnd (a : VxArgs) (v : Int) : Nat × Bool :=
  let w := intWidth a
  if intS a then
    let c := clamp (-2 ^ (w - 1)) (2 ^ (w - 1) - 1) v
    (ofInt w c.1, c.2)
  else (ofInt w v, false)

/-- An element-wise integer instruction: `op` on the raw elements gives the element and its saturation flag. -/
def State.vxInt (s : State) (a : VxArgs) (x : Entry) (srcs : List Nat) (n : Nat) (y : Option Nat)
    (op : List Nat → Nat × Bool) : Option State :=
  s.vxOp a x srcs n y (fun u v => u.vxLanes a (fun l g =>
    let k := vxElems a.typ.toNat
    elemsRun k g (fun j g =>
      let r := op (v.map (fun w => elem k (lane w l) j))
      (r.1, r.2, g))))

/-- Element i of a list as INT under the image's width. -/
def intOp (a : VxArgs) (uns : Bool) (l : List Nat) (i : Nat) : Int := intVal uns (intWidth a) (l.getD i 0)

/-- VX_IADD (R187). -/
def execVxIadd (a : VxArgs) (s : State) : Out :=
  s.runVx (fun s x => s.vxInt a x (srcs2 a) 2 (aluY a) (fun l => intEnd a (intOp a false l 0 + intOp a false l 1)))

/-- VX_ISUB (R187). -/
def execVxIsub (a : VxArgs) (s : State) : Out :=
  s.runVx (fun s x => s.vxInt a x (srcs2 a) 2 (aluY a) (fun l => intEnd a (intOp a false l 0 - intOp a false l 1)))

/-- VX_IMUL (R187). -/
def execVxImul (a : VxArgs) (s : State) : Out :=
  s.runVx (fun s x => s.vxInt a x (srcs2 a) 4 (some 2) (fun l =>
    (ofInt (intWidth a) (intOp a false l 0 * intOp a false l 1), false)))

/-- VX_IMULH (R187). -/
def execVxImulh (a : VxArgs) (s : State) : Out :=
  s.runVx (fun s x => s.vxInt a x (srcs2 a) 4 (some 2) (fun l =>
    (ofInt (intWidth a) ((intOp a (intU a) l 0 * intOp a (intU a) l 1) / 2 ^ intWidth a), false)))

/-- VX_IMAD (R187). -/
def execVxImad (a : VxArgs) (s : State) : Out :=
  s.runVx (fun s x => s.vxInt a x (srcs3 a) 4 (some 2) (fun l =>
    intEnd a (intOp a false l 0 * intOp a false l 1 + intOp a false l 2)))

/-- VX_IMIN (R187). -/
def execVxImin (a : VxArgs) (s : State) : Out :=
  s.runVx (fun s x => s.vxInt a x (srcs2 a) 2 (aluY a) (fun l =>
    (ofInt (intWidth a) (min (intOp a (intU a) l 0) (intOp a (intU a) l 1)), false)))

/-- VX_IMAX (R187). -/
def execVxImax (a : VxArgs) (s : State) : Out :=
  s.runVx (fun s x => s.vxInt a x (srcs2 a) 2 (aluY a) (fun l =>
    (ofInt (intWidth a) (max (intOp a (intU a) l 0) (intOp a (intU a) l 1)), false)))

/-- A bitwise instruction on whole lanes. -/
def State.vxBits (s : State) (a : VxArgs) (x : Entry) (f : W32 → W32 → W32) : Option State :=
  s.vxOp a x (srcs2 a) 2 (aluY a) (fun u v => u.vxLanes a (fun l g => (f (src v 0 l) (src v 1 l), false, g)))

/-- VX_AND (R187). -/
def execVxAnd (a : VxArgs) (s : State) : Out := s.runVx (fun s x => s.vxBits a x (fun p q => p &&& q))

/-- VX_OR (R187). -/
def execVxOr (a : VxArgs) (s : State) : Out := s.runVx (fun s x => s.vxBits a x (fun p q => p ||| q))

/-- VX_XOR (R187). -/
def execVxXor (a : VxArgs) (s : State) : Out := s.runVx (fun s x => s.vxBits a x (fun p q => p ^^^ q))

/-- VX_ANDN (R187). -/
def execVxAndn (a : VxArgs) (s : State) : Out := s.runVx (fun s x => s.vxBits a x (fun p q => p &&& ~~~q))

/-- The shift count of an element (R187). -/
def shiftCount (a : VxArgs) (b : Nat) : Nat := b % intWidth a

/-- VX_SHL (R187). -/
def execVxShl (a : VxArgs) (s : State) : Out :=
  s.runVx (fun s x => s.vxInt a x (srcs2 a) 2 (aluY a) (fun l =>
    (l.getD 0 0 * 2 ^ shiftCount a (l.getD 1 0) % 2 ^ intWidth a, false)))

/-- VX_SHR (R187). -/
def execVxShr (a : VxArgs) (s : State) : Out :=
  s.runVx (fun s x => s.vxInt a x (srcs2 a) 2 (aluY a) (fun l => (l.getD 0 0 / 2 ^ shiftCount a (l.getD 1 0), false)))

/-- VX_SAR (R187). -/
def execVxSar (a : VxArgs) (s : State) : Out :=
  s.runVx (fun s x => s.vxInt a x (srcs2 a) 2 (aluY a) (fun l =>
    (ofInt (intWidth a) (intOp a false l 0 / 2 ^ shiftCount a (l.getD 1 0)), false)))

/-- The conditions of VX.ICMP (R187). -/
def intCond (c : Nat) (x y : Int) : Bool :=
  match c with
  | 0 => x == y
  | 1 => x != y
  | 2 => decide (x < y)
  | 3 => decide (x ≤ y)
  | 4 => decide (y < x)
  | _ => decide (y ≤ x)

/-- VX_ICMP (R187). -/
def execVxIcmp (a : VxArgs) (s : State) : Out :=
  s.runVx (fun s x => s.vxCompare a x (fun v l =>
    let k := vxElems a.typ.toNat
    let w := v.map (fun z => elem k (lane z l) (b2n (bit a.fn.toNat 7)))
    intCond (a.fn.toNat % 8) (intOp a (bit a.fn.toNat 3) w 0) (intOp a (bit a.fn.toNat 3) w 1)))

/-! ### Complex (R188) -/

/-- The complex value of lane l, or of its pair under CF32P (R173, R82). -/
def cxAt (a : VxArgs) (v : Lanes) (l : Nat) : Cx :=
  if a.typ = 7 then
    let e := l / 2 * 2
    ⟨valZ a.ftz (lane v e).toNat .fp32, valZ a.ftz (lane v (e + 1)).toNat .fp32⟩
  else
    let f := vxFmt a.typ.toNat
    ⟨valZ a.ftz (elem 2 (lane v l) 0) f, valZ a.ftz (elem 2 (lane v l) 1) f⟩

/-- A component finished (R188): rounded, or clamped for CI12. -/
def cxEnd (a : VxArgs) (v : Num) (g : W32) : Nat × Bool × W32 := roundStep (vxFmt a.typ.toNat) (vxRnd a) a.ftz v none g

/-- A complex instruction: `re` and `im` give the exact components; no `im` is +0 without rounding (R188). -/
def State.vxComplex (s : State) (a : VxArgs) (x : Entry) (srcs : List Nat) (re : List Cx → Num) (im : Option (List Cx → Num)) :
    Option State :=
  s.vxOp a x srcs 4 (some 2) (fun u v => u.vxLanes a (fun l g =>
    let c := v.map (fun w => cxAt a w l)
    let g0 := if a.typ = 7 then lane u.core.vx.lfsr (l / 2 * 2) else g
    let r := cxEnd a (re c) g0
    let i := match im with
      | some f => cxEnd a (f c) r.2.2
      | none => (0, false, r.2.2)
    if a.typ = 7 then
      if l % 2 = 0 then (BitVec.ofNat 32 r.1, false, i.2.2) else (BitVec.ofNat 32 i.1, false, g)
    else (wordOf 2 [r.1, i.1], r.2.1 || i.2.1, i.2.2)))

/-- Operand i of a list of complex values. -/
def cth (l : List Cx) (i : Nat) : Cx := l.getD i ⟨.nan, .nan⟩

/-- VX_CADD (R188). -/
def execVxCadd (a : VxArgs) (s : State) : Out :=
  let d := vxRnd a == .rdn
  s.runVx (fun s x => s.vxComplex a x (srcs2 a) (fun c => (cth c 0).re.add d (cth c 1).re)
    (some (fun c => (cth c 0).im.add d (cth c 1).im)))

/-- VX_CSUB (R188). -/
def execVxCsub (a : VxArgs) (s : State) : Out :=
  let d := vxRnd a == .rdn
  s.runVx (fun s x => s.vxComplex a x (srcs2 a) (fun c => (cth c 0).re.sub d (cth c 1).re)
    (some (fun c => (cth c 0).im.sub d (cth c 1).im)))

/-- ar·br − ai·bi and ar·bi + ai·br, exact. -/
def mulRe (d : Bool) (x y : Cx) : Num := (x.re.mul y.re).sub d (x.im.mul y.im)
def mulIm (d : Bool) (x y : Cx) : Num := (x.re.mul y.im).add d (x.im.mul y.re)

/-- VX_CMUL (R188). -/
def execVxCmul (a : VxArgs) (s : State) : Out :=
  let d := vxRnd a == .rdn
  s.runVx (fun s x => s.vxComplex a x (srcs2 a) (fun c => mulRe d (cth c 0) (cth c 1))
    (some (fun c => mulIm d (cth c 0) (cth c 1))))

/-- An exact sum of several terms, whose zero takes its sign from all of them together (R84). -/
def sumAll (d : Bool) (l : List Num) : Num :=
  let r := l.foldl (Num.add d) (.zero true)
  match r with
  | .zero _ => if l.all (fun x => x == .zero true) then .zero true else if l.all (fun x => x == .zero false) then .zero false else .zero d
  | r => r

/-- VX_CMAC (R188). -/
def execVxCmac (a : VxArgs) (s : State) : Out :=
  let d := vxRnd a == .rdn
  s.runVx (fun s x => s.vxComplex a x (srcs3 a)
    (fun c => sumAll d [(cth c 2).re, (cth c 0).re.mul (cth c 1).re, ((cth c 0).im.mul (cth c 1).im).neg])
    (some (fun c => sumAll d [(cth c 2).im, (cth c 0).re.mul (cth c 1).im, (cth c 0).im.mul (cth c 1).re])))

/-- VX_CMULJ (R188). -/
def execVxCmulj (a : VxArgs) (s : State) : Out :=
  let d := vxRnd a == .rdn
  s.runVx (fun s x => s.vxComplex a x (srcs2 a)
    (fun c => ((cth c 0).re.mul (cth c 1).re).add d ((cth c 0).im.mul (cth c 1).im))
    (some (fun c => ((cth c 0).im.mul (cth c 1).re).sub d ((cth c 0).re.mul (cth c 1).im))))

/-- VX_CABS2 (R188). -/
def execVxCabs2 (a : VxArgs) (s : State) : Out :=
  let d := vxRnd a == .rdn
  s.runVx (fun s x => s.vxComplex a x (srcs1 a)
    (fun c => ((cth c 0).re.mul (cth c 0).re).add d ((cth c 0).im.mul (cth c 0).im)) none)

/-! ### Special functions (R189) -/

/-- A special function of A. -/
def State.vxSfu (s : State) (a : VxArgs) (x : Entry) (f : Num → Num) : Option State :=
  s.vxFloat a x (srcs1 a) 8 (some 3) (vxRnd a) (fun l => f (nth l 0))

/-- VX_EXP2 (R189). -/
def execVxExp2 (a : VxArgs) (s : State) : Out := s.runVx (fun s x => s.vxSfu a x fnExp2)

/-- VX_LOG2 (R189). -/
def execVxLog2 (a : VxArgs) (s : State) : Out := s.runVx (fun s x => s.vxSfu a x fnLog2)

/-- VX_RCP (R189). -/
def execVxRcp (a : VxArgs) (s : State) : Out := s.runVx (fun s x => s.vxSfu a x fnRcp)

/-- VX_RSQ (R189). -/
def execVxRsq (a : VxArgs) (s : State) : Out := s.runVx (fun s x => s.vxSfu a x fnRsq)

/-- VX_SQRT (R189). -/
def execVxSqrt (a : VxArgs) (s : State) : Out := s.runVx (fun s x => s.vxSfu a x fnSqrt)

/-- VX_SIGM (R189). -/
def execVxSigm (a : VxArgs) (s : State) : Out := s.runVx (fun s x => s.vxSfu a x fnSigm)

/-- VX_TANH (R189). -/
def execVxTanh (a : VxArgs) (s : State) : Out := s.runVx (fun s x => s.vxSfu a x fnTanh)

/-- VX_SILU (R189). -/
def execVxSilu (a : VxArgs) (s : State) : Out := s.runVx (fun s x => s.vxSfu a x fnSilu)

/-- VX_SOFTP (R189). -/
def execVxSoftp (a : VxArgs) (s : State) : Out := s.runVx (fun s x => s.vxSfu a x fnSoftp)

/-! ### Conversion (R190–R192) -/

/-- The format of a code of R190. -/
def cvtFmt (c : Nat) : Fmt :=
  match c with
  | 0 => .fp32 | 1 => .fp16 | 2 => .bf16 | 3 => .int32 | 4 => .int16 | 5 => .int12 | 6 => .int8 | 7 => .uint8
  | 8 => .e4m3 | 9 => .e5m2 | _ => .e4m3n

/-- Elements per lane of a code. -/
def cvtElems (c : Nat) : Nat := 32 / (cvtFmt c).size

/-- Lane l of D as merged elements see it: zero for a queue (R191). -/
def State.mergeLane (s : State) (a : VxArgs) (l : Nat) : W32 :=
  if a.d.toNat < 64 then lane (s.core.vx.v.toList.getD a.d.toNat zeroLanes) l else 0

/-- Elements written into group p of a lane's n elements. -/
def putElems (n : Nat) (w : W32) (i : Nat) (l : List Nat) : W32 :=
  wordOf n ((List.range n).map (fun j => if i ≤ j ∧ j < i + l.length then l.getD (j - i) 0 else elem n w j))

/-- Values converted one after the other: the bits, the flags ORed, the LFSR (R191). -/
def convertRun (f : Fmt) (rc : Rnd) (ftz : Bool) (l : List (Num × Option Int)) (g : W32) : List Nat × Bool × W32 :=
  l.foldl (fun (r : List Nat × Bool × W32) e =>
    let t := roundStep f rc ftz e.1 e.2 r.2.2
    (r.1 ++ [t.1], r.2.1 || t.2.1, t.2.2)) ([], false, g)

/-- VX_CVT (R191). INT12 to BF16, which R90 lists as exact, is rounded under RND where it needs it (log entry 133, DESIGN CHOICE). -/
def execVxCvt (a : VxArgs) (s : State) : Out :=
  let dc := a.fn.toNat / 16
  let sc := a.fn.toNat % 16
  let d := cvtElems dc
  let n := cvtElems sc
  let part := a.imm.toNat % 4
  let rd (w : W32) (j : Nat) : Num × Option Int :=
    (valZ a.ftz (elem n w j) (cvtFmt sc), some (quantum (elem n w j) (cvtFmt sc)))
  s.runVx (fun s x => s.vxOp a x (srcs1 a) 3 none (fun u v => u.vxLanes a (fun l g =>
    let w := src v 0 l
    if n ≤ d then
      let r := convertRun (cvtFmt dc) (vxRnd a) a.ftz ((List.range n).map (rd w)) g
      (putElems d (u.mergeLane a l) (part * n) r.1, r.2.1, r.2.2)
    else
      let r := convertRun (cvtFmt dc) (vxRnd a) a.ftz ((List.range d).map (fun j => rd w (part * d + j))) g
      (wordOf d r.1, r.2.1, r.2.2))))

/-- VX_QNT (R192). -/
def execVxQnt (a : VxArgs) (s : State) : Out :=
  let dc := a.fn.toNat / 16
  let d := cvtElems dc
  s.runVx (fun s x => s.vxOp a x (srcs2 a) 3 none (fun u v => u.vxLanes a (fun l g =>
    let p := (valZ a.ftz (src v 0 l).toNat .fp32).mul (valZ a.ftz (src v 1 l).toNat .fp32)
    let r := convertRun (cvtFmt dc) (vxRnd a) a.ftz [(p, none)] g
    (putElems d (u.mergeLane a l) (a.imm.toNat % 4) r.1, r.2.1, r.2.2))))

/-! ### Movement (R193–R195) -/

/-- A result that is a word per lane, without rounding. -/
def State.vxMove (s : State) (a : VxArgs) (x : Entry) (srcs : List Nat) (n : Nat) (y : Option Nat)
    (f : State → List Lanes → Nat → W32) : Option State :=
  s.vxOp a x srcs n y (fun u v => u.vxLanes a (fun l g => (f u v l, false, g)))

/-- VX_MOV (R193). -/
def execVxMov (a : VxArgs) (s : State) : Out :=
  s.runVx (fun s x => s.vxMove a x (srcs1 a) 2 (aluY a) (fun _ v l => src v 0 l))

/-- The poisoned rows that the active words of VX.MOV.LDS or STS touch, by unit number (R144, R193). -/
def State.spadRows (s : State) (a : VxArgs) : List Nat :=
  (s.poisonUnits (spadPa s.cur a.imm.toNat) 256).filter (fun u => (s.spadWords a).any (fun w => spadPa s.cur w / 64 == u))

/-- VX_MOV_LDS (R193, R194). -/
def execVxMovLds (a : VxArgs) (s : State) : Out :=
  s.runVx (fun s x => s.vxIssue x [] (dstQueue a.d.toNat) (fun t => t.vxSpad a) (fun u =>
    let bad := u.spadRows a
    let word (l : Nat) : W32 :=
      let p := spadPa u.cur (a.imm.toNat + 4 * l)
      if bad.contains (p / 64) then 0 else BitVec.ofNat 32 (leNat ((List.range 4).map (fun k => u.byte (p + k))))
    let o := u.vxLanes a (fun l g => (word l, false, g))
    (bad.foldl (fun t r => t.poisonLog 0 Eng.vx.num (64 * r) 0 x.seq) u).vxPend a x 6 none o))

/-- VX_MOV_STS (R193, R194). -/
def execVxMovSts (a : VxArgs) (s : State) : Out :=
  s.runVx (fun s x =>
    let v := s.vxSlot.vxSrc 0 a.a.toNat
    s.vxIssue x (srcs1 a) none (fun t => t.vxSpad a) (fun u =>
      let t := (u.spadRows a).foldl (fun t r => (t.poisonLog 1 Eng.vx.num (64 * r) 0 x.seq).zeroUnit r) u
      let t := ((List.range 64).filter (u.active a)).foldl
        (fun t l => t.writeBytes (spadPa t.cur (a.imm.toNat + 4 * l)) (leBytes 4 (lane v l).toNat)) t
      t.vxDone x))

/-- VX_SEL (R195). -/
def execVxSel (a : VxArgs) (s : State) : Out :=
  s.runVx (fun s x => s.vxMove a x (srcs2 a) 2 (aluY a) (fun u v l =>
    if bit (u.maskReg (a.fn.toNat % 8)).toNat l then src v 0 l else src v 1 l))

/-- VX_SHUF (R195). -/
def execVxShuf (a : VxArgs) (s : State) : Out :=
  let two := bit a.fn.toNat 0
  s.runVx (fun s x => s.vxMove a x (if two then srcs3 a else srcs2 a) 3 none (fun _ v l =>
    let i := (src v 1 l).toNat
    if two then (if i % 128 < 64 then src v 0 (i % 128) else src v 2 (i % 128 - 64)) else src v 0 (i % 64)))

/-- VX_LROT (R195). -/
def execVxLrot (a : VxArgs) (s : State) : Out :=
  let n := a.imm.toNat % 64
  s.runVx (fun s x => s.vxMove a x (srcs1 a) 3 none (fun _ v l =>
    if bit a.fn.toNat 0 then (if n ≤ l then src v 0 (l - n) else 0) else src v 0 ((l + 64 - n) % 64)))

/-! ### Constants, masks, queues, LFSRs (R196–R198) -/

/-- A slot effect that reads the given sources in the slot (R177, R180). -/
def State.vxEffect (s : State) (a : VxArgs) (x : Entry) (srcs : List Nat) (f : State → List Lanes → State) : Option State :=
  let v (t : State) : List Lanes := srcs.map (t.vxSrc a.typ.toNat)
  let t := s.vxSlot
  s.vxIssue x srcs none noSpad (fun u => (f u (v t)).vxDone x)

/-- A k register written. -/
def State.setK (s : State) (n : Nat) (w : W32) : State :=
  s.upd (fun c => { c with vx := { c.vx with k := c.vx.k.setIfInBounds n w } })

/-- VX_KSET (R196). -/
def execVxKset (a : VxArgs) (s : State) : Out :=
  s.runVx (fun s x => s.vxEffect a x [] (fun u _ => u.setK (a.d.toNat % 8) a.imm))

/-- VX_KSET_LANE (R196). -/
def execVxKsetLane (a : VxArgs) (s : State) : Out :=
  s.runVx (fun s x => s.vxEffect a x (srcs1 a) (fun u v => u.setK (a.d.toNat % 8) (src v 0 (a.imm.toNat % 64))))

/-- A mask operation on m[A] and m[B] (R196). -/
def State.vxMop (s : State) (a : VxArgs) (x : Entry) (f : W64 → W64 → W64) : Option State :=
  s.vxEffect a x [] (fun u _ => u.setMask (a.d.toNat % 8) (f (u.maskReg (a.a.toNat % 8)) (u.maskReg (a.b.toNat % 8))))

/-- VX_MOP_AND (R196). -/
def execVxMopAnd (a : VxArgs) (s : State) : Out := s.runVx (fun s x => s.vxMop a x (fun p q => p &&& q))

/-- VX_MOP_OR (R196). -/
def execVxMopOr (a : VxArgs) (s : State) : Out := s.runVx (fun s x => s.vxMop a x (fun p q => p ||| q))

/-- VX_MOP_XOR (R196). -/
def execVxMopXor (a : VxArgs) (s : State) : Out := s.runVx (fun s x => s.vxMop a x (fun p q => p ^^^ q))

/-- VX_MOP_ANDN (R196). -/
def execVxMopAndn (a : VxArgs) (s : State) : Out := s.runVx (fun s x => s.vxMop a x (fun p q => p &&& ~~~q))

/-- VX_MOP_NOT (R196). -/
def execVxMopNot (a : VxArgs) (s : State) : Out := s.runVx (fun s x => s.vxMop a x (fun p _ => ~~~p))

/-- VX_MOP_SET (R196). -/
def execVxMopSet (a : VxArgs) (s : State) : Out := s.runVx (fun s x => s.vxMop a x (fun _ _ => BitVec.allOnes 64))

/-- VX_MOP_CLR (R196). -/
def execVxMopClr (a : VxArgs) (s : State) : Out := s.runVx (fun s x => s.vxMop a x (fun _ _ => 0))

/-- VX_MOP_FROMV (R196). -/
def execVxMopFromv (a : VxArgs) (s : State) : Out :=
  s.runVx (fun s x => s.vxEffect a x (srcs1 a) (fun u v => u.setMask (a.d.toNat % 8) (maskOf (fun l => src v 0 l != 0))))

/-- VX_MOP_TOV (R196). -/
def execVxMopTov (a : VxArgs) (s : State) : Out :=
  s.runVx (fun s x => s.vxMove a x [] 2 (aluY a) (fun u _ l =>
    if bit (u.maskReg (a.a.toNat % 8)).toNat l then 1 else 0))

/-- VX_QCFG (R197): it waits, in empty slots, while a push to its queue is pending. -/
def execVxQcfg (a : VxArgs) (s : State) : Out :=
  let n := a.d.toNat - 64
  s.runVx (fun s x =>
    if s.vxSlot.pendingPushes n ≠ 0 then none
    else s.vxEffect a x [] (fun u _ => u.updQ n (fun _ => ⟨a.imm.toNat % 16, bits a.imm.toNat 4 4, []⟩)))

/-- The LFSRs of active lanes changed (R198). -/
def State.setLfsrs (s : State) (a : VxArgs) (f : Nat → W32 → W32) : State :=
  s.upd (fun c => { c with vx := { c.vx with
    lfsr := lanesOf (fun l => if s.active a l then f l (lane c.vx.lfsr l) else lane c.vx.lfsr l) } })

/-- VX_LFSR_SEEDV (R198). -/
def execVxLfsrSeedv (a : VxArgs) (s : State) : Out :=
  s.runVx (fun s x => s.vxEffect a x (srcs1 a) (fun u v => u.setLfsrs a (fun l _ => src v 0 l)))

/-- VX_LFSR_SEEDI (R198). -/
def execVxLfsrSeedi (a : VxArgs) (s : State) : Out :=
  s.runVx (fun s x => s.vxEffect a x [] (fun u _ => u.setLfsrs a (fun l _ => a.imm + BitVec.ofNat 32 l)))

/-- VX_LFSR_READ (R198). -/
def execVxLfsrRead (a : VxArgs) (s : State) : Out :=
  s.runVx (fun s x => s.vxMove a x [] 2 (aluY a) (fun u _ l => lane u.core.vx.lfsr l))

/-- VX_LFSR_STEP (R198). -/
def execVxLfsrStep (a : VxArgs) (s : State) : Out :=
  s.runVx (fun s x => s.vxEffect a x [] (fun u _ => u.setLfsrs a (fun _ g => lfsrStep g)))

/-! ### Reductions (R199–R202) -/

/-- The FP32 value of lane l of A, `unit` where inactive. -/
def State.redVal (s : State) (a : VxArgs) (v : List Lanes) (unit : Num) (l : Nat) : Num :=
  if s.active a l then valZ a.ftz (src v 0 l).toNat .fp32 else unit

/-- The values of all lanes. -/
def State.redVals (s : State) (a : VxArgs) (v : List Lanes) (unit : Num) : List Num := (List.range 64).map (s.redVal a v unit)

/-- An FP32 word of a value, flushed under FTZ (R91). -/
def redWord (a : VxArgs) (x : Num) : W32 := BitVec.ofNat 32 (flush a.ftz (w32 x).toNat .fp32)

/-- A reduction (R199): `f` gives the word of lane l. -/
def State.vxReduce (s : State) (a : VxArgs) (x : Entry) (f : State → List Lanes → Nat → W32) : Option State :=
  s.vxMove a x (srcs1 a) 6 none f

/-- VX_RSUM (R200): FAST draws its order from the free picks (R95). -/
def execVxRsum (a : VxArgs) (s : State) : Out :=
  s.runVx (fun s x =>
    let r := s.vxReduce a x (fun u v _ =>
      let l := u.redVals a v (.zero true)
      redWord a (match a.prof.toNat with
        | 4 => comp32 l
        | 0 => fastSum s.free 64 l
        | _ => red32 addRn (.zero true) l))
    r.map (fun t => if a.prof = 0 then { t with free := t.free + 192 } else t))

/-- The active lanes of A as INT32. -/
def State.redInts (s : State) (a : VxArgs) (v : List Lanes) : List Int :=
  ((List.range 64).filter (s.active a)).map (fun l => intVal (intU a) 32 (src v 0 l).toNat)

/-- The active lanes of A as FP32. -/
def State.redNums (s : State) (a : VxArgs) (v : List Lanes) : List Num :=
  ((List.range 64).filter (s.active a)).map (s.redVal a v .nan)

/-- VX_RMAX (R199). -/
def execVxRmax (a : VxArgs) (s : State) : Out :=
  s.runVx (fun s x => s.vxReduce a x (fun u v _ =>
    if a.typ = 3 then BitVec.ofInt 32 ((u.redInts a v).foldl max (if intU a then 0 else -2 ^ 31))
    else redWord a ((u.redNums a v).foldl Num.max (.inf true))))

/-- VX_RMIN (R199). -/
def execVxRmin (a : VxArgs) (s : State) : Out :=
  s.runVx (fun s x => s.vxReduce a x (fun u v _ =>
    if a.typ = 3 then BitVec.ofInt 32 ((u.redInts a v).foldl min (if intU a then 2 ^ 32 - 1 else 2 ^ 31 - 1))
    else redWord a ((u.redNums a v).foldl Num.min (.inf false))))

/-- VX_RAMAX (R199). -/
def execVxRamax (a : VxArgs) (s : State) : Out :=
  s.runVx (fun s x => s.vxReduce a x (fun u v _ =>
    redWord a (((u.redNums a v).map Num.abs).foldl Num.max (.zero false))))

/-- VX_PSUM (R201): lane l takes the sum of the active lanes up to it. -/
def execVxPsum (a : VxArgs) (s : State) : Out :=
  s.runVx (fun s x => s.vxReduce a x (fun u v l =>
    let ls := (List.range (l + 1)).filter (u.active a)
    if a.typ = 3 then ls.foldl (fun w i => w + src v 0 i) 0
    else redWord a (ls.foldl (fun acc i => addRn acc (u.redVal a v .nan i)) (.zero true))))

/-- VX_FIRST (R202). -/
def execVxFirst (a : VxArgs) (s : State) : Out :=
  s.runVx (fun s x => s.vxMove a x [] 6 none (fun u _ l =>
    let w := 2 ^ (a.fn.toNat % 8)
    let b := l - l % w
    BitVec.ofNat 32 (((List.range w).find? (fun i =>
      u.active a (b + i) && bit (u.maskReg (a.a.toNat % 8)).toNat (b + i))).getD w)))

end Sys2Proof.Machine
end

