-- ==== Sys2Proof/Machine/Matrix.lean ====
section
/-!
DEFINITION. The matrix engine MX: operands and the loop nest (R204–R207), its instructions (R208–R217), the compute of a tile
(R212, R214 with the profiles R94–R101), begin and release of tiles (R218–R220, R226, R227).
-/

namespace Sys2Proof.Machine

/-! ### Operand types (R204) -/

/-- Bytes of an operand. -/
def mxBytes (t : Nat) : Nat :=
  match t with
  | 0 | 1 | 5 | 6 => 1
  | 10 | 12 => 4
  | _ => 2

/-- Values of k per step. -/
def mxKk (t : Nat) : Nat := if mxBytes t = 1 then 2 else 1

/-- Complex mode. -/
def mxCplx (t : Nat) : Bool := t == 10 || t == 12

/-- Integer accumulators. -/
def mxInt (t : Nat) : Bool := t ≤ 2 || t == 12

/-- Rows NR of a tile, columns N, bytes W of a column. -/
def mxRows (t : Nat) : Nat := if mxCplx t then 64 else 128
def mxCols (t : Nat) : Nat := if mxCplx t then 32 else 64
def mxColBytes (t : Nat) : Nat := if mxCplx t then 8 else 4

/-- The format of a real operand, or of a component. -/
def mxFmt (t : Nat) : Fmt :=
  match t with
  | 0 => .int8 | 1 => .uint8 | 2 => .int12 | 5 => .e4m3 | 6 => .e5m2 | 7 => .bf16 | 12 => .int12
  | _ => .fp16

/-! ### The nest (R206, R207) -/

/-- Level l of a nest. -/
def levelAt (n : Vector NestLevel 6) (l : Nat) : NestLevel := n.toList.getD l NestLevel.zero

/-- Count of level l. -/
def Go.count (g : Go) (l : Nat) : Nat := (levelAt g.nest l).cntm1.toNat + 1

/-- Counts of levels lo to hi − 1. -/
def Go.counts (g : Go) (lo hi : Nat) : List Nat := ((List.range 6).filter (fun l => lo ≤ l && l < hi)).map g.count

/-- S, the steps of a tile, and T, the tiles. -/
def Go.steps (g : Go) : Nat := (g.counts 0 g.kl).foldl (· * ·) 1
def Go.total (g : Go) : Nat := (g.counts g.kl 6).foldl (· * ·) 1

/-- A linear index as the indices of its levels, the first fastest. -/
def digits (n : Nat) (l : List Nat) : List Nat :=
  match l with
  | [] => []
  | c :: r => n % c :: digits (n / c) r

/-- The indices of the six levels at step s of tile t. -/
def Go.index (g : Go) (t s : Nat) : List Nat := digits s (g.counts 0 g.kl) ++ digits t (g.counts g.kl 6)

/-- A sum over levels of index times stride. -/
def Go.along (g : Go) (ix : List Nat) (f : NestLevel → Int) : Int :=
  (ix.zipIdx.map (fun x => (x.1 : Int) * f (levelAt g.nest x.2))).foldl (· + ·) 0

/-- The addresses of step s of tile t. -/
def Go.aAddr (g : Go) (t s : Nat) : Int := g.opnd.abase + g.along (g.index t s) (fun v => v.sa.toInt)
def Go.bAddr (g : Go) (t s : Nat) : Int := g.opnd.bbase + g.along (g.index t s) (fun v => v.sb.toInt)

/-- The origin of tile t: the indices of reduction levels are 0 (R207). -/
def Go.row0 (g : Go) (t : Nat) : Int := g.along (g.index t 0) (fun v => v.cr.toInt)
def Go.col0 (g : Go) (t : Nat) : Int := g.along (g.index t 0) (fun v => v.cc.toInt)

/-- Cell operation of step k (R211). -/
def Go.op (g : Go) (k : Nat) : Nat := bits g.pat (2 * (k % 8)) 2

/-- PAT holds MXP or MNP. -/
def Go.arg (g : Go) : Bool := (List.range 8).any (fun i => decide (2 ≤ g.op i))

/-- The tag of a tile (R212). -/
def Go.tag (g : Go) : AccTag := if g.arg then .arg else if g.prof = 4 then .comp else .plain

/-! ### Set-up instructions (R208–R210) -/

/-- MX state changed. -/
def State.updMx (s : State) (f : Mx → Mx) : State := s.upd (fun c => { c with mx := f c.mx })

/-- MX_NEST (R208). -/
def execMxNest (a : NestArgs) (s : State) : Out :=
  .next (s.starting .mx (fun s x =>
    some ((s.updMx (fun m => { m with staging := m.staging.setIfInBounds a.level.toNat ⟨a.cntm1, a.sa, a.sb, a.cr, a.cc⟩ })).startDone
      .mx x none)))

/-- MX_OPND (R209). -/
def execMxOpnd (a : OpndArgs) (s : State) : Out :=
  let o : OpndSet := ⟨a.ta.toNat, a.tb.toNat, a.ga.toNat, a.gb.toNat, a.pois, a.la, a.lb, a.pa.toNat, a.abase.toNat,
    a.bbase.toNat, a.pb.toNat⟩
  .next (s.starting .mx (fun s x => some ((s.updMx (fun m => { m with opnd := o })).startDone .mx x none)))

/-- MX_ACC (R210). -/
def execMxAcc (a : AccArgs) (s : State) : Out :=
  let o : AccSet := ⟨a.drn, a.mode.toNat, a.lp.toNat, a.lbase.toNat⟩
  .next (s.starting .mx (fun s x => some ((s.updMx (fun m => { m with acc := o })).startDone .mx x none)))

/-! ### The checks of MX.GO (R213) -/

/-- A set of addresses: a base, the (stride, count) of each index, innermost first, the bytes of an item, the bank group. -/
structure AddrSet where
  base : Int
  terms : List (Int × Nat)
  unit : Nat
  grp : Option Nat

/-- The first address of a set that is no multiple of its unit. -/
def AddrSet.misaligned (x : AddrSet) : Option Int :=
  let u : Int := x.unit
  if x.base % u ≠ 0 then some x.base
  else (x.terms.find? (fun t => decide (1 < t.2) && t.1 % u != 0)).map (fun t => x.base + t.1)

/-- The lowest address of a set and its highest item's. -/
def AddrSet.low (x : AddrSet) : Int := x.terms.foldl (fun a t => a + min 0 (t.1 * ((t.2 : Int) - 1))) x.base
def AddrSet.high (x : AddrSet) : Int := x.terms.foldl (fun a t => a + max 0 (t.1 * ((t.2 : Int) - 1))) x.base

/-- The (stride, count) of the tile levels for a stride per level. -/
def Go.tileTerms (g : Go) (f : NestLevel → Int) : List (Int × Nat) :=
  ((List.range 6).filter (fun l => g.kl ≤ l)).map (fun l => (f (levelAt g.nest l), g.count l))

/-- The (stride, count) of all levels. -/
def Go.allTerms (g : Go) (f : NestLevel → Int) : List (Int × Nat) :=
  (List.range 6).map (fun l => (f (levelAt g.nest l), g.count l))

/-- Elements of an operand block as (stride, count) (R205). -/
def blockTerms (strided : Bool) (pitch rows kk e : Nat) : List (Int × Nat) :=
  if strided then [((e : Int), kk), ((pitch : Int), rows)] else [((e : Int), rows * kk)]

/-- The words of the checked range with their indices (R213): up to and with the first EP.END or EPOP 0x00, or word 63. -/
def Mx.range (m : Mx) (eps : Nat) : List (Nat × Nat) :=
  let l := (m.prog.toList.zipIdx.map (fun x => (x.2, x.1.toNat))).drop eps
  let stop (x : Nat × Nat) : Bool := bits x.2 24 8 == 0 || bits x.2 24 8 == 0x10
  l.take ((l.takeWhile (fun x => !stop x)).length + 1)

/-- A store descriptor. -/
def Mx.descAt (m : Mx) (n : Nat) : Desc := m.desc.toList.getD n .none

/-- The address sets of A, B, LOAD and EP.ST, in that order. -/
def Mx.addrSets (m : Mx) (g : Go) : List AddrSet :=
  let o := g.opnd
  let t := o.ta
  let e := mxBytes t
  let a : AddrSet := ⟨o.abase, blockTerms o.la o.pa (mxRows t) (mxKk t) e ++ g.allTerms (fun v => v.sa.toInt), e, some o.ga⟩
  let b : AddrSet := ⟨o.bbase, blockTerms o.lb o.pb (mxCols t) (mxKk t) e ++ g.allTerms (fun v => v.sb.toInt), e, some o.gb⟩
  let l : List AddrSet := if g.acc.mode = 1 then
    [⟨g.acc.lbase, [(4, 64), ((g.acc.lp : Int), mxRows t)] ++
      g.tileTerms (fun v => v.cr.toInt * g.acc.lp + v.cc.toInt * mxColBytes t), 4, none⟩] else []
  let st : List AddrSet := if g.acc.drn then [] else
    (m.range g.eps).filterMap (fun w =>
      match bits w.2 24 8, m.descAt (bits w.2 13 2) with
      | 0xD, .sp _ esz cb bytes base pitch =>
        let p := sint pitch 32
        some ⟨base, [((esz : Int), bytes / esz), (p, mxRows t)] ++ g.tileTerms (fun v => v.cr.toInt * p + v.cc.toInt * cb), esz, none⟩
      | _, _ => none)
  [a, b] ++ l ++ st

/-- The profiles a type accepts (R94, R213 step 1). -/
def mxProfOk (t prof : Nat) : Bool :=
  if t = 10 then prof == 0 || prof == 7
  else if t = 12 then prof == 0 || prof == 8
  else if mxInt t then prof == 0 || prof == 5 || prof == 6
  else prof ≤ 4

/-- The structural condition that a word of the checked range fails (R213 step 2, codes 4 to 7). -/
def State.wordCode (s : State) (g : Go) (last : Nat) (x : Nat × Nat) : Option Nat :=
  let w := x.2
  let m := s.core.mx
  let full := mxRows g.opnd.ta = 128
  match bits w 24 8 with
  | 7 => if full && bit w 8 && bits w 15 3 == 7 then some 4 else none
  | 8 => if full && bit w 8 && bits w 15 3 == 7 then some 4 else none
  | 0xB => if full && bits w 21 3 == 7 then some 4 else none
  | 0xD => (match m.descAt (bits w 13 2) with
    | .sp .. => none
    | .qu _ => none
    | _ => some 5)
  | 0xE => (match m.descAt (bits w 13 2) with
    | .tg ne tid _ _ _ _ =>
      if tid = 0 || 0xDFF < tid then some 6
      else match s.descriptor (s.regime 0) (gaddr tid 0) tid with
        | .error _ => none
        | .ok t => if t.typ = 13 || (if t.e = 8 then 32 else 64) < ne then some 6 else none
    | _ => some 5)
  | 0xF => if last < x.1 + 1 + bits w 0 6 then some 7 else none
  | _ => none

/-- The least code of R213 step 2 that holds. -/
def State.structCode (s : State) (g : Go) : Option Nat :=
  if mxCplx g.opnd.ta && g.pat != 0 then some 1
  else if g.acc.drn && decide (1 < g.total) then some 2
  else if (List.range g.kl).any (fun l => (levelAt g.nest l).cr != 0 || (levelAt g.nest l).cc != 0) then some 3
  else if g.acc.drn then none
  else
    let r := s.core.mx.range g.eps
    let c := r.filterMap (s.wordCode g ((r.getLast?.map (·.1)).getD 63))
    c.foldl (fun b k => match b with
      | none => some k
      | some j => some (min j k)) none

/-- A cause at an address of the own scratchpad, reported as a tid-0 address. -/
def spadTrap (c : Cause) (a : Int) : Trap := ⟨c, BitVec.ofInt 64 (a % 2 ^ 48)⟩

/-- A byte of a set that lies outside its bank group (R213 step 6). -/
def AddrSet.outside (x : AddrSet) : Option Int :=
  match x.grp with
  | none => none
  | some g =>
    if x.low / 2 ^ 20 ≠ g then some x.low
    else if (x.high + x.unit - 1) / 2 ^ 20 ≠ g then some (x.high + x.unit - 1) else none

/-- The first check of R213 that fails; which of several failing addresses EVAL holds is log entry 81 (DESIGN CHOICE). -/
def State.goCheck (s : State) (g : Go) : Option Trap :=
  let o := g.opnd
  let sets := s.core.mx.addrSets g
  if !mxProfOk o.ta g.prof || (g.arg && !(g.prof == 0 || g.prof == 1 || g.prof == 5 || g.prof == 6)) then
    some ⟨.profile, BitVec.ofNat 64 g.prof⟩
  else match s.structCode g with
  | some c => some ⟨.illegalInstruction, BitVec.ofNat 64 c⟩
  | none =>
    if o.ga = o.gb then some ⟨.mxBank, 0⟩
    else match sets.findSome? AddrSet.misaligned with
    | some a => some (spadTrap .align a)
    | none =>
      match sets.findSome? (fun x => if x.low < 0 then some x.low
          else if (Config.spadBytes : Int) < x.high + x.unit then some x.high else none) with
      | some a => some (spadTrap .translation a)
      | none =>
        match sets.findSome? AddrSet.outside with
        | some a => some (spadTrap .mxBank a)
        | none =>
          if g.acc.drn then none
          else ((s.core.mx.range g.eps).findSome? (fun w =>
            match bits w.2 24 8, s.core.mx.descAt (bits w.2 13 2) with
            | 0xD, .qu q => if (s.opQ q).prod ≠ Eng.mx.num then some q else none
            | _, _ => none)).map (fun q => ⟨.queueBind, BitVec.ofNat 64 q⟩)

/-! ### MX.GO (R211, R213, R218) -/

/-- Every tile of every started MX.GO has begun: the array is free. -/
def Mx.arrayFree (m : Mx) : Bool := m.gos.all (fun g => decide (g.total ≤ g.next))

/-- Accumulator n is released. -/
def Mx.accFree (m : Mx) (n : Nat) : Bool := m.tiles.all (fun t => t.acc != n)

/-- The present cycle on MX's own time: that of EP's next word, where a tile drains. -/
def Mx.now (m : Mx) : Nat :=
  match (m.tiles.head?).bind (·.drain) with
  | some d => d.cycle
  | none => max m.arrayAt m.relAt

/-- What an MX.GO takes at its start. -/
def State.goOf (s : State) (a : GoArgs) (x : Entry) : Go :=
  let m := s.core.mx
  ⟨x.seq, x.det, m.staging, m.opnd, m.acc, a.pat.toNat, a.kl.toNat, a.eps.toNat, a.long.prof.toNat, 0, 0, m.now⟩

/-- MX.GO starts (R213). -/
def State.startGo (s : State) (a : GoArgs) (x : Entry) : Option State :=
  let m := s.core.mx
  let g := s.goOf a x
  if !m.arrayFree || !m.accFree m.na then none
  else match s.goCheck g with
    | some t => some (s.refuse .mx x t)
    | none => some ((s.start .mx x .started).updMx (fun m => { m with active := m.staging, gos := m.gos ++ [g] }))

/-- MX_GO (R213). -/
def execMxGo (a : GoArgs) (s : State) : Out := .next (s.starting .mx (fun s x => s.startGo a x))

/-! ### Terms and accumulation (R96–R101, R214) -/

/-- A list in groups of n. -/
def chunks (n fuel : Nat) (l : List Num) : List (List Num) :=
  match fuel, l with
  | _, [] => []
  | 0, l => [l]
  | k + 1, l => l.take n :: chunks n k (l.drop n)

/-- S of a group of W48X16 (R99); NaN and infinities as R96 has them. -/
def windowSum (l : List Num) : Num :=
  let fin := l.filterMap (fun x => match x with
    | .fin m e => some (m, e)
    | _ => none)
  if l.any (fun x => x.isNan || x.isInf) || fin.isEmpty then sumAll false l
  else
    let top := fin.foldl (fun b x => max b (lg x.1 x.2)) (lg (fin.headD (1, 0)).1 (fin.headD (1, 0)).2)
    let q := top - 47
    let unit (x : Int × Int) : Int :=
      let n : Nat := if q ≤ x.2 then x.1.natAbs * 2 ^ (x.2 - q).toNat else x.1.natAbs / 2 ^ (q - x.2).toNat
      if x.1 < 0 then -(n : Int) else n
    Num.of (fin.foldl (fun a x => a + unit x) 0) q

/-- A cell's terms accumulated under a float profile (R97–R99; FAST within R95 with the free picks from k on). -/
def floatAcc (prof k : Nat) (hi lo : Num) (p : List Num) : Num × Num :=
  match prof with
  | 0 => (rn32 (fastSum k (p.length + 1) (hi :: p)), lo)
  | 2 => ((chunks 4 p.length p).foldl (fun a g => rn32 (sumAll false (a :: g))) hi, lo)
  | 3 => ((chunks 16 p.length p).foldl (fun a g => rn32 (a.add false (windowSum g))) hi, lo)
  | 4 => p.foldl (fun c t => csum c.1 c.2 t) (hi, lo)
  | _ => (p.foldl (fun a t => rn32 (a.add false t)) hi, lo)

/-- An INT32 step (R100). -/
def intStep (prof : Nat) (a t : Int) : Int := if prof = 5 then sat32 (a + t) else sint (ofInt 32 (a + t)) 32

/-- The term of a cell step (R96, R214). -/
def floatTerm (op : Nat) (a b : Num) : Num := if op = 0 then a.mul b else (a.sub false b).abs
def intTerm (op : Nat) (a b : Int) : Int := if op = 0 then a * b else ((a - b).natAbs : Int)

/-- `better` of R214 under the order of R104. -/
def better (mxp : Bool) (v acc : Num) : Bool :=
  if v.isNan || acc.isNan then v.isNan && !acc.isNan
  else if v.isZero && acc.isZero then (if mxp then acc.neg? && !v.neg? else v.neg? && !acc.neg?)
  else if mxp then acc.lt v else v.lt acc

/-- A compare-select cell over float operands (R214): accumulator and index. -/
def argFloat (g : Go) (acc : Num) (ix : Nat) (l : List (Num × Num)) : Num × Nat :=
  l.zipIdx.foldl (fun (c : Num × Nat) x =>
    let o := g.op x.2
    if o < 2 then (rn32 (c.1.add false (floatTerm o x.1.1 x.1.2)), c.2)
    else
      let v := rn32 (x.1.1.add false x.1.2)
      if better (o == 2) v c.1 then (v, x.2 % 2 ^ 32) else c) (acc, ix)

/-- A compare-select cell over integer operands (R214). -/
def argInt (g : Go) (acc : Int) (ix : Nat) (l : List (Int × Int)) : Int × Nat :=
  l.zipIdx.foldl (fun (c : Int × Nat) x =>
    let o := g.op x.2
    if o < 2 then (intStep g.prof c.1 (intTerm o x.1.1 x.1.2), c.2)
    else
      let v := x.1.1 + x.1.2
      if (if o = 2 then decide (c.1 < v) else decide (v < c.1)) then (v, x.2 % 2 ^ 32) else c) (acc, ix)

/-- The complex product's exact parts (R96, R101). -/
def cplxPart (im : Bool) (a b : Cx) : Num := if im then mulIm false a b else mulRe false a b

/-- A component of a complex cell (R101, R96): CPLX16, FAST on CF16, or CI12X. -/
def cplxAcc (g : Go) (k : Nat) (acc : Num) (im : Bool) (l : List (Cx × Cx)) : Num :=
  let p := l.map (fun x => cplxPart im x.1 x.2)
  if g.opnd.ta = 12 then p.foldl (fun a t => Num.of (sat32 (a.add false t).toInt) 0) acc
  else if g.prof = 0 then rn32 (fastSum k (p.length + 1) (acc :: p))
  else p.foldl (fun a t => rn32 (a.add false (rn32 t))) acc

/-! ### A tile's operands (R205) -/

/-- The runs of one block: a whole block when contiguous, else one run per row. -/
def blockRuns (strided : Bool) (pitch rows n : Nat) (a : Int) : List (Nat × Nat) :=
  if strided then (List.range rows).map (fun m => (a.toNat + m * pitch, n)) else [(a.toNat, rows * n)]

/-- Runs of the own scratchpad as places. -/
def State.ownRuns (s : State) (l : List (Nat × Nat)) : List (Nat × Nat × Place) :=
  l.filterMap (fun r => (s.spanPlace .engine 0 r.1 r.2).toOption.map (fun p => (r.1, r.2, p)))

/-- The A and B blocks of step s of tile t. -/
def Go.aRuns (g : Go) (t s : Nat) : List (Nat × Nat) :=
  let o := g.opnd
  blockRuns o.la o.pa (mxRows o.ta) (mxKk o.ta * mxBytes o.ta) (g.aAddr t s)
def Go.bRuns (g : Go) (t s : Nat) : List (Nat × Nat) :=
  let o := g.opnd
  blockRuns o.lb o.pb (mxCols o.ta) (mxKk o.ta * mxBytes o.ta) (g.bAddr t s)

/-- The rows that LOAD reads for tile t (R212). -/
def Go.loadRuns (g : Go) (t : Nat) : List (Nat × Nat) :=
  let w := g.opnd.ta
  if g.acc.mode = 1 then
    (List.range (mxRows w)).map (fun (r : Nat) =>
      ((g.acc.lbase + (g.row0 t + r) * g.acc.lp + g.col0 t * mxColBytes w).toNat, 256))
  else []

/-- The runs of a tile, in order of use. -/
def Go.tileRuns (g : Go) (t : Nat) : List (Nat × Nat) :=
  g.loadRuns t ++ ((List.range g.steps).map (fun k => g.aRuns t k ++ g.bRuns t k)).flatten

/-- The bytes of element (m, j) in the bytes of a block (R205). -/
def blockElem (strided : Bool) (rows kk e m j : Nat) (d : List Byte) : Nat :=
  leNat ((d.drop ((if strided then m * kk + j else j * rows + m) * e)).take e)

/-- Operand values of row or column m over k, from the blocks of the steps. -/
def operand {α : Type} (dec : Nat → α) (strided : Bool) (rows kk e : Nat) (blocks : List (List Byte)) (m : Nat) : List α :=
  (blocks.map (fun d => (List.range kk).map (fun j => dec (blockElem strided rows kk e m j d)))).flatten

/-- A complex operand (R82). -/
def cxOf (f : Fmt) (b : Nat) : Cx := ⟨val (b % 2 ^ 16) f, val (b / 2 ^ 16) f⟩

/-- What a tile has read: the LOAD rows, the blocks, the state, the cause of the completion boundary. -/
structure TileData where
  load : List (List Byte)
  a : List (List Byte)
  b : List (List Byte)
  s : State
  trap : Option Trap

/-- One group of runs read for a tile (R226). -/
def State.tileRead (s : State) (g : Go) (l : List (Nat × Nat)) : Span :=
  s.readRuns Eng.mx.num g.seq g.det g.opnd.pois (s.ownRuns l)

/-- Everything a tile reads. -/
def State.tileData (s : State) (g : Go) (t : Nat) : TileData :=
  let ld := (g.loadRuns t).foldl (fun (r : TileData) q =>
    let d := r.s.tileRead g [q]
    { r with load := r.load ++ [d.data], s := d.st, trap := r.trap.or d.trap }) ⟨[], [], [], s, none⟩
  (List.range g.steps).foldl (fun (r : TileData) k =>
    let p := r.s.tileRead g (g.aRuns t k)
    let q := p.st.tileRead g (g.bRuns t k)
    { r with a := r.a ++ [p.data], b := r.b ++ [q.data], s := q.st, trap := (r.trap.or p.trap).or q.trap }) ld

/-! ### Compute of a tile (R212, R214) -/

/-- An accumulator's starting values under the mode (R212). -/
def Go.begun (g : Go) (a : Acc) (load : List (List Byte)) : Acc :=
  let zero := Vector.replicate 128 zeroLanes
  let comp := if g.acc.mode = 2 && a.tag = g.tag then a.comp
    else if g.arg then Vector.replicate 128 (Vector.replicate 64 (BitVec.allOnes 32)) else zero
  let rows := match g.acc.mode with
    | 2 => a.rows
    | 1 => ⟨((List.range 128).map (fun r => rawLanes (load.getD r []))).toArray, by simp⟩
    | _ => zero
  ⟨rows, comp, g.tag⟩

/-- Lane l of row m of an accumulator. -/
def accLane (v : Vector Lanes 128) (m l : Nat) : W32 := lane (v.toList.getD m zeroLanes) l

/-- A real cell (R214): its value and companion words. -/
def Go.cell (g : Go) (k : Nat) (v c : W32) (av bv : List Nat) : W32 × W32 :=
  let fa := mxFmt g.opnd.ta
  let fb := mxFmt g.opnd.tb
  if mxInt g.opnd.ta then
    let l := (av.zip bv).map (fun x => ((val x.1 fa).toInt, (val x.2 fb).toInt))
    if g.arg then
      let r := argInt g (sint v.toNat 32) c.toNat l
      (BitVec.ofInt 32 r.1, BitVec.ofNat 32 r.2)
    else
      let r := l.zipIdx.foldl (fun a x => intStep g.prof a (intTerm (g.op x.2) x.1.1 x.1.2)) (sint v.toNat 32)
      (BitVec.ofInt 32 r, c)
  else
    let l := (av.zip bv).map (fun x => (val x.1 fa, val x.2 fb))
    if g.arg then
      let r := argFloat g (f32 v) c.toNat l
      (w32 r.1, BitVec.ofNat 32 r.2)
    else
      let p := l.zipIdx.map (fun x => floatTerm (g.op x.2) x.1.1 x.1.2)
      let r := floatAcc g.prof k (f32 v) (f32 c) p
      (w32 r.1, if g.prof = 4 then w32 r.2 else c)

/-- A word of a complex cell's accumulator: lane l of row m, component l mod 2 of cell (m, l / 2). -/
def Go.cplxCell (g : Go) (k : Nat) (v : W32) (im : Bool) (av bv : List Nat) : W32 :=
  let f := mxFmt g.opnd.ta
  let l := (av.zip bv).map (fun x => (cxOf f x.1, cxOf f x.2))
  if g.opnd.ta = 12 then BitVec.ofInt 32 (cplxAcc g k (Num.of (sint v.toNat 32) 0) im l).toInt
  else w32 (cplxAcc g k (f32 v) im l)

/-- An accumulator after a tile's compute. -/
def Go.computed (g : Go) (k : Nat) (a : Acc) (d : TileData) : Acc :=
  let o := g.opnd
  let kk := mxKk o.ta
  let e := mxBytes o.ta
  let row (m : Nat) : List Nat := operand id o.la (mxRows o.ta) kk e d.a m
  let col (n : Nat) : List Nat := operand id o.lb (mxCols o.ta) kk e d.b n
  let picks := 3 * (kk * g.steps + 1)
  let word (m l : Nat) : W32 × W32 :=
    let v := accLane a.rows m l
    let c := accLane a.comp m l
    let k := k + picks * (64 * m + l)
    if mxRows o.ta ≤ m then (v, c)
    else if mxCplx o.ta then (g.cplxCell k v (l % 2 = 1) (row m) (col (l / 2)), c)
    else g.cell k v c (row m) (col l)
  ⟨⟨((List.range 128).map (fun m => lanesOf (fun l => (word m l).1))).toArray, by simp⟩,
   ⟨((List.range 128).map (fun m => lanesOf (fun l => (word m l).2))).toArray, by simp⟩, a.tag⟩

/-- A started MX.GO changed. -/
def State.updGo (s : State) (seq : W32) (f : Go → Go) : State :=
  s.updMx (fun m => { m with gos := m.gos.map (fun g => if g.seq = seq then f g else g) })

/-- An accumulator. -/
def Mx.accAt (m : Mx) (n : Nat) : Acc := m.accs.toList.getD n ⟨Vector.replicate 128 zeroLanes, Vector.replicate 128 zeroLanes, .plain⟩

/-- b_j of R219 for the next tile of g: the array is free and A[NA] released, and for the first tile the entry has started. -/
def Mx.beginsAt (m : Mx) (g : Go) : Nat :=
  max (max m.arrayAt (m.relAcc.toList.getD m.na 0)) (if g.next = 0 then g.start else 0)

/-- t_j of R219: LOAD takes a cycle a row first. -/
def Go.stepsAt (g : Go) (b : Nat) : Nat := b + (if g.acc.mode = 1 then mxRows g.opnd.ta else 0)

/-- A tile has read its operands `d` (R212, R219): it is computed in accumulator NA, and waits for its drain. -/
def State.tileDone (s : State) (g : Go) (b : Nat) (d : TileData) : State :=
  let n := s.core.mx.na
  let t := g.next
  let acc := g.computed s.free (g.begun (s.core.mx.accAt n) d.load) d
  let free := g.stepsAt b + g.steps
  let tile : Tile := ⟨g.seq, t, n, g.row0 t, g.col0 t, mxRows g.opnd.ta, g.eps, none, false, free + 6⟩
  let s := if g.prof = 0 then { d.s with free := d.s.free + 3 * 64 * 128 * (mxKk g.opnd.ta * g.steps + 1) } else d.s
  let s := s.updMx (fun m => { m with
    accs := m.accs.setIfInBounds n acc, tiles := m.tiles ++ [tile], na := if g.acc.drn then n else 1 - n, reading := none,
    arrayAt := free })
  (s.updGo g.seq (fun g => { g with next := g.next + 1 })).updEntry .mx g.seq (fun y => { y with pend := y.pend.or d.trap })

/-- The next tile of g begins with no earlier one to be drained, so that no EP.ST falls between its reads: they are one step. -/
def State.tileBegin (s : State) (g : Go) : State := s.tileDone g (s.core.mx.beginsAt g) (s.tileData g g.next)

/-- The next tile of g begins while an earlier one is still to be drained: its reads keep R219's order with EP's stores. -/
def State.readBegin (s : State) (g : Go) : State :=
  s.updMx (fun m => { m with reading := some ⟨g.seq, m.beginsAt g, [], [], [], none, false⟩ })

/-- The next reads of a tile and their cycle (R219): a LOAD row, or the blocks of a step. -/
def Reading.next (r : Reading) (g : Go) : Option (Nat × List (Nat × Nat)) :=
  let l := g.loadRuns g.next
  match l[r.load.length]? with
  | some q => some (r.begins + r.load.length, [q])
  | none =>
    if r.a.length < g.steps then some (g.stepsAt r.begins + r.a.length, g.aRuns g.next r.a.length ++ g.bRuns g.next r.a.length)
    else none

/-- Those reads are made. -/
def State.readNext (s : State) (g : Go) (r : Reading) : State × Reading :=
  match (g.loadRuns g.next)[r.load.length]? with
  | some q =>
    let d := s.tileRead g [q]
    (d.st, { r with load := r.load ++ [d.data], trap := r.trap.or d.trap, held := false })
  | none =>
    let p := s.tileRead g (g.aRuns g.next r.a.length)
    let q := p.st.tileRead g (g.bRuns g.next r.a.length)
    (q.st, { r with a := r.a ++ [p.data], b := r.b ++ [q.data], trap := (r.trap.or p.trap).or q.trap, held := false })

/-- The tile that reads makes its reads in their order, those of a cycle up to `upto` where one is given: none where R26 holds one,
else the state, in which the tile is computed once nothing is left to read. -/
def State.readOn (s : State) (g : Go) (r : Reading) (upto : Option Nat) (fuel : Nat) : Option State :=
  match r.next g with
  | none => some (s.tileDone g r.begins ⟨r.load, r.a, r.b, s, r.trap⟩)
  | some (c, l) =>
    match fuel with
    | 0 => some (s.updMx (fun m => { m with reading := some r }))
    | n + 1 =>
      if (match upto with
        | some u => decide (u < c)
        | none => false) then some (s.updMx (fun m => { m with reading := some r }))
      else if l.any (fun q => s.sbHit q.1 q.2) then none
      else let x := s.readNext g r; x.1.readOn g x.2 upto n

/-- The started MX.GO with a sequence number. -/
def Mx.goAt (m : Mx) (seq : W32) : Option Go := m.gos.find? (fun g => g.seq == seq)

/-- What the tile that reads has due up to a cycle of MX's own time, or all of it. -/
def State.readDue (s : State) (upto : Option Nat) : Option State :=
  match s.core.mx.reading with
  | none => some s
  | some r => match s.core.mx.goAt r.go with
    | some g => s.readOn g r upto (128 + g.steps)
    | none => some s

/-- The next tile that may begin: the first MX.GO with one, its accumulator released, no stop. -/
def State.nextTile (s : State) : Option Go :=
  if s.core.qstop || s.core.mx.reading.isSome || !s.core.mx.accFree s.core.mx.na then none
  else s.core.mx.gos.find? (fun g => decide (g.next < g.total))

/-- MX stands at a cycle of its own time (R219): a tile that begins up to then has begun, and what it reads up to then is read. -/
def State.mxReach (s : State) (c : Nat) : Option State :=
  let t := match s.nextTile with
    | some g => if s.core.mx.beginsAt g ≤ c then s.readBegin g else s
    | none => s
  t.readDue (some c)

/-- R26 holds the next reads of the tile that reads: its compute stands (R219). -/
def State.readStall (s : State) : State :=
  s.rsbStall.updMx (fun m => { m with reading := m.reading.map (fun r => { r with held := true }) })

/-- A tile is still to be drained, or in its drain, and not held: EP may yet store. -/
def Mx.mayStore (m : Mx) : Bool := m.tiles.any (fun t => !t.held && !(t.drain.isNone && ((m.goAt t.go).map (fun g => g.acc.drn)).getD false))

/-- MX_TILE_BEGIN (R219): the first MX.GO with a tile to begin, its accumulator released and its reads not held (R26, R220); while an
earlier tile drains, EP's words bring the reads on. -/
def execMxTileBegin (s : State) : Out :=
  let m := s.core.mx
  .next (if s.frozen then s
    else if m.reading.isSome then (if m.mayStore then s else (s.readDue none).getD s.readStall)
    else match s.nextTile with
    | none => s
    | some g =>
      if m.mayStore then s.readBegin g
      else if (g.tileRuns g.next).any (fun r => s.sbHit r.1 r.2) then s.rsbStall
      else s.tileBegin g)

/-- The started MX.GO of a tile. -/
def Mx.goOfTile (m : Mx) (t : Tile) : Option Go := m.gos.find? (fun g => g.seq == t.go)

/-- Tile t may be released: its drain has run its last row, or it has no drain (R219). -/
def Mx.releasable (m : Mx) (t : Tile) : Bool :=
  match t.drain with
  | some d => !t.held && decide (t.nr ≤ d.row)
  | none => ((m.goOfTile t).map (fun g => g.acc.drn)).getD false

/-- MX_TILE_RELEASE (R218, R219): the accumulator is released; the last release completes the MX.GO. -/
def execMxTileRelease (s : State) : Out :=
  .next (if s.frozen then s
    else match s.core.mx.tiles with
    | [] => s
    | t :: r =>
      if !s.core.mx.releasable t then s
      else
        let c := ((t.drain).map (·.cycle)).getD t.ready
        let s := (s.updMx (fun m => { m with tiles := r, relAt := c, relAcc := m.relAcc.setIfInBounds t.acc c })).updGo t.go (fun g => { g with released := g.released + 1 })
        match s.core.mx.goOfTile t with
        | some g =>
          if g.released < g.total then s
          else (s.updMx (fun m => { m with gos := m.gos.filter (fun h => h.seq != t.go) })).finish .mx t.go none
        | none => s)

/-- MX_TILE_DRAIN (R219, R228): the first computed tile begins its drain with a snapshot of EP; a held one, once the queues
run again, begins anew from its snapshot, without the pushes it made before. -/
def execMxTileDrain (s : State) : Out :=
  let m := s.core.mx
  .next (if s.frozen then s
    else match m.tiles with
    | [] => s
    | t :: r =>
      match t.drain with
      | some d =>
        if !t.held || s.core.qstop then s
        else s.updMx (fun m => { m with
          e := d.snapE, lfsr := d.snapLfsr,
          tiles := { t with held := false, drain := some { d with row := 0, pc := t.eps, pushes := 0, skip := max d.skip d.pushes, cycle := max d.cycle m.arrayAt } } :: r })
      | none =>
        if m.releasable t then s
        else s.updMx (fun m => { m with tiles := { t with drain := some ⟨0, t.eps, m.e, m.lfsr, 0, 0, false, max t.ready m.relAt⟩ } :: r }))

/-! ### MX.ACCST, MX.EPLD, MX.EPARG (R215–R217) -/

/-- Every earlier MX.GO has completed. -/
def State.gosDone (s : State) (x : Entry) : Bool :=
  ((s.eng .mx).q.takeWhile (fun y => y.seq != x.seq)).all (fun y => y.img.opc != 4 || y.phase == .done)

/-- The words of accumulator row r that MX.ACCST writes (R215). -/
def accstRow (a : Acc) (part : Bool) (r : Nat) : Lanes :=
  lanesOf (fun l =>
    let v := accLane a.rows r l
    let c := accLane a.comp r l
    if part then c else if a.tag = .comp then w32 ((f32 v).add false (f32 c)) else v)

/-- MX.ACCST starts (R215). -/
def State.startAccst (s : State) (a : AccstArgs) (x : Entry) : Option State :=
  let o := a.off.toNat
  let p := a.pitch.toNat
  if !s.gosDone x then none
  else if p % 4 ≠ 0 || p < 256 then some (s.refuse .mx x ⟨.illegalInstruction, 1⟩)
  else if o % 4 ≠ 0 then some (s.refuse .mx x (gaTrap .align o))
  else match s.runPlaces 0 ((List.range 128).map (fun r => (o + r * p, 256))) with
    | .error t => some (s.refuse .mx x t)
    | .ok l =>
      let acc := s.core.mx.accAt (b2n a.acc)
      let d := ((List.range 128).map (fun r => laneBytes (accstRow acc a.part r))).flatten
      let w := s.storeRuns Eng.mx.num x.seq x.det true a.pois d l
      some (w.1.startDone .mx x w.2)

/-- MX_ACCST (R215). -/
def execMxAccst (a : AccstArgs) (s : State) : Out := .next (s.starting .mx (fun s x => s.startAccst a x))

/-- The places of n words at an offset of a tid that MX reads. -/
def State.wordPlaces (s : State) (tid off n : Nat) : Except Trap (List (Nat × Nat × Place)) :=
  (s.runPlaces tid ((List.range n).map (fun i => (off + 4 * i, 4)))).map (s.resolved .mx)

/-- n words read at a global address in a pre-start check (R216, R217): alignment, the checks of R142, the range scoreboard,
poison with a scratchpad treated as TRAP. `go` goes on with the words. -/
def State.startWords (s : State) (x : Entry) (tid off n : Nat) (go : State → List Nat → State) : Option State :=
  if !s.gosDone x then none
  else if off % 4 ≠ 0 then some (s.refuse .mx x (trAt .align false (gaddr tid off)))
  else match s.wordPlaces tid off n with
    | .error t => some (s.refuse .mx x t)
    | .ok l =>
      if s.runHolds l then some (s.parkRuns .mx l)
      else if s.runsHeld l then some s.rsbStall
      else
        let d := s.readRuns Eng.mx.num x.seq x.det false l
        match d.trap with
        | some t => some ((d.st.runsMade .mx l).refuse .mx x t)
        | none => some (go (d.st.runsMade .mx l) ((List.range n).map (fun i => leNat ((d.data.drop (4 * i)).take 4))))

/-- EP program words replaced from word `at_` on. -/
def putProg (p : Vector W32 64) (at_ : Nat) (l : List Nat) : Vector W32 64 :=
  l.zipIdx.foldl (fun p x => p.setIfInBounds (at_ + x.2) (BitVec.ofNat 32 x.1)) p

/-- MX.EPLD starts (R216, R63). -/
def State.startEpld (s : State) (a : EpldArgs) (x : Entry) : Option State :=
  s.startWords x a.tid.toNat (a.offhi.toNat * 2 ^ 32 + a.a.toNat) a.n.toNat (fun s l =>
    match l.zipIdx.find? (fun w => !epDefined w.1) with
    | some w => s.refuse .mx x ⟨.illegalInstruction, BitVec.ofNat 64 (w.1 * 2 ^ 32 + a.at_.toNat + w.2)⟩
    | none => (s.updMx (fun m => { m with prog := putProg m.prog a.at_.toNat l })).startDone .mx x none)

/-- MX_EPLD (R216). -/
def execMxEpld (a : EpldArgs) (s : State) : Out := .next (s.starting .mx (fun s x => s.startEpld a x))

/-- An e register written. -/
def Mx.setE (m : Mx) (n : Nat) (v : Lanes) : Mx := { m with e := m.e.setIfInBounds n v }

/-- An MX.EPARG that reads nothing (R217). -/
def State.startEparg (s : State) (x : Entry) (f : Mx → Mx) : Option State :=
  if !s.gosDone x then none else some ((s.updMx f).startDone .mx x none)

/-- A descriptor written. -/
def Mx.setDesc (m : Mx) (n : Nat) (d : Desc) : Mx := { m with desc := m.desc.setIfInBounds n d }

/-- MX_EPARG_LD (R217). -/
def execMxEpargLd (a : EpargArgs) (s : State) : Out :=
  .next (s.starting .mx (fun s x =>
    s.startWords x (bits a.h12.toNat 0 12) (bits a.h12.toNat 12 4 * 2 ^ 32 + a.p0.toNat) 64 (fun s l =>
      (s.updMx (fun m => m.setE a.idx.toNat (lanesOf (fun i => BitVec.ofNat 32 (l.getD i 0))))).startDone .mx x none)))

/-- MX_EPARG_BC (R217). -/
def execMxEpargBc (a : EpargArgs) (s : State) : Out :=
  .next (s.starting .mx (fun s x => s.startEparg x (fun m => m.setE a.idx.toNat (Vector.replicate 64 a.p0))))

/-- MX_EPARG_SP (R217). -/
def execMxEpargSp (a : EpargArgs) (s : State) : Out :=
  let h := a.h3.toNat
  .next (s.starting .mx (fun s x => s.startEparg x (fun m => m.setDesc a.idx.toNat
    (.sp (bit h 15) (2 ^ bits h 13 2) (2 ^ bits h 11 2) (bits h 0 9) a.p0.toNat a.p1.toNat))))

/-- MX_EPARG_TG (R217). -/
def execMxEpargTg (a : EpargArgs) (s : State) : Out :=
  .next (s.starting .mx (fun s x => s.startEparg x (fun m => m.setDesc a.idx.toNat
    (.tg (bits a.h3.toNat 0 9) (bits a.h12.toNat 0 12) a.p0.toNat a.p1.toNat a.p2.toNat a.p3.toNat))))

/-- MX_EPARG_QU (R217). -/
def execMxEpargQu (a : EpargArgs) (s : State) : Out :=
  .next (s.starting .mx (fun s x => s.startEparg x (fun m => m.setDesc a.idx.toNat (.qu (bits a.h3.toNat 0 3)))))

end Sys2Proof.Machine
end

