-- ==== Sys2Proof/Machine/Epilogue.lean ====
section
/-!
DEFINITION. The epilogue processor EP (R221–R225): one word per step on the row of the draining tile, its stores, their faults
(R226), its queue pushes (R225, R228).
-/

namespace Sys2Proof.Machine

/-! ### The word loop (R221) -/

/-- The tile in its drain, with a row still to run. -/
def Mx.draining (m : Mx) : Option (Tile × Drain) :=
  match m.tiles with
  | [] => none
  | t :: _ =>
    match t.drain with
    | some d => if t.held || decide (t.nr ≤ d.row) then none else some (t, d)
    | none => none

/-- The drain of the first tile changed. -/
def Mx.setDrain (m : Mx) (d : Drain) : Mx :=
  match m.tiles with
  | [] => m
  | t :: r => { m with tiles := { t with drain := some d } :: r }

/-- The drain after n words' worth of the program counter (R221), a cycle later: word 64 ends the row. -/
def Drain.advance (d : Drain) (eps n : Nat) : Drain :=
  if 64 ≤ d.pc + n then { d with row := d.row + 1, pc := eps, waits := false, cycle := d.cycle + 1 }
  else { d with pc := d.pc + n, waits := false, cycle := d.cycle + 1 }

/-- EP moves on to the next word. -/
def State.epNext (s : State) (t : Tile) (d : Drain) (n : Nat) : State := s.updMx (fun m => m.setDrain (d.advance t.eps n))

/-- A word executed on the draining tile. -/
def State.runEp (s : State) (f : State → Tile → Drain → State) : Out :=
  .next (if s.frozen then s
    else match s.core.mx.draining with
    | none => s
    | some (t, d) => f s t d)

/-- An e register of EP. -/
def State.eReg (s : State) (n : Nat) : Lanes := s.core.mx.e.toList.getD n zeroLanes

/-- A word that gives e[D] lane by lane, with the lane's LFSR after it (R223, R87). -/
def State.epLanes (s : State) (d : Nat) (f : Nat → W32 → W32 × W32) : State :=
  let g := s.core.mx.lfsr
  s.updMx (fun m => { m.setE d (lanesOf (fun l => (f l (lane g l)).1)) with lfsr := lanesOf (fun l => (f l (lane g l)).2) })

/-- A word of EP that writes e[D] and goes on. -/
def State.epWrite (s : State) (d : Nat) (f : Tile → Drain → Nat → W32 → W32 × W32) : Out :=
  s.runEp (fun s t dr => (s.epLanes d (f t dr)).epNext t dr 1)

/-! ### Arithmetic (R223) -/

/-- EP_LDA (R223). -/
def execEpLda (d : BitVec 3) (comp : Bool) (s : State) : Out :=
  s.epWrite d.toNat (fun t dr l g =>
    (lane (accstRow (s.core.mx.accAt t.acc) comp dr.row) l, g))

/-- fin of R223 for FP32. -/
def epFin (x : EpArgs) (v : Num) (g : W32) : W32 × W32 :=
  let r := roundStep .fp32 (Rnd.ofCode x.rnd.toNat) x.ftz v none g
  (BitVec.ofNat 32 r.1, r.2.2)

/-- fin of R223 for INT32: wrapped, or clamped under SAT. -/
def epInt (x : EpArgs) (v : Int) : W32 := BitVec.ofInt 32 (if x.sat then sat32 v else v)

/-- y of EP.BIAS and EP.SCALE (R223), e[B] otherwise. -/
def State.epArg (s : State) (x : EpArgs) (row l : Nat) : W32 :=
  if x.row then lane (s.eReg (x.b.toNat + row / 64)) (row % 64) else lane (s.eReg x.b.toNat) l

/-- An arithmetic word (R223): `f` on values, `i` on integers, of x, y and z. -/
def State.epArith (s : State) (x : EpArgs) (f : Num → Num → Num → Num) (i : Int → Int → Int → Int) : Out :=
  s.epWrite x.d.toNat (fun _ dr l g =>
    let a := lane (s.eReg x.a.toNat) l
    let y := s.epArg x dr.row l
    let z := lane (s.eReg x.d.toNat) l
    if x.t then (epInt x (i a.toInt y.toInt z.toInt), g)
    else epFin x (f (valZ x.ftz a.toNat .fp32) (valZ x.ftz y.toNat .fp32) (valZ x.ftz z.toNat .fp32)) g)

/-- RDN in an EP word. -/
def epRdn (x : EpArgs) : Bool := x.rnd == 2

/-- EP_ADD (R223). -/
def execEpAdd (x : EpArgs) (s : State) : Out := s.epArith x (fun a y _ => a.add (epRdn x) y) (fun a y _ => a + y)

/-- EP_MUL (R223). -/
def execEpMul (x : EpArgs) (s : State) : Out := s.epArith x (fun a y _ => a.mul y) (fun a y _ => a * y)

/-- EP_FMA (R223). -/
def execEpFma (x : EpArgs) (s : State) : Out := s.epArith x (fun a y z => (a.mul y).add (epRdn x) z) (fun a y z => a * y + z)

/-- EP_MAX (R223, R104). -/
def execEpMax (x : EpArgs) (s : State) : Out := s.epArith x (fun a y _ => a.max y) (fun a y _ => max a y)

/-- EP_MIN (R223, R104). -/
def execEpMin (x : EpArgs) (s : State) : Out := s.epArith x (fun a y _ => a.min y) (fun a y _ => min a y)

/-- EP_BIAS (R223). -/
def execEpBias (x : EpArgs) (s : State) : Out := s.epArith x (fun a y _ => a.add (epRdn x) y) (fun a y _ => a + y)

/-- EP_SCALE (R223). -/
def execEpScale (x : EpArgs) (s : State) : Out := s.epArith x (fun a y _ => a.mul y) (fun a y _ => a * y)

/-- An activation that rounds (R223, R189). -/
def State.epAct (s : State) (x : EpActArgs) (f : Num → Num) : Out :=
  s.epWrite x.d.toNat (fun _ _ l g =>
    let r := roundStep .fp32 (Rnd.ofCode x.rnd.toNat) x.ftz (f (valZ x.ftz (lane (s.eReg x.a.toNat) l).toNat .fp32)) none g
    (BitVec.ofNat 32 r.1, r.2.2))

/-- RELU of an FP32 word (R223). -/
def relu (ftz : Bool) (w : W32) : W32 :=
  match valZ ftz w.toNat .fp32 with
  | .nan => 0x7FC00000
  | v => if (Num.zero false).lt v then w else 0

/-- EP_ACT_RELU (R223). -/
def execEpActRelu (x : EpActArgs) (s : State) : Out :=
  s.epWrite x.d.toNat (fun _ _ l g => (relu x.ftz (lane (s.eReg x.a.toNat) l), g))

/-- EP_ACT_SIGM (R223). -/
def execEpActSigm (x : EpActArgs) (s : State) : Out := s.epAct x fnSigm

/-- EP_ACT_SILU (R223). -/
def execEpActSilu (x : EpActArgs) (s : State) : Out := s.epAct x fnSilu

/-- EP_ACT_SOFTP (R223). -/
def execEpActSoftp (x : EpActArgs) (s : State) : Out := s.epAct x fnSoftp

/-- EP_ACT_TANH (R223). -/
def execEpActTanh (x : EpActArgs) (s : State) : Out := s.epAct x fnTanh

/-! ### Formats (R224) -/

/-- EP_CVT (R224). -/
def execEpCvt (x : EpCvtArgs) (s : State) : Out :=
  let c := x.dst.toNat
  let src : Fmt := if x.fromi then .int32 else .fp32
  s.epWrite x.d.toNat (fun _ _ l g =>
    let a := (lane (s.eReg x.a.toNat) l).toNat
    let r := roundStep (cvtFmt c) (Rnd.ofCode x.rnd.toNat) x.ftz (valZ x.ftz a src) (some (quantum a src)) g
    (putElems (cvtElems c) (lane (s.eReg x.d.toNat) l) x.part.toNat [r.1], r.2.2))

/-- The complex pair j of e[A] packed (R224): real part first; the word, the LFSR after. -/
def packPair (x : EpPackArgs) (re im g : W32) : W32 × W32 :=
  let f : Fmt := if x.ci12 then .int12 else .fp16
  let step (w g : W32) : Nat × Bool × W32 :=
    roundStep f (Rnd.ofCode x.rnd.toNat) x.ftz (valZ x.ftz w.toNat .fp32) (some (quantum w.toNat .fp32)) g
  let r := step re g
  let i := step im r.2.2
  (wordOf 2 [r.1, i.1], i.2.2)

/-- EP_PACK (R224): pair j goes to lane 32·PART + j and draws on the LFSR of lane 2j. -/
def execEpPack (x : EpPackArgs) (s : State) : Out :=
  s.runEp (fun s t dr =>
    let a := s.eReg x.a.toNat
    let z := s.eReg x.d.toNat
    let g := s.core.mx.lfsr
    let pair (j : Nat) : W32 × W32 := packPair x (lane a (2 * j)) (lane a (2 * j + 1)) (lane g (2 * j))
    let base := 32 * b2n x.part
    let v := lanesOf (fun l => if base ≤ l ∧ l < base + 32 then (pair (l - base)).1 else lane z l)
    let g' := lanesOf (fun l => if l % 2 = 0 then (pair (l / 2)).2 else lane g l)
    (s.updMx (fun m => { m.setE x.d.toNat v with lfsr := g' })).epNext t dr 1)

/-- A reduction of e[A] (R224) into lane r mod 64 of e[D + r div 64]. -/
def State.epRed (s : State) (d a : BitVec 3) (t : Bool) (f : List Num → Num) (i : List Int → Int) : Out :=
  s.runEp (fun s tl dr =>
    let v := s.eReg a.toNat
    let w := if t then BitVec.ofInt 32 (i ((List.range 64).map (fun l => (lane v l).toInt)))
      else w32 (f ((List.range 64).map (fun l => f32 (lane v l))))
    let n := d.toNat + dr.row / 64
    let z := s.eReg n
    (s.updMx (fun m => m.setE n (lanesOf (fun l => if l = dr.row % 64 then w else lane z l)))).epNext tl dr 1)

/-- EP_RED_SUM (R224, R104). -/
def execEpRedSum (d a : BitVec 3) (t : Bool) (s : State) : Out :=
  s.epRed d a t (red32 addRn (.zero true)) (fun l => l.foldl (· + ·) 0)

/-- EP_RED_MAX (R224, R104). -/
def execEpRedMax (d a : BitVec 3) (t : Bool) (s : State) : Out :=
  s.epRed d a t (fun l => l.foldl Num.max (.inf true)) (fun l => l.foldl max (-2 ^ 31))

/-- EP_RED_MIN (R224, R104). -/
def execEpRedMin (d a : BitVec 3) (t : Bool) (s : State) : Out :=
  s.epRed d a t (fun l => l.foldl Num.min (.inf false)) (fun l => l.foldl min (2 ^ 31 - 1))

/-! ### Stores (R225, R226) -/

/-- A store fault (R226): the tile is held with its drain, and the queues stop with the cause. MX holds at most one fault (R340):
where the cause of an earlier entry is held, the tile is held behind it, and its re-run (R228) meets the store again. -/
def State.epFault (s : State) (t : Tile) (c : Trap) : State :=
  let u := s.updMx (fun m => match m.tiles with
    | [] => m
    | x :: r => { m with tiles := { x with held := true } :: r })
  if (s.eng .mx).held.isSome then u else u.engineFault .mx c t.go

/-- The fault of a store of EP of n bytes to a place (R225, R226): a poisoned destination unit under TRAP, or a refusal. -/
def State.epRefusal (s : State) (pois : Bool) (ga n : Nat) (pl : Place) : Option Trap :=
  match s.goTo pl with
  | .hold => none
  | .refused => some (gaTrap .signalLost ga)
  | .ok l =>
    let zero := if l.dev == .spad then pois else l.zero
    if !zero && (s.firstPoison l.pa n).isSome then some (gaTrap l.poisonCause ga) else none

/-- A store of EP to a place that it may be made to; a conflict is left for the completion boundary. -/
def State.epStore (s : State) (t : Tile) (det pois : Bool) (ga : Nat) (data : List Byte) (pl : Place) : State :=
  let w := s.writeSpan Eng.mx.num t.go det false pois ga data pl
  w.1.updEntry .mx t.go (fun y => { y with pend := y.pend.or w.2 })

/-- The det bit of a tile's MX.GO. -/
def Mx.tileDet (m : Mx) (t : Tile) : Bool := ((m.goOfTile t).map (fun g => g.det)).getD false

/-- The address that EP.ST forms through an SP descriptor for row r (R225). -/
def spAddress (t : Tile) (row cb base pitch : Nat) : Int := base + (t.row0 + row) * sint pitch 32 + t.col0 * cb

/-- EP.ST through an SP descriptor (R225). -/
def State.epStSp (s : State) (t : Tile) (dr : Drain) (v : Lanes) (pois : Bool) (esz cb bytes base pitch : Nat) : State :=
  let q := (spAddress t dr.row cb base pitch).toNat
  let d := ((List.range (bytes / esz)).map (fun i => leBytes esz (lane v i).toNat)).flatten
  match s.spanPlace .engine 0 q bytes with
  | .error c => s.epFault t c
  | .ok p =>
    match s.epRefusal pois q d.length p with
    | some c => s.epFault t c
    | none => (s.epStore t (s.core.mx.tileDet t) pois q d p).epNext t dr 1

/-- A push of EP to operand queue q (R225, R228): pushes that a first run made are not made again; on a full queue EP waits. -/
def State.epPush (s : State) (t : Tile) (dr : Drain) (v : Lanes) (q : Nat) : State :=
  if dr.pushes < dr.skip then s.epNext t { dr with pushes := dr.pushes + 1 } 1
  else if 4 ≤ (s.opQ q).ents.length then s.updMx (fun m => m.setDrain { dr with waits := true })
  else (s.pushQ q v).epNext t { dr with pushes := dr.pushes + 1 } 1

/-- A store of EP, made in the cycle after its word executes (R219): of the next tile's reads, those of that cycle and before come
first; where R26 holds one of them, EP waits with it. -/
def State.epStores (s : State) (d : Drain) (f : State → State) : State :=
  match s.mxReach (d.cycle + 1) with
  | some t => s.scrubGuard (f t)
  | none => s.readStall

/-- EP_ST (R225). -/
def execEpSt (a : BitVec 3) (sd : BitVec 2) (s : State) : Out :=
  s.runEp (fun s t dr =>
    match s.core.mx.descAt sd.toNat with
    | .sp pois esz cb bytes base pitch => s.epStores dr (fun s => s.epStSp t dr (s.eReg a.toNat) pois esz cb bytes base pitch)
    | .qu q => s.epPush t dr (s.eReg a.toNat) q
    | _ => s.epNext t dr 1)

/-- The word that EP has reached. -/
def Mx.epWordAt (m : Mx) (d : Drain) : Nat := (m.prog.toList.getD d.pc 0).toNat

/-- EP_QUEUE_PUSH_RESUME (R225): the consumer has popped, and the waiting word makes its push. -/
def execEpQueuePushResume (s : State) : Out :=
  s.runEp (fun s t dr =>
    let w := s.core.mx.epWordAt dr
    match s.core.mx.descAt (bits w 13 2) with
    | .qu q => if dr.waits then s.epPush t dr (s.eReg (bits w 18 3)) q else s
    | _ => s)

/-- The coordinates of element i of EP.STG (R225). -/
def stgCoords (t : Tile) (row i c0 c1 c2 c3 : Nat) : List Int :=
  [(c0 : Int) + t.col0 + i, (c1 : Int) + t.row0 + row, (c2 : Int), (c3 : Int), 0, 0]

/-- Where element i of EP.STG goes, with its address and its bytes (R225): a coordinate outside 32 bits is a TRANSLATION fault whose
EVAL is left open (log entry 135, DESIGN CHOICE), one at or beyond an extent stores nothing. -/
def State.stgElem (s : State) (tid : Nat) (td : TDesc) (cs : List Int) (v : Lanes) (i : Nat) :
    Except Trap (Option (Nat × List Byte × Place)) :=
  if cs.any (fun c => decide (c < 0) || decide ((2 : Int) ^ 32 ≤ c)) then .error ⟨.translation, Config.freeWord s.free⟩
  else
    let c := cs.map Int.toNat
    if (List.range 6).any (fun k => decide ((if k < td.rank then td.ext.getD k 0 else 1) ≤ c.getD k 0)) then .ok none
    else
      let p := td.locate c
      let o := p.1 * 2 ^ 18 + p.2
      let x := if td.e = 8 then (lane v (2 * i)).toNat + 2 ^ 32 * (lane v (2 * i + 1)).toNat else (lane v i).toNat
      match s.spanPlace .engine tid o td.e with
      | .error e => .error e
      | .ok pl => match s.epRefusal false (gaddr tid o) td.e pl with
        | some e => .error e
        | none => .ok (some (gaddr tid o, leBytes td.e x, pl))

/-- EP_STG (R225): every element is checked before one is stored, so that a store that faults has no effect (R226).
EVAL where no address of an element exists is log entry 135 (DESIGN CHOICE). -/
def execEpStg (a : BitVec 3) (sd : BitVec 2) (s : State) : Out :=
  s.runEp (fun s t dr =>
    match s.core.mx.descAt sd.toNat with
    | .tg ne tid c0 c1 c2 c3 => s.epStores dr (fun s =>
      match s.descriptor (s.regime 0) (gaddr tid 0) tid with
      | .error e => s.epFault t e
      | .ok td =>
        let det := s.core.mx.tileDet t
        match (List.range ne).mapM (fun i => s.stgElem tid td (stgCoords t dr.row i c0 c1 c2 c3) (s.eReg a.toNat) i) with
        | .error e => ({ s with free := s.free + 1 }).epFault t e
        | .ok l => ((l.filterMap id).foldl (fun s x => s.epStore t det false x.1 x.2.1 x.2.2) s).epNext t dr 1)
    | _ => s.epNext t dr 1)

/-! ### Control (R221) -/

/-- The condition of EP.SKIP. -/
def skipCond (cond row nr : Nat) : Bool :=
  match cond with
  | 0 => true
  | 1 => row % 64 != 63
  | _ => row + 1 != nr

/-- EP_SKIP (R221). -/
def execEpSkip (cond : BitVec 2) (n : BitVec 6) (s : State) : Out :=
  s.runEp (fun s t dr => s.epNext t dr (if skipCond cond.toNat dr.row t.nr then 1 + n.toNat else 1))

/-- EP_END (R221). -/
def execEpEnd (s : State) : Out :=
  s.runEp (fun s t dr => s.updMx (fun m => m.setDrain { dr with row := dr.row + 1, pc := t.eps, waits := false, cycle := dr.cycle + 1 }))

end Sys2Proof.Machine
end

