-- ==== Sys2Proof/Machine/Stamped.lean ====
section
/-!
DEFINITION. Stamped entries (R332) and the core cycle (R21, R36, R327): what one tick of a core's clock does.
-/

namespace Sys2Proof.Machine

/-- The start of a long instruction (R58) by engine and OPC: none when a condition of its engine fails. -/
def State.startLong (s : State) (e : Eng) (x : Entry) : Option State :=
  let m := x.img
  match e with
  | .mx => s.startGo (.ofImage m) x
  | .sx => (match m.opc with
    | 1 => s.startSxCfg (.ofImage m) x
    | 2 => s.startScan false (.ofImage m) x
    | 3 => s.startSxReset (.ofImage m) x
    | 4 => s.startSxCarry (.ofImage m) x
    | 5 => s.startScan true (.ofImage m) x
    | _ => s.startSxFadeq (.ofImage m) x)
  | .cp =>
    let a := CpArgs.ofImage m
    (match m.opc with
    | 1 => s.startCopy a .copy x
    | 2 => s.startMcast a x
    | 3 => s.startStage a x
    | 4 => s.startDrain a x
    | 5 => s.startCopy a .fill x
    | 6 => s.startSig a x
    | k => s.startColl a k x)
  | .fr =>
    let a := FrArgs.ofImage m
    (match m.opc with
    | 1 => s.startSlots a x
    | 9 => s.startStat a x
    | k => s.startFrame k a x)
  | _ => none

/-- The earliest not-started stamped entry of engine e whose STAMP is the current SFC (R332). -/
def State.stampDue (s : State) (e : Eng) : Option Entry :=
  (s.eng e).q.find? (fun x => x.phase == .queued && x.stamped e && x.img.hw 2 == s.core.sfc.toNat)

/-- The attempt to start an entry of engine e that has led to t did nothing but wait: the entry stands as it was, no fault is held. -/
def State.startWaits (t : State) (e : Eng) (x : Entry) : Bool :=
  (t.eng e).held.isNone && (t.eng e).q.any (fun y => y.seq == x.seq && y.phase == .queued)

/-- The test of R332: the entry starts if everything its start needs holds, and raises STAMP_OVERRUN otherwise. -/
def State.stampTest (s : State) (e : Eng) : State :=
  match s.stampDue e with
  | none => s
  | some x =>
    match s.ready e with
    | some y =>
      if y.seq = x.seq then (match s.startLong e x with
        | some t => if t.startWaits e x then s.stampOverrun e x else t
        | none => s.stampOverrun e x)
      else s.stampOverrun e x
    | none => s.stampOverrun e x

/-- STAMPED_ENTRY_START (R332). -/
def execStampedEntryStart (e : Eng) (s : State) : Out :=
  .next (s.whenLive (s.stampTest e))

/-! ### The core cycle -/

/-- An engine's next entry waits for tokens (R36). -/
def State.tokWait (s : State) (e : Eng) : Bool :=
  match s.nextEntry e with
  | some x => !s.core.tokensReady e.num (imgWait x.img)
  | none => false

/-- VX is frozen on an empty queue that FE fills (R36, R178). -/
def State.vxFrozen (s : State) : Bool :=
  match s.ready .vx with
  | some x =>
    [bits (x.img.hw 3) 0 7, bits (x.img.hw 3) 7 7, bits (x.img.hw 6) 0 7].any (fun sel =>
      match srcQueue sel with
      | some n => (s.opQ n).prod == Eng.fe.num && (s.opQ n).ents.isEmpty
      | none => false)
  | none => false

/-- The counters after a core cycle (R36). -/
def State.countCycle (s : State) : Counters :=
  let c := s.core.ctr
  { c with
    cycle := c.cycle + 1
    tok := if Eng.all.any s.tokWait then c.tok + 1 else c.tok
    dcpl := if s.vxFrozen then c.dcpl + 1 else c.dcpl
    rsb := if s.core.rsbHeld then c.rsb + 1 else c.rsb }

/-- One core cycle of the focused core (R21, R36, R327, R359): stamps due in it are tested first; a scan-stopped tile has no
clock. -/
def State.tick (s : State) : State :=
  if s.frozen then s else
  let s := Eng.all.foldl State.stampTest s
  let ctr := s.countCycle
  let quiet := if s.quietNow then s.core.quiet + 1 else 0
  s.upd (fun c => { c with
    sfc := c.sfc + 1, ctr := ctr, rsbHeld := false, quiet := quiet,
    wdog := if c.clocked then c.wdog + 1 else c.wdog })

end Sys2Proof.Machine
end

