-- ==== Sys2Proof/Machine/Dispatch.lean ====
section
/-!
DEFINITION. The dispatch of every instruction and event of the opcode table to its meaning.
-/

namespace Sys2Proof.Machine

/-- One arm per row of the opcode table. -/
def exec (i : Instr) (s : State) : Host.Outcome State Fault Refusal :=
  match i with
  | .nop => Sys2Proof.Machine.execNop s
  | .add sd sa sb => Sys2Proof.Machine.execAdd sd sa sb s
  | .sub sd sa sb => Sys2Proof.Machine.execSub sd sa sb s
  | .and sd sa sb => Sys2Proof.Machine.execAnd sd sa sb s
  | .or sd sa sb => Sys2Proof.Machine.execOr sd sa sb s
  | .xor sd sa sb => Sys2Proof.Machine.execXor sd sa sb s
  | .andn sd sa sb => Sys2Proof.Machine.execAndn sd sa sb s
  | .shl sd sa sb => Sys2Proof.Machine.execShl sd sa sb s
  | .shr sd sa sb => Sys2Proof.Machine.execShr sd sa sb s
  | .sar sd sa sb => Sys2Proof.Machine.execSar sd sa sb s
  | .rol sd sa sb => Sys2Proof.Machine.execRol sd sa sb s
  | .ror sd sa sb => Sys2Proof.Machine.execRor sd sa sb s
  | .min sd sa sb => Sys2Proof.Machine.execMin sd sa sb s
  | .max sd sa sb => Sys2Proof.Machine.execMax sd sa sb s
  | .minu sd sa sb => Sys2Proof.Machine.execMinu sd sa sb s
  | .maxu sd sa sb => Sys2Proof.Machine.execMaxu sd sa sb s
  | .slt sd sa sb => Sys2Proof.Machine.execSlt sd sa sb s
  | .sltu sd sa sb => Sys2Proof.Machine.execSltu sd sa sb s
  | .seq sd sa sb => Sys2Proof.Machine.execSeq sd sa sb s
  | .sne sd sa sb => Sys2Proof.Machine.execSne sd sa sb s
  | .mul sd sa sb => Sys2Proof.Machine.execMul sd sa sb s
  | .mulh sd sa sb => Sys2Proof.Machine.execMulh sd sa sb s
  | .mulhu sd sa sb => Sys2Proof.Machine.execMulhu sd sa sb s
  | .div sd sa sb => Sys2Proof.Machine.execDiv sd sa sb s
  | .divu sd sa sb => Sys2Proof.Machine.execDivu sd sa sb s
  | .rem sd sa sb => Sys2Proof.Machine.execRem sd sa sb s
  | .remu sd sa sb => Sys2Proof.Machine.execRemu sd sa sb s
  | .clz sd sa => Sys2Proof.Machine.execClz sd sa s
  | .ctz sd sa => Sys2Proof.Machine.execCtz sd sa s
  | .popc sd sa => Sys2Proof.Machine.execPopc sd sa s
  | .brev sd sa => Sys2Proof.Machine.execBrev sd sa s
  | .sext sd sa w => Sys2Proof.Machine.execSext sd sa w s
  | .zext sd sa w => Sys2Proof.Machine.execZext sd sa w s
  | .addi sd sa imm => Sys2Proof.Machine.execAddi sd sa imm s
  | .addiX sd sa lit => Sys2Proof.Machine.execAddiX sd sa lit s
  | .andi sd sa imm => Sys2Proof.Machine.execAndi sd sa imm s
  | .andiX sd sa lit => Sys2Proof.Machine.execAndiX sd sa lit s
  | .ori sd sa imm => Sys2Proof.Machine.execOri sd sa imm s
  | .oriX sd sa lit => Sys2Proof.Machine.execOriX sd sa lit s
  | .xori sd sa imm => Sys2Proof.Machine.execXori sd sa imm s
  | .xoriX sd sa lit => Sys2Proof.Machine.execXoriX sd sa lit s
  | .slti sd sa imm => Sys2Proof.Machine.execSlti sd sa imm s
  | .sltiX sd sa lit => Sys2Proof.Machine.execSltiX sd sa lit s
  | .sltiu sd sa imm => Sys2Proof.Machine.execSltiu sd sa imm s
  | .sltiuX sd sa lit => Sys2Proof.Machine.execSltiuX sd sa lit s
  | .shli sd sa amt => Sys2Proof.Machine.execShli sd sa amt s
  | .shri sd sa amt => Sys2Proof.Machine.execShri sd sa amt s
  | .sari sd sa amt => Sys2Proof.Machine.execSari sd sa amt s
  | .muli sd sa imm => Sys2Proof.Machine.execMuli sd sa imm s
  | .muliX sd sa lit => Sys2Proof.Machine.execMuliX sd sa lit s
  | .idx sd sa sb sh imm => Sys2Proof.Machine.execIdx sd sa sb sh imm s
  | .idxX sd sa sb sh lit => Sys2Proof.Machine.execIdxX sd sa sb sh lit s
  | .beq sa sb off => Sys2Proof.Machine.execBeq sa sb off s
  | .beqX sa sb lit => Sys2Proof.Machine.execBeqX sa sb lit s
  | .bne sa sb off => Sys2Proof.Machine.execBne sa sb off s
  | .bneX sa sb lit => Sys2Proof.Machine.execBneX sa sb lit s
  | .blt sa sb off => Sys2Proof.Machine.execBlt sa sb off s
  | .bltX sa sb lit => Sys2Proof.Machine.execBltX sa sb lit s
  | .bge sa sb off => Sys2Proof.Machine.execBge sa sb off s
  | .bgeX sa sb lit => Sys2Proof.Machine.execBgeX sa sb lit s
  | .bltu sa sb off => Sys2Proof.Machine.execBltu sa sb off s
  | .bltuX sa sb lit => Sys2Proof.Machine.execBltuX sa sb lit s
  | .bgeu sa sb off => Sys2Proof.Machine.execBgeu sa sb off s
  | .bgeuX sa sb lit => Sys2Proof.Machine.execBgeuX sa sb lit s
  | .j off => Sys2Proof.Machine.execJ off s
  | .jX lit => Sys2Proof.Machine.execJX lit s
  | .jal sd off => Sys2Proof.Machine.execJal sd off s
  | .jalX sd lit => Sys2Proof.Machine.execJalX sd lit s
  | .jr sa off => Sys2Proof.Machine.execJr sa off s
  | .jrX sa lit => Sys2Proof.Machine.execJrX sa lit s
  | .jalr sd sa off => Sys2Proof.Machine.execJalr sd sa off s
  | .jalrX sd sa lit => Sys2Proof.Machine.execJalrX sd sa lit s
  | .loop sa lvl lenm1 => Sys2Proof.Machine.execLoop sa lvl lenm1 s
  | .loopi count lvl lenm1 => Sys2Proof.Machine.execLoopi count lvl lenm1 s
  | .loopiX lit lvl lenm1 => Sys2Proof.Machine.execLoopiX lit lvl lenm1 s
  | .brot sa rot off => Sys2Proof.Machine.execBrot sa rot off s
  | .rot amt => Sys2Proof.Machine.execRot amt s
  | .setvrb sa imm => Sys2Proof.Machine.execSetvrb sa imm s
  | .ld sd base sz imm => Sys2Proof.Machine.execLd sd base sz imm s
  | .ldX sd base sz lit => Sys2Proof.Machine.execLdX sd base sz lit s
  | .st src base sz imm => Sys2Proof.Machine.execSt src base sz imm s
  | .stX src base sz lit => Sys2Proof.Machine.execStX src base sz lit s
  | .lda sd base sz sc => Sys2Proof.Machine.execLda sd base sz sc s
  | .stl src base sz sc => Sys2Proof.Machine.execStl src base sz sc s
  | .amoAdd sd sa ord dbl sc => Sys2Proof.Machine.execAmoAdd sd sa ord dbl sc s
  | .amoAnd sd sa ord dbl sc => Sys2Proof.Machine.execAmoAnd sd sa ord dbl sc s
  | .amoOr sd sa ord dbl sc => Sys2Proof.Machine.execAmoOr sd sa ord dbl sc s
  | .amoXor sd sa ord dbl sc => Sys2Proof.Machine.execAmoXor sd sa ord dbl sc s
  | .amoMin sd sa ord dbl sc => Sys2Proof.Machine.execAmoMin sd sa ord dbl sc s
  | .amoMax sd sa ord dbl sc => Sys2Proof.Machine.execAmoMax sd sa ord dbl sc s
  | .amoMinu sd sa ord dbl sc => Sys2Proof.Machine.execAmoMinu sd sa ord dbl sc s
  | .amoMaxu sd sa ord dbl sc => Sys2Proof.Machine.execAmoMaxu sd sa ord dbl sc s
  | .amoSwap sd sa ord dbl sc => Sys2Proof.Machine.execAmoSwap sd sa ord dbl sc s
  | .amoCas sd sa ord dbl sc => Sys2Proof.Machine.execAmoCas sd sa ord dbl sc s
  | .fenceAcq sc => Sys2Proof.Machine.execFenceAcq sc s
  | .fenceRel sc => Sys2Proof.Machine.execFenceRel sc s
  | .fenceFull sc => Sys2Proof.Machine.execFenceFull sc s
  | .prefL1 base imm => Sys2Proof.Machine.execPrefL1 base imm s
  | .prefLlc base imm => Sys2Proof.Machine.execPrefLlc base imm s
  | .prefX llc base lit => Sys2Proof.Machine.execPrefX llc base lit s
  | .give sa tid => Sys2Proof.Machine.execGive sa tid s
  | .giveComplete => Sys2Proof.Machine.execGiveComplete s
  | .take tid => Sys2Proof.Machine.execTake tid s
  | .takeComplete => Sys2Proof.Machine.execTakeComplete s
  | .ownq sd tid => Sys2Proof.Machine.execOwnq sd tid s
  | .barInit sd sa sc => Sys2Proof.Machine.execBarInit sd sa sc s
  | .barArv sa sc => Sys2Proof.Machine.execBarArv sa sc s
  | .barWait sa sc => Sys2Proof.Machine.execBarWait sa sc s
  | .barArvw sa sc => Sys2Proof.Machine.execBarArvw sa sc s
  | .barTest sd sa sc => Sys2Proof.Machine.execBarTest sd sa sc s
  | .barDbar sa sc => Sys2Proof.Machine.execBarDbar sa sc s
  | .barWaitComplete => Sys2Proof.Machine.execBarWaitComplete s
  | .twait mask => Sys2Proof.Machine.execTwait mask s
  | .twaitComplete => Sys2Proof.Machine.execTwaitComplete s
  | .tsig mask => Sys2Proof.Machine.execTsig mask s
  | .chunk sd sa => Sys2Proof.Machine.execChunk sd sa s
  | .chinit sd sa sb => Sys2Proof.Machine.execChinit sd sa sb s
  | .spawn sa prio => Sys2Proof.Machine.execSpawn sa prio s
  | .spawnAppend => Sys2Proof.Machine.execSpawnAppend s
  | .join sa => Sys2Proof.Machine.execJoin sa s
  | .tend => Sys2Proof.Machine.execTend s
  | .recordRetire => Sys2Proof.Machine.execRecordRetire s
  | .trig => Sys2Proof.Machine.execTrig s
  | .trigComplete => Sys2Proof.Machine.execTrigComplete s
  | .launch sd sa => Sys2Proof.Machine.execLaunch sd sa s
  | .yield => Sys2Proof.Machine.execYield s
  | .yieldDonate => Sys2Proof.Machine.execYieldDonate s
  | .selfLaunchId sd => Sys2Proof.Machine.execSelfLaunchId sd s
  | .selfIndex sd => Sys2Proof.Machine.execSelfIndex sd s
  | .selfGroups sd => Sys2Proof.Machine.execSelfGroups sd s
  | .selfCores sd => Sys2Proof.Machine.execSelfCores sd s
  | .dbrk code => Sys2Proof.Machine.execDbrk code s
  | .trap code => Sys2Proof.Machine.execTrap code s
  | .eret => Sys2Proof.Machine.execEret s
  | .csrr sd csr => Sys2Proof.Machine.execCsrr sd csr s
  | .csrw sd sa csr => Sys2Proof.Machine.execCsrw sd sa csr s
  | .csrs sd sa csr => Sys2Proof.Machine.execCsrs sd sa csr s
  | .csrc sd sa csr => Sys2Proof.Machine.execCsrc sd sa csr s
  | .wfe => Sys2Proof.Machine.execWfe s
  | .wfeComplete => Sys2Proof.Machine.execWfeComplete s
  | .engineDispatch e sz img => Sys2Proof.Machine.execEngineDispatch e sz img s
  | .queueSpaceAppend => Sys2Proof.Machine.execQueueSpaceAppend s
  | .templateStore e sz tix img => Sys2Proof.Machine.execTemplateStore e sz tix img s
  | .patch e tix fsel val => Sys2Proof.Machine.execPatch e tix fsel val s
  | .patchS e tix fsel val => Sys2Proof.Machine.execPatchS e tix fsel val s
  | .patchSN e tix fsel val => Sys2Proof.Machine.execPatchSN e tix fsel val s
  | .entryComplete e => Sys2Proof.Machine.execEntryComplete e s
  | .engineFaultTaken => Sys2Proof.Machine.execEngineFaultTaken s
  | .feLd a => Sys2Proof.Machine.execFeLd a s
  | .feLdg a => Sys2Proof.Machine.execFeLdg a s
  | .feGath a => Sys2Proof.Machine.execFeGath a s
  | .feGathq a => Sys2Proof.Machine.execFeGathq a s
  | .feUnpk a => Sys2Proof.Machine.execFeUnpk a s
  | .feBcst a => Sys2Proof.Machine.execFeBcst a s
  | .feAgen a => Sys2Proof.Machine.execFeAgen a s
  | .feStrm a => Sys2Proof.Machine.execFeStrm a s
  | .feIdx a => Sys2Proof.Machine.execFeIdx a s
  | .feElementDelivery => Sys2Proof.Machine.execFeElementDelivery s
  | .deSt a => Sys2Proof.Machine.execDeSt a s
  | .deStg a => Sys2Proof.Machine.execDeStg a s
  | .deScat a => Sys2Proof.Machine.execDeScat a s
  | .deAddst a => Sys2Proof.Machine.execDeAddst a s
  | .dePack a => Sys2Proof.Machine.execDePack a s
  | .deAgen a => Sys2Proof.Machine.execDeAgen a s
  | .vxResultVisible => Sys2Proof.Machine.execVxResultVisible s
  | .vxFadd a => Sys2Proof.Machine.execVxFadd a s
  | .vxFsub a => Sys2Proof.Machine.execVxFsub a s
  | .vxFmul a => Sys2Proof.Machine.execVxFmul a s
  | .vxFma a => Sys2Proof.Machine.execVxFma a s
  | .vxFms a => Sys2Proof.Machine.execVxFms a s
  | .vxFmin a => Sys2Proof.Machine.execVxFmin a s
  | .vxFmax a => Sys2Proof.Machine.execVxFmax a s
  | .vxFabs a => Sys2Proof.Machine.execVxFabs a s
  | .vxFneg a => Sys2Proof.Machine.execVxFneg a s
  | .vxFcmp a => Sys2Proof.Machine.execVxFcmp a s
  | .vxFclass a => Sys2Proof.Machine.execVxFclass a s
  | .vxFrnd a => Sys2Proof.Machine.execVxFrnd a s
  | .vxIadd a => Sys2Proof.Machine.execVxIadd a s
  | .vxIsub a => Sys2Proof.Machine.execVxIsub a s
  | .vxImul a => Sys2Proof.Machine.execVxImul a s
  | .vxImulh a => Sys2Proof.Machine.execVxImulh a s
  | .vxImad a => Sys2Proof.Machine.execVxImad a s
  | .vxImin a => Sys2Proof.Machine.execVxImin a s
  | .vxImax a => Sys2Proof.Machine.execVxImax a s
  | .vxAnd a => Sys2Proof.Machine.execVxAnd a s
  | .vxOr a => Sys2Proof.Machine.execVxOr a s
  | .vxXor a => Sys2Proof.Machine.execVxXor a s
  | .vxAndn a => Sys2Proof.Machine.execVxAndn a s
  | .vxShl a => Sys2Proof.Machine.execVxShl a s
  | .vxShr a => Sys2Proof.Machine.execVxShr a s
  | .vxSar a => Sys2Proof.Machine.execVxSar a s
  | .vxIcmp a => Sys2Proof.Machine.execVxIcmp a s
  | .vxCadd a => Sys2Proof.Machine.execVxCadd a s
  | .vxCsub a => Sys2Proof.Machine.execVxCsub a s
  | .vxCmul a => Sys2Proof.Machine.execVxCmul a s
  | .vxCmac a => Sys2Proof.Machine.execVxCmac a s
  | .vxCmulj a => Sys2Proof.Machine.execVxCmulj a s
  | .vxCabs2 a => Sys2Proof.Machine.execVxCabs2 a s
  | .vxExp2 a => Sys2Proof.Machine.execVxExp2 a s
  | .vxLog2 a => Sys2Proof.Machine.execVxLog2 a s
  | .vxRcp a => Sys2Proof.Machine.execVxRcp a s
  | .vxRsq a => Sys2Proof.Machine.execVxRsq a s
  | .vxSqrt a => Sys2Proof.Machine.execVxSqrt a s
  | .vxSigm a => Sys2Proof.Machine.execVxSigm a s
  | .vxTanh a => Sys2Proof.Machine.execVxTanh a s
  | .vxSilu a => Sys2Proof.Machine.execVxSilu a s
  | .vxSoftp a => Sys2Proof.Machine.execVxSoftp a s
  | .vxCvt a => Sys2Proof.Machine.execVxCvt a s
  | .vxQnt a => Sys2Proof.Machine.execVxQnt a s
  | .vxMov a => Sys2Proof.Machine.execVxMov a s
  | .vxMovLds a => Sys2Proof.Machine.execVxMovLds a s
  | .vxMovSts a => Sys2Proof.Machine.execVxMovSts a s
  | .vxSel a => Sys2Proof.Machine.execVxSel a s
  | .vxShuf a => Sys2Proof.Machine.execVxShuf a s
  | .vxLrot a => Sys2Proof.Machine.execVxLrot a s
  | .vxKset a => Sys2Proof.Machine.execVxKset a s
  | .vxKsetLane a => Sys2Proof.Machine.execVxKsetLane a s
  | .vxMopAnd a => Sys2Proof.Machine.execVxMopAnd a s
  | .vxMopOr a => Sys2Proof.Machine.execVxMopOr a s
  | .vxMopXor a => Sys2Proof.Machine.execVxMopXor a s
  | .vxMopAndn a => Sys2Proof.Machine.execVxMopAndn a s
  | .vxMopNot a => Sys2Proof.Machine.execVxMopNot a s
  | .vxMopSet a => Sys2Proof.Machine.execVxMopSet a s
  | .vxMopClr a => Sys2Proof.Machine.execVxMopClr a s
  | .vxMopFromv a => Sys2Proof.Machine.execVxMopFromv a s
  | .vxMopTov a => Sys2Proof.Machine.execVxMopTov a s
  | .vxQcfg a => Sys2Proof.Machine.execVxQcfg a s
  | .vxLfsrSeedv a => Sys2Proof.Machine.execVxLfsrSeedv a s
  | .vxLfsrSeedi a => Sys2Proof.Machine.execVxLfsrSeedi a s
  | .vxLfsrRead a => Sys2Proof.Machine.execVxLfsrRead a s
  | .vxLfsrStep a => Sys2Proof.Machine.execVxLfsrStep a s
  | .vxRsum a => Sys2Proof.Machine.execVxRsum a s
  | .vxRmax a => Sys2Proof.Machine.execVxRmax a s
  | .vxRmin a => Sys2Proof.Machine.execVxRmin a s
  | .vxRamax a => Sys2Proof.Machine.execVxRamax a s
  | .vxPsum a => Sys2Proof.Machine.execVxPsum a s
  | .vxFirst a => Sys2Proof.Machine.execVxFirst a s
  | .mxNest a => Sys2Proof.Machine.execMxNest a s
  | .mxOpnd a => Sys2Proof.Machine.execMxOpnd a s
  | .mxAcc a => Sys2Proof.Machine.execMxAcc a s
  | .mxGo a => Sys2Proof.Machine.execMxGo a s
  | .mxTileBegin => Sys2Proof.Machine.execMxTileBegin s
  | .mxTileDrain => Sys2Proof.Machine.execMxTileDrain s
  | .mxTileRelease => Sys2Proof.Machine.execMxTileRelease s
  | .epQueuePushResume => Sys2Proof.Machine.execEpQueuePushResume s
  | .mxAccst a => Sys2Proof.Machine.execMxAccst a s
  | .mxEpld a => Sys2Proof.Machine.execMxEpld a s
  | .mxEpargLd a => Sys2Proof.Machine.execMxEpargLd a s
  | .mxEpargBc a => Sys2Proof.Machine.execMxEpargBc a s
  | .mxEpargSp a => Sys2Proof.Machine.execMxEpargSp a s
  | .mxEpargTg a => Sys2Proof.Machine.execMxEpargTg a s
  | .mxEpargQu a => Sys2Proof.Machine.execMxEpargQu a s
  | .epLda d comp => Sys2Proof.Machine.execEpLda d comp s
  | .epAdd x => Sys2Proof.Machine.execEpAdd x s
  | .epMul x => Sys2Proof.Machine.execEpMul x s
  | .epFma x => Sys2Proof.Machine.execEpFma x s
  | .epMax x => Sys2Proof.Machine.execEpMax x s
  | .epMin x => Sys2Proof.Machine.execEpMin x s
  | .epBias x => Sys2Proof.Machine.execEpBias x s
  | .epScale x => Sys2Proof.Machine.execEpScale x s
  | .epActRelu x => Sys2Proof.Machine.execEpActRelu x s
  | .epActSigm x => Sys2Proof.Machine.execEpActSigm x s
  | .epActSilu x => Sys2Proof.Machine.execEpActSilu x s
  | .epActSoftp x => Sys2Proof.Machine.execEpActSoftp x s
  | .epActTanh x => Sys2Proof.Machine.execEpActTanh x s
  | .epCvt x => Sys2Proof.Machine.execEpCvt x s
  | .epRedSum d a t => Sys2Proof.Machine.execEpRedSum d a t s
  | .epRedMax d a t => Sys2Proof.Machine.execEpRedMax d a t s
  | .epRedMin d a t => Sys2Proof.Machine.execEpRedMin d a t s
  | .epPack x => Sys2Proof.Machine.execEpPack x s
  | .epSt a sd => Sys2Proof.Machine.execEpSt a sd s
  | .epStg a sd => Sys2Proof.Machine.execEpStg a sd s
  | .epSkip cond n => Sys2Proof.Machine.execEpSkip cond n s
  | .epEnd => Sys2Proof.Machine.execEpEnd s
  | .sxCfg a => Sys2Proof.Machine.execSxCfg a s
  | .sxScan a => Sys2Proof.Machine.execSxScan a s
  | .sxReset a => Sys2Proof.Machine.execSxReset a s
  | .sxCarry a => Sys2Proof.Machine.execSxCarry a s
  | .sxContr a => Sys2Proof.Machine.execSxContr a s
  | .sxFadeq a => Sys2Proof.Machine.execSxFadeq a s
  | .sxScanComplete => Sys2Proof.Machine.execSxScanComplete s
  | .frSlots a => Sys2Proof.Machine.execFrSlots a s
  | .frIn a => Sys2Proof.Machine.execFrIn a s
  | .frOut a => Sys2Proof.Machine.execFrOut a s
  | .frSwap a => Sys2Proof.Machine.execFrSwap a s
  | .frSnap a => Sys2Proof.Machine.execFrSnap a s
  | .frRoll a => Sys2Proof.Machine.execFrRoll a s
  | .frFork a => Sys2Proof.Machine.execFrFork a s
  | .frDrop a => Sys2Proof.Machine.execFrDrop a s
  | .frDropAll a => Sys2Proof.Machine.execFrDropAll a s
  | .frStat a => Sys2Proof.Machine.execFrStat a s
  | .frCold a => Sys2Proof.Machine.execFrCold a s
  | .frPinReleaseProceed => Sys2Proof.Machine.execFrPinReleaseProceed s
  | .frTransferComplete => Sys2Proof.Machine.execFrTransferComplete s
  | .cpCopy a => Sys2Proof.Machine.execCpCopy a s
  | .cpMcast a => Sys2Proof.Machine.execCpMcast a s
  | .cpStage a => Sys2Proof.Machine.execCpStage a s
  | .cpDrain a => Sys2Proof.Machine.execCpDrain a s
  | .cpFill a => Sys2Proof.Machine.execCpFill a s
  | .cpSig a => Sys2Proof.Machine.execCpSig a s
  | .cpAllred a => Sys2Proof.Machine.execCpAllred a s
  | .cpAllgath a => Sys2Proof.Machine.execCpAllgath a s
  | .cpRedsc a => Sys2Proof.Machine.execCpRedsc a s
  | .cpBcast a => Sys2Proof.Machine.execCpBcast a s
  | .cpDrainComplete => Sys2Proof.Machine.execCpDrainComplete s
  | .cpSigArrival => Sys2Proof.Machine.execCpSigArrival s
  | .cpStageComplete => Sys2Proof.Machine.execCpStageComplete s
  | .unitVerify xid recv unit ok => Sys2Proof.Machine.execUnitVerify xid recv unit ok s
  | .unitResend xid recv unit => Sys2Proof.Machine.execUnitResend xid recv unit s
  | .mcastSenderArrival xid => Sys2Proof.Machine.execMcastSenderArrival xid s
  | .transferComplete xid => Sys2Proof.Machine.execTransferComplete xid s
  | .collectiveReduceStep m => Sys2Proof.Machine.execCollectiveReduceStep m s
  | .collectiveResultWrite m => Sys2Proof.Machine.execCollectiveResultWrite m s
  | .collectiveComplete collid => Sys2Proof.Machine.execCollectiveComplete collid s
  | .remoteAccessApply => Sys2Proof.Machine.execRemoteAccessApply s
  | .remoteReply => Sys2Proof.Machine.execRemoteReply s
  | .transferHeaderAccept xid => Sys2Proof.Machine.execTransferHeaderAccept xid s
  | .ringFlitLaunch fid slot => Sys2Proof.Machine.execRingFlitLaunch fid slot s
  | .ringFlitArrival fid => Sys2Proof.Machine.execRingFlitArrival fid s
  | .nackRelaunch fid slot => Sys2Proof.Machine.execNackRelaunch fid slot s
  | .frameMarkerEmit part => Sys2Proof.Machine.execFrameMarkerEmit part s
  | .frameMarkerDelivery part => Sys2Proof.Machine.execFrameMarkerDelivery part s
  | .stampedEntryStart e => Sys2Proof.Machine.execStampedEntryStart e s
  | .detLaunchStart part => Sys2Proof.Machine.execDetLaunchStart part s
  | .coreTakeRecord => Sys2Proof.Machine.execCoreTakeRecord s
  | .launchBegin vf lid => Sys2Proof.Machine.execLaunchBegin vf lid s
  | .gangAttempt g => Sys2Proof.Machine.execGangAttempt g s
  | .reserve g p => Sys2Proof.Machine.execReserve g p s
  | .gangReplies g => Sys2Proof.Machine.execGangReplies g s
  | .commit g => Sys2Proof.Machine.execCommit g s
  | .release g p => Sys2Proof.Machine.execRelease g p s
  | .gangBackoffExpiry g => Sys2Proof.Machine.execGangBackoffExpiry g s
  | .gangHoldComplete g => Sys2Proof.Machine.execGangHoldComplete g s
  | .watchdog => Sys2Proof.Machine.execWatchdog s
  | .partitionResetRequest part => Sys2Proof.Machine.execPartitionResetRequest part s
  | .submissionQueueRead vf q => Sys2Proof.Machine.execSubmissionQueueRead vf q s
  | .doorbell vf q t => Sys2Proof.Machine.execDoorbell vf q t s
  | .logicalSaveComplete => Sys2Proof.Machine.execLogicalSaveComplete s
  | .scanStreamComplete => Sys2Proof.Machine.execScanStreamComplete s
  | .scanImageSeal => Sys2Proof.Machine.execScanImageSeal s
  | .scanReqGo img => Sys2Proof.Machine.execScanReqGo img s
  | .restoreReqGo img => Sys2Proof.Machine.execRestoreReqGo img s
  | .scanRestoreComplete => Sys2Proof.Machine.execScanRestoreComplete s
  | .powerGate => Sys2Proof.Machine.execPowerGate s
  | .coreWake => Sys2Proof.Machine.execCoreWake s
  | .dbgHaltLogical => Sys2Proof.Machine.execDbgHaltLogical s
  | .dbgHaltScan => Sys2Proof.Machine.execDbgHaltScan s
  | .dbgResume => Sys2Proof.Machine.execDbgResume s
  | .quiescent => Sys2Proof.Machine.execQuiescent s
  | .dbgDataRead => Sys2Proof.Machine.execDbgDataRead s
  | .dbgDataWrite v => Sys2Proof.Machine.execDbgDataWrite v s
  | .tstCommit slen => Sys2Proof.Machine.execTstCommit slen s
  | .tstCommitCancel => Sys2Proof.Machine.execTstCommitCancel s
  | .softStopEmit => Sys2Proof.Machine.execSoftStopEmit s
  | .softStop => Sys2Proof.Machine.execSoftStop s
  | .slotEdgeEmit => Sys2Proof.Machine.execSlotEdgeEmit s
  | .slotEdge => Sys2Proof.Machine.execSlotEdge s
  | .cleaningComplete => Sys2Proof.Machine.execCleaningComplete s
  | .phaseDrainComplete => Sys2Proof.Machine.execPhaseDrainComplete s
  | .throttleOnset t0 t1 pwr => Sys2Proof.Machine.execThrottleOnset t0 t1 pwr s
  | .throttleEnd t0 t1 pwr => Sys2Proof.Machine.execThrottleEnd t0 t1 pwr s
  | .thermalCut t0 t1 => Sys2Proof.Machine.execThermalCut t0 t1 s
  | .pfReset => Sys2Proof.Machine.execPfReset s
  | .bootStage inp => Sys2Proof.Machine.execBootStage inp s
  | .bootTempSample t0 t1 => Sys2Proof.Machine.execBootTempSample t0 t1 s
  | .featureLock => Sys2Proof.Machine.execFeatureLock s
  | .vfStop vf => Sys2Proof.Machine.execVfStop vf s
  | .vfStopComplete vf => Sys2Proof.Machine.execVfStopComplete vf s
  | .vfResume vf => Sys2Proof.Machine.execVfResume vf s
  | .vfFlr vf => Sys2Proof.Machine.execVfFlr vf s
  | .tdiError vf => Sys2Proof.Machine.execTdiError vf s
  | .dirtySwap vf => Sys2Proof.Machine.execDirtySwap vf s
  | .scrubPush w => Sys2Proof.Machine.execScrubPush w s
  | .scrubComplete => Sys2Proof.Machine.execScrubComplete s
  | .ethTabLoad port addr => Sys2Proof.Machine.execEthTabLoad port addr s
  | .ethRxFrame port f => Sys2Proof.Machine.execEthRxFrame port f s
  | .ethTxSlot port entry => Sys2Proof.Machine.execEthTxSlot port entry s
  | .lorcyTraining port peerPos peerN => Sys2Proof.Machine.execLorcyTraining port peerPos peerN s
  | .linkFlitReceive port crcOk seq drained => Sys2Proof.Machine.execLinkFlitReceive port crcOk seq drained s
  | .replayRequest port seq => Sys2Proof.Machine.execReplayRequest port seq s
  | .laneErrorWindow port lane errs => Sys2Proof.Machine.execLaneErrorWindow port lane errs s
  | .spareReq port lane => Sys2Proof.Machine.execSpareReq port lane s
  | .laneMapSwitch port => Sys2Proof.Machine.execLaneMapSwitch port s
  | .portDown port => Sys2Proof.Machine.execPortDown port s
  | .retrain port => Sys2Proof.Machine.execRetrain port s
  | .l1LineExpiry line => Sys2Proof.Machine.execL1LineExpiry line s
  | .registerWrite off val => Sys2Proof.Machine.execRegisterWrite off val s
  | .illegalCtlWord w => Sys2Proof.Machine.execIllegalCtlWord w s
  | .powerOn => Sys2Proof.Machine.execPowerOn s
  | .powerLoss => Sys2Proof.Machine.execPowerLoss s
  | .bootStageTimeout => Sys2Proof.Machine.execBootStageTimeout s
  | .spdmRequest index => Sys2Proof.Machine.execSpdmRequest index s
  | .tdispRequest vf msg => Sys2Proof.Machine.execTdispRequest vf msg s

end Sys2Proof.Machine
end

