-- ==== Sys2Proof/Machine/Fetch.lean ====
section
/-!
DEFINITION. What an act of the agenda runs: the word at PC (R9, R43–R45, R53), the second half of an instruction that
waits, the next thing an engine or EP does, an event; and the machine's own order where the agenda is empty.
-/

namespace Sys2Proof.Machine

/-! ### CTL -/

/-- The instruction at PC, or the trap that taking it raises (R43–R45, R53). At PL1–PL3 the later words of a header, or of a LOOPI.X,
are fetched before R336, R117 or R140 refuses it, so that their fetch fault
comes first (log entry 102, DESIGN CHOICE). -/
noncomputable def State.ctlFetch (s : State) : Except Trap Instr :=
  let pl := s.core.pl
  let pc := s.core.pc
  match s.fetchAt pl pc with
  | .error t => .error t
  | .ok w =>
    match lengthOf w with
    | .error _ => .ok (.illegalCtlWord (BitVec.ofNat 32 w))
    | .ok n =>
      let splits (l : Loop) : Bool := l.act && decide (1 < n) && pc + 4 == l.start + BitVec.ofNat 48 (4 * (l.lenm1.toNat + 1))
      if pl = 0 && (splits s.core.lc0 || splits s.core.lc1) then .ok (.illegalCtlWord (BitVec.ofNat 32 w))
      else match s.fetchWords pl (pc + 4) (n - 1) with
        | (_, some (_, t)) => .error t
        | (ws, none) =>
          match decode (w :: ws) with
          | .ok i => .ok i
          | .error _ => .ok (.illegalCtlWord (BitVec.ofNat 32 w))

/-- The second half of the instruction in which CTL waits. -/
noncomputable def resumeOf (w : Wait) : Option Instr :=
  match w with
  | .space .. => some .queueSpaceAppend
  | .give .. => some .giveComplete
  | .take _ => some .takeComplete
  | .bar .. => some .barWaitComplete
  | .twait _ => some .twaitComplete
  | .spawn .. => some .spawnAppend
  | .tend => some .recordRetire
  | .trig _ => some .trigComplete
  | .wfe => some .wfeComplete
  | .remote _ => none
  | .reply .. => some .remoteReply

/-- What CTL does next: a held engine fault, the second half of a wait, or the instruction at PC. -/
noncomputable def State.ctlNext (s : State) : State × Option Instr :=
  if !s.runs then (s, none)
  else if !s.takeable.isEmpty && s.core.outst.isNone then (s, some .engineFaultTaken)
  else match s.core.wait with
    | some w => (s, resumeOf w)
    | none =>
      match s.ctlFetch with
      | .error t => (s.trap t, none)
      | .ok i => (s, some i)

/-! ### Engines -/

/-- An entry of engine e has every effect and can complete. -/
def State.completes (s : State) (e : Eng) : Bool :=
  match s.entryIn e .finished with
  | some x => x.pend.isNone || (s.eng e).held.isNone
  | none => false

/-- The event with which a started entry of engine e moves on. -/
noncomputable def State.progress (s : State) (e : Eng) : Option Instr :=
  match e with
  | .fe => (s.entryIn .fe .started).map (fun _ => .feElementDelivery)
  | .vx => if !s.core.vx.pend.isEmpty && s.emptySlot then some .vxResultVisible else none
  | .mx =>
    let m := s.core.mx
    if (m.tiles.head?.map m.releasable).getD false then some .mxTileRelease
    else if m.reading.isSome || s.nextTile.isSome then some .mxTileBegin
    else none
  | .sx => if s.scanStarted.isSome then some .sxScanComplete else none
  | .de => none
  | .cp =>
    let l := (s.eng .cp).q.filterMap (fun x => if x.phase ≠ .started then none else match x.img.opc with
      | 3 => some Instr.cpStageComplete
      | 4 => some .cpDrainComplete
      | 6 => some .cpSigArrival
      | _ => none)
    l[s.turn / 2048 % (l.length + 1)]?.or l.head?
  | .fr => (s.entryIn .fr .started).map (fun x => if x.prog = 0 then .frPinReleaseProceed else .frTransferComplete)

/-- The instruction of the next queued entry of engine e. -/
noncomputable def State.nextStart (s : State) (e : Eng) : Option Instr := (s.nextEntry e).bind (fun x => imageCand e x.img)

/-- What engine e does next: an entry completes; else what has started moves on, or the next entry starts. On MX and CP, whose
entries overlap (R208, R254), an entry with its tokens starts first. -/
noncomputable def State.engineNext (s : State) (e : Eng) : Option Instr :=
  if s.completes e then some (.entryComplete e)
  else if (e == .mx || e == .cp) && (s.ready e).isSome then (s.nextStart e).or (s.progress e)
  else (s.progress e).or (s.nextStart e)

/-- What EP does next: the word it has reached, the push it waits to make, or the begin of a drain (R221, R225, R228). -/
noncomputable def State.epNextInstr (s : State) : Option Instr :=
  match s.core.mx.draining with
  | some (_, d) =>
    if d.waits then some .epQueuePushResume
    else
      let w := s.core.mx.epWordAt d
      if bits w 24 8 = 0 then some .epEnd else epCand w
  | none => if s.core.mx.tiles.isEmpty then none else some .mxTileDrain

/-! ### Events -/

/-- A row of the opcode table that no word and no image carries: an event of the machine or of what is outside it. -/
def isEvent (i : Instr) : Bool :=
  (match i with
    | .illegalCtlWord _ => false
    | _ => true) && (encode i).isNone && (encodeImage i).isNone && (encodeEp i).isNone

/-- The events of a core's own transfers, collectives and flits that may be due. -/
noncomputable def State.transferEvents (s : State) (p : Nat) : List Instr :=
  let c := s.coreAt p
  (c.cp.xfers.map (fun x =>
    (x.recvs.zipIdx.map (fun r =>
      (List.range x.units).map (fun u => [Instr.unitVerify x.id r.2 u true, Instr.unitResend x.id r.2 u]))).flatten.flatten ++
      [.mcastSenderArrival x.id, .transferComplete x.id])).flatten ++
  (s.flits.filterMap (fun f => match f.msg with
    | .header x _ => if f.dst == p then some (Instr.transferHeaderAccept x) else none
    | _ => none)) ++
  (c.cp.colls.map (fun x => Instr.collectiveComplete x.collid)) ++
  ((s.flits.filter (fun f => f.src == p)).map (fun f => Instr.ringFlitLaunch f.id (s.slotFor f)))

/-- The events of a core that may be due. -/
noncomputable def State.coreEvents (s : State) (p : Nat) : List Instr :=
  [.coreTakeRecord, .remoteAccessApply, .remoteReply, .watchdog, .logicalSaveComplete, .scanStreamComplete, .scanImageSeal,
    .scanRestoreComplete, .powerGate, .coreWake, .quiescent] ++ s.transferEvents p

/-- The events of the package's own scheduler, fabric and clean-up that may be due. -/
noncomputable def State.packageEvents (s : State) : List Instr :=
  (s.launches.map (fun l => Instr.launchBegin l.vf l.lid)) ++
  (s.gangs.map (fun g => [Instr.gangAttempt g.id, .gangReplies g.id, .commit g.id, .gangBackoffExpiry g.id,
    .gangHoldComplete g.id] ++ g.asked.map (fun p => Instr.reserve g.id p))).flatten ++
  (s.markers.map Instr.frameMarkerDelivery) ++
  (s.flits.map (fun f => [Instr.ringFlitArrival f.id, .nackRelaunch f.id (s.slotFor f)])).flatten ++
  (s.collTx.map (fun m => [Instr.collectiveReduceStep m, .collectiveResultWrite m])).flatten ++
  ((List.range 32).flatMap (fun q => [Instr.detLaunchStart (BitVec.ofNat 5 q), .frameMarkerEmit (BitVec.ofNat 5 q)])) ++
  (s.doorbells.map (fun d => Instr.submissionQueueRead (BitVec.ofNat 9 (d.1 / 16)) (BitVec.ofNat 4 d.1))) ++
  [.cleaningComplete, .phaseDrainComplete, .scrubComplete]

/-! ### Errors of the memories (R289, R304, R305, R400) -/

/-- ECC finds an error in the unit of an address. One that it corrects is counted: in a scratchpad in CORR_ERR of the partition that
holds the core, in device memory for the stack, the two dies' cold stores after the six. One that it cannot correct poisons the unit,
unless the LLC serves it. At a host address: an aborted or poisoned completion, and one that comes good again. -/
def State.eccError (s : State) (a : Nat) (fatal : Bool) : State :=
  if isHost a then (if fatal then s.setPoison a else s.unpoison a)
  else if isSpad a then
    if Config.cores ≤ (a - 2 ^ 40) / 2 ^ 22 then s
    else if fatal then s.setPoison a
    else match s.coreHolder ((a - 2 ^ 40) / 2 ^ 22) with
      | some q => s.addPf (partReg q 0x70) 1
      | none => s
  else if fatal then (if isHbm a && s.llc.any (fun b => b.sb == a / 256) then s else s.setPoison a)
  else
    let n := if isCold a then 6 + a / 2 ^ 18 % 2 else stackOf a
    if isHbm a && 6 ≤ stackOf a then s else { s with corrected := s.corrected.set! n (s.corrected.toList.getD n 0 + 1) }

/-! ### Acts -/

/-- What an act does to the state before an instruction runs, and that instruction; none when the act runs none. -/
noncomputable def State.select (s : State) (a : Act) : State × Option Instr :=
  match a with
  | .ctl p => (s.focus p).ctlNext
  | .engine p e => let s := s.focus p; (s, if s.frozen then none else s.engineNext e)
  | .ep p => let s := s.focus p; (s, if s.frozen then none else s.epNextInstr)
  | .tick p => ((s.focus p).tick, none)
  | .rc => (s.rcTick, none)
  | .ecc a fatal => (s.eccError a fatal, none)
  | .jtag p r v => (s.jtag p r v, none)
  | .on p i => (s.focus p, if isEvent i then some i else none)

/-- Event k of a list, counting round. -/
noncomputable def pickEvent (p : Nat) (l : List Instr) (k : Nat) : Act := .on p (l.getD (k % (l.length + 1)) .quiescent)

/-- The act of engine e of core p in the machine's own order: by turns what has started moves on, or the next entry starts. -/
noncomputable def State.engineAct (s : State) (p : Nat) (e : Eng) : Act :=
  if s.turn / 1024 % 2 = 0 then (match (s.focus p).progress e with
    | some i => .on p i
    | none => .engine p e)
  else .engine p e

/-- The act the machine takes when its agenda is empty: CTL, the engines, EP, the events and the clock of each core in turn, and a
ring cycle. -/
noncomputable def State.defaultAct (s : State) : Act :=
  let p := s.turn / 13 % Config.cores
  let k := s.turn / 936
  match s.turn % 13 with
  | 0 => .ctl p | 1 => s.engineAct p .fe | 2 => s.engineAct p .vx | 3 => s.engineAct p .mx | 4 => .ep p | 5 => s.engineAct p .sx
  | 6 => s.engineAct p .de | 7 => s.engineAct p .cp | 8 => s.engineAct p .fr
  | 9 => pickEvent p (s.coreEvents p) k
  | 10 => pickEvent p s.packageEvents k
  | 11 => .tick p
  | _ => .rc

/-- The act the machine takes next, and the state with it taken from the agenda. -/
noncomputable def State.nextAct (s : State) : Act × State :=
  match s.agenda with
  | a :: r => (a, { s with agenda := r })
  | [] => (s.defaultAct, { s with turn := s.turn + 1 })

/-- The physical core an act concerns. -/
def Act.core (a : Act) : Nat :=
  match a with
  | .ctl p | .engine p _ | .ep p | .tick p | .jtag p _ _ | .on p _ => p
  | .rc | .ecc .. => 0

/-- The instruction or event that the next step runs, and the state in which it runs. -/
noncomputable def State.selected (s : State) : State × Option Instr := s.nextAct.2.select s.nextAct.1

/-! ### A program placed from outside -/

/-- The tables through which PL0 fetches byte 0 of tensor 1 (R292, R294, R295): S2 root, two leaves, a FLAT descriptor of
2^18 bytes, kind SHARED, and its one tile entry. -/
def fetchTables : List (Nat × W64) :=
  [(0x400000, 0x8000000000440000#64), (0x440090, 0x8000000000000012#64), (0x440098, 0x8000000000000013#64),
   (0x480040, 0x481000#64), (0x480048, 0x12010000#64), (0x480050, 0x40000#64), (0x481000, 0x8000000000000013#64)]

/-- The record that a core placed at tensor 1 runs (R307). -/
def fetchRec : Rec := ⟨0, 0, 0, 0, 1, 1, 0, 0x480000#48, false⟩

/-- A core at PL0 about to fetch word 0 of tensor 1, nothing waiting and no fault held. -/
def Core.atCode (c : Core) : Core :=
  { c with
    pc := 0x1000000000#48, pl := 0, run := .running, work := some fetchRec, wait := none, outst := none, lc0 := .off, lc1 := .off,
    eng := c.eng.map (fun x => { x with held := none }) }

/-- The words of an instruction stored where core 0 fetches next, with the tables its fetch reads. -/
def State.placeCode (s : State) (ws : List Nat) : State :=
  let s := s.focus 0
  let s := { s with poison := s.poison.filter (fun u => u < 0x10000 || 0x14000 ≤ u), scrubq := [], turn := 0, agenda := [.ctl 0] }
  let s := s.setPf (vfReg 1 0x30) 0x400000#64
  let s := fetchTables.foldl (fun s x => s.store8 x.1 x.2) s
  let s := (ws.zipIdx).foldl (fun s x => s.storeLE (0x4C0000 + 4 * x.2) 4 x.1) s
  s.upd Core.atCode

/-- An EP word as the next word of a tile in its drain (R221). -/
def State.placeEp (s : State) (w : Nat) : State :=
  let s := { s.focus 0 with turn := 0, agenda := [.ep 0] }
  let go (m : Mx) : Go := ⟨0, false, m.active, m.opnd, m.acc, 0, 1, 0, 1, 1, 0, 0⟩
  let tile (m : Mx) : Tile := ⟨0, 0, 0, 0, 0, 128, 0, some ⟨0, 0, m.e, m.lfsr, 0, 0, false, 0⟩, false, 0⟩
  s.updMx (fun m => { m with prog := m.prog.setIfInBounds 0 (BitVec.ofNat 32 w), gos := [go m], tiles := [tile m] })

/-- An instruction, its bits numbered as the opcode table numbers them, placed so that the next step runs it. -/
def State.placeWord (s : State) (nbits w : Nat) : State :=
  let v := w % 2 ^ nbits
  if isEpTableWord v then s.placeEp v
  else s.placeCode ((List.range 9).map (fun k => v / 2 ^ (32 * k) % 2 ^ 32))

end Sys2Proof.Machine
end

