-- ==== Sys2Proof/Machine/Step.lean ====
section
/-!
DEFINITION. One step: the next act of the agenda selects an instruction or an event, and `exec` gives its meaning.
-/

namespace Sys2Proof.Machine

/-- One step of the machine. -/
noncomputable def step (s : State) : Host.Outcome State Fault Refusal :=
  if s.nextAct.1.core < Config.cores then
    match s.selected with
    | (t, some i) => exec i t
    | (t, none) => .next t
  else .fault (.noSuchCore s.nextAct.1.core)

/-- An instruction, its bits numbered as the opcode table numbers them, stored where the next step fetches. -/
def State.withFetchWord (s : State) (nbits w : Nat) : State := s.placeWord nbits w

end Sys2Proof.Machine
end

