-- ==== Sys2Proof/Safety.lean ====
section
/-!
DEFINITION. What a run must keep, the byte store in canonical form, and the terms in which claims speak of a next state:
a register written, CTL left as a completed, jumped, waiting or trapped instruction leaves it, an engine's queue.
-/

namespace Sys2Proof.Machine

/-- The invariant of every state a step reaches: the memory is in its canonical form. -/
def State.Inv (s : State) : Prop := Memory.wf s.mem = true

/-- u is s with s[sd] = v: a write to s0 changes nothing, another changes that one register (R17, R108). -/
def State.Put (s u : State) (sd : Reg) (v : W64) : Prop :=
  (sd.val = 0 → u = s) ∧
  (sd.val ≠ 0 → u = { s with core := { s.core with s := u.core.s } } ∧ u.rd sd = v ∧ ∀ r, r ≠ sd → u.rd r = s.rd r)

/-- Instruction i takes s to a next state whose only changes are s[sd] = v and the completion of an instruction of n words. -/
def Wrote (i : Instr) (s : State) (sd : Reg) (v : W64) (n : Nat) : Prop :=
  ∃ u, s.Put u sd v ∧ exec i s = .next (u.retire n)

/-- Every byte outside [a, a + n) reads in t as in s. -/
def State.SameBytes (s t : State) (a n : Nat) : Prop := ∀ x, x < a ∨ a + n ≤ x → t.byte x = s.byte x

/-- Every byte reads in t as in s, and the same units are poisoned. -/
def State.SameMemory (s t : State) : Prop := t.mem = s.mem ∧ t.poison = s.poison

/-- An access by CTL of n bytes at ea passes the checks of R142 (or R124, R155) and reaches place l itself: no control frame,
not held by the scoreboard. -/
def State.Reaches (s : State) (ea : Addr) (n : Nat) (l : Loc) : Prop :=
  s.ctlPlace ea n = .ok (.here l) ∧ (∀ off, l.dev ≠ .ctrl off) ∧ (l.dev = .spad → s.sbHit (l.pa - spadPa s.cur 0) n = false)

/-- A chunk counter or join counter at ga that CTL reaches (R124, R159). -/
def State.ReachesObj (s : State) (ga : Nat) (l : Loc) : Prop :=
  objAddr ga 32 = none ∧ s.place (.ctl s.core.pl) ga 32 = .ok (.here l)

/-- The scrub queue has room for every frame that one step of CTL on an object of 64 bytes, with its dirty tracking, may unmap
(R384). -/
abbrev State.ScrubRoom (s : State) : Prop := s.scrubq.length ≤ 192

/-- What an access by CTL may change beside memory: the LLC and what waits for the sector links, the L1, the sieve, the s register it
writes and the instruction boundary. `n` is the instruction's length in words. -/
def State.OnlyAccess (s t : State) (n : Nat) : Prop :=
  t = { s with mem := t.mem, poison := t.poison, pf := t.pf, scrubq := t.scrubq, llc := t.llc, llcEv := t.llcEv,
               llcClock := t.llcClock, linkq := t.linkq, sieve := t.sieve, detBars := t.detBars, others := t.others,
               core := { (s.retire n).core with s := t.core.s, l1 := t.core.l1, ev := t.core.ev } }

/-- Instruction i reads v into sd at memory: every other s register, every byte and every poisoned unit stay, and only what
an access may change does. -/
def LoadsValue (i : Instr) (s : State) (sd : Reg) (v : W64) (n : Nat) : Prop :=
  ∃ t, exec i s = .next t ∧ (sd.val ≠ 0 → t.rd sd = v) ∧ (∀ r, r ≠ sd → t.rd r = s.rd r) ∧ s.SameMemory t ∧
    t.pf = s.pf ∧ t.scrubq = s.scrubq ∧ t.detBars = s.detBars ∧ t.others = s.others ∧ t.core.ev = s.core.ev ∧ s.OnlyAccess t n

/-! ### Engine entries -/

/-- A run of an engine access: its global address, its length, its place. -/
abbrev IoRun := Nat × Nat × Place

/-- A run that the engine reaches at once: no saved or halted core, no scoreboard hold, no poisoned byte. -/
def State.CleanRun (s : State) (x : IoRun) : Prop :=
  ∃ l, s.goTo x.2.2 = .ok l ∧ s.poisonUnits l.pa x.2.1 = [] ∧ s.runsHeld [x] = false

/-- The bytes that lie at a list of runs. -/
def State.runsData (s : State) (l : List IoRun) : List Byte :=
  (l.map (fun x => match s.goTo x.2.2 with
    | .ok p => s.bytes p.pa x.2.1
    | _ => [])).flatten

/-- Bytes put at a list of runs, in order, with the dirty tracking of each (R379). -/
def State.putRuns (s : State) (d : List Byte) (l : List IoRun) : State :=
  match l with
  | [] => s
  | x :: r => (match s.goTo x.2.2 with
    | .ok p => (s.dirtied p).putBytes p.pa (d.take x.2.1)
    | _ => s).putRuns (d.drop x.2.1) r

/-- Entries put one after another at their runs; `form` gives the bytes of one from the state before it. -/
def State.putEntries {α : Type} (s : State) (form : State → α → List IoRun → List Byte) (vs : List α) (rs : List (List IoRun)) :
    State :=
  match vs, rs with
  | v :: vs, r :: rs => (s.putRuns (form s v r) r).putEntries form vs rs
  | _, _ => s

/-- Entry x of engine e is the next to start, every earlier one is complete, and nothing stops it (R10, R12, R343). -/
def State.StartsNow (s : State) (e : Eng) (x : Entry) : Prop := s.ready e = some x ∧ s.isHead e x = true ∧ x.stamped e = false

/-- Between s and t entry x of engine e popped its WAIT tokens and stands in phase p (R10, R12). -/
def State.EntryAt (s t : State) (e : Eng) (x : Entry) (p : Phase) : Prop :=
  t.core.tok = (s.core.popTokens e.num (imgWait x.img)).tok ∧ (∃ y ∈ (t.eng e).q, y.seq = x.seq ∧ y.phase = p) ∧
  t.core.pc = s.core.pc ∧ t.core.s = s.core.s ∧ ∀ f, f ≠ e → t.eng f = s.eng f

/-- Instruction i of FE takes s to a state in which the lanes stand behind the entries of its queue, its entry x has every
effect, and no byte of memory and no other queue has changed. -/
def State.Feeds (s : State) (i : Instr) (a : FdArgs) (x : Entry) (lanes : List Lanes) : Prop :=
  ∃ t, exec i s = .next t ∧ (t.opQ a.q.toNat).ents = (s.opQ a.q.toNat).ents ++ lanes ∧
    (∀ k, k ≠ a.q.toNat → t.opQ k = s.opQ k) ∧ t.mem = s.mem ∧ s.EntryAt t .fe x .finished

/-! ### VX -/

/-- VX entry x issues in this slot: it is the next to start and the checks of R181 on its queues pass after the results whose
slot it is have become visible. -/
def State.VxIssues (s : State) (x : Entry) (srcs : List Nat) (dq : Option Nat) : Prop :=
  s.ready .vx = some x ∧ s.vxSlot.vxQueues srcs dq = .ok

/-- Instruction i of VX takes s to a state in which its result, with lanes that `good` describes, is the last of the
pending-write list, due after the latency, aimed at D and y register y under its mask; sources that pop have popped. -/
def State.VxPends (s : State) (i : Instr) (a : VxArgs) (x : Entry) (srcs : List Nat) (latency : Nat) (y : Option Nat)
    (good : Lanes → Prop) : Prop :=
  ∃ t p, exec i s = .next t ∧ t.core.vx.pend = s.vxSlot.core.vx.pend ++ [p] ∧ p.dst = vxTarget a.d.toNat ∧ p.y = y ∧
    p.left + 1 = latency ∧ p.seq = x.seq ∧ p.mz = a.mz ∧ (∀ l, l < 64 → bit p.mask.toNat l = s.vxSlot.active a l) ∧
    good p.val ∧ t.mem = s.mem ∧ t.core.vx.v = s.vxSlot.core.vx.v ∧ t.core.vx.q = (s.vxSlot.popSrcs srcs).core.vx.q ∧
    s.EntryAt t .vx x .started

/-- Instruction i of VX takes s to a state that `good` describes, all its effects made in its issue slot. -/
def State.VxInSlot (s : State) (i : Instr) (x : Entry) (good : State → Prop) : Prop :=
  ∃ t, exec i s = .next t ∧ good t ∧ t.core.vx.pend = s.vxSlot.core.vx.pend ∧ t.core.vx.v = s.vxSlot.core.vx.v ∧
    t.core.vx.y = s.vxSlot.core.vx.y ∧ s.EntryAt t .vx x .finished

/-- Lane l of source selector sel as VX reads it in this slot. -/
def State.vxLane (s : State) (a : VxArgs) (sel : BitVec 7) (l : Nat) : W32 := lane (s.vxSlot.vxSrc a.typ.toNat sel.toNat) l

/-- The LFSR value with which element j of lane l is rounded: it steps once for each element under SR (R87). -/
def State.vxRandom (s : State) (a : VxArgs) (l j : Nat) : W32 :=
  let g := lane s.vxSlot.core.vx.lfsr l
  if vxRnd a = .sr then lfsrStep^[j] g else g

/-- A value rounded as VX rounds: to format f with the image's mode, flushed under FTZ (R86, R91). -/
def vxRounded (a : VxArgs) (f : Fmt) (rc : Rnd) (v : Num) (g : W32) (q : Option Int) : Nat := flush a.ftz (round v f rc g q).1 f

/-! ### MX and EP -/

/-- Instruction i of MX takes s to a state that `good` describes: its entry x has every effect, and no byte of memory has
changed. -/
def State.MxSets (s : State) (i : Instr) (x : Entry) (good : Mx → Prop) : Prop :=
  ∃ t, exec i s = .next t ∧ good t.core.mx ∧ t.mem = s.mem ∧ s.EntryAt t .mx x .finished

/-- EP word i takes s, with tile tl in its drain at d, to a state in which e[D] holds `f` lane by lane, every other e register
is unchanged and the drain has gone one word on. -/
def State.EpWrites (s : State) (i : Instr) (tl : Tile) (d : Drain) (D : Nat) (f : Nat → W32) : Prop :=
  ∃ t, exec i s = .next t ∧ (∀ l, l < 64 → lane (t.eReg D) l = f l) ∧ (∀ k, k ≠ D → t.eReg k = s.eReg k) ∧
    t.core.mx.tiles = { tl with drain := some (d.advance tl.eps 1) } :: s.core.mx.tiles.drop 1 ∧ t.mem = s.mem ∧
    t.core.mx.accs = s.core.mx.accs ∧ t.core.eng = s.core.eng

/-- EP may execute a word: tile tl is in its drain at d. -/
def State.EpAt (s : State) (tl : Tile) (d : Drain) : Prop :=
  s.core.mx.draining = some (tl, d) ∧ s.core.scanned = false ∧ s.boot.power ≠ .stopped

end Sys2Proof.Machine
end

