-- ==== Sys2Proof/Certificates/Slice0/Obligations.lean ====
section
/-!
DEFINITION. The statements about the machine. Each docstring names the rules of spec/ it formalises.
-/

open Sys2Proof Sys2Proof.Machine

/-! ### Registers, arithmetic and control transfer (R108–R122) -/

/-- R109, R110, R108, R17: what every instruction of the ALU group leaves in s[sd]; every other register and every other
piece of state but the instruction boundary's own (`State.retire`) is unchanged. -/
def Obligations.AluGroupResult : Prop :=
  ∀ (sd sa sb : Reg) (w : ExtW) (s : State),
    let a := s.rd sa
    let b := s.rd sb
    let n := b.toNat % 64
    Wrote (.add sd sa sb) s sd (a + b) 1 ∧ Wrote (.sub sd sa sb) s sd (a - b) 1 ∧
    Wrote (.and sd sa sb) s sd (a &&& b) 1 ∧ Wrote (.or sd sa sb) s sd (a ||| b) 1 ∧
    Wrote (.xor sd sa sb) s sd (a ^^^ b) 1 ∧ Wrote (.andn sd sa sb) s sd (a &&& ~~~b) 1 ∧
    Wrote (.shl sd sa sb) s sd (a <<< n) 1 ∧ Wrote (.shr sd sa sb) s sd (a >>> n) 1 ∧
    Wrote (.sar sd sa sb) s sd (BitVec.ofInt 64 (a.toInt / 2 ^ n)) 1 ∧
    Wrote (.rol sd sa sb) s sd (a <<< n ||| a >>> (64 - n)) 1 ∧ Wrote (.ror sd sa sb) s sd (a >>> n ||| a <<< (64 - n)) 1 ∧
    Wrote (.min sd sa sb) s sd (BitVec.ofInt 64 (min a.toInt b.toInt)) 1 ∧
    Wrote (.max sd sa sb) s sd (BitVec.ofInt 64 (max a.toInt b.toInt)) 1 ∧
    Wrote (.minu sd sa sb) s sd (BitVec.ofNat 64 (min a.toNat b.toNat)) 1 ∧
    Wrote (.maxu sd sa sb) s sd (BitVec.ofNat 64 (max a.toNat b.toNat)) 1 ∧
    Wrote (.slt sd sa sb) s sd (if a.toInt < b.toInt then 1 else 0) 1 ∧
    Wrote (.sltu sd sa sb) s sd (if a.toNat < b.toNat then 1 else 0) 1 ∧
    Wrote (.seq sd sa sb) s sd (if a = b then 1 else 0) 1 ∧ Wrote (.sne sd sa sb) s sd (if a = b then 0 else 1) 1 ∧
    Wrote (.mul sd sa sb) s sd (BitVec.ofInt 64 (a.toInt * b.toInt)) 1 ∧
    Wrote (.mulh sd sa sb) s sd (BitVec.ofInt 64 (a.toInt * b.toInt / 2 ^ 64)) 1 ∧
    Wrote (.mulhu sd sa sb) s sd (BitVec.ofNat 64 (a.toNat * b.toNat / 2 ^ 64)) 1 ∧
    Wrote (.clz sd sa) s sd (BitVec.ofNat 64 ((List.range 64).takeWhile (fun k => !a.getLsbD (63 - k))).length) 1 ∧
    Wrote (.ctz sd sa) s sd (BitVec.ofNat 64 ((List.range 64).takeWhile (fun k => !a.getLsbD k)).length) 1 ∧
    Wrote (.popc sd sa) s sd (BitVec.ofNat 64 ((List.range 64).countP a.getLsbD)) 1 ∧
    Wrote (.brev sd sa) s sd a.reverse 1 ∧
    Wrote (.sext sd sa w) s sd ((a.setWidth (extBits w)).signExtend 64) 1 ∧
    Wrote (.zext sd sa w) s sd ((a.setWidth (extBits w)).setWidth 64) 1

/-- R110: the two special cases of division, the identity that ties REM to the quotient in every other case, the quotient
rounded towards zero and the unsigned pair. -/
def Obligations.DivisionResult : Prop :=
  ∀ (sd sa sb : Reg) (s : State),
    let a := s.rd sa
    let b := s.rd sb
    ∃ q r qu ru : W64,
      Wrote (.div sd sa sb) s sd q 1 ∧ Wrote (.rem sd sa sb) s sd r 1 ∧
      Wrote (.divu sd sa sb) s sd qu 1 ∧ Wrote (.remu sd sa sb) s sd ru 1 ∧
      a = b * q + r ∧
      (b = 0 → q = BitVec.allOnes 64 ∧ qu = BitVec.allOnes 64 ∧ r = a ∧ ru = a) ∧
      (b ≠ 0 → qu.toNat = a.toNat / b.toNat ∧ ru.toNat = a.toNat % b.toNat) ∧
      (a.toInt = -2 ^ 63 → b.toInt = -1 → q.toInt = -2 ^ 63 ∧ r = 0) ∧
      (b ≠ 0 → ¬(a.toInt = -2 ^ 63 ∧ b.toInt = -1) → q.toInt = a.toInt.tdiv b.toInt ∧ r.toInt = a.toInt.tmod b.toInt)

/-- R111, R47, R108: the immediate group, in both lengths; the immediate and the literal are sign-extended, a shift amount
is not.

R112: IDX forms the address of element s[sb] of an array, in both lengths. -/
def Obligations.ImmediateGroupResult : Prop :=
  (∀ (sd sa : Reg) (imm : BitVec 12) (lit : W32) (amt : BitVec 6) (s : State),
    let a := s.rd sa
    let i := imm.signExtend 64
    let l := lit.signExtend 64
    Wrote (.addi sd sa imm) s sd (a + i) 1 ∧ Wrote (.addiX sd sa lit) s sd (a + l) 2 ∧
    Wrote (.andi sd sa imm) s sd (a &&& i) 1 ∧ Wrote (.andiX sd sa lit) s sd (a &&& l) 2 ∧
    Wrote (.ori sd sa imm) s sd (a ||| i) 1 ∧ Wrote (.oriX sd sa lit) s sd (a ||| l) 2 ∧
    Wrote (.xori sd sa imm) s sd (a ^^^ i) 1 ∧ Wrote (.xoriX sd sa lit) s sd (a ^^^ l) 2 ∧
    Wrote (.slti sd sa imm) s sd (if a.toInt < imm.toInt then 1 else 0) 1 ∧
    Wrote (.sltiX sd sa lit) s sd (if a.toInt < lit.toInt then 1 else 0) 2 ∧
    Wrote (.sltiu sd sa imm) s sd (if a.toNat < i.toNat then 1 else 0) 1 ∧
    Wrote (.sltiuX sd sa lit) s sd (if a.toNat < l.toNat then 1 else 0) 2 ∧
    Wrote (.shli sd sa amt) s sd (BitVec.ofNat 64 (a.toNat * 2 ^ amt.toNat)) 1 ∧
    Wrote (.shri sd sa amt) s sd (BitVec.ofNat 64 (a.toNat / 2 ^ amt.toNat)) 1 ∧
    Wrote (.sari sd sa amt) s sd (BitVec.ofInt 64 (a.toInt / 2 ^ amt.toNat)) 1 ∧
    Wrote (.muli sd sa imm) s sd (BitVec.ofInt 64 (a.toInt * imm.toInt)) 1 ∧
    Wrote (.muliX sd sa lit) s sd (BitVec.ofInt 64 (a.toInt * lit.toInt)) 2) ∧
  (∀ (sd sa sb : Reg) (sh : BitVec 2) (imm : BitVec 5) (lit : W32) (s : State),
    Wrote (.idx sd sa sb sh imm) s sd
      (BitVec.ofInt 64 (((s.rd sa).toNat : Int) + (s.rd sb).toNat * 2 ^ sh.toNat + imm.toInt)) 1 ∧
    Wrote (.idxX sd sa sb sh lit) s sd
      (BitVec.ofInt 64 (((s.rd sa).toNat : Int) + (s.rd sb).toNat * 2 ^ sh.toNat + lit.toInt)) 2)

/-- R116, R117: LOOP and LOOPI open a level, skip the body on a count of 0, and are refused, as ILLEGAL_INSTRUCTION, above
PL0, on an active level, and on levels that do not nest.

R118, R108, R139: an instruction that completes without a jump changes PC, the loop levels, the count of instructions
and CTL's own wait, and nothing else; the loop buffer acts at PL0 only, lc0 before lc1, each level counting down and
returning, or falling through. NOP does only this. A level with ACT and a count of 0, which only CSR writes make, ends like one
with a count of 1 (log entry 106, DESIGN CHOICE against R19). -/
def Obligations.LoopLevels : Prop :=
  (∀ (sa : Reg) (count : BitVec 10) (lit : W32) (lvl : Bool) (len : BitVec 6) (s : State),
    let c := s.core
    let opens (i : Instr) (n : Nat) (k : Nat) : Prop :=
      let S := c.pc + BitVec.ofNat 48 (4 * k)
      let E := S + BitVec.ofNat 48 (4 * (len.toNat + 1))
      let nests : Prop := S.toNat ≥ c.lc1.start.toNat ∧ E.toNat ≤ c.lc1.start.toNat + 4 * (c.lc1.lenm1.toNat + 1)
      let legal : Prop := c.pl = 0 ∧ c.lc0.act = false ∧ (lvl = true → c.lc1.act = false) ∧
        (lvl = false → c.lc1.act = true → nests)
      let l : Loop := ⟨BitVec.ofNat 32 n, S, len, true⟩
      (¬ legal → exec i s = .next s.illegal) ∧
      (legal → n = 0 → exec i s = .next (s.retireTo E)) ∧
      (legal → n ≠ 0 → lvl = false → exec i s = .next (({ s with core := { c with lc0 := l } } : State).retireTo S)) ∧
      (legal → n ≠ 0 → lvl = true → exec i s = .next (({ s with core := { c with lc1 := l } } : State).retireTo S))
    opens (.loop sa lvl len) ((s.rd sa).toNat % 2 ^ 32) 1 ∧ opens (.loopi count lvl len) count.toNat 1 ∧
    opens (.loopiX lit lvl len) lit.toNat 2) ∧
  (∀ (s : State) (n : Nat),
    let c := s.core
    let t := s.retire n
    let N := c.pc + BitVec.ofNat 48 (4 * n)
    let ends (l : Loop) : Prop := l.act = true ∧ N = l.start + BitVec.ofNat 48 (4 * (l.lenm1.toNat + 1))
    exec .nop s = .next (s.retire 1) ∧
    t = { s with core := { c with pc := t.core.pc, lc0 := t.core.lc0, lc1 := t.core.lc1, arv := false, wait := none,
                                  ctr := { c.ctr with ctlRet := c.ctr.ctlRet + 1 } } } ∧
    (c.pl ≠ 0 ∨ (¬ ends c.lc0 ∧ ¬ ends c.lc1) → t.core.pc = N ∧ t.core.lc0 = c.lc0 ∧ t.core.lc1 = c.lc1) ∧
    (c.pl = 0 → ends c.lc0 → 1 < c.lc0.count.toNat →
      t.core.pc = c.lc0.start ∧ t.core.lc0 = { c.lc0 with count := c.lc0.count - 1 } ∧ t.core.lc1 = c.lc1) ∧
    (c.pl = 0 → ends c.lc0 → c.lc0.count.toNat ≤ 1 → t.core.lc0 = { c.lc0 with count := 0, act := false }) ∧
    (c.pl = 0 → ¬ ends c.lc0 → t.core.lc0 = c.lc0) ∧
    (c.pl = 0 → (ends c.lc0 → c.lc0.count.toNat ≤ 1) → ends c.lc1 → 1 < c.lc1.count.toNat →
      t.core.pc = c.lc1.start ∧ t.core.lc1 = { c.lc1 with count := c.lc1.count - 1 }) ∧
    (c.pl = 0 → (ends c.lc0 → c.lc0.count.toNat ≤ 1) → ends c.lc1 → c.lc1.count.toNat ≤ 1 →
      t.core.pc = N ∧ t.core.lc1 = { c.lc1 with count := 0, act := false }) ∧
    (c.pl = 0 → (ends c.lc0 → c.lc0.count.toNat ≤ 1) → ¬ ends c.lc1 → t.core.pc = N ∧ t.core.lc1 = c.lc1))

/-- R113, R48: a conditional branch goes to P + 4 × offset when its condition holds, and past itself when it does not. -/
def Obligations.ConditionalBranch : Prop :=
  ∀ (sa sb : Reg) (off : BitVec 12) (lit : W32) (s : State),
    let a := s.rd sa
    let b := s.rd sb
    let short := BitVec.ofInt 48 (s.core.pc.toNat + 4 * off.toInt)
    let long := BitVec.ofInt 48 (s.core.pc.toNat + 4 * lit.toInt)
    let goes (i : Instr) (taken : Prop) (target : Addr) (n : Nat) : Prop :=
      (taken → exec i s = .next (s.jump target)) ∧ (¬ taken → exec i s = .next (s.retire n))
    goes (.beq sa sb off) (a = b) short 1 ∧ goes (.beqX sa sb lit) (a = b) long 2 ∧
    goes (.bne sa sb off) (a ≠ b) short 1 ∧ goes (.bneX sa sb lit) (a ≠ b) long 2 ∧
    goes (.blt sa sb off) (a.toInt < b.toInt) short 1 ∧ goes (.bltX sa sb lit) (a.toInt < b.toInt) long 2 ∧
    goes (.bge sa sb off) (b.toInt ≤ a.toInt) short 1 ∧ goes (.bgeX sa sb lit) (b.toInt ≤ a.toInt) long 2 ∧
    goes (.bltu sa sb off) (a.toNat < b.toNat) short 1 ∧ goes (.bltuX sa sb lit) (a.toNat < b.toNat) long 2 ∧
    goes (.bgeu sa sb off) (b.toNat ≤ a.toNat) short 1 ∧ goes (.bgeuX sa sb lit) (b.toNat ≤ a.toNat) long 2

/-- R114, R115, R48: the jumps, their link, and ALIGN for a register-jump target that is no word address. The link is
written after the target is formed.

R119: a taken transfer to a changes PC, and the levels it leaves: a target outside a level's body deactivates it, one
outside lc1's body both, one inside leaves it as it stands; counts stay, and above PL0 the levels stay. -/
def Obligations.JumpTargets : Prop :=
  (∀ (sd sa : Reg) (off : BitVec 12) (far : BitVec 22) (lit : W32) (s : State),
    let dest (base : Nat) (n : Int) : Addr := BitVec.ofInt 48 (base + 4 * n)
    let pc := s.core.pc.toNat
    let a := (s.rd sa).toNat
    let links (i : Instr) (t : Addr) (n : Nat) : Prop :=
      ∃ u, s.Put u sd (BitVec.ofNat 64 ((pc + 4 * n) % 2 ^ 48)) ∧ exec i s = .next (u.jump t)
    exec (.j far) s = .next (s.jump (dest pc far.toInt)) ∧ exec (.jX lit) s = .next (s.jump (dest pc lit.toInt)) ∧
    links (.jal sd off) (dest pc off.toInt) 1 ∧ links (.jalX sd lit) (dest pc lit.toInt) 2 ∧
    (a % 4 = 0 →
      exec (.jr sa off) s = .next (s.jump (dest a off.toInt)) ∧ exec (.jrX sa lit) s = .next (s.jump (dest a lit.toInt)) ∧
      links (.jalr sd sa off) (dest a off.toInt) 1 ∧ links (.jalrX sd sa lit) (dest a lit.toInt) 2) ∧
    (a % 4 ≠ 0 →
      let traps (i : Instr) (n : Int) : Prop := exec i s = .next (s.trap ⟨.align, (dest a n).setWidth 64⟩)
      traps (.jr sa off) off.toInt ∧ traps (.jrX sa lit) lit.toInt ∧ traps (.jalr sd sa off) off.toInt ∧
      traps (.jalrX sd sa lit) lit.toInt)) ∧
  (∀ (s : State) (a : Addr),
    let c := s.core
    let t := s.jump a
    let inside (l : Loop) : Prop := l.start.toNat ≤ a.toNat ∧ a.toNat < l.start.toNat + 4 * (l.lenm1.toNat + 1)
    t = { s with core := { c with pc := a, lc0 := { c.lc0 with act := t.core.lc0.act },
                                  lc1 := { c.lc1 with act := t.core.lc1.act }, arv := false, wait := none,
                                  ctr := { c.ctr with ctlRet := c.ctr.ctlRet + 1 } } } ∧
    (c.pl ≠ 0 → t.core.lc0 = c.lc0 ∧ t.core.lc1 = c.lc1) ∧
    (c.pl = 0 → (t.core.lc1.act = true ↔ c.lc1.act = true ∧ inside c.lc1)) ∧
    (c.pl = 0 → (t.core.lc0.act = true ↔ c.lc0.act = true ∧ inside c.lc0 ∧ (c.lc1.act = true → inside c.lc1))))

/-- R120, R121, R122: BROT counts down, turns VRB whether or not it branches, and branches while the count is not 0; ROT
turns VRB, SETVRB sets it. -/
def Obligations.Rotation : Prop :=
  ∀ (sa : Reg) (rot amt : BitVec 5) (off imm : BitVec 12) (s : State),
    let turn (u : State) (v : Nat) : State := { u with core := { u.core with vrb := BitVec.ofNat 5 v } }
    let c := s.rd sa - 1
    let v := s.core.vrb.toNat
    (∃ u, s.Put u sa c ∧
      (c ≠ 0 → exec (.brot sa rot off) s = .next ((turn u (v + 32 - rot.toNat)).jump (BitVec.ofInt 48 (s.core.pc.toNat + 4 * off.toInt)))) ∧
      (c = 0 → exec (.brot sa rot off) s = .next ((turn u (v + 32 - rot.toNat)).retire 1))) ∧
    exec (.rot amt) s = .next ((turn s (v + 32 - amt.toNat)).retire 1) ∧
    exec (.setvrb sa imm) s = .next ((turn s ((s.rd sa + imm.signExtend 64).toNat % 32)).retire 1)

/-! ### Memory (R4, R141–R160) -/

/-- R4, R141: what a store of n bytes leaves is what a load of n bytes at the same address gives, and every other byte reads
as before.

R42, R142: where CTL's aligned access goes by its tid: 0 is the own scratchpad, 4 MiB of it; 0xE00 to 0xEFF the
scratchpads of the partition's cores; above that nothing. A misaligned one is ALIGN before anything else.

R291–R296, R305, R400: where an access of n bytes goes by a tensor address (tid 0x001 to 0xDFF), and which of the seven steps raises
which cause with which EVAL, the first that fails alone. The reads of descriptor and tile entry pass the second stage of the VF
(root and leaf) at PL0 and PL1, none at PL2 and PL3; a poisoned line that a walk reads is MEM_POISON. That a CI12P tensor is
refused after the offset check and before the tile entry is the model's choice (log entry 131). -/
def Obligations.ReadAfterWrite : Prop :=
  (∀ (s : State) (a n v x : Nat),
    (s.storeLE a n v).loadLE a n = v % 256 ^ n ∧ (x < a ∨ a + n ≤ x → (s.storeLE a n v).byte x = s.byte x) ∧
    (s.storeLE a n v).poison = s.poison ∧ (s.storeLE a n v).core = s.core ∧ (s.storeLE a n v).pf = s.pf) ∧
  (∀ (s : State) (ea : Addr) (n : Nat), n = 1 ∨ n = 2 ∨ n = 4 ∨ n = 8 →
    let tid := ea.toNat / 2 ^ 36
    let o := ea.toNat % 2 ^ 36
    let bad (c : Cause) : Except Trap Place := .error ⟨c, ea.setWidth 64⟩
    (ea.toNat % n ≠ 0 → s.ctlPlace ea n = bad .align) ∧
    (ea.toNat % n = 0 → tid = 0 → o < 2 ^ 22 →
      s.ctlPlace ea n = .ok (.here ⟨spadPa s.cur o, .spad, false, false, none, 0⟩)) ∧
    (ea.toNat % n = 0 → tid = 0 → 2 ^ 22 ≤ o → s.ctlPlace ea n = bad .translation) ∧
    (ea.toNat % n = 0 → 0xE00 ≤ tid → tid < 0xF00 → tid - 0xE00 < s.ncore s.part → o < 2 ^ 22 →
      s.ctlPlace ea n = .ok (.remote ((s.partCores s.part).getD (tid - 0xE00) 0) o)) ∧
    (ea.toNat % n = 0 → 0xE00 ≤ tid → 0xF00 ≤ tid ∨ s.ncore s.part ≤ tid - 0xE00 ∨ 2 ^ 22 ≤ o →
      s.ctlPlace ea n = bad .translation)) ∧
  (∀ (s : State) (ag : Agent) (ga n : Nat), ga < 2 ^ 48 → 0 < ga / 2 ^ 36 → ga / 2 ^ 36 ≤ 0xDFF →
    let o := ga % 2 ^ 36
    let w := o % 2 ^ 18
    let res := s.place ag ga n
    let fails (c : Cause) (f : Nat) : Prop := res = .error ⟨c, BitVec.ofNat 64 (f * 2 ^ 63 + ga)⟩
    let low : Prop := ag.pl ≤ 1
    let word (a : Nat) : Nat := (s.load8 a).toNat
    let ra (gfn : Nat) : Nat := s.pfBits (vfReg s.vf.toNat 0x30) 0 48 + 8 * (gfn / 2 ^ 14 % 2 ^ 16)
    let la (gfn : Nat) : Nat := word (ra gfn) % 2 ^ 48 + 8 * (gfn % 2 ^ 14)
    let rooted (gfn : Nat) : Prop := s.poisoned (ra gfn) = false ∧ word (ra gfn) / 2 ^ 63 = 1
    let mapped (gfn kind dfn : Nat) : Prop := rooted gfn ∧ s.poisoned (la gfn) = false ∧ word (la gfn) / 2 ^ 63 = 1 ∧
      kind = word (la gfn) / 2 ^ 62 % 2 ∧ dfn = word (la gfn) % 2 ^ 21 ∧ s.frameOk kind dfn = true
    let unmapped (gfn : Nat) : Prop := (s.poisoned (ra gfn) = false ∧ word (ra gfn) / 2 ^ 63 = 0) ∨
      (rooted gfn ∧ s.poisoned (la gfn) = false ∧
        (word (la gfn) / 2 ^ 63 = 0 ∨ s.frameOk (word (la gfn) / 2 ^ 62 % 2) (word (la gfn) % 2 ^ 21) = false))
    let dirty (gfn : Nat) : Prop := s.poisoned (ra gfn) = true ∨ (rooted gfn ∧ s.poisoned (la gfn) = true)
    let found (gpa pa : Nat) : Prop := (low ∧ ∃ dfn, mapped (gpa / 2 ^ 18) 0 dfn ∧ pa = devPa 0 dfn (gpa % 2 ^ 18)) ∨ (¬ low ∧ pa = gpa)
    let reads (gpa x : Nat) : Prop := ∃ pa, found gpa pa ∧ s.poisoned pa = false ∧ x = word pa
    let spoilt (gpa : Nat) : Prop := (low ∧ dirty (gpa / 2 ^ 18)) ∨ ∃ pa, found gpa pa ∧ s.poisoned pa = true
    let lost (gpa : Nat) : Prop := low ∧ (unmapped (gpa / 2 ^ 18) ∨ ∃ dfn, mapped (gpa / 2 ^ 18) 1 dfn)
    let walkFails (gpa : Nat) : Prop := res = .error ⟨.translation, BitVec.ofNat 64 (2 ^ 63 + 2 ^ 62 + gpa % 2 ^ 48)⟩
    let da (k : Nat) : Nat := (s.regime ag.pl).table + 64 * (ga / 2 ^ 36) + 8 * k
    (∀ k, k < 7 → (∀ j, j < k → ∃ x, reads (da j) x) → (lost (da k) → walkFails (da k)) ∧ (spoilt (da k) → fails .memPoison 0)) ∧
    (∀ d0 d1 d2 d3 d4 d5 d6, reads (da 0) d0 → reads (da 1) d1 → reads (da 2) d2 → reads (da 3) d3 → reads (da 4) d4 → reads (da 5) d5 →
      reads (da 6) d6 →
      let t := TDesc.of [d0, d1, d2, d3, d4, d5, d6]
      let owned : Prop := ag.own = false ∨ (t.kind ≠ 3 ∧ (t.kind = 0 → t.owner = s.self ∧ t.taken = true))
      let ea := t.ttp + 8 * (o / 2 ^ 18)
      (t.valid = false ∨ t.offsetOk o n = false → fails .translation 0) ∧
      (t.valid = true → t.offsetOk o n = true → t.typ = 13 → ag.ci12p = false → fails .illegalInstruction 0) ∧
      (t.valid = true → t.offsetOk o n = true → (t.typ ≠ 13 ∨ ag.ci12p = true) →
        (lost ea → walkFails ea) ∧ (spoilt ea → fails .memPoison 0) ∧
        ∀ x, reads ea x →
          let gfn := x % 2 ^ 30
          let home := x / 2 ^ 57 % 8
          let cold := x / 2 ^ 56 % 2
          let size := x / 2 ^ 60 % 4
          let listed : Prop := x / 2 ^ 63 = 1 ∧ size ≠ 3 ∧ home < 6 ∧ (cold = 1 → size = 0)
          let host : Prop := x / 2 ^ 62 % 2 = 1
          let goes (kind dfn : Nat) (g : Option Nat) : Prop := ∃ l, res = .ok (.here l) ∧ l.pa = devPa kind dfn w ∧
            l.dev = (if kind = 0 then .hbm else .cold) ∧ l.zero = t.zero ∧ l.shared = (t.kind == 1) ∧ l.gfn = g ∧ l.ga = ga
          (¬ listed → fails .translation 0) ∧
          (listed → host → low ∨ ag.ctl8 = false → fails .migrateFault 0) ∧
          (listed → host → ¬ low → ag.ctl8 = true → owned → ∃ l, res = .ok (.here l) ∧ l.pa = hostPa (gfn * 2 ^ 18 + w) ∧ l.dev = .host) ∧
          (listed → ¬ host → ¬ owned → fails .ownership 0) ∧
          (listed → ¬ host → owned → low →
            (dirty gfn → fails .memPoison 0) ∧ (unmapped gfn → fails .translation 1) ∧
            ∀ kind dfn, mapped gfn kind dfn →
              (cold ≠ kind ∨ (kind = 0 ∧ home ≠ dfn / 2 ^ 18) ∨ (kind = 1 ∧ ag.cold = false) → fails .translation 0) ∧
              (cold = kind → (kind = 0 → home = dfn / 2 ^ 18) → (kind = 1 → ag.cold = true) → goes kind dfn (some gfn))) ∧
          (listed → ¬ host → owned → ¬ low →
            (2 ^ 21 ≤ gfn → fails .translation 0) ∧
            (gfn < 2 ^ 21 → isControl cold gfn = true →
              (ag.ctl8 = true → home = 0 → ∃ l, res = .ok (.here l) ∧ l.dev = .ctrl ((gfn - 183040) * 2 ^ 18 + w)) ∧
              (ag.ctl8 = false ∨ home ≠ 0 → fails .translation 0)) ∧
            (gfn < 2 ^ 21 → isControl cold gfn = false → dfnInRange cold gfn = false ∨ s.scrubbing cold gfn = true → fails .translation 1) ∧
            (gfn < 2 ^ 21 → isControl cold gfn = false → dfnInRange cold gfn = true → s.scrubbing cold gfn = false →
              ((cold = 0 ∧ home ≠ gfn / 2 ^ 18) ∨ (cold = 1 ∧ ag.cold = false) → fails .translation 0) ∧
              ((cold = 0 → home = gfn / 2 ^ 18) → (cold = 1 → ag.cold = true) → goes cold gfn none))))) ∧
    (ga % n = 0 → s.ctlPlace (BitVec.ofNat 48 ga) n = s.place { Agent.ctl s.core.pl with ctl8 := n == 8 } ga n))

/-- R141, R142, R144, R147: a load that reaches an unpoisoned place and no sieve conflict completes with the bytes there,
extended as its SIZE says; LDA likewise at s[base].

R141, R142, R144, R145, R147, R379: a store that reaches an unpoisoned place, no sieve conflict and no leaf entry held
back by a full scrub queue completes: the bytes there are the low bytes of s[src], every other byte is as dirty tracking
leaves it (as before where the access passes no second stage), no s register changes. R384: one that a full queue holds back
waits. -/
def Obligations.LoadStoreResult : Prop :=
  (∀ (sd base : Reg) (sz : LdSize) (imm : BitVec 9) (lit : W32) (sc : Scope) (l : Loc) (s : State),
    let n := ldBytes sz
    let value : W64 := if ldSigned sz then (BitVec.ofNat (8 * n) (s.loadLE l.pa n)).signExtend 64
      else BitVec.ofNat 64 (s.loadLE l.pa n)
    let plain (i : Instr) (ea : Addr) (k : Nat) : Prop :=
      s.Reaches ea n l → s.poisonUnits l.pa n = [] → (s.judge s.judged false l ea.toNat n).2 = none → LoadsValue i s sd value k
    let near := BitVec.ofInt 48 ((s.rd base).toNat + imm.toInt * n)
    let far := BitVec.ofInt 48 ((s.rd base).toNat + lit.toInt)
    let at0 := BitVec.ofNat 48 (s.rd base).toNat
    plain (.ld sd base sz imm) near 1 ∧ plain (.ldX sd base sz lit) far 2 ∧
    (s.Reaches at0 n l → s.poisonUnits l.pa n = [] → LoadsValue (.lda sd base sz sc) s sd value 1)) ∧
  (∀ (src base : Reg) (sz : StSize) (imm : BitVec 9) (lit : W32) (sc : Scope) (l : Loc) (s : State),
    let n := stBytes sz
    let v := (s.rd src).toNat
    let done (i : Instr) (k : Nat) : Prop :=
      ∃ t, exec i s = .next t ∧ t.loadLE l.pa n = v % 256 ^ n ∧ (s.dirtied l).SameBytes t l.pa n ∧
        (∀ r, t.rd r = s.rd r) ∧ t.poison = s.poison ∧ t.core.ev = s.core.ev ∧ t.others = s.others ∧ s.OnlyAccess t k
    let plain (i : Instr) (ea : Addr) (k : Nat) : Prop :=
      s.Reaches ea n l → s.poisonUnits l.pa n = [] → (s.judge s.judged true l ea.toNat n).2 = none →
      (s.scrubFull l n v = false → done i k) ∧ (s.scrubFull l n v = true → exec i s = .next s)
    let near := BitVec.ofInt 48 ((s.rd base).toNat + imm.toInt * n)
    let far := BitVec.ofInt 48 ((s.rd base).toNat + lit.toInt)
    let at0 := BitVec.ofNat 48 (s.rd base).toNat
    plain (.st src base sz imm) near 1 ∧ plain (.stX src base sz lit) far 2 ∧
    (s.Reaches at0 n l → s.poisonUnits l.pa n = [] → s.scrubFull l n v = false → done (.stl src base sz sc) 1) ∧
    (l.gfn = none → s.dirtied l = s))

/-- R107, R142, R144, R335: a load or store that fails a check of R142, or meets poison that its tensor does not turn into
zeros, or conflicts under DET, has no effect but its precise trap; EVAL holds the address. A conflict
is recorded with both cores, the signature of the granule in conflict stays, and EVAL is the first granule in conflict (log entry 51,
DESIGN CHOICE). -/
def Obligations.AccessTraps : Prop :=
  ∀ (sd base : Reg) (ld : LdSize) (st : StSize) (imm : BitVec 9) (s : State),
    let eaL := BitVec.ofInt 48 ((s.rd base).toNat + imm.toInt * ldBytes ld)
    let eaS := BitVec.ofInt 48 ((s.rd base).toNat + imm.toInt * stBytes st)
    (∀ e, s.ctlPlace eaL (ldBytes ld) = .error e → exec (.ld sd base ld imm) s = .next (s.trap e)) ∧
    (∀ e, s.ctlPlace eaS (stBytes st) = .error e → exec (.st sd base st imm) s = .next (s.trap e)) ∧
    (∀ l, s.Reaches eaL (ldBytes ld) l → s.poisoned l.pa = true → l.zero = false ∨ l.dev = .spad →
      exec (.ld sd base ld imm) s =
        .next (s.trap ⟨if l.dev = .spad then .spPoison else .memPoison, eaL.setWidth 64⟩)) ∧
    (∀ l, s.Reaches eaS (stBytes st) l → s.poisoned l.pa = true → l.zero = false ∨ l.dev = .spad →
      exec (.st sd base st imm) s =
        .next (s.trap ⟨if l.dev = .spad then .spPoison else .memPoison, eaS.setWidth 64⟩)) ∧
    (∀ l g, s.Reaches eaL (ldBytes ld) l → s.poisoned l.pa = false → (s.judge s.judged false l eaL.toNat (ldBytes ld)).2 = some g →
      ∃ (c : Nat) (u : State), c ≠ s.self ∧ u = { s with sieve := u.sieve, conflicts := s.conflicts ++ [(s.self, c, g)] } ∧
        (∀ k, s.conflictAt false k = true → u.signature k = s.signature k) ∧
        exec (.ld sd base ld imm) s = .next (u.trap (trAt .conflict false g))) ∧
    (∀ l g, s.Reaches eaS (stBytes st) l → s.poisoned l.pa = false → (s.judge s.judged true l eaS.toNat (stBytes st)).2 = some g →
      ∃ (c : Nat) (u : State), c ≠ s.self ∧ u = { s with sieve := u.sieve, conflicts := s.conflicts ++ [(s.self, c, g)] } ∧
        (∀ k, s.conflictAt true k = true → u.signature k = s.signature k) ∧
        exec (.st sd base st imm) s = .next (u.trap (trAt .conflict false g)))

/-- R148, R284: an atomic that reaches an unpoisoned object gives s[sd] the old value, sign-extended, and leaves the new one;
a failed compare-and-swap stores nothing. An acquire at CLUSTER scope or wider empties the L1 (R290). The scrub queue has room for
what the step may unmap (R384). -/
def Obligations.AtomicResult : Prop :=
  ∀ (sd sa : Reg) (ord : Order) (dbl : Bool) (sc : Scope) (l : Loc) (s : State),
    let n := if dbl then 8 else 4
    let w := 8 * n
    let d := s.dirtied l
    let old := s.loadLE l.pa n
    let v := (s.rd sd).toNat % 2 ^ w
    let next : Reg := ⟨(sd.val + 1) % 32, Nat.mod_lt _ (by decide)⟩
    let signed (x : Nat) : Int := (BitVec.ofNat w x).toInt
    let leaves (i : Instr) (u : State) (x : Nat) : Prop :=
      ∃ t, exec i s = .next t ∧ (sd.val ≠ 0 → t.rd sd = (BitVec.ofNat w old).signExtend 64) ∧
        (∀ r, r ≠ sd → t.rd r = s.rd r) ∧ t.loadLE l.pa n = x ∧ u.SameBytes t l.pa n ∧ t.poison = s.poison ∧ s.OnlyAccess t 1 ∧
        (ord = .acq ∨ ord = .ar → sc ≠ .engine → sc ≠ .core → t.core.l1 = [])
    let stores (i : Instr) (x : Nat) : Prop := leaves i d x
    s.Reaches (BitVec.ofNat 48 (s.rd sa).toNat) n l → s.poisoned l.pa = false → s.ScrubRoom →
      stores (.amoAdd sd sa ord dbl sc) ((old + v) % 2 ^ w) ∧ stores (.amoAnd sd sa ord dbl sc) (old &&& v) ∧
      stores (.amoOr sd sa ord dbl sc) (old ||| v) ∧ stores (.amoXor sd sa ord dbl sc) (old ^^^ v) ∧
      stores (.amoMin sd sa ord dbl sc) (if signed v < signed old then v else old) ∧
      stores (.amoMax sd sa ord dbl sc) (if signed old < signed v then v else old) ∧
      stores (.amoMinu sd sa ord dbl sc) (min old v) ∧ stores (.amoMaxu sd sa ord dbl sc) (max old v) ∧
      stores (.amoSwap sd sa ord dbl sc) v ∧
      (old = v → stores (.amoCas sd sa ord dbl sc) ((s.rd next).toNat % 2 ^ w)) ∧
      (old ≠ v → leaves (.amoCas sd sa ord dbl sc) s old)

/-- R143, R149, R290: fences complete, and an acquire at CLUSTER scope or wider empties the L1; a prefetch changes nothing
but what the L1 and the LLC hold and what waits for the sector links; a line that expires leaves the L1.

R150–R154: OWNQ reads the ownership word; GIVE and TAKE check it and wait; GIVE's end makes the receiver the owner of a
tensor not taken, TAKE's end marks it taken. The scrub queue has room for what these ends may unmap (R384).

R298–R300, R411: a line's mode is the eligible one of fewest sectors, a tie going to the mode listed first; POISON for a poisoned
line, and only ZERO and RAW without the feature. The lines of a superblock are packed in index order, OFF the sectors before.

R301–R303, R392: an access to HBM uses its superblock in the LLC and changes no byte. A read that misses fills it in the
lowest free way of the ways that the partition owns, else in that of the least recently used superblock, of the context's own
where its ways pass its soft limit, counted; with fewer ways than it needs nothing changes. After a write it is re-encoded where it is
held: compacted, repacked, expanded with its count, or written back where there is no way. -/
def Obligations.FencesAndOwnership : Prop :=
  (∀ (base : Reg) (imm : BitVec 9) (lit : W32) (llc : Bool) (sc : Scope) (line : Nat) (s : State),
    let acq : State := if sc = .engine ∨ sc = .core then s else { s with core := { s.core with l1 := [] } }
    let hint (i : Instr) (n : Nat) : Prop :=
      ∃ t, exec i s = .next t ∧ t = { s with llc := t.llc, llcEv := t.llcEv, llcClock := t.llcClock, linkq := t.linkq,
                                             core := { (s.retire n).core with l1 := t.core.l1 } }
    exec (.fenceAcq sc) s = .next (acq.retire 1) ∧ exec (.fenceRel sc) s = .next (s.retire 1) ∧
    exec (.fenceFull sc) s = .next (acq.retire 1) ∧
    hint (.prefL1 base imm) 1 ∧ hint (.prefLlc base imm) 1 ∧ hint (.prefX llc base lit) 2 ∧
    exec (.l1LineExpiry line) s = .next { s with core := { s.core with l1 := s.core.l1.filter (fun x => x != line) } }) ∧
  (∀ (sd sa : Reg) (tid : BitVec 12) (d : TDesc) (a : Nat) (s : State), s.ownership tid = .ok (d, a) →
    Wrote (.ownq sd tid) s sd (BitVec.ofNat 64 (if d.kind = 0 then b2n d.taken * 2 ^ 15 + d.owner else d.kind * 2 ^ 16)) 1 ∧
    (d.kind = 0 → d.owner = s.self → d.taken = true → (s.rd sa).toNat < s.ncore s.part → s.ncore s.part ≤ 256 →
      exec (.give sa tid) s = .next { s with core := { s.core with wait := some (.give tid (s.rd sa).toNat) } }) ∧
    (d.kind ≠ 0 ∨ d.owner ≠ s.self ∨ d.taken = false →
      exec (.give sa tid) s = .next (s.trap ⟨.ownership, BitVec.ofNat 64 (tid.toNat * 2 ^ 36)⟩)) ∧
    (d.kind = 0 → exec (.take tid) s = .next { s with core := { s.core with wait := some (.take tid) } }) ∧
    (d.kind ≠ 0 → exec (.take tid) s = .next (s.trap ⟨.ownership, BitVec.ofNat 64 (tid.toNat * 2 ^ 36)⟩)) ∧
    (∀ n, n < 256 → s.core.wait = some (.give tid n) → s.queuesEmpty = true → s.core.cp.xfers = [] → s.frozen = false → s.ScrubRoom →
      ∃ t, exec .giveComplete s = .next t ∧ t.loadLE a 1 = n ∧ t.loadLE (a + 1) 1 = s.loadLE (a + 1) 1 % 128 ∧
        s.SameBytes t a 2 ∧ t.core.wait = none ∧ t.core.pc = (s.retire 1).core.pc) ∧
    (d.owner < 256 → d.owner = s.self → s.core.wait = some (.take tid) → s.frozen = false → s.ScrubRoom →
      ∃ t, exec .takeComplete s = .next t ∧ t.loadLE a 1 = d.owner ∧
        t.loadLE (a + 1) 1 = s.loadLE (a + 1) 1 % 128 + 128 ∧ s.SameBytes t a 2 ∧ t.core.l1 = [] ∧ t.core.wait = none ∧
        t.core.pc = (s.retire 1).core.pc)) ∧
  (∀ (s : State) (a sb : Nat),
    let ws (a : Nat) : List Nat := (List.range 16).map (fun i => s.loadLE (a + 4 * i) 4)
    let n := ((ws a).filter (· != 0)).length
    let delta (w : Nat) : Int := (BitVec.ofNat 32 (w + 2 ^ 32 - (ws a).headD 0)).toInt
    let elig (k c : Nat) : Prop := (k = 0 ∧ c = 0 ∧ n = 0) ∨ (k = 1 ∧ c = 1 ∧ ∀ w ∈ ws a, w = (ws a).headD 0) ∨
      (k = 2 ∧ c = 2 ∧ ∀ w ∈ ws a, -128 ≤ delta w ∧ delta w ≤ 127) ∨ (k = 3 ∧ n ≤ 11 ∧ c = (2 + 4 * n + 15) / 16) ∨
      (k = 4 ∧ c = 3 ∧ ∀ w ∈ ws a, -32768 ≤ delta w ∧ delta w ≤ 32767) ∨ (k = 5 ∧ c = 4)
    let m := lineMode s a
    (s.poisoned a = true → m = (6, 0)) ∧
    (s.poisoned a = false → s.feature 0 = false → m = if n = 0 then (0, 0) else (5, 4)) ∧
    (s.poisoned a = false → s.feature 0 = true → elig m.1 m.2 ∧ ∀ k c, elig k c → m.2 < c ∨ (m.2 = c ∧ m.1 ≤ k)) ∧
    (packLines s sb).1.length = 4 ∧
    (∀ i, i < 4 → (packLines s sb).1[i]? = some ((lineMode s (256 * sb + 64 * i)).1,
      ((List.range i).map (fun j => (lineMode s (256 * sb + 64 * j)).2)).sum)) ∧
    (packLines s sb).2.length = 16 * ((List.range 4).map (fun j => (lineMode s (256 * sb + 64 * j)).2)).sum) ∧
  (∀ (s : State) (a q g : Nat) (ctx : BitVec 9) (b v : LlcSb),
    let sb := a / 256
    let r := s.llcTouch a q ctx false
    let t := s.llcTouch a q ctx true
    let p := packLines s sb
    let age := s.llcClock + 1
    let ways := ownedWays s (dieOf (stackOf (256 * sb))) q
    let lim := s.pfBits (vfReg ctx.toNat 0x28) 0 16
    let others := s.llc.filter (fun x => x.sb != sb)
    let missing : Prop := s.llc.find? (fun x => x.sb == sb) = none
    let held : Prop := s.llc.find? (fun x => x.sb == sb) = some b
    let vacant (g : Nat) : Prop := ∀ x ∈ s.llc, setOf x.sb = setOf sb → x.has g = false
    let lowest (ws : List Nat) (ok : Nat → Prop) : Prop := g ∈ ws ∧ ok g ∧ ∀ k ∈ ws, k < g → ¬ ok k
    let inSet (x : LlcSb) : Prop := x ∈ s.llc ∧ setOf x.sb = setOf sb ∧ ∃ k ∈ ways, x.has k = true
    let oldest (p : LlcSb → Prop) : Prop := p v ∧ ∀ x, p x → x = v ∨ v.age < x.age
    let one : LlcSb := ⟨stackOf (256 * sb), sb, g, none, ctx, false, age, p.1, p.2⟩
    (∀ w, (s.llcTouch a q ctx w).mem = s.mem ∧ (s.llcTouch a q ctx w).poison = s.poison ∧ (s.llcTouch a q ctx w).core = s.core ∧
      (s.llcTouch a q ctx w).pf = s.pf) ∧
    (isHbm a = false → r = s ∧ t = s) ∧
    (isHbm a = true → r.llcClock = age ∧ (r.linkq = s.linkq ++ if s.cur / 12 = stackOf a then [] else [⟨s.cur / 12, stackOf a, BitVec.ofNat 5 q, true, none⟩])) ∧
    (isHbm a = true → held → r.llc = { b with age := age } :: others ∧ r.llcEv = s.llcEv) ∧
    (isHbm a = true → missing → t.llc = s.llc ∧ t.llcEv = s.llcEv ∧
      (ways.length < (if p.2.length ≤ 128 then 1 else 2) → r.llc = s.llc ∧ r.llcEv = s.llcEv) ∧
      (p.2.length ≤ 128 → lowest ways vacant → r.llc = one :: s.llc ∧ r.llcEv = s.llcEv) ∧
      (p.2.length ≤ 128 → (∀ k ∈ ways, ¬ vacant k) → lowest ways (fun k => v.has k = true) →
        (waysUsed s.llc ctx ≤ lim ∨ (∀ x, inSet x → x.ctx ≠ ctx) → oldest inSet →
          r.llc = one :: s.llc.filter (fun x => x.sb != v.sb) ∧ r.llcEv = s.llcEv) ∧
        (lim < waysUsed s.llc ctx → oldest (fun x => inSet x ∧ x.ctx = ctx) →
          r.llc = one :: s.llc.filter (fun x => x.sb != v.sb) ∧ llcCounter r ctx 12 = llcCounter s ctx 12 + 1))) ∧
    (isHbm a = true → held →
      let kept : LlcSb := { b with dirty := true, age := age, lines := p.1, data := p.2 }
      let free := (ownedWays s (dieOf b.sector) q).filter (· != b.way)
      let clear (g : Nat) : Prop := ∀ x ∈ others, setOf x.sb = setOf b.sb → x.has g = false
      (p.2.length ≤ 128 → t.llc = { kept with pair := none } :: others ∧ t.llcEv = s.llcEv) ∧
      (128 < p.2.length → b.pair ≠ none → t.llc = kept :: others ∧ t.llcEv = s.llcEv) ∧
      (128 < p.2.length → b.pair = none → lowest free clear →
        t.llc = { kept with pair := some g } :: others ∧ llcCounter t ctx 10 = llcCounter s ctx 10 + 1 ∧
        llcCounter t ctx 11 = llcCounter s ctx 11) ∧
      (128 < p.2.length → b.pair = none → free = [] →
        t.llc = others ∧ llcCounter t ctx 10 = llcCounter s ctx 10 ∧ llcCounter t ctx 11 = llcCounter s ctx 11 + 1)))

/-- R155, R156, R157: on an unpoisoned barrier object that CTL reaches: INIT sets COUNT and PENDING and clears ARRIVED; ARV
arrives; TEST reads PHASE and PENDING; WAIT, ARVW and DBAR complete where this core's ARRIVED bit is clear afterwards, and
wait where it is set; a waiting one completes when it finds the bit clear. Completing is an acquire, which at CLUSTER scope or wider
empties the L1 (R269, R290). The scrub queue has room for what an arrival may unmap (R384).

R155, R137, R157: one arrival: PENDING counts down; at the last one PENDING becomes COUNT again, PHASE goes up by one, every
ARRIVED bit is clear and the event flags of the arrived cores are set; if a DBAR under DET arrived in the phase, no signature of the
partition is left, else every one stays; a COUNT of 0 makes it nothing. This arrival is what ARV, ARVW and DBAR make. -/
def Obligations.Barriers : Prop :=
  (∀ (sd sa : Reg) (sc : Scope) (l : Loc) (s : State),
    let ea := BitVec.ofNat 48 (s.rd sa).toNat
    let count := (s.rd sd).toNat % 2 ^ 32
    let arrived (det : Bool) : State := (s.dirtied l).ctlArrive l.pa s.part s.self det
    let same (u : State) (t : State) : Prop := ∀ x, t.byte x = u.byte x
    let passes (i : Instr) (u : State) (wide : Bool) : Prop :=
      (u.arrivedBit l.pa s.self = false → ∃ t, exec i s = .next t ∧ same u t ∧ t.core.wait = none ∧
        (wide = true → t.core.l1 = []) ∧ (∀ r, t.rd r = s.rd r) ∧ t.core.pc = (s.retire 1).core.pc) ∧
      (u.arrivedBit l.pa s.self = true → ∃ t, exec i s = .next t ∧ same u t ∧ t.core.wait = some (.bar ea wide) ∧
        (∀ r, t.rd r = s.rd r) ∧ t.core.pc = s.core.pc)
    let wide : Bool := sc != .engine && sc != .core
    s.Reaches ea 64 l → s.poisonUnits l.pa 64 = [] → s.ScrubRoom →
      (∃ t, exec (.barInit sd sa sc) s = .next t ∧ t.loadLE l.pa 4 = count ∧ t.loadLE (l.pa + 8) 4 = count ∧
        t.loadLE (l.pa + 32) 32 = 0 ∧ t.loadLE (l.pa + 4) 4 = (s.dirtied l).loadLE (l.pa + 4) 4 ∧
        (s.dirtied l).SameBytes t l.pa 64 ∧ (∀ r, t.rd r = s.rd r) ∧ s.OnlyAccess t 1) ∧
      (∃ t, exec (.barArv sa sc) s = .next t ∧ same (arrived false) t ∧ (∀ r, t.rd r = s.rd r) ∧ t.core.wait = none ∧
        t.core.pc = (s.retire 1).core.pc) ∧
      LoadsValue (.barTest sd sa sc) s sd (BitVec.ofNat 64 (s.loadLE l.pa 8)) 1 ∧
      passes (.barWait sa sc) s wide ∧
      (s.core.arv = false → passes (.barArvw sa sc) (arrived false) wide) ∧
      (s.core.arv = false → passes (.barDbar sa sc) (arrived s.core.det) wide) ∧
      (s.core.arv = true → passes (.barArvw sa sc) s wide ∧ passes (.barDbar sa sc) s wide) ∧
      (∀ w, s.core.wait = some (.bar ea w) → s.frozen = false → passes .barWaitComplete s w)) ∧
  (∀ (s : State) (a q c : Nat), c < 256 →
    let count := s.loadLE (a + 8) 4
    let pending := s.loadLE a 4
    let t := s.arrive a q c true
    (count = 0 → t = s) ∧
    (count ≠ 0 → pending ≠ 1 → t.loadLE a 4 = (pending + 2 ^ 32 - 1) % 2 ^ 32 ∧ t.arrivedBit a c = true ∧
      t.loadLE (a + 4) 4 = s.loadLE (a + 4) 4 ∧ s.SameBytes t a 64) ∧
    (count ≠ 0 → pending = 1 → t.loadLE a 4 = count ∧ t.loadLE (a + 4) 4 = (s.loadLE (a + 4) 4 + 1) % 2 ^ 32 ∧
      t.loadLE (a + 32) 32 = 0 ∧ t.loadLE (a + 8) 4 = count ∧ s.SameBytes t a 64 ∧
      (∀ p, (t.coreAt p).ev = true ↔ (s.coreAt p).ev = true ∨
        ∃ k, (p, k) ∈ (s.partCores q).zipIdx ∧ (k = c ∨ s.arrivedBit a k = true)) ∧
      (a ∈ s.detBars → (∀ x ∈ t.sieve, x ∈ s.sieve ∧ x.part.toNat ≠ q) ∧ a ∉ t.detBars) ∧
      (a ∉ s.detBars → t.sieve = s.sieve ∧ t.detBars = s.detBars)) ∧
    (∀ det, s.ctlArrive a q c det = (if det = true ∧ count ≠ 0 ∧ a ∉ s.detBars then { s with detBars := a :: s.detBars } else s).arrive a q c true))

/-- R159, R160: CHUNK takes min(REMAIN, max(MIN, ⌈REMAIN ÷ DIV⌉)) from the counter in one step and returns the chunk's size
and start, an acquire at PACKAGE scope (R269, R290); CHINIT sets all of it and raises EPOCH. The scrub queue has room for what the
step may unmap (R384). -/
def Obligations.ChunkCounter : Prop :=
  ∀ (sd sa sb : Reg) (l : Loc) (s : State),
    s.ReachesObj ((s.rd sa).toNat % 2 ^ 48) l → s.poisoned l.pa = false → s.ScrubRoom →
      let w (u : State) (k : Nat) : Nat := u.loadLE (l.pa + 4 * k) 4
      let d := s.dirtied l
      let div := max 1 (w s 3)
      let c := min (w s 0) (max (max 1 (w s 2)) ((w s 0 + div - 1) / div))
      let v := (s.rd sd).toNat
      (∃ t, exec (.chunk sd sa) s = .next t ∧ (sd.val ≠ 0 → t.rd sd = BitVec.ofNat 64 (c * 2 ^ 32 + w s 1)) ∧
        (∀ r, r ≠ sd → t.rd r = s.rd r) ∧ w t 0 = w s 0 - c ∧ w t 1 = (w s 1 + c) % 2 ^ 32 ∧ d.SameBytes t l.pa 8 ∧
        s.OnlyAccess t 1 ∧ t.core.l1 = []) ∧
      ∃ t, exec (.chinit sd sa sb) s = .next t ∧ w t 0 = (s.rd sb).toNat % 2 ^ 32 ∧ w t 1 = 0 ∧
        w t 2 = max 1 (v % 2 ^ 32) ∧ w t 3 = max 1 (v / 2 ^ 32) ∧ w t 4 = (w d 4 + 1) % 2 ^ 32 ∧ d.SameBytes t l.pa 20 ∧
        (∀ r, t.rd r = s.rd r) ∧ s.OnlyAccess t 1

/-! ### Exceptions, system registers, work (R123–R140, R337–R344) -/

/-- R107, R338, R339: trap entry. A precise cause of CTL at a level below its handling level h writes bank h (the cause, the
return address, the value, the level left), raises MODE.PL to h and goes to entry(h); every other bank and every other piece
of state stays. TRAP does so to the level above, after it has completed; a word that is no instruction does so at PL0 with
the word as value.

R341: a cause of CTL whose handling level is not above the running level p enters level p + 1 as DOUBLE, its value made of
the code of the cause that level p was handling and the new value; at PL3 the package stops. TRAP at PL3 is illegal. -/
def Obligations.TrapEntry : Prop :=
  (∀ (s : State) (t : Trap) (code : BitVec 12) (w : W32),
    let enters (u v : State) (h cause : Nat) (val : W64) : Prop :=
      (v.bank h).ecause = BitVec.ofNat 64 (cause * 2 ^ 32) ∧
      (v.bank h).epc = BitVec.ofNat 64 (u.core.pc.toNat / 4 * 4 + b2n (u.arvBit u.core.pc) * 2) ∧
      (v.bank h).eval = val ∧ (v.bank h).epl = BitVec.ofNat 64 u.core.pl ∧ (v.bank h).esave = (u.bank h).esave ∧
      (∀ k, 1 ≤ k → k ≤ 3 → k ≠ h → v.bank k = u.bank k) ∧
      v = { u with core := { u.core with pl := h, pc := u.entry h, banks := v.core.banks, arv := false, wait := none } }
    let armed (h : Nat) : Prop := h = 1 → s.pfBits (vfReg s.vf.toNat 0x38) 0 48 ≠ 0
    let h := t.handling s.core.pl
    (s.core.pl < h → h ≤ 3 → armed h → enters s (s.trap t) h t.cause.code t.val) ∧
    (s.core.pl < 3 → armed (s.core.pl + 1) →
      ∃ v, exec (.trap code) s = .next v ∧ enters (s.retire 1) v (s.core.pl + 1) 19 (code.setWidth 64)) ∧
    (s.core.pl = 0 → armed 1 → ∃ v, exec (.illegalCtlWord w) s = .next v ∧ enters s v 1 1 (w.setWidth 64))) ∧
  (∀ (s : State) (t : Trap) (code : BitVec 12),
    let p := s.core.pl
    let v := s.trap t
    (1 ≤ p → p < 3 → t.handling p = 1 →
      v.core.pl = p + 1 ∧ v.core.pc = s.entry (p + 1) ∧
      (v.bank (p + 1)).ecause = BitVec.ofNat 64 (t.cause.code * 2 ^ 48 + 20 * 2 ^ 32) ∧
      (v.bank (p + 1)).eval = BitVec.ofNat 64 ((s.bank p).ecause.toNat / 2 ^ 32 % 2 ^ 16 * 2 ^ 48 + t.val.toNat % 2 ^ 48) ∧
      (v.bank (p + 1)).epl = BitVec.ofNat 64 p ∧ v.bank p = s.bank p) ∧
    (p = 3 → t.handling p = 1 → v = s.packageStop t.cause.code t.val ∧ v.boot.power = .stopped ∧
      v.core.run = .scanStopped 1) ∧
    (p = 3 → exec (.trap code) s = .next (s.trap ⟨.illegalInstruction, s.word⟩)))

/-- R134, R344, R140: ERET from level n returns to the level and the address that bank n holds, hands the ARV bit on and
resumes the queues that the trap to its level or a level below it stopped, no fault being held; an ERET of a nested trap leaves
them as they stand (R134; log entry 12, DEDUCED beside R344's every stopped queue); it is PRIVILEGE at PL0 and illegal towards a level that
is not lower. -/
def Obligations.ReturnFromTrap : Prop :=
  ∀ (s : State),
    let n := s.core.pl
    let b := s.bank n
    let p := b.epl.toNat % 4
    (n = 0 → exec .eret s = .next (s.trap ⟨.privilege, s.word⟩)) ∧
    (n ≠ 0 → n ≤ p → exec .eret s = .next (s.trap ⟨.illegalInstruction, s.word⟩)) ∧
    (n ≠ 0 → p < n → ∃ t, exec .eret s = .next t ∧ t.core.pl = p ∧ t.core.pc = BitVec.ofNat 48 (b.epc.toNat / 4 * 4) ∧
      (t.core.arv = true ↔ b.epc.toNat / 2 % 2 = 1) ∧
      t = { s with core := { s.core with pl := t.core.pl, pc := t.core.pc, arv := t.core.arv, wait := none,
                                         ctr := { s.core.ctr with ctlRet := s.core.ctr.ctlRet + 1 },
                                         qstop := t.core.qstop, qlevel := t.core.qlevel, eng := t.core.eng } } ∧
      (s.core.qstop = false ∨ s.anyHeld = true ∨ (0 < s.core.qlevel ∧ s.core.qlevel < n) →
        t.core.qstop = s.core.qstop ∧ t.core.qlevel = s.core.qlevel ∧ t.core.eng = s.core.eng) ∧
      (s.core.qstop = true → s.anyHeld = false → s.core.qlevel = 0 ∨ n ≤ s.core.qlevel →
        t.core.qstop = false ∧ t.core.qlevel = 0))

/-- R30, R31, R36, R135, R136: a CSR instruction on a number that is assigned, readable at the level and, where it writes,
writable there gives s[sd] the old value and the CSR its new one; an unassigned number is illegal, one above the level
PRIVILEGE, a write to a read-only one illegal.

R31–R37, R374: the CSR map: which numbers are assigned, from which level, and writable where; and what each reads as: MODE, the
identity, the level's own fault bank, VRB, the frame counter and length, the loop levels, the scoreboard's valid bits, the
counters, the sequence numbers, the LLC counter that the selector names and the token counts, 0 where reserved.

R31–R37, R135: what a CSR read gives back after a write at the same level: the fields that are read-write there as
written, the others as they were. -/
def Obligations.SystemRegisters : Prop :=
  (∀ (sd sa : Reg) (csr : BitVec 12) (s : State),
    let n := csr.toNat
    let pl := s.core.pl
    let old := s.csr pl n
    let illegal (i : Instr) : Prop := exec i s = .next (s.trap ⟨.illegalInstruction, s.word⟩)
    let denied (i : Instr) : Prop := exec i s = .next (s.trap ⟨.privilege, s.word⟩)
    let sets (i : Instr) (u : State) : Prop := ∃ t, u.Put t sd old ∧ exec i s = .next (t.retire 1)
    (csrLevel n = none →
      illegal (.csrr sd csr) ∧ illegal (.csrw sd sa csr) ∧ illegal (.csrs sd sa csr) ∧ illegal (.csrc sd sa csr)) ∧
    (∀ m, csrLevel n = some m → pl < m →
      denied (.csrr sd csr) ∧ denied (.csrw sd sa csr) ∧ denied (.csrs sd sa csr) ∧ denied (.csrc sd sa csr)) ∧
    (∀ m, csrLevel n = some m → m ≤ pl →
      sets (.csrr sd csr) s ∧
      (csrWritable n pl = true → sets (.csrw sd sa csr) (s.setCsr pl n (s.rd sa))) ∧
      (csrWritable n pl = false → illegal (.csrw sd sa csr)) ∧
      (sa.val = 0 → sets (.csrs sd sa csr) s ∧ sets (.csrc sd sa csr) s) ∧
      (sa.val ≠ 0 → csrWritable n pl = true →
        sets (.csrs sd sa csr) (s.setCsr pl n (old ||| s.rd sa)) ∧ sets (.csrc sd sa csr) (s.setCsr pl n (old &&& ~~~(s.rd sa)))) ∧
      (sa.val ≠ 0 → csrWritable n pl = false → illegal (.csrs sd sa csr) ∧ illegal (.csrc sd sa csr)))) ∧
  (∀ (s : State) (n pl : Nat),
    let c := s.core
    let among (a b : Nat) : Prop := a ≤ n ∧ n ≤ b
    let reads (k v : Nat) : Prop := s.csr pl k = BitVec.ofNat 64 v
    let body (l : Loop) : Nat := b2n l.act * 2 ^ 63 + l.lenm1.toNat * 2 ^ 57 + l.start.toNat / 4 * 4
    (csrLevel n = some 0 ↔ n ≤ 2 ∨ among 0x20 0x22 ∨ among 0x24 0x28 ∨ among 0x30 0x4D ∨ among 0x50 0x53) ∧
    (csrLevel n = some 1 ↔ among 0x10 0x14) ∧ (∀ m, csrLevel n = some m → m ≤ 1) ∧
    (csrWritable n pl = true ↔ n = 0 ∨ among 0x10 0x14 ∨ n = 0x20 ∨ n = 0x38 ∨ 1 ≤ pl ∧ (among 0x24 0x27 ∨ among 0x50 0x53)) ∧
    reads 0 (c.pl + 4 * b2n c.det + 8 * b2n c.fce) ∧
    reads 1 (s.vf.toNat * 2 ^ 21 + c.part.toNat * 2 ^ 16 + (if 2 ≤ pl then s.cur % 256 else 255) * 2 ^ 8 + s.self % 256) ∧
    s.csr pl 2 = c.levelBase ∧
    [s.csr pl 0x10, s.csr pl 0x11, s.csr pl 0x12, s.csr pl 0x13, s.csr pl 0x14] =
      [(s.bank pl).ecause, (s.bank pl).epc, (s.bank pl).eval, (s.bank pl).epl, (s.bank pl).esave] ∧
    reads 0x20 c.vrb.toNat ∧ reads 0x21 c.sfc.toNat ∧ reads 0x22 c.sflen.toNat ∧
    reads 0x24 c.lc0.count.toNat ∧ reads 0x25 (body c.lc0) ∧ reads 0x26 c.lc1.count.toNat ∧ reads 0x27 (body c.lc1) ∧
    (∀ i, i < 16 → bit (s.csr pl 0x28).toNat i = (c.sb.toList.getD i none).isSome) ∧
    [s.csr pl 0x30, s.csr pl 0x31, s.csr pl 0x32, s.csr pl 0x33, s.csr pl 0x34, s.csr pl 0x35] =
      [c.ctr.cycle, c.ctr.ctlRet, c.ctr.dcpl, c.ctr.tok, c.ctr.rsb, c.ctr.stampOvr] ∧
    reads 0x38 c.llcwSel.toNat ∧ s.csr pl 0x39 = llcCounter s s.vf c.llcwSel.toNat ∧
    (n ∈ [0x36, 0x37, 0x3A, 0x3B, 0x3C, 0x3D, 0x3E, 0x3F] → reads n 0) ∧
    (∀ e ∈ Eng.all, reads (0x40 + 2 * (e.num - 1)) (s.eng e).issued.toNat ∧ reads (0x41 + 2 * (e.num - 1)) (s.eng e).completed.toNat) ∧
    (∀ i j, i < 8 → j < 8 → bits (s.csr pl (0x50 + (8 * i + j) / 16)).toNat (4 * ((8 * i + j) % 16)) 4 = c.tokCount i j)) ∧
  (∀ (s : State) (v : W64), s.core.pl ≤ 3 →
    let pl := s.core.pl
    let back (n : Nat) : W64 := (s.setCsr pl n v).csr pl n
    let mask (m : W64) (n : Nat) : Prop := back n = (v &&& m) ||| (s.csr pl n &&& ~~~m)
    (pl = 0 → mask 8 0) ∧ (1 ≤ pl → mask 12 0) ∧
    (1 ≤ pl → mask (BitVec.allOnes 64) 0x10 ∧ back 0x11 = v &&& 0x0000FFFFFFFFFFFE ∧ mask (BitVec.allOnes 64) 0x12 ∧
      back 0x13 = v &&& 31 ∧ mask (BitVec.allOnes 64) 0x14) ∧
    back 0x20 = v &&& 31 ∧ back 0x38 = v &&& 0xFF ∧ back 0x24 = v &&& 0xFFFFFFFF ∧ back 0x26 = v &&& 0xFFFFFFFF ∧
    back 0x25 = v &&& 0xFE00FFFFFFFFFFFC ∧ back 0x27 = v &&& 0xFE00FFFFFFFFFFFC ∧
    (∀ i j, i < 8 → j < 8 → let k := 8 * i + j
      (s.setCsr pl (0x50 + k / 16) v).core.tokCount i j = (if i = j then s.core.tokCount i j else v.toNat / 2 ^ (4 * (k % 16)) % 16)) ∧
    (∀ n, let t := s.setCsr pl n v
      t = { s with core := { s.core with fce := t.core.fce, det := t.core.det, banks := t.core.banks, vrb := t.core.vrb, lc0 := t.core.lc0,
                                         lc1 := t.core.lc1, llcwSel := t.core.llcwSel, tok := t.core.tok } } ∧
        (1 ≤ pl → ∀ k, 1 ≤ k → k ≤ 3 → k ≠ pl → t.bank k = s.bank k)))

/-- R137, R138, R140: WFE clears the event flag and completes where it is set, and waits where it is not; the waiting one
completes once it is set, or earlier as a free value says, and never while its tile is stopped (R348). DBRK only completes where debug is off; where it is on, it completes, reports its code and halts
the core with its queues stopped.

R12–R14, R35, R140, R158: TWAIT pops one token from each queue j→0 that its mask names, once each holds one; TSIG pushes
one to each queue 0→j unless one holds 15, which is TOKEN_OVERFLOW; no other count changes. -/
def Obligations.WaitAndTokens : Prop :=
  (∀ (code : BitVec 12) (s : State),
    let cleared : State := { s with core := { s.core with ev := false } }
    (s.core.ev = true → exec .wfe s = .next (cleared.retire 1)) ∧
    (s.core.ev = false → exec .wfe s = .next { s with core := { s.core with wait := some .wfe } }) ∧
    (s.core.wait = some .wfe → s.frozen = false → s.core.ev = true → exec .wfeComplete s = .next (cleared.retire 1)) ∧
    (s.frozen = true → exec .wfeComplete s = .next s) ∧
    (s.core.wait = some .wfe → s.frozen = false → s.core.ev = false → let u : State := { s with free := s.free + 1 }
      exec .wfeComplete s = .next u ∨ exec .wfeComplete s = .next (u.retire 1)) ∧
    (s.debugOn s.part = false → exec (.dbrk code) s = .next (s.retire 1)) ∧
    (s.debugOn s.part = true → exec (.dbrk code) s = .next { s with core := { (s.retire 1).core with
      run := .halted, qstop := true, ev := true, dbg := { s.core.dbg with code := code, quiescent := false } } })) ∧
  (∀ (mask : Byte) (s : State), s.core.pl = 0 →
    let named (j : Nat) : Bool := mask.toNat.testBit j
    let count (u : State) (i j : Nat) : Nat := u.core.tokCount i j
    let popped (i : Instr) : Prop :=
      ∃ t, exec i s = .next t ∧
        (∀ a b, a < 8 → b < 8 → count t a b = if b = 0 ∧ named a = true then count s a b - 1 else count s a b) ∧
        t = { s with core := { (s.retire 1).core with tok := t.core.tok } }
    ((∀ j, j < 8 → named j = true → 1 ≤ count s j 0) →
      popped (.twait mask) ∧ (s.core.wait = some (.twait mask) → s.frozen = false → popped .twaitComplete)) ∧
    ((∃ j, j < 8 ∧ named j = true ∧ count s j 0 = 0) →
      exec (.twait mask) s = .next { s with core := { s.core with wait := some (.twait mask) } }) ∧
    ((∀ j, j < 8 → named j = true → count s 0 j < 15) →
      ∃ t, exec (.tsig mask) s = .next t ∧
        (∀ a b, a < 8 → b < 8 → count t a b = if a = 0 ∧ named b = true then count s a b + 1 else count s a b) ∧
        (t.core.ev = true ↔ s.core.ev = true ∨ named 0 = true) ∧
        t = { s with core := { (s.retire 1).core with tok := t.core.tok, ev := t.core.ev } }) ∧
    ((∃ j, j < 8 ∧ named j = true ∧ count s 0 j = 15) →
      ∃ m : Nat, m < 256 ∧ (∀ j, j < 8 → m.testBit j = (named j && decide (count s 0 j = 15))) ∧
        exec (.tsig mask) s = .next (s.trap ⟨.tokenOverflow, BitVec.ofNat 64 m⟩)))

/-- R123–R125, R140, R307, R310: SPAWN reads its record and appends a copy at the queue's tail with the context, launch id
and table of the running record, in no group of the launch (log entry 132, DESIGN CHOICE), or waits while the quota is full; the waiting one appends once there is
room. An address both misaligned and outside tensor space is ALIGN (log entry 102, DESIGN CHOICE).

R126, R127: JOIN takes one from COUNT in one step; only the decrement from 1 with a continuation appends the record at
CONT, at PRIO, whatever the quota; a continuation that cannot be read leaves the decrement and traps after JOIN, EVAL holding CONT (log entry 105, DESIGN CHOICE).
JOIN is an acquire at
PACKAGE scope (R269, R290). The scrub queue has room for what the step unmaps; where it has none, JOIN waits (R384). -/
def Obligations.SpawnAndJoin : Prop :=
  (∀ (sa : Reg) (prio : BitVec 2) (d0 d1 d2 d3 : W64) (u s : State),
    let table : Addr := match s.core.work with
      | some r => r.ttab
      | none => 0
    let child : Rec := ⟨d0, d1, d2, d3, s.vf, BitVec.ofNat 32 s.lid, prio.toNat, table, false⟩
    let appends (i : Instr) : Prop :=
      ∃ t, exec i s = .next t ∧ t.tq = s.tq ++ [⟨s.core.part, prio.toNat, child, 0, none, none, s.nextSlot⟩] ∧ s.nextSlot < t.nextSlot ∧
        t.core.pc = (s.retire 1).core.pc ∧ t.core.wait = none ∧ t.core.s = s.core.s ∧ t.launches = s.launches
    let ga := (s.rd sa).toNat % 2 ^ 48
    (objAddr ga 32 = none → s.readDoubles (.ctl s.core.pl) ga 4 = .ok ([d0, d1, d2, d3], u) → u.quotaUsed u.vf < u.tquota u.vf →
      appends (.spawn sa prio)) ∧
    (objAddr ga 32 = none → s.readDoubles (.ctl s.core.pl) ga 4 = .ok ([d0, d1, d2, d3], u) → u.tquota u.vf ≤ u.quotaUsed u.vf →
      ∃ t, exec (.spawn sa prio) s = .next t ∧ t.tq = s.tq ∧ t.core.pc = s.core.pc ∧
        t.core.wait = some (.spawn d0 d1 d2 d3 prio)) ∧
    (s.core.wait = some (.spawn d0 d1 d2 d3 prio) → s.frozen = false → s.quotaUsed s.vf < s.tquota s.vf → appends .spawnAppend) ∧
    (s.frozen = true → exec .spawnAppend s = .next s) ∧
    (ga % 32 ≠ 0 → exec (.spawn sa prio) s = .next (s.trap ⟨.align, BitVec.ofNat 64 ga⟩)) ∧
    (ga % 32 = 0 → ga / 2 ^ 36 = 0 ∨ 0xDFF < ga / 2 ^ 36 →
      exec (.spawn sa prio) s = .next (s.trap ⟨.translation, BitVec.ofNat 64 ga⟩))) ∧
  (∀ (sa : Reg) (l : Loc) (s : State),
    s.ReachesObj ((s.rd sa).toNat % 2 ^ 48) l → s.poisoned l.pa = false →
      let d := s.dirtied l
      let count := d.load8 l.pa
      let cont := (d.load8 (l.pa + 8)).toNat % 2 ^ 48
      let u := (s.atomic 0 0 l (fun x => x.store8 l.pa (count - 1))).acquire true
      (count ≠ 1 ∨ cont = 0 → s.ScrubRoom →
        ∃ t, exec (.join sa) s = .next t ∧ t.load8 l.pa = count - 1 ∧ d.SameBytes t l.pa 8 ∧ t.tq = s.tq ∧
          (∀ r, t.rd r = s.rd r) ∧ t.core.l1 = [] ∧ s.OnlyAccess t 1) ∧
      (count = 1 → cont ≠ 0 → ∀ ds v, u.continuation cont = .ok (ds, v) → v.scrubq.length ≤ 256 →
        ∃ t x, exec (.join sa) s = .next t ∧ t.tq = s.tq ++ [x] ∧ x.prio = (v.load8 (l.pa + 16)).toNat % 4 ∧
          x.part = s.core.part ∧ x.work.d0 = ds.getD 0 0 ∧ x.work.d1 = ds.getD 1 0 ∧ x.work.vf = s.vf ∧
          t.core.pc = (s.retire 1).core.pc) ∧
      (count = 1 → cont ≠ 0 → ∀ e, u.continuation cont = .error e →
        exec (.join sa) s = .next (s.scrubGuard ((u.retire 1).trap e))))

/-- R128, R129, R140, R348: TEND and TRIG are PL0's, and wait. When every queue is empty and every transfer visible the record
retires, its launch with its last group, and the core is idle; when every entry dispatched before TRIG has completed, TRIG completes and the record counts as
triggered, and its group with it; a record of no group triggers and retires none (log entry 132, DESIGN CHOICE). While its tile is
stopped neither ends.

R130, R318: LAUNCH gives s[sd] the next launch id and makes the launch live where its record and tables are well formed and
the quota has room; a malformed record answers REASON 1, as do malformed tables, a full quota REASON 2, and none takes an id. The
tables that a malformed record names are not read (log entry 102, DESIGN CHOICE). -/
def Obligations.LaunchAndRecordEnds : Prop :=
  (∀ (r : Rec) (s : State),
    let issued := Eng.all.map (fun e => (s.eng e).issued)
    let done := Eng.all.map (fun e => (s.eng e).completed)
    (s.core.pl = 0 → exec .tend s = .next { s with core := { s.core with wait := some .tend } } ∧
      exec .trig s = .next { s with core := { s.core with wait := some (.trig issued) } }) ∧
    (s.core.pl ≠ 0 → exec .tend s = .next (s.trap ⟨.illegalInstruction, s.word⟩) ∧
      exec .trig s = .next (s.trap ⟨.illegalInstruction, s.word⟩)) ∧
    (s.core.work = some r → s.core.wait = some .tend → (∀ e ∈ Eng.all, (s.eng e).q = []) → s.core.cp.xfers = [] →
      s.core.cp.colls = [] → s.frozen = false → s.scrubq = [] →
      ∃ t, exec .recordRetire s = .next t ∧ t.core.run = .idle ∧ t.core.work = none ∧ t.core.wait = none ∧
        (r.group = false → t.launches = s.launches) ∧
        (∀ l, s.launchOf r.vf r.lid = some l → r.group = true → r.index ∉ l.retired →
          (l.retired.length + 1 ≠ l.groups → ∃ l', t.launchOf r.vf r.lid = some l' ∧ l'.retired = r.index :: l.retired) ∧
          (l.retired.length + 1 = l.groups → t.launchOf r.vf r.lid = none))) ∧
    (s.frozen = true → exec .recordRetire s = .next s ∧ exec .trigComplete s = .next s) ∧
    (s.core.work = some r → s.core.wait = some (.trig done) → s.frozen = false →
      ∃ t, exec .trigComplete s = .next t ∧ t.core.trig = true ∧ t.core.wait = none ∧ t.core.pc = (s.retire 1).core.pc ∧
        t.tq = s.tq ∧ t.mem = s.mem ∧ (r.group = false → t.launches = s.launches) ∧
        (s.core.trig = false → ∀ l, s.launchOf r.vf r.lid = some l → r.group = true →
          ∃ l', t.launchOf r.vf r.lid = some l' ∧ r.index ∈ l'.triggered))) ∧
  (∀ (sd sa : Reg) (d : List W64) (u s : State),
    let ga := (s.rd sa).toNat % 2 ^ 48
    let parsed := parseLaunch d s.vf s.core.part ga (s.ncore s.part) (s.persists s.core.part) (s.feature 3)
    let reg := vfReg s.vf.toNat 0x50
    let answers (v : W64) (t : State) : Prop :=
      exec (.launch sd sa) s = .next t ∧ (sd.val ≠ 0 → t.rd sd = v) ∧ (∀ r, r ≠ sd → t.rd r = s.rd r) ∧
        t.core.pc = (s.retire 1).core.pc
    let refuses (v : W64) : Prop := ∃ t, answers v t ∧ t.launches = s.launches ∧ t.pfRaw reg = s.pfRaw reg
    objAddr ga 64 = none → s.readDoubles (.ctl s.core.pl) ga 16 = .ok (d, u) →
      (parsed = none → refuses (BitVec.ofNat 64 (2 ^ 63 + 2 ^ 32))) ∧
      (∀ l n a v, parsed = some (l, n, a) → u.launchTables (.ctl s.core.pl) l n a = .ok (none, v) →
        refuses (BitVec.ofNat 64 (2 ^ 63 + 2 ^ 32))) ∧
      (∀ l n a l' v, parsed = some (l, n, a) → u.launchTables (.ctl s.core.pl) l n a = .ok (some l', v) →
        v.lquota v.vf ≤ v.live v.vf → refuses (BitVec.ofNat 64 (2 ^ 63 + 2 * 2 ^ 32))) ∧
      (∀ l n a l' v, parsed = some (l, n, a) → u.launchTables (.ctl s.core.pl) l n a = .ok (some l', v) →
        v.live v.vf < v.lquota v.vf →
        let id := (v.pfRaw reg).toNat % 2 ^ 32
        ∃ t, answers (BitVec.ofNat 64 id) t ∧ t.launches = s.launches ++ [{ l' with lid := BitVec.ofNat 32 id }] ∧
          (t.pfRaw reg).toNat % 2 ^ 32 = if id = 2 ^ 32 - 1 then 1 else id + 1))

/-- R131, R140: YIELD is illegal above PL1 and waits while an engine queue is not empty; with none it goes on where no record
of higher priority is runnable (`State.higherReady`: log entry 107, DESIGN CHOICE), and else saves the record at the word after it. YIELD DONATE saves this core's record, the next to stop
here, and marks the partition as donating; the first of a partition in an entry stops its other cores too (R372).

R132, R306: SELF gives the launch id of the running record, its linear index, the groups of its launch and the enabled
cores of the partition. A launch that is complete counts as a live one; of one this device never held the number is a free value
(log entry 29, DESIGN CHOICE). -/
def Obligations.YieldAndSelf : Prop :=
  (∀ (s : State),
    (2 ≤ s.core.pl → exec .yield s = .next (s.trap ⟨.illegalInstruction, s.word⟩) ∧
      exec .yieldDonate s = .next (s.trap ⟨.illegalInstruction, s.word⟩)) ∧
    (s.core.pl < 2 → s.queuesEmpty = false → exec .yield s = .next s ∧ exec .yieldDonate s = .next s) ∧
    (s.core.pl < 2 → s.queuesEmpty = true → s.higherReady = false → exec .yield s = .next (s.retire 1)) ∧
    (s.core.pl < 2 → s.queuesEmpty = true → s.higherReady = true →
      exec .yield s = .next ((s.retire 1).logicalStop s.cur false)) ∧
    (s.core.pl < 2 → s.queuesEmpty = true →
      ∃ t, exec .yieldDonate s = .next t ∧ t.core.run = .saving true (s.core.run == .halted) ∧ t.core.qstop = true ∧
        t.core.pc = (s.retire 1).core.pc ∧ s.cur ∈ t.tst.marks ∧ t.mem = s.mem ∧
        (∀ q, q ∈ t.tst.donating ↔ q = s.core.part ∨ q ∈ s.tst.donating) ∧
        (s.core.part ∈ s.tst.donating → t.others = s.others) ∧
        (s.core.part ∉ s.tst.donating → ∀ p, p ∈ s.partCores s.part → p ∈ t.tst.marks))) ∧
  (∀ (sd : Reg) (s : State),
    Wrote (.selfLaunchId sd) s sd (match s.core.work with
      | some r => r.lid.setWidth 64
      | none => 0) 1 ∧
    Wrote (.selfIndex sd) s sd (BitVec.ofNat 64 (s.core.levelBase.toNat % 2 ^ 32)) 1 ∧
    (∀ l, s.launchInfo s.vf (BitVec.ofNat 32 s.lid) = some l → Wrote (.selfGroups sd) s sd (BitVec.ofNat 64 l.groups) 1) ∧
    (s.launchInfo s.vf (BitVec.ofNat 32 s.lid) = none →
      ∃ t, exec (.selfGroups sd) s = .next t ∧ (∀ r, r ≠ sd → t.rd r = s.rd r) ∧ t.core.pc = (s.retire 1).core.pc) ∧
    Wrote (.selfCores sd) s sd (BitVec.ofNat 64 (s.partCores s.part).length) 1)

/-! ### Engine queues (R9–R16, R54–R61, R339, R340) -/

/-- R9, R11, R16, R20, R54, R56, R60: a header or a patch at PL0 whose image is defined and, under DET, names a profile, appends
the image (bound, and for VX renamed) to its engine's queue with the next sequence number and the mode bits; into a full
queue it waits, and appends once there is room. A template form writes the template, and where it issues nothing only
completes. Undefined images and other levels are illegal. -/
def Obligations.DispatchAppends : Prop :=
  ∀ (e : Eng) (sz : ImgSize) (tix : BitVec 6) (fsel : BitVec 4) (v : H16) (img : Image) (n : Nat) (s : State),
    let patched := (s.template e tix).set fsel.toNat v
    let templated (m : Image) : State := s.setTemplate e tix m
    let appended (u : State) (m : Image) (k : Nat) (i : Instr) : Prop :=
      ∃ t x, exec i s = .next t ∧ (t.eng e).q = (s.eng e).q ++ [x] ∧ (t.eng e).issued = (s.eng e).issued + 1 ∧
        (t.eng e).tmpl = (u.eng e).tmpl ∧ (t.eng e).completed = (s.eng e).completed ∧ (t.eng e).held = (s.eng e).held ∧
        x.img = (if e = .vx then renamed (s.bind m) s.core.vrb else s.bind m) ∧ x.seq = (s.eng e).issued + 1 ∧
        x.det = s.core.det ∧ x.fce = s.core.fce ∧ x.phase = .queued ∧ x.prog = 0 ∧ x.pend = none ∧
        (∀ f, f ≠ e → t.eng f = s.eng f) ∧ t.mem = s.mem ∧ (∀ r, t.rd r = s.rd r) ∧ t.core.pc = (s.retire k).core.pc ∧
        t.core.wait = none
    let issues (u : State) (m : Image) (k : Nat) (i : Instr) : Prop :=
      s.core.pl = 0 → imageDefined e m = true → ¬(s.core.det = true ∧ profZero e m = true) →
        ((s.eng e).q.length < 32 → appended u m k i) ∧
        (32 ≤ (s.eng e).q.length → exec i s = .next { u with core := { u.core with wait := some (.space e m k) } })
    let refuses (m : Image) (i : Instr) : Prop :=
      s.core.pl ≠ 0 ∨ imageDefined e m = false → exec i s = .next (s.trap ⟨.illegalInstruction, s.word⟩)
    issues s img (1 + sz.words) (.engineDispatch e sz img) ∧ refuses img (.engineDispatch e sz img) ∧
    issues s patched 1 (.patch e tix fsel v) ∧ refuses patched (.patch e tix fsel v) ∧
    issues (templated patched) patched 1 (.patchS e tix fsel v) ∧ refuses patched (.patchS e tix fsel v) ∧
    (s.core.pl = 0 → imageDefined e patched = true →
      exec (.patchSN e tix fsel v) s = .next ((templated patched).retire 1)) ∧ refuses patched (.patchSN e tix fsel v) ∧
    (s.core.pl = 0 → imageDefined e img = true →
      exec (.templateStore e sz tix img) s = .next ((templated img).retire (1 + sz.words))) ∧
    refuses img (.templateStore e sz tix img) ∧
    (templated img).template e tix = img ∧ (∀ k, k ≠ tix → (templated img).template e k = s.template e k) ∧
    (s.core.wait = some (.space e img n) → s.frozen = false → (s.eng e).q.length < 32 → appended s img n .queueSpaceAppend) ∧
    (s.frozen = true → exec .queueSpaceAppend s = .next s) ∧
    (s.core.det = true → s.core.pl = 0 → imageDefined e img = true → profZero e img = true →
      exec (.engineDispatch e sz img) s = .next (s.trap ⟨.profile, s.word⟩))

/-- R10, R12–R14, R234: the head entry, having every effect, completes: its SIG tokens are pushed, it leaves the queue and the
completed count follows; with a scan the SX.CARRY that it has used completes too; a tile that a scan has frozen completes nothing
(R348). A push to a queue that holds 15 is TOKEN_OVERFLOW, held with the entry's sequence number, all
pushes withheld and the queues stopped.

R339, R340: at an instruction boundary CTL takes the earliest held fault whose handling level is above its own: bank h
names the engine, the sequence number and the cause, the fault is no longer held, and no other engine's is taken. -/
def Obligations.EntryCompletion : Prop :=
  (∀ (e : Eng) (x : Entry) (rest : List Entry) (s : State),
    let sig := (imgSig x.img).toNat
    let full (j : Nat) : Prop := sig.testBit j = true ∧ s.core.tokCount e.num j = 15
    (s.frozen = true → exec (.entryComplete e) s = .next s) ∧
    (s.frozen = false → (s.eng e).q = x :: rest → x.phase = .finished → (∀ y ∈ rest, y.seq ≠ x.seq) → x.pend = none →
      ((∀ j, j < 8 → ¬ full j) → (∀ y, rest.head? = some y → y.phase ≠ .done) → (e = .sx → s.carryUsed = none) →
        ∃ t, exec (.entryComplete e) s = .next t ∧ (t.eng e).q = rest ∧ (t.eng e).completed = (s.eng e).completed + 1 ∧
          (∀ i j, i < 8 → j < 8 → t.core.tokCount i j =
            if i = e.num ∧ sig.testBit j = true then s.core.tokCount i j + 1 else s.core.tokCount i j) ∧
          (t.core.ev = true ↔ s.core.ev = true ∨ sig.testBit 0 = true) ∧ (∀ f, f ≠ e → t.eng f = s.eng f) ∧
          t.mem = s.mem ∧ t.core.pc = s.core.pc ∧ t.core.s = s.core.s) ∧
      ((∃ j, j < 8 ∧ full j) → (s.eng e).held = none →
        ∃ t h, exec (.entryComplete e) s = .next t ∧ (t.eng e).held = some h ∧ h.trap.cause = .tokenOverflow ∧
          h.seq = x.seq ∧ t.core.qstop = true ∧ t.core.tok = s.core.tok ∧
          (t.eng e).q = { x with phase := .withheld } :: rest)) ∧
    (∀ c, e = .sx → s.frozen = false → (s.eng e).q = c :: x :: rest → c.phase = .started → c.img.opc = 4 → c.prog = 1 →
      c.pend = none → imgSig c.img = 0 → x.phase = .finished → x.img.opc = 2 ∨ x.img.opc = 5 → x.pend = none → c.seq ≠ x.seq →
      (∀ y ∈ rest, y.seq ≠ x.seq ∧ y.seq ≠ c.seq) → (∀ y, rest.head? = some y → y.phase ≠ .done) → (∀ j, j < 8 → ¬ full j) →
      ∃ t, exec (.entryComplete e) s = .next t ∧ (t.eng e).q = rest ∧ (t.eng e).completed = (s.eng e).completed + 2)) ∧
  (∀ (e : Eng) (f : Held) (s : State),
    let h := f.trap.handling s.core.pl
    s.runs = true → s.core.outst = none → earliest s.takeable = some (e, f) → h ≤ 3 →
    (h = 1 → s.pfBits (vfReg s.vf.toNat 0x38) 0 48 ≠ 0) →
      ∃ t, exec .engineFaultTaken s = .next t ∧ t.core.pl = h ∧ t.core.pc = s.entry h ∧
        (t.bank h).ecause = BitVec.ofNat 64 (f.trap.cause.code * 2 ^ 32 + f.seq.toNat) ∧ (t.bank h).eval = f.trap.val ∧
        (t.bank h).epl = BitVec.ofNat 64 (e.num * 4 + s.core.pl) ∧ (t.eng e).held = none ∧
        (∀ g, g ≠ e → t.eng g = s.eng g) ∧ (t.eng e).q = (s.eng e).q ∧ t.mem = s.mem ∧
        (∀ g x, (g, x) ∈ s.takeable → f.order ≤ x.order))

/-! ### FE and DE (R162–R170) -/

/-- R165, R167: an FE entry of a limited form whose queue it produces and that has room for COUNT entries starts, and pushes
them in order: FE.LD, FE.UNPK and a loaded FE.BCST what their runs hold, FE.BCST IMM the value B in every lane, FE.AGEN
D + l·B + v·C, FE.IDX the positions of the set bits, then all ones, and FE.LDG COUNT entries in which an element beyond an
extent is 0.

R350, R355, R347, R27: a load of FE or a store of DE whose core is saved or halted is parked there, one entry for the access, and the
engine waits, its entry not started; with the parking region full it is not accepted and nothing changes; once the context has
resumed on a core, where its parked list is applied, the access goes to that core. -/
def Obligations.FeedEntries : Prop :=
  (∀ (a : FdArgs) (x : Entry) (s : State),
    let n := a.count.toNat
    let q := s.opQ a.q.toNat
    let b := a.b.toInt
    s.StartsNow .fe x → q.prod = 1 → q.ents.length + n ≤ 4 →
      (∀ rs, s.entryRuns .fe .engine a (typeBytes a.typ.toNat) (fdBytes a) b (fun v => v * b) = .ok rs →
        (∀ r ∈ rs, ∀ y ∈ r, s.CleanRun y) → s.Feeds (.feLd a) a x (rs.map (fun r => feForm a (s.runsData r)))) ∧
      (∀ rs, s.entryRuns .fe .pack a 24 192 b (fun v => v * b) = .ok rs → (∀ r ∈ rs, ∀ y ∈ r, s.CleanRun y) →
        s.Feeds (.feUnpk a) a x (rs.map (fun r =>
          lanesOf (fun l => unpkElem (a.h13 == 1) (leNat (((s.runsData r).drop (3 * l)).take 3)))))) ∧
      (a.h13 = 1 → s.Feeds (.feBcst a) a x (List.replicate n (Vector.replicate 64 a.b))) ∧
      (∀ rs, a.h13 ≠ 1 → s.entryRuns .fe .engine a (typeBytes a.typ.toNat) (typeBytes a.typ.toNat) 0 (fun _ => 0) = .ok rs →
        (∀ r ∈ rs, ∀ y ∈ r, s.CleanRun y) →
        s.Feeds (.feBcst a) a x (rs.map (fun r => Vector.replicate 64 (widenTo (fdFmt a.typ.toNat) (leNat (s.runsData r)))))) ∧
      s.Feeds (.feAgen a) a x ((List.range n).map (fun v => lanesOf (fun l => a.d + BitVec.ofNat 32 l * a.b + BitVec.ofNat 32 v * a.c))) ∧
      (∀ r, s.ioPlaces .engine 0 a.a.toNat (ceilDiv a.d.toNat 8) = .ok r → (∀ y ∈ r, s.CleanRun y) →
        let set := setBits (s.runsData r) a.d.toNat
        s.Feeds (.feIdx a) a x ((List.range n).map (fun v => lanesOf (fun l => BitVec.ofNat 32 (set.getD (64 * v + l) 0xFFFFFFFF))))) ∧
      (∀ d rs, s.coordDesc a = .ok d → (List.range n).mapM (s.coordEntry a d) = .ok rs →
        (∀ r ∈ rs, ∀ y, some y ∈ r → s.CleanRun y) →
        ∃ lanes : List Lanes, lanes.length = n ∧ s.Feeds (.feLdg a) a x lanes ∧
          (∀ v l, v < n → l < 64 → a.conv ≠ 0 → s.coordRun a d v l = .ok none → lane (lanes.getD v zeroLanes) l = 0) ∧
          (∀ v l y, v < n → l < 64 → a.conv ≠ 0 → s.coordRun a d v l = .ok (some y) →
            lane (lanes.getD v zeroLanes) l = widenTo (fdFmt d.typ) (leNat (s.runsData [y]))))) ∧
  (∀ (a : FdArgs) (x : Entry) (rs : List (List IoRun)) (ga n p o k m : Nat) (g : SavedImage) (s : State),
    let b := a.b.toInt
    let size := typeBytes a.typ.toNat
    let parks (i : Instr) (e : Eng) : Prop :=
      s.core.sent = [] → rs.flatten = [(ga, n, .remote p o)] → p ≠ s.cur →
        (s.reach p s.vf = .atStop → ∃ t, exec i s = .next t ∧ (t.coreAt p).parked = (s.coreAt p).parked ++ [.run s.cur e.num p o] ∧
          t.core.sent = [⟨e.num, p, o, none⟩] ∧ t.core.eng = s.core.eng ∧ t.core.vx = s.core.vx ∧ t.mem = s.mem) ∧
        (s.reach p s.vf = .inImage k → s.images.find? (fun i => i.id == k) = some g →
          (g.hasRoom = false → exec i s = .next s) ∧
          (g.hasRoom = true → ∃ t, exec i s = .next t ∧ t.core.sent = [⟨e.num, p, o, none⟩] ∧ t.core.eng = s.core.eng ∧
            t.core.vx = s.core.vx ∧ t.mem = ((s.countParked k).writeParked g g.parked.length).mem ∧
            t.images = s.images.map (fun i => if i.id = k then { i with parked := i.parked ++ [.run s.cur e.num p o] } else i)))
    s.scrubq = [] →
      (s.StartsNow .fe x → (s.opQ a.q.toNat).prod = 1 → (s.opQ a.q.toNat).ents.length + a.count.toNat ≤ 4 →
        s.entryRuns .fe .engine a size (fdBytes a) b (fun v => v * b) = .ok rs → parks (.feLd a) .fe) ∧
      (s.StartsNow .de x → (s.opQ a.q.toNat).cons = 5 → a.count.toNat ≤ (s.opQ a.q.toNat).ents.length →
        s.entryRuns .de .engine a size (fdBytes a) b (fun v => v * b) = .ok rs → parks (.deSt a) .de) ∧
      (∀ e : Eng, s.core.sent = [⟨e.num, p, o, none⟩] →
        (s.applyParked m [.run s.cur e.num p o]).resolve e (.remote p o) = .remote m o))

/-- R165, R166, R168: a gather or stream only starts, or is refused for a CI12P tensor (R83); each delivery then pushes one element, at the displacement its index or
its row gives, and raises its progress; the last ends the entry; a fault is raised before anything of the element is
delivered. -/
def Obligations.GatherDelivery : Prop :=
  ∀ (a : FdArgs) (x : Entry) (s : State),
    let starts (i : Instr) : Prop := s.StartsNow .fe x →
      (s.gathCi12p a x = none → exec i s = .next (s.start .fe x .started)) ∧
      (∀ t, s.gathCi12p a x = some t → (s.eng .fe).held = none → ∃ v h, exec i s = .next v ∧ (v.eng .fe).held = some h ∧ h.trap = t ∧
        h.seq = x.seq ∧ v.core.qstop = true ∧ v.core.tok = s.core.tok ∧ v.mem = s.mem)
    let a' := FdArgs.ofImage x.img
    let q := s.opQ a'.q.toNat
    let total := if x.img.opc = 8 then a'.count.toNat * a'.d.toNat else a'.count.toNat
    starts (.feGath a) ∧ starts (.feGathq a) ∧ starts (.feStrm a) ∧
    (s.entryIn .fe .started = some x → s.core.qstop = false → s.core.scanned = false → s.boot.power ≠ .stopped →
      (s.eng .fe).held = none → x.prog < total → q.prod = 1 → q.ents.length < 4 →
      (x.img.opc = 8 ∨ s.sbHit (a'.c.toNat + 4 * x.prog) 4 = false) →
        (∀ d u l, s.gathDisp a' x = .ok (d, u) →
          u.ioEntry .fe .engine a' (typeBytes a'.typ.toNat) (fdBytes a') a'.b.toInt d = .ok l → (∀ y ∈ l, s.CleanRun y) →
          u.mem = s.mem → u.poison = s.poison → x.det = false →
          ∃ t, exec .feElementDelivery s = .next t ∧
            (t.opQ a'.q.toNat).ents = q.ents ++ [feForm a' (s.runsData l)] ∧ (∀ k, k ≠ a'.q.toNat → t.opQ k = s.opQ k) ∧
            (∃ y ∈ (t.eng .fe).q, y.seq = x.seq ∧ y.prog = x.prog + 1 ∧
              (y.phase = .finished ↔ x.prog + 1 = total)) ∧ t.mem = s.mem) ∧
        (∀ e, s.gathDisp a' x = .error e →
          ∃ t h, exec .feElementDelivery s = .next t ∧ (t.eng .fe).held = some h ∧ h.trap = e ∧ h.seq = x.seq ∧
            (t.opQ a'.q.toNat).ents = q.ents ∧ t.core.qstop = true))

/-- R165, R169, R170: a DE entry that consumes its queue, with COUNT entries there, pops them in order and puts each one's
bytes at its runs before the next: DE.ST and DE.SCAT raw or narrowed, DE.ADDST the sums over what then lies there, DE.PACK
64 CI12P values, DE.STG the elements within the extents; DE.AGEN pops nothing and writes D + l·B + v·C. Every other byte is
unchanged. No frame waits to be scrubbed (R384). -/
def Obligations.DrainEntries : Prop :=
  ∀ (a : FdArgs) (x : Entry) (s : State),
    let n := a.count.toNat
    let k := a.q.toNat
    let q := s.opQ k
    let b := a.b.toInt
    let e := typeBytes a.typ.toNat
    let vs := q.ents.take n
    let clean (rs : List (List IoRun)) : Prop := ∀ r ∈ rs, ∀ y ∈ r, s.CleanRun y
    let drains {α : Type} (i : Instr) (u : State) (form : State → α → List IoRun → List Byte) (ws : List α)
        (rs : List (List IoRun)) (left : List Lanes) : Prop :=
      ∃ t, exec i s = .next t ∧ (∀ p, t.byte p = (u.putEntries form ws rs).byte p) ∧ (t.opQ k).ents = left ∧
        (∀ j, j ≠ k → t.opQ j = s.opQ j) ∧ s.EntryAt t .de x .finished
    let plain (_ : State) (v : Lanes) (_ : List IoRun) : List Byte := deForm a v
    let adds (u : State) (v : Lanes) (r : List IoRun) : List Byte := addForm a (u.runsData r) v
    s.StartsNow .de x → s.scrubq = [] →
      (q.cons = 5 → n ≤ q.ents.length →
        (∀ rs, s.entryRuns .de .engine a e (fdBytes a) b (fun v => v * b) = .ok rs → clean rs →
          drains (.deSt a) s plain vs rs (q.ents.drop n) ∧
          (a.h13 ≠ 1 → drains (.deAddst a) s adds vs rs (q.ents.drop n))) ∧
        (∀ rs u c, s.indexedRuns a x = .ok (rs, u, c) → u.poison = s.poison → clean rs →
          drains (.deScat a) u plain vs rs (q.ents.drop n) ∧
          (a.h13 = 1 → drains (.deAddst a) u adds vs rs (q.ents.drop n))) ∧
        (∀ rs, s.entryRuns .de .pack a 24 192 b (fun v => v * b) = .ok rs → clean rs →
          drains (.dePack a) s
            (fun _ v _ => elemBytes 3 (fun j => packElem (a.h13 == 1) a.rnd.toNat (lane v j))) vs rs (q.ents.drop n)) ∧
        (∀ d rs, s.coordDesc a = .ok d → (List.range n).mapM (s.coordEntry a d) = .ok rs →
          (∀ r ∈ rs, ∀ y, some y ∈ r → s.CleanRun y) →
          let elem (v : Lanes) (j : Nat) : List Byte := if a.conv = 0 then ((laneBytes v).drop (d.e * j)).take d.e
            else leBytes d.e (narrowElem (fdFmt d.typ) a.rnd.toNat (lane v j))
          let parts : List (List Byte × List IoRun) := ((vs.zip rs).map (fun z => z.2.zipIdx.filterMap (fun y =>
            y.1.map (fun r => (elem z.1 y.2, [r]))))).flatten
          drains (.deStg a) s (fun _ d _ => d) (parts.map (·.1)) (parts.map (·.2)) (q.ents.drop n))) ∧
      (∀ rs, (List.range n).mapM (fun v => s.ioEntry .de .engine a 1 256 0 ((256 * v : Nat) : Int)) = .ok rs → clean rs →
        drains (.deAgen a) s (fun _ v _ => laneBytes v)
          ((List.range n).map (fun v => lanesOf (fun l => a.d + BitVec.ofNat 32 l * a.b + BitVec.ofNat 32 v * a.c))) rs q.ents)

/-! ### VX (R172–R202) -/

/-- R84, R91, R172, R183–R186, R189: every element of an active lane of a float result is the exact value of the
operation on the operands' elements, rounded once to the format of TYPE; the special functions likewise, their values the fixed-point
functions of log entry 78 (DEDUCED). FMIN, FMAX, FABS and FNEG need no rounding mode; FCLASS gives the class word of R185. -/
def Obligations.VxFloatResult : Prop :=
  ∀ (a : VxArgs) (x : Entry) (s : State),
    let f := vxFmt a.typ.toNat
    let n := vxElems a.typ.toNat
    let down := vxRnd a == .rdn
    let V (sel : BitVec 7) (l j : Nat) : Machine.Num := valZ a.ftz (elem n (s.vxLane a sel l) j) f
    let gives (i : Instr) (srcs : List Nat) (latency : Nat) (y : Option Nat) (rc : Rnd) (op : Nat → Nat → Machine.Num) : Prop :=
      s.VxIssues x srcs (dstQueue a.d.toNat) → s.VxPends i a x srcs latency y (fun r => ∀ l j, l < 64 → j < n →
        s.vxSlot.active a l = true →
        elem n (lane r l) j = vxRounded a f rc (op l j) (if rc = vxRnd a then s.vxRandom a l j else lane s.vxSlot.core.vx.lfsr l) none
          % 2 ^ (32 / n))
    let two := srcs2 a
    let three := srcs3 a
    let one := srcs1 a
    let rc := vxRnd a
    let fn (i : Instr) (g : Machine.Num → Machine.Num) : Prop := gives i one 8 (some 3) rc (fun l j => g (V a.a l j))
    gives (.vxFadd a) two 4 (some 2) rc (fun l j => (V a.a l j).add down (V a.b l j)) ∧
    gives (.vxFsub a) two 4 (some 2) rc (fun l j => (V a.a l j).sub down (V a.b l j)) ∧
    gives (.vxFmul a) two 4 (some 2) rc (fun l j => (V a.a l j).mul (V a.b l j)) ∧
    gives (.vxFma a) three 4 (some 2) rc (fun l j => ((V a.a l j).mul (V a.b l j)).add down (V a.c l j)) ∧
    gives (.vxFms a) three 4 (some 2) rc (fun l j => ((V a.a l j).mul (V a.b l j)).sub down (V a.c l j)) ∧
    gives (.vxFmin a) two 2 (aluY a) .rne (fun l j => (V a.a l j).min (V a.b l j)) ∧
    gives (.vxFmax a) two 2 (aluY a) .rne (fun l j => (V a.a l j).max (V a.b l j)) ∧
    gives (.vxFabs a) one 2 (aluY a) .rne (fun l j => (V a.a l j).abs) ∧
    gives (.vxFneg a) one 2 (aluY a) .rne (fun l j => (V a.a l j).neg) ∧
    fn (.vxExp2 a) fnExp2 ∧ fn (.vxLog2 a) fnLog2 ∧ fn (.vxRcp a) fnRcp ∧ fn (.vxRsq a) fnRsq ∧ fn (.vxSqrt a) fnSqrt ∧
    fn (.vxSigm a) fnSigm ∧ fn (.vxTanh a) fnTanh ∧ fn (.vxSilu a) fnSilu ∧ fn (.vxSoftp a) fnSoftp ∧
    (s.VxIssues x one (dstQueue a.d.toNat) → s.VxPends (.vxFclass a) a x one 2 (aluY a) (fun r => ∀ l j, l < 64 → j < n →
      s.vxSlot.active a l = true → elem n (lane r l) j = classWord a.ftz (elem n (s.vxLane a a.a l) j) f % 2 ^ (32 / n))) ∧
    (s.VxIssues x one (dstQueue a.d.toNat) → s.VxPends (.vxFrnd a) a x one 3 none (fun r => ∀ l j, l < 64 → j < n →
      s.vxSlot.active a l = true →
      elem n (lane r l) j = integral a.ftz (elem n (s.vxLane a a.a l) j) f rc (s.vxRandom a l j) % 2 ^ (32 / n)))

/-- R187, R89: every element of an active lane of an integer result: wrapped to the element's width or, under S, clamped to its
range; shift counts are taken modulo the width, the bitwise operations act on whole lanes. -/
def Obligations.VxIntegerResult : Prop :=
  ∀ (a : VxArgs) (x : Entry) (s : State),
    let n := vxElems a.typ.toNat
    let w := 32 / n
    let R (sel : BitVec 7) (l j : Nat) : Nat := elem n (s.vxLane a sel l) j
    let I (sel : BitVec 7) (l j : Nat) : Int := sint (R sel l j) w
    let X (sel : BitVec 7) (l j : Nat) : Int := if bit a.fn.toNat 1 then (R sel l j : Int) else I sel l j
    let wrap (v : Int) : Nat := (v % 2 ^ w).toNat
    let fit (v : Int) : Nat := if bit a.fn.toNat 0 then wrap (max (-2 ^ (w - 1)) (min (2 ^ (w - 1) - 1) v)) else wrap v
    let gives (i : Instr) (srcs : List Nat) (latency : Nat) (y : Option Nat) (op : Nat → Nat → Nat) : Prop :=
      s.VxIssues x srcs (dstQueue a.d.toNat) → s.VxPends i a x srcs latency y (fun r => ∀ l j, l < 64 → j < n →
        s.vxSlot.active a l = true → elem n (lane r l) j = op l j)
    let whole (i : Instr) (op : W32 → W32 → W32) : Prop :=
      s.VxIssues x (srcs2 a) (dstQueue a.d.toNat) → s.VxPends i a x (srcs2 a) 2 (aluY a) (fun r => ∀ l, l < 64 →
        s.vxSlot.active a l = true → lane r l = op (s.vxLane a a.a l) (s.vxLane a a.b l))
    let two := srcs2 a
    gives (.vxIadd a) two 2 (aluY a) (fun l j => fit (I a.a l j + I a.b l j)) ∧
    gives (.vxIsub a) two 2 (aluY a) (fun l j => fit (I a.a l j - I a.b l j)) ∧
    gives (.vxImul a) two 4 (some 2) (fun l j => wrap (I a.a l j * I a.b l j)) ∧
    gives (.vxImulh a) two 4 (some 2) (fun l j => wrap (X a.a l j * X a.b l j / 2 ^ w)) ∧
    gives (.vxImad a) (srcs3 a) 4 (some 2) (fun l j => fit (I a.a l j * I a.b l j + I a.c l j)) ∧
    gives (.vxImin a) two 2 (aluY a) (fun l j => wrap (min (X a.a l j) (X a.b l j))) ∧
    gives (.vxImax a) two 2 (aluY a) (fun l j => wrap (max (X a.a l j) (X a.b l j))) ∧
    gives (.vxShl a) two 2 (aluY a) (fun l j => R a.a l j * 2 ^ (R a.b l j % w) % 2 ^ w) ∧
    gives (.vxShr a) two 2 (aluY a) (fun l j => R a.a l j / 2 ^ (R a.b l j % w)) ∧
    gives (.vxSar a) two 2 (aluY a) (fun l j => wrap (I a.a l j / 2 ^ (R a.b l j % w))) ∧
    whole (.vxAnd a) (fun p q => p &&& q) ∧ whole (.vxOr a) (fun p q => p ||| q) ∧ whole (.vxXor a) (fun p q => p ^^^ q) ∧
    whole (.vxAndn a) (fun p q => p &&& ~~~q)

/-- R82, R173, R188: the real and the imaginary component of a complex result, each the exact value rounded once, the real one
first; under CF32P a value lies in a pair of lanes. -/
def Obligations.VxComplexResult : Prop :=
  ∀ (a : VxArgs) (x : Entry) (s : State),
    let f := vxFmt a.typ.toNat
    let d := vxRnd a == .rdn
    let pair : Prop := a.typ = 7
    let Z (sel : BitVec 7) (l k : Nat) : Machine.Num :=
      if a.typ = 7 then valZ a.ftz (s.vxLane a sel (l / 2 * 2 + k)).toNat .fp32 else valZ a.ftz (elem 2 (s.vxLane a sel l) k) f
    let out (r : Lanes) (l k : Nat) : Nat := if a.typ = 7 then (lane r (l / 2 * 2 + k)).toNat else elem 2 (lane r l) k
    let size : Nat := if a.typ = 7 then 32 else 16
    let g (l k : Nat) : W32 := s.vxRandom a (if a.typ = 7 then l / 2 * 2 else l) k
    let gives (i : Instr) (srcs : List Nat) (re : Nat → Machine.Num) (im : Option (Nat → Machine.Num)) : Prop :=
      (pair ∨ vxElems a.typ.toNat = 2) → s.VxIssues x srcs (dstQueue a.d.toNat) →
      s.VxPends i a x srcs 4 (some 2) (fun r => ∀ l, l < 64 → s.vxSlot.active a l = true →
        out r l 0 = vxRounded a f (vxRnd a) (re l) (g l 0) none % 2 ^ size ∧
        out r l 1 = (match im with
          | some h => vxRounded a f (vxRnd a) (h l) (g l 1) none % 2 ^ size
          | none => 0))
    let A (k l : Nat) : Machine.Num := Z a.a l k
    let B (k l : Nat) : Machine.Num := Z a.b l k
    let C (k l : Nat) : Machine.Num := Z a.c l k
    gives (.vxCadd a) (srcs2 a) (fun l => (A 0 l).add d (B 0 l)) (some (fun l => (A 1 l).add d (B 1 l))) ∧
    gives (.vxCsub a) (srcs2 a) (fun l => (A 0 l).sub d (B 0 l)) (some (fun l => (A 1 l).sub d (B 1 l))) ∧
    gives (.vxCmul a) (srcs2 a) (fun l => ((A 0 l).mul (B 0 l)).sub d ((A 1 l).mul (B 1 l)))
      (some (fun l => ((A 0 l).mul (B 1 l)).add d ((A 1 l).mul (B 0 l)))) ∧
    gives (.vxCmac a) (srcs3 a) (fun l => sumAll d [C 0 l, (A 0 l).mul (B 0 l), ((A 1 l).mul (B 1 l)).neg])
      (some (fun l => sumAll d [C 1 l, (A 0 l).mul (B 1 l), (A 1 l).mul (B 0 l)])) ∧
    gives (.vxCmulj a) (srcs2 a) (fun l => ((A 0 l).mul (B 0 l)).add d ((A 1 l).mul (B 1 l)))
      (some (fun l => ((A 1 l).mul (B 0 l)).sub d ((A 0 l).mul (B 1 l)))) ∧
    gives (.vxCabs2 a) (srcs1 a) (fun l => ((A 0 l).mul (A 0 l)).add d ((A 1 l).mul (A 1 l))) none

/-- R190–R195, R198, R144: conversions put their rounded elements into group PART of the lane and keep the others, or take group
PART of the source; moves, selects, shuffles and rotations take lanes as they are; LDS loads the words of active lanes from
the scratchpad and STS stores them, and no other byte. -/
def Obligations.VxMoveResult : Prop :=
  ∀ (a : VxArgs) (x : Entry) (s : State),
    let gives (i : Instr) (srcs : List Nat) (latency : Nat) (y : Option Nat) (good : Lanes → Nat → Prop) : Prop :=
      s.VxIssues x srcs (dstQueue a.d.toNat) → s.VxPends i a x srcs latency y (fun r => ∀ l, l < 64 →
        s.vxSlot.active a l = true → good r l)
    let word (i : Instr) (srcs : List Nat) (latency : Nat) (y : Option Nat) (f : Nat → W32) : Prop :=
      gives i srcs latency y (fun r l => lane r l = f l)
    let A := s.vxLane a a.a
    let B := s.vxLane a a.b
    let C := s.vxLane a a.c
    let df := cvtFmt (a.fn.toNat / 16)
    let sf := cvtFmt (a.fn.toNat % 16)
    let d := Machine.cvtElems (a.fn.toNat / 16)
    let n := Machine.cvtElems (a.fn.toNat % 16)
    let part := a.imm.toNat % 4
    let old := s.vxSlot.mergeLane a
    let conv (l j k : Nat) : Nat :=
      vxRounded a df (vxRnd a) (valZ a.ftz (elem n (A l) j) sf) (s.vxRandom a l k) (some (quantum (elem n (A l) j) sf))
    let at0 (l : Nat) : Nat := spadPa s.cur (a.imm.toNat + 4 * l)
    let rot := a.imm.toNat % 64
    let clean : Prop := s.vxSlot.vxSpad a = .ok ∧ s.poisonUnits (spadPa s.cur a.imm.toNat) 256 = []
    (n ≤ d → part * n + n ≤ d → gives (.vxCvt a) (srcs1 a) 3 none (fun r l => ∀ j, j < d →
      elem d (lane r l) j = if part * n ≤ j ∧ j < part * n + n then conv l (j - part * n) (j - part * n) % 2 ^ (32 / d)
        else elem d (old l) j)) ∧
    (d < n → part * d + d ≤ n → gives (.vxCvt a) (srcs1 a) 3 none (fun r l => ∀ j, j < d →
      elem d (lane r l) j = conv l (part * d + j) j % 2 ^ (32 / d))) ∧
    (part < d → gives (.vxQnt a) (srcs2 a) 3 none (fun r l => ∀ j, j < d →
      elem d (lane r l) j = if j = part
        then vxRounded a df (vxRnd a) ((valZ a.ftz (A l).toNat .fp32).mul (valZ a.ftz (B l).toNat .fp32)) (s.vxRandom a l 0) none
          % 2 ^ (32 / d)
        else elem d (old l) j)) ∧
    word (.vxMov a) (srcs1 a) 2 (aluY a) A ∧
    word (.vxSel a) (srcs2 a) 2 (aluY a) (fun l => if bit (s.vxSlot.maskReg (a.fn.toNat % 8)).toNat l then A l else B l) ∧
    (bit a.fn.toNat 0 = false → word (.vxShuf a) (srcs2 a) 3 none (fun l => A ((B l).toNat % 64))) ∧
    (bit a.fn.toNat 0 = true → word (.vxShuf a) (srcs3 a) 3 none (fun l =>
      let i := (B l).toNat % 128
      if i < 64 then A i else C (i - 64))) ∧
    (bit a.fn.toNat 0 = false → word (.vxLrot a) (srcs1 a) 3 none (fun l => A ((l + 64 - rot) % 64))) ∧
    (bit a.fn.toNat 0 = true → word (.vxLrot a) (srcs1 a) 3 none (fun l => if rot ≤ l then A (l - rot) else 0)) ∧
    word (.vxMopTov a) [] 2 (aluY a) (fun l => if bit (s.vxSlot.maskReg (a.a.toNat % 8)).toNat l then 1 else 0) ∧
    word (.vxLfsrRead a) [] 2 (aluY a) (fun l => lane s.vxSlot.core.vx.lfsr l) ∧
    (clean → word (.vxMovLds a) [] 6 none (fun l => BitVec.ofNat 32 (s.loadLE (at0 l) 4))) ∧
    (clean → s.VxIssues x (srcs1 a) none → s.VxInSlot (.vxMovSts a) x (fun t =>
      (∀ l, l < 64 → s.vxSlot.active a l = true → t.loadLE (at0 l) 4 = (lane (s.vxSlot.vxSrc 0 a.a.toNat) l).toNat) ∧
      (∀ p, (∀ l, l < 64 → s.vxSlot.active a l = true → p < at0 l ∨ at0 l + 4 ≤ p) → t.byte p = s.byte p)))

/-- R180, R185, R187, R196–R198: what takes effect in the issue slot: a compare writes the bits of active lanes of its mask
register, keeping or clearing the others; KSET, the mask operations, QCFG and the LFSR instructions write their registers,
and nothing else of the kind.

R39, R178–R180, R182: in an empty slot a pending result comes one slot nearer; one whose slot it is is written to its
register under its mask (an inactive lane keeps its word, or becomes 0 under MZ) or pushed to its queue with zeros in
inactive lanes, updates its y register, and its entry has every effect.

R87, R89, R172, R183: what a result leaves in its issue slot beside the pending write: under SMEN bit l of m[SM] is set where an
element of active lane l saturated (R89's sat of the rounding; under S a clamp of an integer), clear in every other lane; no other
mask register changes, and none without SMEN. Under SR the LFSR of an active lane steps once for each element it rounds; no other
steps. A form that cannot saturate is accepted with SMEN and clears m[SM] (log entry 129, DESIGN CHOICE). -/
def Obligations.VxSlotEffects : Prop :=
  (∀ (a : VxArgs) (x : Entry) (s : State),
    let n := vxElems a.typ.toNat
    let k := b2n (bit a.fn.toNat 7)
    let f := vxFmt a.typ.toNat
    let u := s.vxSlot
    let A := s.vxLane a a.a
    let B := s.vxLane a a.b
    let D := a.d.toNat % 8
    let m (r : BitVec 7) : W64 := u.maskReg (r.toNat % 8)
    let others (t : State) : Prop := ∀ j, j < 8 → j ≠ D → t.maskReg j = u.maskReg j
    let compares (i : Instr) (c : Nat → Bool) : Prop :=
      s.VxIssues x (srcs2 a) none → s.VxInSlot i x (fun t => t.mem = s.mem ∧ others t ∧ ∀ l, l < 64 →
        bit (t.maskReg D).toNat l = if u.active a l then c l else !a.mz && bit (u.maskReg D).toNat l)
    let masks (i : Instr) (v : W64) : Prop :=
      s.VxIssues x [] none → s.VxInSlot i x (fun t => t.mem = s.mem ∧ t.maskReg D = v ∧ others t)
    let ks (i : Instr) (srcs : List Nat) (v : W32) : Prop :=
      s.VxIssues x srcs none → s.VxInSlot i x (fun t => t.mem = s.mem ∧ t.core.vx.k = u.core.vx.k.setIfInBounds D v ∧ t.core.vx.m = u.core.vx.m)
    let seeds (i : Instr) (srcs : List Nat) (g : Nat → W32) : Prop :=
      s.VxIssues x srcs none → s.VxInSlot i x (fun t => t.mem = s.mem ∧ t.core.vx.m = u.core.vx.m ∧ ∀ l, l < 64 →
        lane t.core.vx.lfsr l = if u.active a l then g l else lane u.core.vx.lfsr l)
    let V (w : Nat → W32) (l : Nat) : Machine.Num := valZ a.ftz (elem n (w l) k) f
    let I (w : Nat → W32) (l : Nat) : Int := intVal (bit a.fn.toNat 3) (32 / n) (elem n (w l) k)
    compares (.vxFcmp a) (fun l => floatCond (a.fn.toNat % 8) (V A l) (V B l)) ∧
    compares (.vxIcmp a) (fun l => intCond (a.fn.toNat % 8) (I A l) (I B l)) ∧
    ks (.vxKset a) [] a.imm ∧ ks (.vxKsetLane a) (srcs1 a) (A (a.imm.toNat % 64)) ∧
    masks (.vxMopAnd a) (m a.a &&& m a.b) ∧ masks (.vxMopOr a) (m a.a ||| m a.b) ∧ masks (.vxMopXor a) (m a.a ^^^ m a.b) ∧
    masks (.vxMopAndn a) (m a.a &&& ~~~(m a.b)) ∧ masks (.vxMopNot a) (~~~(m a.a)) ∧
    masks (.vxMopSet a) (BitVec.allOnes 64) ∧ masks (.vxMopClr a) 0 ∧
    (s.VxIssues x (srcs1 a) none → s.VxInSlot (.vxMopFromv a) x (fun t => t.mem = s.mem ∧ others t ∧ ∀ l, l < 64 →
      bit (t.maskReg D).toNat l = (A l != 0))) ∧
    (64 ≤ a.d.toNat → a.d.toNat < 72 → s.VxIssues x [] none → u.pendingPushes (a.d.toNat - 64) = 0 →
      s.VxInSlot (.vxQcfg a) x (fun t => t.mem = s.mem ∧
        t.opQ (a.d.toNat - 64) = ⟨a.imm.toNat % 16, a.imm.toNat / 16 % 16, []⟩ ∧
        ∀ j, j ≠ a.d.toNat - 64 → t.opQ j = u.opQ j)) ∧
    seeds (.vxLfsrSeedv a) (srcs1 a) A ∧ seeds (.vxLfsrSeedi a) [] (fun l => a.imm + BitVec.ofNat 32 l) ∧
    seeds (.vxLfsrStep a) [] (fun l => lfsrStep (lane u.core.vx.lfsr l))) ∧
  (∀ (p : VxPend) (s : State),
    let merged (old : Lanes) (l : Nat) : W32 := if bit p.mask.toNat l then lane p.val l else if p.mz then 0 else lane old l
    let reg (t : State) (n : Nat) : Lanes := t.core.vx.v.toList.getD n zeroLanes
    let yreg (t : State) (n : Nat) : Lanes := t.core.vx.y.toList.getD n zeroLanes
    s.core.vx.pend = [p] → s.core.qstop = false → s.core.scanned = false → s.boot.power ≠ .stopped → s.emptySlot = true →
      (∀ k, p.left = k + 1 → exec .vxResultVisible s = .next { s with core := { s.core with vx := { s.core.vx with
        pend := [{ p with left := k }] } } }) ∧
      (p.left = 0 → ∃ t, exec .vxResultVisible s = .next t ∧ t.core.vx.pend = [] ∧
        (∀ y ∈ (t.eng .vx).q, y.seq = p.seq → y.phase = .finished) ∧
        (∀ n, n < 64 → p.dst = .v n → (∀ l, l < 64 → lane (reg t n) l = merged (reg s n) l) ∧
          ∀ k, k < 64 → k ≠ n → reg t k = reg s k) ∧
        (∀ n, n < 8 → p.dst = .q n → ∃ v, (t.opQ n).ents = (s.opQ n).ents ++ [v] ∧
          ∀ l, l < 64 → lane v l = if bit p.mask.toNat l then lane p.val l else 0) ∧
        (∀ n, n < 4 → p.y = some n → ∀ l, l < 64 → lane (yreg t n) l = merged (yreg s n) l) ∧
        t.mem = s.mem ∧ t.core.vx.m = s.core.vx.m)) ∧
  (∀ (a : VxArgs) (x : Entry) (s : State),
    let f := vxFmt a.typ.toNat
    let n := vxElems a.typ.toNat
    let w := 32 / n
    let u := s.vxSlot
    let down := vxRnd a == .rdn
    let V (sel : BitVec 7) (l j : Nat) : Machine.Num := valZ a.ftz (elem n (s.vxLane a sel l) j) f
    let I (sel : BitVec 7) (l j : Nat) : Int := sint (elem n (s.vxLane a sel l) j) w
    let leaves (i : Instr) (srcs : List Nat) (sat : Nat → Nat → Bool) (steps : Nat) : Prop :=
      s.VxIssues x srcs (dstQueue a.d.toNat) → ∃ t, exec i s = .next t ∧
        (∀ k, k < 8 → a.smen = false ∨ k ≠ a.sm.toNat → t.maskReg k = u.maskReg k) ∧
        (a.smen = true → ∀ l, l < 64 → bit (t.maskReg a.sm.toNat).toNat l = (u.active a l && (List.range n).any (sat l))) ∧
        ∀ l, l < 64 → lane t.core.vx.lfsr l = if u.active a l then lfsrStep^[steps] (lane u.core.vx.lfsr l) else lane u.core.vx.lfsr l
    let rounds (i : Instr) (srcs : List Nat) (op : Nat → Nat → Machine.Num) : Prop :=
      leaves i srcs (fun l j => (round (op l j) f (vxRnd a) (s.vxRandom a l j) none).2) (if vxRnd a = .sr then n else 0)
    let clamps (i : Instr) (srcs : List Nat) (op : Nat → Nat → Int) : Prop :=
      leaves i srcs (fun l j => bit a.fn.toNat 0 && decide (op l j < -2 ^ (w - 1) ∨ 2 ^ (w - 1) ≤ op l j)) 0
    let still (i : Instr) (srcs : List Nat) : Prop := leaves i srcs (fun _ _ => false) 0
    let two := srcs2 a
    rounds (.vxFadd a) two (fun l j => (V a.a l j).add down (V a.b l j)) ∧
    rounds (.vxFsub a) two (fun l j => (V a.a l j).sub down (V a.b l j)) ∧
    rounds (.vxFmul a) two (fun l j => (V a.a l j).mul (V a.b l j)) ∧
    rounds (.vxFma a) (srcs3 a) (fun l j => ((V a.a l j).mul (V a.b l j)).add down (V a.c l j)) ∧
    rounds (.vxFms a) (srcs3 a) (fun l j => ((V a.a l j).mul (V a.b l j)).sub down (V a.c l j)) ∧
    clamps (.vxIadd a) two (fun l j => I a.a l j + I a.b l j) ∧ clamps (.vxIsub a) two (fun l j => I a.a l j - I a.b l j) ∧
    clamps (.vxImad a) (srcs3 a) (fun l j => I a.a l j * I a.b l j + I a.c l j) ∧
    (∀ i, i = .vxImul a ∨ i = .vxImulh a ∨ i = .vxImin a ∨ i = .vxImax a ∨ i = .vxAnd a ∨ i = .vxOr a ∨ i = .vxXor a ∨
      i = .vxAndn a ∨ i = .vxShl a ∨ i = .vxShr a ∨ i = .vxSar a ∨ a.typ.toNat ≤ 2 ∧ (i = .vxFmin a ∨ i = .vxFmax a) → still i two) ∧
    (a.typ.toNat ≤ 2 → still (.vxFabs a) (srcs1 a) ∧ still (.vxFneg a) (srcs1 a)) ∧
    still (.vxFclass a) (srcs1 a) ∧ still (.vxMov a) (srcs1 a))

/-- R95, R199–R202: reductions over the active lanes of A, each with one word in every lane (PSUM one sum for each lane, FIRST
one index for each group). -/
def Obligations.VxReductionResult : Prop :=
  ∀ (a : VxArgs) (x : Entry) (s : State),
    let u := s.vxSlot
    let A := s.vxLane a a.a
    let live := (List.range 64).filter (u.active a)
    let F (l : Nat) : Machine.Num := valZ a.ftz (A l).toNat .fp32
    let Z (l : Nat) : Int := intVal (bit a.fn.toNat 1) 32 (A l).toNat
    let fp (v : Machine.Num) : W32 := BitVec.ofNat 32 (flush a.ftz (w32 v).toNat .fp32)
    let gives (i : Instr) (srcs : List Nat) (good : Lanes → Nat → Prop) : Prop :=
      s.VxIssues x srcs (dstQueue a.d.toNat) → s.VxPends i a x srcs 6 none (fun r => ∀ l, l < 64 → u.active a l = true → good r l)
    let word (i : Instr) (f : Nat → W32) : Prop := gives i (srcs1 a) (fun r l => lane r l = f l)
    let terms := (List.range 64).map (fun l => if u.active a l then F l else Machine.Num.zero true)
    (a.prof = 4 → word (.vxRsum a) (fun _ => fp (comp32 terms))) ∧
    (a.prof ≠ 4 → a.prof ≠ 0 → word (.vxRsum a) (fun _ => fp (red32 addRn (.zero true) terms))) ∧
    (a.prof = 0 → ∃ w, word (.vxRsum a) (fun _ => w)) ∧
    (a.typ = 3 → word (.vxRmax a) (fun _ =>
        BitVec.ofInt 32 ((live.map Z).foldl max (if bit a.fn.toNat 1 then 0 else -2 ^ 31))) ∧
      word (.vxRmin a) (fun _ =>
        BitVec.ofInt 32 ((live.map Z).foldl min (if bit a.fn.toNat 1 then 2 ^ 32 - 1 else 2 ^ 31 - 1))) ∧
      word (.vxPsum a) (fun l => ((live.filter (· ≤ l)).map A).foldl (· + ·) 0)) ∧
    (a.typ ≠ 3 → word (.vxRmax a) (fun _ => fp ((live.map F).foldl Machine.Num.max (.inf true))) ∧
      word (.vxRmin a) (fun _ => fp ((live.map F).foldl Machine.Num.min (.inf false))) ∧
      word (.vxPsum a) (fun l => fp ((live.filter (· ≤ l)).foldl (fun acc i => addRn acc (F i)) (.zero true)))) ∧
    word (.vxRamax a) (fun _ => fp ((live.map (fun l => (F l).abs)).foldl Machine.Num.max (.zero false))) ∧
    gives (.vxFirst a) [] (fun r l =>
      let w := 2 ^ (a.fn.toNat % 8)
      let b := l - l % w
      lane r l = BitVec.ofNat 32 (((List.range w).find? (fun i =>
        u.active a (b + i) && bit (u.maskReg (a.a.toNat % 8)).toNat (b + i))).getD w))

/-! ### MX and EP (R203–R228) -/

/-- R206, R208–R210, R215–R217: the set-up instructions of MX write the level, the set-up, the words or the descriptor they
name and nothing else of MX; those that read or write EP's state or an accumulator wait for every earlier MX.GO, and
in a tile that a scan has stopped none starts (R348). -/
def Obligations.MatrixSetup : Prop :=
  ∀ (n : NestArgs) (o : OpndArgs) (c : AccArgs) (e : EpargArgs) (p : EpldArgs) (w : AccstArgs) (x : Entry) (s : State),
    let m := s.core.mx
    let reg (k : Mx) (j : Nat) : Lanes := k.e.toList.getD j zeroLanes
    let desc (i : Instr) (d : Desc) : Prop := s.MxSets i x (fun k => k = { m with desc := m.desc.setIfInBounds e.idx.toNat d })
    (s.frozen = true → ∀ i ∈ [Instr.mxNest n, .mxOpnd o, .mxAcc c, .mxEpargBc e, .mxEpargSp e, .mxEpargTg e, .mxEpargQu e, .mxEpargLd e,
      .mxEpld p, .mxAccst w], exec i s = .next s) ∧
    (s.ready .mx = some x → x.stamped .mx = false →
      (s.gosDone x = false → ∀ i ∈ [Instr.mxEpargBc e, .mxEpargSp e, .mxEpargTg e, .mxEpargQu e, .mxEpargLd e, .mxEpld p, .mxAccst w],
        exec i s = .next s) ∧
      (s.gosDone x = true ↔ ∀ y ∈ (s.eng .mx).q.takeWhile (fun y => y.seq != x.seq), y.img.opc = 4 → y.phase = .done) ∧
      s.MxSets (.mxNest n) x (fun k =>
        k = { m with staging := m.staging.setIfInBounds n.level.toNat ⟨n.cntm1, n.sa, n.sb, n.cr, n.cc⟩ }) ∧
      s.MxSets (.mxOpnd o) x (fun k => k = { m with opnd := ⟨o.ta.toNat, o.tb.toNat, o.ga.toNat, o.gb.toNat, o.pois, o.la, o.lb,
        o.pa.toNat, o.abase.toNat, o.bbase.toNat, o.pb.toNat⟩ }) ∧
      s.MxSets (.mxAcc c) x (fun k => k = { m with acc := ⟨c.drn, c.mode.toNat, c.lp.toNat, c.lbase.toNat⟩ }) ∧
      (s.gosDone x = true →
        s.MxSets (.mxEpargBc e) x (fun k => reg k e.idx.toNat = Vector.replicate 64 e.p0 ∧
          ∀ j, j ≠ e.idx.toNat → reg k j = reg m j) ∧
        desc (.mxEpargSp e) (.sp (bit e.h3.toNat 15) (2 ^ bits e.h3.toNat 13 2) (2 ^ bits e.h3.toNat 11 2) (bits e.h3.toNat 0 9)
          e.p0.toNat e.p1.toNat) ∧
        desc (.mxEpargTg e) (.tg (bits e.h3.toNat 0 9) (bits e.h12.toNat 0 12) e.p0.toNat e.p1.toNat e.p2.toNat e.p3.toNat) ∧
        desc (.mxEpargQu e) (.qu (bits e.h3.toNat 0 3)) ∧
        (∀ l : List IoRun, let off := bits e.h12.toNat 12 4 * 2 ^ 32 + e.p0.toNat
          off % 4 = 0 → s.wordPlaces (bits e.h12.toNat 0 12) off 64 = .ok l →
          (∀ y ∈ l, s.CleanRun y) → x.det = false → s.MxSets (.mxEpargLd e) x (fun k =>
            (∀ i, i < 64 → lane (reg k e.idx.toNat) i = BitVec.ofNat 32 (leNat (((s.runsData l).drop (4 * i)).take 4))) ∧
            ∀ j, j ≠ e.idx.toNat → reg k j = reg m j)) ∧
        (∀ l : List IoRun, let off := p.offhi.toNat * 2 ^ 32 + p.a.toNat
          let ws := (List.range p.n.toNat).map (fun i => leNat (((s.runsData l).drop (4 * i)).take 4))
          off % 4 = 0 → s.wordPlaces p.tid.toNat off p.n.toNat = .ok l →
          (∀ y ∈ l, s.CleanRun y) → x.det = false → (∀ v ∈ ws, epDefined v = true) →
          s.MxSets (.mxEpld p) x (fun k => k = { m with prog := putProg m.prog p.at_.toNat ws })) ∧
        (∀ l : List IoRun, w.pitch.toNat % 4 = 0 → 256 ≤ w.pitch.toNat → w.off.toNat % 4 = 0 →
          s.runPlaces 0 ((List.range 128).map (fun r => (w.off.toNat + r * w.pitch.toNat, 256))) = .ok l →
          (∀ y ∈ l, s.CleanRun y) →
          let acc := m.accAt (b2n w.acc)
          let rows := (List.range 128).map (fun r => laneBytes (accstRow acc w.part r))
          ∃ t, exec (.mxAccst w) s = .next t ∧ (∀ a, t.byte a = (s.putRuns rows.flatten l).byte a) ∧ t.core.mx = m ∧
            s.EntryAt t .mx x .finished)))

/-- R207, R212–R214, R218–R220: MX.GO whose checks pass, with the array and the accumulator free, starts with the staging nest
and the set-up as they stand; a check that fails holds its cause and starts nothing. A tile begins in accumulator NA, its
operands the bytes at the addresses of its steps, each real cell the accumulation of its row and column; the accumulators
alternate unless DRN. While EP may yet store for an earlier tile the reads are made cycle by cycle, and the tile is computed when
all are made; what R26 holds waits, and the tile's bank groups are then open to CP and FR (R220; log entry 80, DEDUCED). In a stopped
tile nothing starts (R348). -/
def Obligations.MatrixCompute : Prop :=
  ∀ (a : GoArgs) (x : Entry) (g : Go) (s : State),
    let m := s.core.mx
    let go := s.goOf a x
    let n := m.na
    let d := s.tileData g g.next
    let b := g.begun (m.accAt n) d.load
    let kk := mxKk g.opnd.ta
    let e := mxBytes g.opnd.ta
    (s.ready .mx = some x → x.stamped .mx = false → m.arrayFree = true → m.accFree n = true → s.goCheck go = none →
      ∃ t, exec (.mxGo a) s = .next t ∧ t.core.mx = { m with active := m.staging, gos := m.gos ++ [go] } ∧ t.mem = s.mem ∧
        go.nest = m.staging ∧ s.EntryAt t .mx x .started) ∧
    (∀ c, s.ready .mx = some x → x.stamped .mx = false → m.arrayFree = true → m.accFree n = true → s.goCheck go = some c →
      (s.eng .mx).held = none → ∃ t h, exec (.mxGo a) s = .next t ∧ (t.eng .mx).held = some h ∧ h.trap = c ∧ h.seq = x.seq ∧
        t.core.mx = m ∧ (t.eng .mx).q = (s.eng .mx).q ∧ t.core.tok = s.core.tok ∧ t.core.qstop = true) ∧
    (s.core.qstop = false → s.core.scanned = false → s.boot.power ≠ .stopped →
      m.gos.find? (fun g => decide (g.next < g.total)) = some g → m.accFree n = true → m.reading = none → m.mayStore = false →
      (g.tileRuns g.next).any (fun r => s.sbHit r.1 r.2) = false →
      ∃ (t : State) (acc : Acc) (free : Nat → Nat → Nat), exec .mxTileBegin s = .next t ∧ t.core.mx.accs = m.accs.setIfInBounds n acc ∧
        t.core.mx.na = (if g.acc.drn then n else 1 - n) ∧
        t.core.mx.tiles = m.tiles ++ [⟨g.seq, g.next, n, g.row0 g.next, g.col0 g.next, mxRows g.opnd.ta, g.eps, none, false,
          g.stepsAt (m.beginsAt g) + g.steps + 6⟩] ∧
        acc.tag = b.tag ∧
        (mxCplx g.opnd.ta = false → ∀ r l, r < 128 → l < 64 →
          let row : List Nat := operand id g.opnd.la 128 kk e d.a r
          let col : List Nat := operand id g.opnd.lb 64 kk e d.b l
          let c := g.cell (free r l) (accLane b.rows r l) (accLane b.comp r l) row col
          accLane acc.rows r l = c.1 ∧ accLane acc.comp r l = c.2) ∧
        (mxCplx g.opnd.ta = true → ∀ r l, r < 64 → l < 64 →
          accLane acc.rows r l = g.cplxCell (free r l) (accLane b.rows r l) (decide (l % 2 = 1))
            (operand id g.opnd.la 64 kk e d.a r) (operand id g.opnd.lb 32 kk e d.b (l / 2)))) ∧
    (s.core.qstop = false → s.core.scanned = false → s.boot.power ≠ .stopped →
      m.gos.find? (fun g => decide (g.next < g.total)) = some g → m.accFree n = true → m.reading = none → m.mayStore = true →
      exec .mxTileBegin s = .next { s with core := { s.core with mx := { m with
        reading := some ⟨g.seq, m.beginsAt g, [], [], [], none, false⟩ } } }) ∧
    (s.frozen = true → exec (.mxGo a) s = .next s ∧ exec .mxTileBegin s = .next s) ∧
    (∀ r, m.mayStore = true → m.reading = some r → exec .mxTileBegin s = .next s) ∧
    (∀ r k rs, s.frozen = false → m.mayStore = false → m.reading = some r → m.goAt r.go = some g → g.steps ≠ 0 → r.next g = some (k, rs) →
      rs.any (fun y => s.sbHit y.1 y.2) = true → exec .mxTileBegin s = .next { s with core := { s.core with rsbHeld := true, mx := { m with
        reading := some { r with held := true } } } }) ∧
    (∀ r, s.core.scanned = false → s.boot.power ≠ .stopped → m.mayStore = false → m.reading = some r → m.goAt r.go = some g →
      r.next g = none → exec .mxTileBegin s = .next (s.tileDone g r.begins ⟨r.load, r.a, r.b, s, r.trap⟩)) ∧
    ((∀ y ∈ s.ownRuns (g.tileRuns g.next), s.CleanRun y) →
      d.a = (List.range g.steps).map (fun k => s.runsData (s.ownRuns (g.aRuns g.next k))) ∧
      d.b = (List.range g.steps).map (fun k => s.runsData (s.ownRuns (g.bRuns g.next k))))

/-- R218, R219, R228: the first computed tile begins its drain with a snapshot of EP; a held one begins anew from its snapshot
once the queues run; a drained tile is released, and the release of the last tile gives its MX.GO every effect. -/
def Obligations.TileDrainRelease : Prop :=
  ∀ (tl : Tile) (rest : List Tile) (d : Drain) (g : Go) (s : State),
    let m := s.core.mx
    m.tiles = tl :: rest → s.core.scanned = false → s.boot.power ≠ .stopped →
      (tl.drain = none → m.releasable tl = false →
        exec .mxTileDrain s = .next { s with core := { s.core with mx := { m with
          tiles := { tl with drain := some ⟨0, tl.eps, m.e, m.lfsr, 0, 0, false, max tl.ready m.relAt⟩ } :: rest } } }) ∧
      (tl.drain = some d → tl.held = true → s.core.qstop = false →
        exec .mxTileDrain s = .next { s with core := { s.core with mx := { m with
          e := d.snapE, lfsr := d.snapLfsr,
          tiles := { tl with held := false, drain := some { d with row := 0, pc := tl.eps, pushes := 0, skip := max d.skip d.pushes,
                                                                   cycle := max d.cycle m.arrayAt } } :: rest } } }) ∧
      (tl.drain = some d → tl.held = false → tl.nr ≤ d.row → m.gos = [g] → g.seq = tl.go →
        ∃ t, exec .mxTileRelease s = .next t ∧ t.core.mx.tiles = rest ∧ t.mem = s.mem ∧ t.core.mx.relAt = d.cycle ∧
          (g.released + 1 < g.total → t.core.mx.gos = [{ g with released := g.released + 1 }] ∧ t.core.eng = s.core.eng) ∧
          (g.released + 1 = g.total → t.core.mx.gos = [] ∧ ∀ y ∈ (t.eng .mx).q, y.seq = g.seq → y.phase = .finished))

/-- R84, R104, R189, R221, R223: every arithmetic word of EP gives each lane of e[D] the exact value of its operation rounded
once to FP32, or on INT32 wrapped or clamped, the activations by the fixed-point functions of log entry 78 (DEDUCED); EP.LDA reads the
accumulator row.

R221, R224: EP.CVT puts one converted element into group PART of each lane, EP.PACK thirty-two complex pairs into half PART
of e[D], EP.RED one reduction of e[A] into the lane of the row; SKIP passes over words, END ends the row. -/
def Obligations.EpilogueArithmetic : Prop :=
  (∀ (x : EpArgs) (v : EpActArgs) (D : BitVec 3) (comp : Bool) (tl : Tile) (d : Drain) (s : State), s.EpAt tl d →
    let down := x.rnd == 2
    let A (l : Nat) : W32 := lane (s.eReg x.a.toNat) l
    let Y (l : Nat) : W32 := if x.row then lane (s.eReg (x.b.toNat + d.row / 64)) (d.row % 64) else lane (s.eReg x.b.toNat) l
    let Z (l : Nat) : W32 := lane (s.eReg x.d.toNat) l
    let F (w : W32) : Machine.Num := valZ x.ftz w.toNat .fp32
    let G (l : Nat) : W32 := lane s.core.mx.lfsr l
    let fin (r : Machine.Num) (g : W32) : W32 :=
      BitVec.ofNat 32 (flush x.ftz (round r .fp32 (Rnd.ofCode x.rnd.toNat) g none).1 .fp32)
    let int (r : Int) : W32 := BitVec.ofInt 32 (if x.sat then max (-2 ^ 31) (min (2 ^ 31 - 1) r) else r)
    let does (i : Instr) (f : Nat → Machine.Num) (g : Nat → Int) : Prop :=
      s.EpWrites i tl d x.d.toNat (fun l => if x.t then int (g l) else fin (f l) (G l))
    let I (w : W32) : Int := w.toInt
    let act (i : Instr) (f : Machine.Num → Machine.Num) : Prop := s.EpWrites i tl d v.d.toNat (fun l =>
      let w := lane (s.eReg v.a.toNat) l
      BitVec.ofNat 32 (flush v.ftz (round (f (valZ v.ftz w.toNat .fp32)) .fp32 (Rnd.ofCode v.rnd.toNat) (G l) none).1 .fp32))
    does (.epAdd x) (fun l => (F (A l)).add down (F (Y l))) (fun l => I (A l) + I (Y l)) ∧
    does (.epMul x) (fun l => (F (A l)).mul (F (Y l))) (fun l => I (A l) * I (Y l)) ∧
    does (.epFma x) (fun l => ((F (A l)).mul (F (Y l))).add down (F (Z l))) (fun l => I (A l) * I (Y l) + I (Z l)) ∧
    does (.epMax x) (fun l => (F (A l)).max (F (Y l))) (fun l => max (I (A l)) (I (Y l))) ∧
    does (.epMin x) (fun l => (F (A l)).min (F (Y l))) (fun l => min (I (A l)) (I (Y l))) ∧
    does (.epBias x) (fun l => (F (A l)).add down (F (Y l))) (fun l => I (A l) + I (Y l)) ∧
    does (.epScale x) (fun l => (F (A l)).mul (F (Y l))) (fun l => I (A l) * I (Y l)) ∧
    act (.epActSigm v) fnSigm ∧ act (.epActSilu v) fnSilu ∧ act (.epActSoftp v) fnSoftp ∧ act (.epActTanh v) fnTanh ∧
    s.EpWrites (.epActRelu v) tl d v.d.toNat (fun l => relu v.ftz (lane (s.eReg v.a.toNat) l)) ∧
    s.EpWrites (.epLda D comp) tl d D.toNat (fun l =>
      let acc := s.core.mx.accAt tl.acc
      let w := accLane acc.rows d.row l
      let k := accLane acc.comp d.row l
      if comp then k else if acc.tag = .comp then w32 ((f32 w).add false (f32 k)) else w)) ∧
  (∀ (x : EpCvtArgs) (p : EpPackArgs) (D A : BitVec 3) (t : Bool) (cond : BitVec 2) (n : BitVec 6) (tl : Tile) (d : Drain)
    (s : State), s.EpAt tl d →
    let k := x.dst.toNat
    let src : Fmt := if x.fromi then .int32 else .fp32
    let G (l : Nat) : W32 := lane s.core.mx.lfsr l
    let reg (r : BitVec 3) (l : Nat) : W32 := lane (s.eReg r.toNat) l
    let half := 32 * b2n p.part
    let red (i : Instr) (f : List Machine.Num → Machine.Num) (g : List Int → Int) : Prop :=
      let w : W32 := if t then BitVec.ofInt 32 (g ((List.range 64).map (fun l => (reg A l).toInt)))
        else w32 (f ((List.range 64).map (fun l => f32 (reg A l))))
      let r := D.toNat + d.row / 64
      r < 8 → s.EpWrites i tl d r (fun l => if l = d.row % 64 then w else lane (s.eReg r) l)
    let goes (i : Instr) (e : Drain) : Prop := exec i s = .next { s with core := { s.core with mx := { s.core.mx with
      tiles := { tl with drain := some e } :: s.core.mx.tiles.drop 1 } } }
    let next (m : Nat) : Drain := if 64 ≤ d.pc + m then { d with row := d.row + 1, pc := tl.eps, waits := false, cycle := d.cycle + 1 }
      else { d with pc := d.pc + m, waits := false, cycle := d.cycle + 1 }
    let skips : Prop := cond = 0 ∨ (cond = 1 ∧ d.row % 64 ≠ 63) ∨ (2 ≤ cond.toNat ∧ d.row + 1 ≠ tl.nr)
    s.EpWrites (.epCvt x) tl d x.d.toNat (fun l =>
      let a := (reg x.a l).toNat
      putElems (Machine.cvtElems k) (reg x.d l) x.part.toNat
        [flush x.ftz (round (valZ x.ftz a src) (cvtFmt k) (Rnd.ofCode x.rnd.toNat) (G l) (some (quantum a src))).1 (cvtFmt k)]) ∧
    s.EpWrites (.epPack p) tl d p.d.toNat (fun l => if half ≤ l ∧ l < half + 32
      then (packPair p (reg p.a (2 * (l - half))) (reg p.a (2 * (l - half) + 1)) (G (2 * (l - half)))).1 else reg p.d l) ∧
    red (.epRedSum D A t) (red32 addRn (.zero true)) (fun l => l.foldl (· + ·) 0) ∧
    red (.epRedMax D A t) (fun l => l.foldl Machine.Num.max (.inf true)) (fun l => l.foldl max (-2 ^ 31)) ∧
    red (.epRedMin D A t) (fun l => l.foldl Machine.Num.min (.inf false)) (fun l => l.foldl min (2 ^ 31 - 1)) ∧
    (skips → goes (.epSkip cond n) (next (1 + n.toNat))) ∧ (¬ skips → goes (.epSkip cond n) (next 1)) ∧
    goes .epEnd { d with row := d.row + 1, pc := tl.eps, waits := false })

/-- R225, R226, R228: EP.ST through an SP descriptor puts the low bytes of e[A]'s lanes at the row's address, through a QU
descriptor pushes e[A], or waits while the queue is full and pushes once it has room; EP.STG puts the elements within the
extents. A store fault holds the tile and stops the queues with its cause. A store is made one cycle after its word, when the next
tile has read what it reads up to then: that is state `u`, which is `s` itself where no tile reads or may begin (R219). -/
def Obligations.EpilogueStores : Prop :=
  ∀ (A : BitVec 3) (D : BitVec 2) (tl : Tile) (d : Drain) (s u : State), s.EpAt tl d →
    let m := s.core.mx
    let v := s.eReg A.toNat
    let moved (w t : State) (e : Drain) : Prop :=
      t.core.mx.tiles = { tl with drain := some (e.advance tl.eps 1) } :: w.core.mx.tiles.drop 1
    let pushes (i : Instr) (q : Nat) : Prop :=
      (d.skip ≤ d.pushes → (s.opQ q).ents.length < 4 → ∃ t, exec i s = .next t ∧ (q < 8 → (t.opQ q).ents = (s.opQ q).ents ++ [v]) ∧
        moved s t { d with pushes := d.pushes + 1 } ∧ t.mem = s.mem) ∧
      (d.skip ≤ d.pushes → 4 ≤ (s.opQ q).ents.length → exec i s = .next { s with core := { s.core with mx := { m with
        tiles := { tl with drain := some { d with waits := true } } :: m.tiles.drop 1 } } }) ∧
      (d.pushes < d.skip → ∃ t, exec i s = .next t ∧ moved s t { d with pushes := d.pushes + 1 } ∧ t.opQ q = s.opQ q)
    (m.reading = none → s.nextTile = none → s.mxReach (d.cycle + 1) = some s) ∧
    (s.mxReach (d.cycle + 1) = some u → u.scrubq.length ≤ 256 →
      (∀ pois esz cb bytes base pitch p l, m.descAt D.toNat = .sp pois esz cb bytes base pitch → bytes % esz = 0 → 0 < esz →
        let a := (base + (tl.row0 + d.row) * sint pitch 32 + tl.col0 * cb).toNat
        let data := ((List.range (bytes / esz)).map (fun i => leBytes esz (lane v i).toNat)).flatten
        u.spanPlace .engine 0 a bytes = .ok p → u.goTo p = .ok l → u.poisonUnits l.pa bytes = [] →
        ∃ t, exec (.epSt A D) s = .next t ∧ (∀ b, t.byte b = ((u.dirtied l).putBytes l.pa data).byte b) ∧ moved u t d) ∧
      (∀ pois esz cb bytes base pitch e, m.descAt D.toNat = .sp pois esz cb bytes base pitch → (u.eng .mx).held = none →
        u.spanPlace .engine 0 (base + (tl.row0 + d.row) * sint pitch 32 + tl.col0 * cb).toNat bytes = .error e →
        ∃ t h x, exec (.epSt A D) s = .next t ∧ (t.eng .mx).held = some h ∧ h.trap = e ∧ h.seq = tl.go ∧ t.core.qstop = true ∧
          t.core.mx.tiles.head? = some x ∧ x.held = true ∧ t.mem = u.mem)) ∧
    (∀ q, m.descAt D.toNat = .qu q → pushes (.epSt A D) q) ∧
    (∀ q, m.descAt (bits (m.epWordAt d) 13 2) = .qu q → d.waits = true → A.toNat = bits (m.epWordAt d) 18 3 →
      pushes .epQueuePushResume q) ∧
    (∀ ne tid c0 c1 c2 c3 td, m.descAt D.toNat = .tg ne tid c0 c1 c2 c3 →
      s.mxReach (d.cycle + 1) = some u → s.scrubq = [] →
      u.descriptor (u.regime 0) (gaddr tid 0) tid = .ok td →
      let cs (i : Nat) : List Int := [(c0 : Int) + tl.col0 + i, (c1 : Int) + tl.row0 + d.row, c2, c3, 0, 0]
      let inside (i : Nat) : Bool := (List.range 6).all (fun k =>
        decide (((cs i).map Int.toNat).getD k 0 < (if k < td.rank then td.ext.getD k 0 else 1)))
      let off (i : Nat) : Nat := let p := td.locate ((cs i).map Int.toNat); p.1 * 2 ^ 18 + p.2
      let bytes (i : Nat) : List Byte := leBytes td.e (if td.e = 8 then (lane v (2 * i)).toNat + 2 ^ 32 * (lane v (2 * i + 1)).toNat
        else (lane v i).toNat)
      let is := (List.range ne).filter inside
      ∀ runs : List IoRun, runs = is.filterMap (fun i => (u.spanPlace .engine tid (off i) td.e).toOption.map (fun p => (off i, td.e, p))) →
        runs.length = is.length → (∀ y ∈ runs, ∃ l, u.goTo y.2.2 = .ok l ∧ u.poisonUnits l.pa td.e = []) →
        (∀ i, i < ne → ∀ c ∈ cs i, 0 ≤ c ∧ c < 2 ^ 32) →
        ∃ t, exec (.epStg A D) s = .next t ∧ moved u t d ∧
          (∀ b, t.byte b = (u.putEntries (fun _ z _ => z) (is.map bytes) (runs.map (fun y => [y]))).byte b))

/-! ### SX and FR (R230–R252) -/

/-- R231–R234, R241: SX.CFG writes the geometry, SX.RESET the reset-mask base, SX.CARRY stages a descriptor and waits for its
scan (an earlier one that still waits completes, its descriptor discarded), SX.FADEQ stores the 64 fade counters and clears them under CLR; a misaligned offset is ALIGN and changes nothing. -/
def Obligations.ScanSetup : Prop :=
  ∀ (c : SxCfgArgs) (r : SxResetArgs) (k : SxCarryArgs) (f : SxFadeqArgs) (x : Entry) (s : State),
    let z := geoOf s.core.sx.cfg
    let sets (i : Instr) (p : Phase) (good : Sx → Prop) : Prop :=
      ∃ t, exec i s = .next t ∧ good t.core.sx ∧ t.mem = s.mem ∧ s.EntryAt t .sx x p
    let holds (i : Instr) (off : W32) : Prop :=
      ∃ t h, exec i s = .next t ∧ (t.eng .sx).held = some h ∧ h.trap = gaTrap .align off.toNat ∧ h.seq = x.seq ∧
        t.core.sx = s.core.sx ∧ t.core.qstop = true ∧ t.mem = s.mem
    let o := f.off.toNat
    let carry (v : Sx) : Prop := carryMask v.staged = k.slots.toNat ∧ carryOff v.staged = k.coff.toNat ∧ carryIn v.staged = k.cin ∧
      carryOut v.staged = k.cout ∧ v = { s.core.sx with staged := v.staged }
    let counters : List Byte := ((List.range 64).map (fun i => leBytes 2 (s.core.sx.fade.toList.getD i 0).toNat)).flatten
    s.ready .sx = some x → x.stamped .sx = false → s.sxFree x = true →
      sets (.sxCfg c) .finished (fun v => geoOf v.cfg =
        ⟨c.mode.toNat, c.lm1.toNat + 1, c.nbm1.toNat + 1, c.nvm1.toNat + 1, c.gm1.toNat + 1, z.mbase⟩ ∧
        v = { s.core.sx with cfg := v.cfg }) ∧
      (r.en = false ∨ r.moff.toNat % 32 = 0 → r.moff.toNat < 2 ^ 22 → sets (.sxReset r) .finished (fun v =>
        geoOf v.cfg = { z with mbase := if r.en then some r.moff.toNat else none } ∧ v = { s.core.sx with cfg := v.cfg })) ∧
      (k.coff.toNat % 4 = 0 → s.entryIn .sx .started = none → sets (.sxCarry k) .started carry) ∧
      (∀ y, k.coff.toNat % 4 = 0 → s.entryIn .sx .started = some y → y.seq ≠ x.seq → s.completionTrap .sx y = none →
        ∃ t, exec (.sxCarry k) s = .next t ∧ carry t.core.sx ∧ t.mem = s.mem ∧ ∀ z ∈ (t.eng .sx).q, z.seq = y.seq → z.phase = .done) ∧
      (o % 2 = 0 → o + 128 ≤ Config.spadBytes → s.sbHit o 128 = false → s.poisonUnits (spadPa s.cur o) 128 = [] →
        ∃ t, exec (.sxFadeq f) s = .next t ∧ s.SameBytes t (spadPa s.cur o) 128 ∧ t.bytes (spadPa s.cur o) 128 = counters ∧
          t.core.sx = (if f.clr then { s.core.sx with fade := Vector.replicate 64 0 } else s.core.sx) ∧
          s.EntryAt t .sx x .finished) ∧
      ((s.eng .sx).held = none →
        (r.en = true → r.moff.toNat % 32 ≠ 0 → holds (.sxReset r) r.moff) ∧
        (k.coff.toNat % 4 ≠ 0 → holds (.sxCarry k) k.coff) ∧ (f.off.toNat % 2 ≠ 0 → holds (.sxFadeq f) f.off))

/-- R102, R103, R234, R236–R240: SX.SCAN and SX.CONTR start with the staged descriptor where their checks pass, and hold the
cause where one fails. A started scan that R26 does not hold has every effect at once and changes only its operand ranges; in a scan of one step it
stores the faded state, the contraction and the carry-out; under SCAN32, where all reads precede the first result (up to 16 steps in
all, one group), it stores `scan32` of each row, element and step. Within a block that state follows h[t] = A·h[t−1] + b. -/
def Obligations.ScanResult : Prop :=
  ∀ (a : SxScanArgs) (contr : Bool) (x : Entry) (s : State),
    let i : Instr := if contr then .sxContr a else .sxScan a
    let plan := s.scanSet contr a s.core.sx.staged
    let q := s.scanSet (x.img.opc == 5) (SxScanArgs.ofImage x.img) s.core.sx.active
    let z := q.z
    let at_ (o : Nat) : Nat := spadPa s.cur o
    let words (l : List Machine.Num) : List Byte := (l.map (fun v => leBytes 4 (w32 v).toNat)).flatten
    let val (n o : Nat) : List Machine.Num := numsOf n (s.bytes (at_ o) (4 * n))
    (s.ready .sx = some x → x.stamped .sx = false → s.sxFree x = true →
      (s.scanCheck plan = none → ∃ t, exec i s = .next t ∧ t.core.sx = { s.core.sx with active := s.core.sx.staged, staged := 0 } ∧
        t.mem = s.mem ∧ s.EntryAt t .sx x .started) ∧
      (∀ e, s.scanCheck plan = some e → (s.eng .sx).held = none →
        ∃ t h, exec i s = .next t ∧ (t.eng .sx).held = some h ∧ h.trap = e ∧ h.seq = x.seq ∧ t.core.sx = s.core.sx ∧
          t.mem = s.mem ∧ t.core.qstop = true)) ∧
    (s.scanStarted = some x → q.touched.any (fun r => s.sbHit r.1 r.2) = true →
      exec .sxScanComplete s = .next { s with core := { s.core with rsbHeld := true } }) ∧
    (s.scanStarted = some x → q.touched.any (fun r => s.sbHit r.1 r.2) = false →
      (carryIn q.d = true ∨ carryOut q.d = true → q.slots.length = z.nb) →
      ∃ t, exec .sxScanComplete s = .next t ∧ (∀ y ∈ (t.eng .sx).q, y.seq = x.seq → y.phase = .finished) ∧
        ((∀ r ∈ q.ranges, s.poisonUnits (at_ r.1) r.2 = []) →
          ∀ p, (∀ r ∈ q.ranges, p < at_ r.1 ∨ at_ r.1 + r.2 ≤ p) → t.byte p = s.byte p) ∧
        t.core.pc = s.core.pc ∧ t.core.s = s.core.s ∧ (∀ e, e ≠ .sx → t.eng e = s.eng e) ∧
        t.core.sx.cfg = s.core.sx.cfg ∧ t.core.sx.active = s.core.sx.active ∧ t.core.sx.staged = s.core.sx.staged ∧
        (z.nb = 1 → z.l = 1 → z.nv = 1 → z.g = 1 → z.mbase = none →
          (∀ r ∈ q.ranges, s.poisonUnits (at_ r.1) r.2 = []) →
          ∃ k m, let h := (scanAt q.prof z.mode q.f k [⟨val (z.ea / 4) q.a, val (z.ex / 4) q.x, false⟩]
              (if carryIn q.d then val (z.ex / 4) (q.slots.getD 0 0) else List.replicate (z.ex / 4) (.zero false)) 0).1
            (∀ o, q.h = some o → carryOut q.d = false → t.bytes (at_ o) z.ex = words h) ∧
            (∀ c y, q.c = some (c, y) → carryOut q.d = false →
              t.bytes (at_ y) z.ey = words (contract q.prof z.mode m [val (z.ec / 4) c] [h])) ∧
            (carryOut q.d = true → t.bytes (at_ (q.slots.getD 0 0)) z.ex = words h)) ∧
        (∀ o, q.h = some o → q.c = none → carryOut q.d = false → z.mbase = none → z.nv ≤ z.p → z.nb * z.l ≤ 16 → q.prof ≠ 0 →
          q.prof ≠ 0xA → (∀ r ∈ q.ranges, s.poisonUnits (at_ r.1) r.2 = []) →
          ∀ b u n, b < z.nb → u < z.l → n < z.nv →
            let ops : List StepOp := (List.range z.l).map (fun i => ⟨val (z.ea / 4) (q.a + z.aOff b i n),
              val (z.ex / 4) (q.x + ((b * z.l + i) * z.nv + n) * z.ex), false⟩)
            let hin := if carryIn q.d then val (z.ex / 4) (q.slots.getD b 0 + n * z.ex) else List.replicate (z.ex / 4) (.zero false)
            t.bytes (at_ (o + ((b * z.l + u) * z.nv + n) * z.ex)) z.ex = words (scan32 z.mode q.f ops hin u).1)) ∧
    (∀ (mode f n : Nat) (ops : List StepOp) (hin : List Machine.Num) (p : StepOp), ops[n]? = some p →
      (n % 8 ≠ 0 → (scan32 mode f ops hin n).1 = (fadeL f (appOp mode p (scan32 mode f ops hin (n - 1)).1)).1) ∧
      (n % 8 = 0 → n ≠ 0 → (scan32 mode f ops hin n).1 =
        (fadeL f (appOp mode p (fadeL f (blockIn mode ops hin (n / 8))).1)).1) ∧
      (n = 0 → (scan32 mode f ops hin n).1 = (fadeL f (appOp mode p hin)).1))

/-- R244–R246, R248: a moving FR instruction at the head of its queue whose checks pass starts its transfer, its slot in the
state of that transfer; a RES that is not OK ends it with that RES in the slot; a pinned slot makes it wait, or end with
PINNED under NOWAIT, and it proceeds at the release; a check that fails holds its cause.

R247–R251: FR.SLOTS lays out the slots, all empty; FR.STAT stores a slot's state, and waits while MX holds those bytes (R220); the end of a transfer leaves the slot as
its instruction says (FR.IN and FR.SWAP resident with the new session, FR.OUT empty unless KEEP, FR.DROP ALL empty, the
others as they were) with RES OK, ends the entry, and leaves the other slots and the other engines alone. No frame waits to be scrubbed
(R384).

R242, R248–R250: what an ended transfer moves. It has the effect of `State.frDo`: block by block in ascending order, FR.IN and
FR.SWAP put a block of the home into the slot, FR.OUT, FR.SWAP and FR.FORK a block of the slot into the home, FR.SWAP the old block
out before the new one in; FR.OUT and FR.SWAP raise the old session's GEN; FR.FORK writes the new entry, FR.COLD its HOME and COLD,
FR.DROP ALL clears VALID. A block moved leaves every other byte alone. -/
def Obligations.FrameMoves : Prop :=
  (∀ (a : FrArgs) (x : Entry) (s : State),
    let slot := a.slot.toNat
    let now (t : State) : Slot := t.frSlot slot
    let begins (op : Nat) (t : State) : Prop := (now t).st = busyState op (s.frSlot slot).st ∧
      (∀ k, k ≠ slot → t.frSlot k = s.frSlot k) ∧ (∃ y ∈ (t.eng .fr).q, y.seq = x.seq ∧ y.phase = .started ∧ y.prog = 1) ∧
      t.mem = s.mem ∧ t.core.pc = s.core.pc ∧ t.core.s = s.core.s
    let rules (op : Nat) (i : Instr) : Prop :=
      (∀ e, s.frCheck op a = some e → (s.eng .fr).held = none → ∃ t h, exec i s = .next t ∧ (t.eng .fr).held = some h ∧
        h.trap = e ∧ h.seq = x.seq ∧ t.core.fr = s.core.fr ∧ t.core.qstop = true ∧ t.mem = s.mem) ∧
      (s.frCheck op a = none →
        (∀ r, s.frRes op a = .ok (r + 1) → ∃ t, exec i s = .next t ∧ now t = { s.frSlot slot with res := r + 1 } ∧
          t.mem = s.mem ∧ s.EntryAt t .fr x .finished) ∧
        (s.frRes op a = .ok 0 →
          (frWaitsPin op = true → (s.frSlot slot).pins ≠ 0 → a.nowait = true → ∃ t, exec i s = .next t ∧
            now t = { s.frSlot slot with res := 1 } ∧ t.mem = s.mem ∧ s.EntryAt t .fr x .finished) ∧
          (frWaitsPin op = true → (s.frSlot slot).pins ≠ 0 → a.nowait = false → ∃ t, exec i s = .next t ∧
            t.core.fr = s.core.fr ∧ t.mem = s.mem ∧ s.EntryAt t .fr x .started) ∧
          (frWaitsPin op = false ∨ (s.frSlot slot).pins = 0 → s.frHeld op a = false →
            ∃ t, exec i s = .next t ∧ begins op t)))
    (s.StartsNow .fr x → rules 2 (.frIn a) ∧ rules 3 (.frOut a) ∧ rules 4 (.frSwap a) ∧ rules 5 (.frSnap a) ∧
      rules 6 (.frRoll a) ∧ rules 7 (.frFork a) ∧ rules 8 (.frDrop a) ∧ rules 8 (.frDropAll a) ∧ rules 10 (.frCold a)) ∧
    (s.frStarted = some x → x.prog = 0 → a = FrArgs.ofImage x.img → (s.frSlot slot).pins = 0 →
      s.frHeld x.img.opc a = false → ∃ t, exec .frPinReleaseProceed s = .next t ∧ begins x.img.opc t)) ∧
  (∀ (a : FrArgs) (x : Entry) (s : State),
    let slot := a.slot.toNat
    let o := a.p2.toNat
    let sl := s.frSlot slot
    (s.StartsNow .fr x → s.frCheck 1 a = none → ∃ t, exec (.frSlots a) s = .next t ∧
      t.core.fr = ⟨Vector.replicate 32 .empty, o, a.nm1.toNat + 1, a.szm1.toNat + 1, none, []⟩ ∧ t.mem = s.mem ∧
      s.EntryAt t .fr x .finished) ∧
    (s.StartsNow .fr x → s.frCheck 9 a = none → s.core.mxKeeps o 16 = true → exec (.frStat a) s = .next s) ∧
    (s.StartsNow .fr x → s.frCheck 9 a = none → s.core.mxKeeps o 16 = false → sl.st = .empty → s.poisonUnits (spadPa s.cur o) 16 = [] → ∃ t, exec (.frStat a) s = .next t ∧
      t.bytes (spadPa s.cur o) 16 = leBytes 4 (s.core.fr.size * 2 ^ 16 + sl.pins * 2 ^ 8 + sl.res * 16) ++ List.replicate 12 0 ∧
      (∀ p, p < spadPa s.cur o ∨ spadPa s.cur o + 16 ≤ p → t.byte p = s.byte p) ∧ t.core.fr = s.core.fr ∧
      s.EntryAt t .fr x .finished) ∧
    (s.StartsNow .fr x → s.frCheck 9 a = none → s.core.mxKeeps o 16 = false → sl.st ≠ .empty → s.scrubq = [] →
      ∃ t d, exec (.frStat a) s = .next t ∧ d.length = 8 ∧ (∀ y ∈ (t.eng .fr).q, y.seq = x.seq → y.phase = .finished) ∧
        t.bytes (spadPa s.cur o) 16 = leBytes 4 (s.core.fr.size * 2 ^ 16 + sl.pins * 2 ^ 8 + sl.res * 16 + sl.st.code) ++
          leBytes 4 sl.sess.toNat ++ d) ∧
    (s.frStarted = some x → x.prog ≠ 0 → s.core.fr.fails = [] → a = FrArgs.ofImage x.img →
      s.frSrcHeld x.img.opc a = false → s.core.mxKeeps (s.core.fr.slotBase slot) (s.slotBytes x.img.opc a) = false → s.scrubq = [] →
      ∃ t, exec .frTransferComplete s = .next t ∧ (∀ y ∈ (t.eng .fr).q, y.seq = x.seq → y.phase = .finished) ∧
        (∀ k, k ≠ slot → t.frSlot k = s.frSlot k) ∧ (∀ e, e ≠ .fr → t.eng e = s.eng e) ∧ t.core.pc = s.core.pc ∧
        t.core.s = s.core.s ∧ t.core.fr.xid = none ∧ (t.frSlot slot).pins = sl.pins ∧
        (x.img.opc ≠ 5 → (t.frSlot slot).res = 0) ∧ (x.img.opc = 5 → (t.frSlot slot).res = 0 ∨ (t.frSlot slot).res = 6) ∧
        (x.img.opc = 2 ∨ x.img.opc = 4 →
          (t.frSlot slot).st = .resident ∧ (t.frSlot slot).sess = a.sess ∧ (t.frSlot slot).tid = a.tab) ∧
        (x.img.opc = 3 → a.keep = true → (t.frSlot slot).st = .resident ∧ (t.frSlot slot).sess = sl.sess) ∧
        (x.img.opc = 3 ∧ a.keep = false ∨ x.img.opc = 8 ∧ a.all = true → (t.frSlot slot).st = .empty) ∧
        (x.img.opc = 6 → (t.frSlot slot).st = .resident ∧ (t.frSlot slot).sess = sl.sess) ∧
        (x.img.opc = 5 ∨ x.img.opc = 7 ∨ x.img.opc = 10 ∨ x.img.opc = 8 ∧ a.all = false →
          (t.frSlot slot).st = sl.st ∧ (t.frSlot slot).sess = sl.sess))) ∧
  (∀ (a : FrArgs) (x : Entry) (seq : W32) (slot home k i : Nat) (l : Loc) (s : State),
    let tab := a.tab.toNat
    let own := (s.frSlot a.slot.toNat).sess.toNat
    let here := spadPa s.cur (s.core.fr.slotBase slot + 4096 * k)
    let off := home % 2 ^ 36 + 4096 * k
    let e := s.frSess seq tab own
    let f := e.2.frSess seq tab a.sess.toNat
    let g := s.frSess seq tab a.sess.toNat
    let h := frHome a
    let puts (t : State) (w : List (Nat × Nat)) : State := w.foldl (fun t y => t.frStore seq tab (sessOff a.sess.toNat + y.1) 8 y.2) t
    let stays (t u : State) : Prop := t.mem = u.mem ∧ t.poison = u.poison
    (s.frStarted = some x → x.prog ≠ 0 → s.core.fr.fails = [] → a = FrArgs.ofImage x.img → s.frSrcHeld x.img.opc a = false →
      s.core.mxKeeps (s.core.fr.slotBase a.slot.toNat) (s.slotBytes x.img.opc a) = false → s.scrubq = [] →
      ∃ t, exec .frTransferComplete s = .next t ∧ stays t (s.frDo x.seq x.img.opc a).1 ∧
        (t.frSlot a.slot.toNat).res = (s.frDo x.seq x.img.opc a).2) ∧
    (s.core.fr.fails = [] → s.spanPlace .frame (home / 2 ^ 36) off 4096 = .ok (.here l) → s.poisonUnits l.pa 4096 = [] →
      s.poisonUnits here 4096 = [] →
      ((s.blockIn seq slot home k).bytes here 4096 = s.bytes l.pa 4096 ∧ s.SameBytes (s.blockIn seq slot home k) here 4096) ∧
      ∀ p, (s.blockOut seq slot home k).byte p = ((s.dirtied l).putBytes l.pa (s.bytes here 4096)).byte p) ∧
    (s.spanPlace .frame tab (sessOff i) 64 = .ok (.here l) → s.poisonUnits l.pa 64 = [] →
      let r := s.frSess seq tab i
      let d (j : Nat) : Nat := s.loadLE (l.pa + 8 * j) 8
      stays r.2 s ∧ r.1.valid = bit (d 0) 63 ∧ r.1.size = d 0 / 2 ^ 32 % 2 ^ 9 ∧ r.1.gen = d 0 % 2 ^ 32 ∧ r.1.home = d 1 % 2 ^ 48 ∧
        r.1.tv = d 2 % 16 ∧ r.1.tags = [d 4 % 2 ^ 32, d 5 % 2 ^ 32, d 6 % 2 ^ 32, d 7 % 2 ^ 32]) ∧
    (s.spanPlace .frame tab (sessOff i) 4 = .ok (.here l) → s.poisonUnits l.pa 4 = [] →
      ∀ p, (s.genUp seq tab i).byte p = ((s.dirtied l).storeLE l.pa 4 ((s.loadLE l.pa 4 + 1) % 2 ^ 32)).byte p) ∧
    stays (s.frDo seq 2 a).1 (g.2.eachBlock g.1.size (fun t j => t.blockIn seq a.slot.toNat g.1.home j)) ∧
    stays (s.frDo seq 3 a).1 ((e.2.eachBlock e.1.size (fun t j => t.blockOut seq a.slot.toNat e.1.home j)).genUp seq tab own) ∧
    stays (s.frDo seq 4 a).1 ((f.2.eachBlock (max e.1.size f.1.size) (fun t j =>
      let t := if j < e.1.size then t.blockOut seq a.slot.toNat e.1.home j else t
      if j < f.1.size then t.blockIn seq a.slot.toNat f.1.home j else t)).genUp seq tab own) ∧
    (let t := e.2.eachBlock e.1.size (fun t j => t.blockOut seq a.slot.toNat (gaddr h.1 h.2) j)
     stays (s.frDo seq 7 a).1 (puts t [(0, 2 ^ 63 + b2n (t.coldHome h.1 h.2) * 2 ^ 62 + e.1.size * 2 ^ 32), (8, gaddr h.1 h.2), (16, 0),
        (32, 0), (40, 0), (48, 0), (56, 0)])) ∧
    (a.all = true → let t := s.dropTags seq tab own 15
      let r := t.frLoad seq tab (sessOff own) 8
      stays (s.frDo seq 8 a).1 (r.2.frStore seq tab (sessOff own) 8 (r.1 % 2 ^ 63))) ∧
    (let t := g.2.eachBlock g.1.size (fun t j =>
        let r := t.frRead seq (gaSplit g.1.home).1 ((gaSplit g.1.home).2 + 4096 * j) 4096
        r.2.blockWrite seq j h.1 (h.2 + 4096 * j) r.1)
      let r := t.frLoad seq tab (sessOff a.sess.toNat) 8
      stays (s.frDo seq 10 a).1 (puts r.2 [(0, putBits r.1 62 1 (b2n (t.coldHome h.1 h.2))), (8, gaddr h.1 h.2)])))

/-! ### CP, the ring, the collectives (R253–R263, R386–R398) -/

/-- R253–R255, R257–R259: CP.COPY, CP.FILL and CP.MCAST whose checks pass and whose channel has room begin a transfer in issue
order; CP.DRAIN and CP.SIG only start; CP.STAGE releases the transfers of its stage and raises the stage counter. A misaligned
barrier of CP.SIG is ALIGN.

R254, R257, R259: a transfer all of whose destinations have ended leaves the list and its entry has every effect; so has a
CP.DRAIN or CP.SIG once every transfer issued before it on its channels has completed, CP.SIG with its arrival, and a CP.STAGE
once its transfers have. -/
def Obligations.TransferStart : Prop :=
  (∀ (a : CpArgs) (x : Entry) (s : State),
    let rules (k : XferKind) (i : Instr) : Prop :=
      let y := cpXfer a x s.cur k
      (∀ z ∈ s.core.cp.xfers, z.id ≠ s.nextXfer ∧ (z.ch = y.ch → z.begun = true)) → s.roomFor y.ch y.recvs = true →
      (k ≠ .fill → s.ci12pAt y.stid y.soff = none) → (k ≠ .mcast → ∀ r ∈ y.recvs, s.ci12pAt r.tid r.off = none) →
      (k = .mcast → (∀ r ∈ y.recvs, r.tid - 0xE00 < s.ncore s.part) ∧ y.bar.toNat % 64 = 0 ∧
        s.ci12pAt (y.bar.toNat / 2 ^ 36) (y.bar.toNat % 2 ^ 36) = none) →
        ∃ t z, exec i s = .next t ∧ t.core.cp.xfers = s.core.cp.xfers ++ [z] ∧ z.id = s.nextXfer ∧ z.begun = true ∧
          { z with id := 0, begun := false, recvs := y.recvs } = y ∧ z.recvs.map (fun r => (r.tid, r.off, r.ok)) =
            y.recvs.map (fun r => (r.tid, r.off, [])) ∧ t.nextXfer = s.nextXfer + 1 ∧ t.core.cp.stage = s.core.cp.stage ∧
          t.mem = s.mem ∧ s.EntryAt t .cp x .started
    let ga := sigBarrier a
    s.ready .cp = some x → x.stamped .cp = false →
      rules .copy (.cpCopy a) ∧ rules .fill (.cpFill a) ∧ rules .mcast (.cpMcast a) ∧
      exec (.cpDrain a) s = .next (s.start .cp x .started) ∧
      (∀ p, ga % 64 = 0 → s.place .engine ga 64 = .ok p → exec (.cpSig a) s = .next (s.start .cp x .started)) ∧
      (ga % 64 ≠ 0 → (s.eng .cp).held = none → ∃ t h, exec (.cpSig a) s = .next t ∧ (t.eng .cp).held = some h ∧
        h.trap = gaTrap .align ga ∧ h.seq = x.seq ∧ t.core.cp = s.core.cp ∧ t.core.qstop = true) ∧
      (∀ l u, s.stageRelease x = .ok (l, u) → (∀ y ∈ l, u.xferBad y = none) →
        ∃ t, exec (.cpStage a) s = .next t ∧ t.core.cp.stage = s.core.cp.stage + 1 ∧
          t.core.cp.xfers.length = s.core.cp.xfers.length + l.length ∧ s.EntryAt t .cp x .started)) ∧
  (∀ (xid p : Nat) (x : Xfer) (e : Entry) (s : State),
    let done (t : State) (q : W32) : Prop := ∀ y ∈ (t.eng .cp).q, y.seq = q → y.phase = .finished
    let same (t : State) : Prop := t.core.pc = s.core.pc ∧ t.core.s = s.core.s ∧ ∀ f, f ≠ .cp → t.eng f = s.eng f
    (s.xferAt xid = some (p, x) → x.ended = true → (s.focus p).frozen = false →
      ∃ v, exec (.transferComplete xid) s = .next (v.focus s.cur) ∧ v.cur = p ∧ (∀ z ∈ v.core.cp.xfers, z.id ≠ x.id) ∧
        ((s.focus p).cpOpc x.seq ≠ 3 → done v x.seq) ∧ v.mem = s.mem) ∧
    (∀ mask : Nat, s.drained mask e.seq = true ↔ (∀ z ∈ s.core.cp.xfers, mask.testBit z.ch = true → seqBefore z.seq e.seq = false) ∧
      (∀ z ∈ s.core.cp.colls, mask.testBit z.ch = true → seqBefore z.seq e.seq = false)) ∧
    ((s.waitingCp 4).find? (fun y => s.drained (y.img.hw 14 % 256) y.seq) = some e →
      ∃ t, exec .cpDrainComplete s = .next t ∧ done t e.seq ∧ same t ∧ t.mem = s.mem ∧ t.core.cp = s.core.cp) ∧
    (∀ w c, (s.waitingCp 6).find? (fun y => s.drained (2 ^ (y.img.hw 15 % 8)) y.seq) = some e →
      s.copyArrive e.seq (sigBarrier (CpArgs.ofImage e.img)) true = some (w, c) → w.scrubq.length ≤ 256 →
      ∃ t, exec .cpSigArrival s = .next t ∧ done t e.seq ∧ same t ∧ t.mem = w.mem ∧ t.core.cp = s.core.cp) ∧
    (∀ q, (s.waitingCp 3).find? (fun y => s.core.cp.xfers.all (fun z => z.seq != y.seq)) = some e → q = e.seq →
      ∃ t, exec .cpStageComplete s = .next t ∧ done t q ∧ same t ∧ t.mem = s.mem ∧ t.core.cp = s.core.cp))

/-- R220, R255, R256, R258, R291: a unit that passes its check has the bytes of its source, or of the pattern, at its destination and is
verified; one that fails waits for its resend, and after the third failed resend the destination is poisoned and given up;
a resend puts it under way again. Units are checked in ascending order (R255). A unit that crosses no sector link and no ring does not fail; one whose
bytes lie in a bank group of MX's tile waits (log entry 80, DEDUCED). The sender of a multicast arrives once, when every unit has been
sent. No frame waits
to be scrubbed (R384). -/
def Obligations.TransferUnits : Prop :=
  ∀ (xid j k p : Nat) (x : Xfer) (r : Recv) (s : State),
    let u := s.focus p
    let goes (i : Instr) (good : State → Recv → Prop) : Prop :=
      ∃ v z q, exec i s = .next (v.focus s.cur) ∧ z ∈ v.core.cp.xfers ∧ z.id = xid ∧ z.recvs[j]? = some q ∧ good v q
    let clean (l : List IoRun) : Prop := ∀ y ∈ l, ∃ c, u.goTo y.2.2 = .ok c ∧ u.poisonUnits c.pa y.2.1 = []
    s.xferAt xid = some (p, x) → x.recvs[j]? = some r → u.issues x = true → s.scrubq = [] →
      (∀ a d, u.firstBad x r k = none → u.recvOpen r = true → r.mayRun x.units k = true → r.wantsResend k = false → u.srcPlaces x k = .ok a →
        u.runPlaces r.tid (x.dstRuns r k) = .ok d → clean a → clean d → u.srcHeld x a = false → u.canAck x = true →
        (u.mxHolds d = true → ∀ b, exec (.unitVerify xid j k b) s = .next (u.focus s.cur)) ∧
        (u.noLink a d = true → exec (.unitVerify xid j k false) s = .next (u.focus s.cur)) ∧
        (u.mxHolds d = false →
        (r.ok.length + 1 ≠ x.units ∨ x.kind ≠ .mcast →
          goes (.unitVerify xid j k true) (fun v q => q.ok = k :: r.ok ∧ q.fails = r.fails ∧ q.dead = r.dead ∧
            (q.acked = true ↔ r.acked = true ∨ r.ok.length + 1 = x.units) ∧
            ∀ b, v.byte b = (u.putRuns (if x.kind = .fill then x.fillBytes k else u.runsData a) d).byte b)) ∧
        (u.noLink a d = false → goes (.unitVerify xid j k false) (fun v q =>
          q.fails = k :: r.fails ∧ q.ok = r.ok ∧ (q.dead = true ↔ r.dead = true ∨ 6 ≤ (r.fails.filter (· == k)).length) ∧
          (6 ≤ (r.fails.filter (· == k)).length →
            ∀ y ∈ d, ∀ c, u.goTo y.2.2 = .ok c → ∀ b, b < y.2.1 → v.poisoned (c.pa + b) = true))))) ∧
      (r.dead = false → r.wantsResend k = true →
        goes (.unitResend xid j k) (fun v q => q.fails = k :: r.fails ∧ q.ok = r.ok ∧ q.dead = r.dead ∧ v.mem = s.mem)) ∧
      (∀ w e, x.kind = .mcast → x.sentArr = false →
        (∀ r ∈ x.recvs, u.sentTo x r = true) →
        u.copyArrive x.seq x.bar.toNat true = some (w, e) →
        ∃ (v : State) (z : Xfer), exec (.mcastSenderArrival xid) s = .next (v.focus s.cur) ∧ z ∈ v.core.cp.xfers ∧ z.id = xid ∧ z.sentArr = true ∧
          z.recvs = x.recvs ∧ v.mem = w.mem)

/-- R260, R261, R398: a collective whose checks pass starts where none of its core runs, fewer than eight are in flight, an
incoming scoreboard entry is free and no earlier range holds a source that it reads (R26): it holds the elements of its source,
and its contribution waits to travel to a port stop; a receiver of a broadcast reads and sends nothing. A check that fails holds
its cause.

R260, R262, R263, R398, where the east port is up: a message passes a package that does not participate. A running value that
comes from the previous rank is combined with the local words and sent on, or begins the result lap at the last rank; the lap
writes the result at a participant's destination and goes on to its end. Contributions pass every package but that of rank 0,
which forms the reduction in rank order once it has all of them. A message that disagrees with a collective under way here ends
it with COPY_INTEGRITY, EVAL its COLLID, its destination poisoned, and the end is told round the ring as a message of rank 17 (log
entry 66, DEDUCED; a contribution travels as one flit: 64, DEDUCED). While MX holds the destination the result waits (R220, log
entry 80). A collective that has written has every effect. -/
def Obligations.CollectiveSteps : Prop :=
  (∀ (a : CpArgs) (x : Entry) (b : Nat) (s : State),
    let rules (k : Nat) (i : Instr) : Prop :=
      let y := collOf a k x
      let e := collBytes y.typ
      let src := spadPa s.cur y.src
      (∀ c, s.collCheck y = some c → (s.eng .cp).held = none → ∃ t h, exec i s = .next t ∧ (t.eng .cp).held = some h ∧
        h.trap = c ∧ h.seq = x.seq ∧ t.core.cp = s.core.cp ∧ t.core.qstop = true ∧ t.mem = s.mem) ∧
      (s.collCheck y = none → s.core.cp.colls = [] → s.collsInFlight < 8 →
        (s.contributes y = true → s.sbHit y.src (y.count * e) = false ∧ s.poisonUnits src (y.count * e) = []) →
        sbFree s.core 8 = some b → s.collidUsed y.collid = false →
        ∃ t z, exec i s = .next t ∧ t.core.cp.colls = [z] ∧ t.mem = s.mem ∧ s.EntryAt t .cp x .started ∧
          z.sb = some b ∧ z.pend = none ∧ z.written = false ∧ z.here = false ∧ z.got = [] ∧ z.result = none ∧
          { z with sb := none, contrib := [] } = y ∧ t.core.sb.toList.getD b none = some ⟨y.dst, y.outCount * e, y.ch⟩ ∧
          z.contrib = (if k = 10 ∧ s.rankIn y ≠ 0 then [] else elemsOf e y.count (s.bytes src (y.count * e))) ∧
          t.flits.map (·.msg) = s.flits.map (·.msg) ++ (if k = 10 ∧ s.rankIn y ≠ 0 then [] else [.contrib y.collid]) ∧
          t.collTx = s.collTx)
    s.ready .cp = some x → x.stamped .cp = false →
      rules 7 (.cpAllred a) ∧ rules 8 (.cpAllgath a) ∧ rules 9 (.cpRedsc a) ∧ rules 10 (.cpBcast a)) ∧
  (∀ (m : CollMsg) (x : Coll) (s : State),
    let q := s.rankIn x
    let dst := spadPa s.cur x.dst
    let data : List Byte := ((s.collOut x m.vals).map (fun w => leBytes (collBytes x.typ) w.toNat)).flatten
    let all := x.wire :: (List.range (x.np - 1)).map (fun k => ((((m.rank, m.vals) :: x.got).find? (fun g => g.1 == k + 1)).map (·.2)).getD [])
    let either (i : Instr) : Prop := i = .collectiveReduceStep m ∨ i = .collectiveResultWrite m
    let forwards (i : Instr) : Prop :=
      ∃ t, exec i s = .next t ∧ t.collTx = s.collTx ++ [m] ∧ t.mem = s.mem ∧ t.core = s.core ∧ t.others = s.others
    let member : Prop := m.pmask.toNat.testBit s.pos = true ∧ s.coll m.collid = some x ∧ s.anyColl m.collid = some x ∧
      x.agrees m = true ∧ s.frozen = false
    let ended (t : State) : Prop := (∀ z ∈ t.core.cp.colls, z.collid = m.collid → z.written = true) ∧
      ∀ z ∈ s.core.cp.colls, z.collid = m.collid → z.written = false →
        { z with written := true, pend := some ⟨.copyIntegrity, z.collid.setWidth 64⟩ } ∈ t.core.cp.colls ∧
        ∀ b, b < z.outCount * collBytes z.typ → t.poisoned (spadPa s.cur z.dst + b) = true
    let kept (t : State) (good : Coll → Prop) : Prop :=
      (∃ z ∈ t.core.cp.colls, z.collid = m.collid ∧ good z) ∧ t.mem = s.mem ∧ t.core.eng = s.core.eng
    (s.eastOpen = false → ∀ i, either i → exec i s = .next s) ∧
    (s.core.cp.colls.find? (fun z => z.collid == m.collid && z.written) = some x → s.frozen = false →
      ∃ t, exec (.collectiveComplete m.collid) s = .next t ∧ (∀ z ∈ t.core.cp.colls, z.seq ≠ x.seq) ∧
        (∀ y ∈ (t.eng .cp).q, y.seq = x.seq → y.phase = .finished) ∧ t.mem = s.mem ∧ t.core.pc = s.core.pc ∧
        ∀ e, e ≠ .cp → t.eng e = s.eng e) ∧
    (x.kind ≠ 8 → x.kind ≠ 10 → m.vals.length = x.wire.length → ∀ i, i < m.vals.length →
      (x.combine m.vals).getD i 0 = redStep x.op (m.vals.getD i 0) (x.wire.getD i 0)) ∧
    (s.eastOpen = true → m.rank ≠ breakRank →
      (m.pmask.toNat.testBit s.pos = false → (∀ y, s.anyColl m.collid = some y → y.agrees m = true) →
        ∀ i, either i → forwards i) ∧
      (member → x.atRoot = false → m.rank + 1 = q → x.got = [] → (s.contributes x = true → x.here = true) →
        (q + 1 ≠ x.np → ∃ t, exec (.collectiveReduceStep m) s = .next t ∧ t.collTx = s.collTx ++ [x.msg q (x.combine m.vals)] ∧
          kept t (fun z => z.got = [(m.rank, m.vals)] ∧ z.result = x.result)) ∧
        (q + 1 = x.np → ∃ t, exec (.collectiveReduceStep m) s = .next t ∧
          t.collTx = s.collTx ++ [x.msg x.np (x.combine m.vals)] ∧
          kept t (fun z => z.got = [(m.rank, m.vals)] ∧ z.result = some (x.combine m.vals)))) ∧
      (member → x.atRoot = true → q ≠ 0 → forwards (.collectiveReduceStep m)) ∧
      (member → x.atRoot = true → q = 0 → 0 < m.rank → m.rank < x.np → (∀ g ∈ x.got, g.1 ≠ m.rank) →
        m.vals.length = x.wire.length →
        (x.here = false ∨ x.got.length + 2 < x.np → ∃ t, exec (.collectiveReduceStep m) s = .next t ∧
          t.collTx = s.collTx ∧ kept t (fun z => z.got = (m.rank, m.vals) :: x.got ∧ z.result = x.result)) ∧
        (x.here = true → x.got.length + 2 = x.np → ∃ t v, exec (.collectiveReduceStep m) s = .next t ∧
          t.collTx = s.collTx ++ [x.msg x.np v] ∧ kept t (fun z => z.result = some v) ∧ v.length = x.wire.length ∧
          ∀ i, i < v.length →
            (x.op = 0 → x.prof ≠ 0 → v.getD i 0 = w32 (red32 addRn (.zero true) (column all i))) ∧
            (x.op ≠ 0 → v.getD i 0 = (all.tail.map (fun l => l.getD i 0)).foldl (redStep x.op) (x.wire.getD i 0)))) ∧
      (member → s.lapOk x m = true → s.core.mxKeeps x.dst (x.outCount * collBytes x.typ) = true →
        exec (.collectiveResultWrite m) s = .next s) ∧
      (member → s.lapOk x m = true → s.core.mxKeeps x.dst (x.outCount * collBytes x.typ) = false → s.poisonUnits dst data.length = [] →
        ∃ t, exec (.collectiveResultWrite m) s = .next t ∧ s.SameBytes t dst data.length ∧ t.bytes dst data.length = data ∧
          (∃ z ∈ t.core.cp.colls, z.collid = m.collid ∧ z.written = true) ∧ t.core.eng = s.core.eng ∧
          t.collTx = s.collTx ++ (if s.lapEnds x then [] else [m])) ∧
      (s.anyColl m.collid = some x → x.agrees m = false → s.cur < Config.cores →
        ∀ i, either i → ∃ t, exec i s = .next t ∧ t.mem = s.mem ∧
          t.collTx = s.collTx ++ [x.msg breakRank [BitVec.ofNat 32 s.pos]] ∧ ended t)) ∧
    (s.eastOpen = true → m.rank = breakRank → s.cur < Config.cores →
      ∀ i, either i → ∃ t, exec i s = .next t ∧ t.mem = s.mem ∧
        t.collTx = s.collTx ++ (if m.vals.head? = some (BitVec.ofNat 32 s.pos) then [] else [m]) ∧ ended t))

/-- R387, R389–R391, R398; accesses, replies, headers and contributions are the flits that take slots (log entry 127, DESIGN CHOICE): a
waiting flit that is still wanted takes a slot that its class may use, and its access is outstanding
from then on; a reserved phase takes only its partition's flits, none while it drains (R369). At its destination a header that
finds its phase's entry occupied is answered by a NACK and launched again in a slot of that phase; a flit on a reserved phase waits for an earlier one
of its stop, destination and phase; an open flit that may not be buffered deflects; every other flit is buffered. A buffered
contribution is taken by its port stop, which sends the running value of rank 0, or a contribution for the root, east.

R146, R350, R355, R356, R27: a ring stop applies a buffered access for a resident context and answers it, refuses it for a
foreign one, and parks it for a halted or saved core, whose image counts it; one that finds the parking region full waits. The
answer completes the access at its sender: a value reaches the destination register, an acceptance only completes, each with
the acquire that the access names (R290), a trap or a refusal is taken; where CTL stopped meanwhile it goes on where it stands, a trap being
taken at the access with the loop levels as before it. No frame waits to be scrubbed (R384).
A header that is accepted takes an entry of the scoreboard's incoming half.

R291, R369, R392: in a ring cycle a flit that has not yet crossed its sector link (12 rc within a die, 24 between dies) stays, one
that has crossed leaves and its answer waits at the other end, and each direction of each link launches at most one waiting flit:
in a phase that its partition owns, or in an open phase with a credit, never in a phase that drains. -/
def Obligations.RingExchange : Prop :=
  (∀ (fid slot : Nat) (f : Flit) (s : State),
    let becomes (i : Instr) (l : List Flit) (d : BitVec 32) : Prop :=
      ∃ t, exec i s = .next t ∧ t.flits = l ∧ (t.coreAt f.src).orbit = (s.coreAt f.src).orbit + d ∧ t.mem = s.mem ∧
        (∀ p, (t.coreAt p).s = (s.coreAt p).s ∧ (t.coreAt p).pc = (s.coreAt p).pc)
    let rest := s.flits.filter (fun x => x.id != fid)
    let takes (i : Instr) : Prop := becomes i (rest ++ [{ f with st := .inSlot, slot := slot }]) 1
    let buffers : Prop := becomes (.ringFlitArrival fid) (rest ++ [{ f with st := .buffered }]) (-1)
    s.flits.filter (fun x => x.id == fid) = [f] → s.boot.power ≠ .stopped →
      (f.st = .waiting → (s.coreAt f.src).scanned = false → s.slotAllowed f slot = true →
        (s.stillWanted f = true → takes (.ringFlitLaunch fid slot) ∧
          ∀ r, f.msg = .access r → ∃ t, exec (.ringFlitLaunch fid slot) s = .next t ∧ (t.coreAt f.src).outst = some r) ∧
        (s.stillWanted f = false → exec (.ringFlitLaunch fid slot) s = .next { s with flits := rest })) ∧
      (f.st = .nacked → (s.coreAt f.src).scanned = false → s.slotAllowed f slot = true →
        (s.samePhase f slot = true → takes (.nackRelaunch fid slot)) ∧
        (s.samePhase f slot = false → exec (.nackRelaunch fid slot) s = .next s)) ∧
      (s.samePhase f slot = true ↔ s.onReserved f = false ∨ slot % 64 = f.slot % 64) ∧
      (s.slotAllowed f slot = true → slot < 152 ∧ ∀ q, slot < 128 → s.phaseHolder f.dir (slot % 64) = some q → q = f.part.toNat ∧
        128 + 64 * f.dir + slot % 64 ∉ s.tst.phases) ∧
      (f.st = .inSlot → s.onReserved f = true →
        (s.followsFlit f = true → exec (.ringFlitArrival fid) s = .next s) ∧
        (s.followsFlit f = false →
          (f.header = true → s.headerBusy f = true → becomes (.ringFlitArrival fid) (rest ++ [{ f with st := .nacked }]) (-1)) ∧
          (f.header = false ∨ s.headerBusy f = false → (∀ id, f.msg ≠ .contrib id) → buffers))) ∧
      (f.st = .inSlot → s.onReserved f = false →
        (16 ≤ s.openBuffered f → s.deflects f = true) ∧
        (s.deflects f = true → becomes (.ringFlitArrival fid)
          (s.flits.map (fun x => if x.id = fid then { x with deflections := x.deflections + 1 } else x)) 0) ∧
        (s.deflects f = false → (∀ id, f.msg ≠ .contrib id) → buffers)) ∧
      (∀ id y, f.st = .buffered → f.msg = .contrib id → (s.focus f.src).coll id = some y →
        (s.eastOpen = false → exec (.ringFlitArrival fid) s = .next s) ∧
        (s.eastOpen = true → y.np ≠ 1 → y.atRoot = false ∨ s.rankIn y ≠ 0 →
          ∃ t, exec (.ringFlitArrival fid) s = .next t ∧ t.flits = rest ∧ t.mem = s.mem ∧
            (∃ z ∈ (t.coreAt f.src).cp.colls, z.collid = id ∧ z.here = true ∧ z.contrib = y.contrib) ∧
            t.collTx = s.collTx ++ (if y.atRoot = true ∨ s.rankIn y = 0 then [y.msg (s.rankIn y) y.wire] else [])))) ∧
  (∀ (fid xid j p i : Nat) (r : Remote) (x : Xfer) (q : Recv) (a : Reply) (v : W64) (s : State),
    let u := s.dropFlit fid
    let answered (t w : State) (b : Reply) : Prop := t.flits.map (·.msg) = u.flits.map (·.msg) ++ [.reply r b] ∧ t.core = w.core ∧
      t.others = w.others ∧ t.mem = w.mem
    let got : Prop := s.bufferedReply = some (fid, r, a) ∧ s.imageAwaiting r = none ∧ s.coreAwaiting r = some s.cur ∧
      s.core.run = .running
    s.boot.power ≠ .stopped → s.scrubq = [] →
      (s.bufferedAccess = some (fid, r) →
        (s.reach s.cur r.vf = .applied → ∃ t, exec .remoteAccessApply s = .next t ∧
          answered t (s.performRemote s.cur r).1 (s.performRemote s.cur r).2) ∧
        (s.reach s.cur r.vf = .refused → ∃ t, exec .remoteAccessApply s = .next t ∧ answered t s .refused) ∧
        (s.reach s.cur r.vf = .atStop → exec .remoteAccessApply s =
          .next { u with core := { s.core with parked := s.core.parked ++ [.access r] } }) ∧
        (∀ n g, s.reach s.cur r.vf = .inImage n → s.images.find? (fun i => i.id == n) = some g →
          (g.hasRoom = false → exec .remoteAccessApply s = .next s) ∧
          (g.hasRoom = true → ∃ t, exec .remoteAccessApply s = .next t ∧ t.flits = u.flits ∧
            t.core = { s.core with l1 := t.core.l1 } ∧ t.others = s.others ∧ t.mem = ((s.countParked n).writeParked g g.parked.length).mem ∧
            t.images = s.images.map (fun g => if g.id = n then { g with parked := g.parked ++ [.access r] } else g)) ∧
          (g.scan = false → (s.countParked n).mem =
            (s.hwStore8 (g.addr.toNat + 24) (BitVec.ofNat 64 ((g.parked.length + 1) * 2 ^ 32))).mem))) ∧
      ((∀ b c, s.core.wait ≠ some (.reply b c)) → got →
        let w : State := { u with core := { u.core with outst := none, wait := none } }
        let z := w.acquire r.acq
        (s.core.left = none →
          (a = .value v → (∀ sz sg sd, r.op = .load sz sg sd → exec .remoteReply s = .next ((z.wr sd v).retire r.words)) ∧
            (∀ fn dbl c d sd, r.op = .amo fn dbl c d sd → exec .remoteReply s = .next ((z.wr sd v).retire r.words)) ∧
            (∀ sd, r.op = .barTest sd → exec .remoteReply s = .next ((z.wr sd v).retire r.words))) ∧
          (a = .accepted → (∀ c d, r.op ≠ .barArv c d true) → exec .remoteReply s = .next (z.retire r.words)) ∧
          (∀ c, a = .trap c → exec .remoteReply s = .next (w.trap c)) ∧
          (a = .refused → exec .remoteReply s = .next (w.trap ⟨.signalLost, r.ea.setWidth 64⟩))) ∧
        (∀ n, s.core.left = some n → a = .accepted → (∀ c d, r.op ≠ .barArv c d true) →
          exec .remoteReply s = .next { z with core := { z.core with left := none } }) ∧
        (∀ (n : Left) c, s.core.left = some n → a = .trap c → exec .remoteReply s = .next (({ w with core := { w.core with
          pc := n.pc, lc0 := n.lc0, lc1 := n.lc1, arv := n.arv, left := none,
          ctr := { w.core.ctr with ctlRet := w.core.ctr.ctlRet - 1 } } } : State).trap c))) ∧
      (∀ b, s.core.wait = some (.reply r b) → s.runs = true →
        exec .remoteReply s = .next (s.completeRemote (s.remoteTarget r) r b)) ∧
      (s.bufferedHeader xid = some (fid, j) → s.xferAt xid = some (p, x) → x.recvs[j]? = some q → s.frozen = false →
        let taken (c : Option Nat) (e : Nat → SbEntry → Prop) : Prop :=
          ∃ t z w, exec (.transferHeaderAccept xid) s = .next t ∧ (∀ i, c = some i → ∃ y, t.core.sb.toList.getD i none = some y ∧ e i y) ∧
            z ∈ (t.coreAt p).cp.xfers ∧ z.id = xid ∧ z.recvs[j]? = some w ∧ w.hdr = true ∧ w.ok = q.ok ∧
            (∀ i, c = some i → w.sb = c) ∧ t.flits = u.flits ∧ t.mem = s.mem
        let vf := (s.coreAt p).resident.getD 0
        (s.reach s.cur vf = .applied → sbFree s.core 8 = some i → taken (some i) (fun _ y => y = ⟨q.off, x.extent, x.ch⟩)) ∧
        (s.reach s.cur vf = .refused → taken none (fun _ _ => True)))) ∧
  (∀ (f : LinkFlit) (i j tm : Nat) (op : Bool) (s : State),
    let t := s.rcTick
    let rc := s.rc + 1
    let crossing (f : LinkFlit) : Nat := if dieOf f.src = dieOf f.dst then 12 else 24
    let fresh : Prop := ∀ x ∈ s.linkq, ∀ r b, x.sent = some (r, b) → r < rc
    let k := linkByte f.src f.dst (rc % 8)
    t.rc = rc ∧ t.core = s.core ∧ t.mem = s.mem ∧
    (f ∈ s.linkq → f.sent = some (tm, op) → rc < tm + crossing f → f ∈ t.linkq) ∧
    (f ∈ s.linkq → f.sent = some (tm, op) → tm + crossing f ≤ rc → f.back = true →
      ∃ x ∈ t.linkq, x.src = f.dst ∧ x.dst = f.src ∧ x.part = f.part ∧ x.back = false) ∧
    (f ∈ t.linkq → f.sent = some (tm, op) → rc < tm + crossing f) ∧
    (fresh → (t.linkq.filter (fun x => x.src == i && x.dst == j && (match x.sent with
      | some y => y.1 == rc
      | none => false))).length ≤ 1) ∧
    (fresh → f ∈ t.linkq → f.sent = some (rc, op) → k ∉ s.tst.phases ∧
      ((op = false ∧ s.holder k = some f.part.toNat) ∨
       (op = true ∧ s.holder k = none ∧ (t.linkq.filter (fun x => x.src == f.src && x.dst == f.dst && (match x.sent with
          | some y => y.2
          | none => false))).length ≤ Config.linkCredits))))

/-! ### Scheduling, frames, saves, debug (R306–R333, R343–R360) -/

/-- R330–R333, R388: a due stamped entry starts, or raises STAMP_OVERRUN where its start is not possible or would wait; each core i of
a begun DET launch is held; once they are idle its first frame starts with clear signatures, and the first marker begins group i
on logical core i with SFC = 0. That none starts while a stop, a cleaning or a landing transfer has one of the cores is the
model's choice (log entry 122). The frame master emits the marker, which goes to the cores of the partition that owns the phase
of its ID: their SFC becomes 0 and their event flag 1, and a tile that a scan stop holds does not see it (R21, R350). -/
def Obligations.FramesAndStamps : Prop :=
  ∀ (q : BitVec 5) (e : Eng) (x : Entry) (l : Launch) (s : State),
    (s.core.scanned = false → s.boot.power ≠ .stopped → s.stampDue e = some x →
      (∀ y t, s.ready e = some y → y.seq = x.seq → s.startLong e x = some t → t.startWaits e x = false →
        exec (.stampedEntryStart e) s = .next t) ∧
      (s.ready e = none ∨ s.startLong e x = none ∨ (∃ t, s.startLong e x = some t ∧ t.startWaits e x = true) → (s.eng e).held = none → (∀ y, s.ready e = some y → y.seq = x.seq) →
        ∃ t h, exec (.stampedEntryStart e) s = .next t ∧ (t.eng e).held = some h ∧ h.trap.cause = .stampOverrun ∧
          h.trap.val = BitVec.ofNat 64 (x.img.hw 2) ∧ h.seq = x.seq ∧ t.core.ctr.stampOvr = s.core.ctr.stampOvr + 1 ∧
          t.core.qstop = true ∧ (t.eng e).q = (s.eng e).q)) ∧
    (s.frozen = true → exec (.stampedEntryStart e) s = .next s) ∧
    (s.detLaunch q = some l → l.nextIdx = 0 → s.coreHolder s.cur = some q.toNat → s.cur ∈ (s.partCores q.toNat).take l.groups →
      s.detHeld s.cur = true ∧ s.reservable s.cur = false ∧ exec .coreTakeRecord s = .next s) ∧
    (s.detReady l = true ↔ (s.detCores l).length = l.groups ∧ ∀ p ∈ s.detCores l,
      ((s.coreAt p).run = .idle ∨ (s.coreAt p).run = .gated false) ∧ (s.coreAt p).dbg.busy = false ∧ p ∉ s.tst.marks ∧
      p ∉ s.tst.cleaning ∧ s.settled p l.vf none = true) ∧
    (s.detLaunch q = some l → q ∉ s.markers →
      (l.nextIdx = 0 → s.detReady l = false → exec (.detLaunchStart q) s = .next s) ∧
      (l.nextIdx = 0 → s.vfHalted l.vf = false → s.detReady l = true →
        ∃ t, exec (.detLaunchStart q) s = .next t ∧ t.markers = q :: s.markers ∧ t.core = s.core ∧ t.others = s.others ∧
          t.mem = s.mem ∧ ∀ g ∈ t.sieve, g.part ≠ q) ∧
      (l.nextIdx = l.groups → (s.coreAt ((s.partCores q.toNat).getD 0 0)).sfc.toNat = s.emitAt l →
        exec (.frameMarkerEmit q) s = .next { s with markers := q :: s.markers })) ∧
    (s.pfBits 0xE0 63 1 = 1 → s.emitAt l = l.sflen.toNat - 24) ∧ (s.pfBits 0xE0 63 1 ≠ 1 → s.emitAt l = l.sflen.toNat - 48) ∧
    (s.detLaunch q = some l → q ∈ s.markers → s.frameId q.toNat ≠ none → s.boot.power ≠ .stopped →
      (l.nextIdx ≠ 0 →
        ∃ t, exec (.frameMarkerDelivery q) s = .next t ∧ q ∉ t.markers ∧ t.mem = s.mem ∧ t.cur = s.cur ∧
          (∀ p ∈ s.partCores q.toNat, (s.coreAt p).scanned = false → (t.coreAt p).sfc = 0 ∧ (t.coreAt p).ev = true ∧
            (t.coreAt p).s = (s.coreAt p).s ∧ (t.coreAt p).pc = (s.coreAt p).pc) ∧
          (∀ p, p ∉ s.partCores q.toNat ∨ (s.coreAt p).scanned = true → t.coreAt p = s.coreAt p)) ∧
      (l.nextIdx = 0 → s.detReady l = false → exec (.frameMarkerDelivery q) s = .next { s with markers := s.markers.filter (· != q) }) ∧
      (l.nextIdx = 0 → s.vfHalted l.vf = false → s.detReady l = true → (s.partCores q.toNat).Nodup →
        ∃ t, exec (.frameMarkerDelivery q) s = .next t ∧ q ∉ t.markers ∧
          ∀ (i : Nat) (p : Nat), i < l.groups → (s.partCores q.toNat)[i]? = some p →
            (t.coreAt p).work = some (l.record i) ∧ (t.coreAt p).pc = l.entry ∧ (t.coreAt p).sfc = 0 ∧
            (t.coreAt p).run = .running))

/-- R29, R309, R311, R312, R316, R319: an idle core takes the first eligible record of the highest level; that another core which has
waited longer goes first is the model's reading (log entry 113; R311 orders only cores of one ring cycle, by logical number). The
record leaves the queue and begins: the templates preloaded, pc at CODE (whose bits 1 and 0 wait for the first fetch: log entry
120), s1 and s2 the two addresses, no tokens, no loops, PL0, the event flag set, the other s registers as they were in its
context, or at their reset values on a core that no context holds. A record whose image fails its check is discarded, else its
core state is the image's. A launch that may begin and is not DET enters its groups as quota allows. -/
def Obligations.RecordEntry : Prop :=
  ∀ (x : TqEntry) (l : Launch) (s : State),
    let fits : Prop := x.work.d0.toNat < 2 ^ 49 ∧ x.work.d1.toNat < 2 ^ 48 ∧ x.work.d2.toNat < 2 ^ 48
    let takes : Prop := s.free? = true ∧ s.chosen = some x ∧ s.takesFirst x = false
    (s.free? = true → s.chosen = some x →
      s.eligible x = true ∧ x ∈ s.tq ∧ (∀ y ∈ s.tq, s.eligible y = true → y.prio ≤ 3 → y.prio ≤ x.prio) ∧
      (s.takesFirst x = true → exec .coreTakeRecord s = .next s)) ∧
    (takes → s.settled s.cur x.work.vf x.img = false → exec .coreTakeRecord s = .next s) ∧
    (takes → x.img = none → s.core.resident = none → s.savedHere s.cur x.work.vf = none → s.core.landed = true → fits →
      ∃ t, exec .coreTakeRecord s = .next t ∧ t.core.work = some { x.work with prio := x.prio } ∧
        t.core.pc = BitVec.ofNat 48 (x.work.d0.toNat % 2 ^ 48) ∧ t.core.resident = some x.work.vf ∧ t.rd 1 = x.work.d1 ∧ t.rd 2 = x.work.d2 ∧
        (∀ r : Reg, r ≠ 1 → r ≠ 2 → t.core.s.get r = Core.reset.s.get r) ∧ t.core.ctr = Core.reset.ctr ∧
        ∀ k, k < Config.spadBytes → t.byte (spadPa s.cur k) = 0) ∧
    (takes → ∀ id g, x.img = some id → s.images.find? (fun i => i.id == id) = some g → g.id = id → s.core.landed = true →
      (s.imageOk g = false → ∃ t, exec .coreTakeRecord s = .next t ∧ t.core.run = s.core.run ∧ t.core.s = s.core.s ∧
        ∀ y ∈ t.images, y.id ≠ id) ∧
      (s.imageOk g = true → s.core.resident = some g.vf → g.scan = false → g.parked = [] → g.core.cp.xfers = [] → g.halted = false →
        ∃ t, exec .coreTakeRecord s = .next t ∧ t.core.run = .running ∧ t.core.s = g.core.s ∧ t.core.pc = g.core.pc ∧ t.core.pl = g.core.pl ∧
          t.core.banks = g.core.banks ∧ t.core.vx = g.core.vx ∧ t.core.mx = g.core.mx ∧ t.core.tok = g.core.tok ∧
          t.core.work = g.core.work.map (fun r => { r with prio := x.prio }) ∧ t.core.entry = x.id ∧ ∀ y ∈ t.images, y.id ≠ id)) ∧
    (takes → x.img = none → s.core.resident = some x.work.vf → fits →
      ∃ t, exec .coreTakeRecord s = .next t ∧ t.tq.length + 1 = s.tq.length ∧ t.taken = s.taken ++ [x] ∧
        t.core.work = some { x.work with prio := x.prio } ∧ t.core.pc = BitVec.ofNat 48 (x.work.d0.toNat % 2 ^ 48) ∧
        t.rd 1 = x.work.d1 ∧ t.rd 2 = x.work.d2 ∧ (∀ r, r ≠ 1 → r ≠ 2 → t.rd r = s.rd r) ∧ t.core.levelBase = x.work.d3 ∧
        t.core.pl = 0 ∧ t.core.vrb = 0 ∧ t.core.lc0 = .off ∧ t.core.lc1 = .off ∧ t.core.tok = Vector.replicate 64 0 ∧
        t.core.ev = true ∧ t.core.arv = false ∧ t.core.trig = false ∧ t.core.entry = x.id ∧ t.core.wait = none ∧ t.core.run = .running ∧ t.core.wdog = 0 ∧
        t.core.stored = false ∧ (∀ l, s.launchInfo x.work.vf x.work.lid = some l → t.core.det = l.det ∧ t.core.sflen = l.sflen ∧
          (x.work.lid ∉ s.core.preloaded → t.core.eng = writePreloads s.core.eng l.preload)) ∧
        t.core.cp.stage = 0 ∧ t.core.banks = s.core.banks ∧ t.core.vx = s.core.vx ∧ t.core.mx = s.core.mx ∧ t.mem = s.mem) ∧
    (∀ v i, s.launchOf v i = some l → s.mayBegin l = true → l.det = false → l.gangLevel = none → l.nextIdx ≤ l.groups →
      (l.replayed = true → l.persist = false) →
      let room := min (l.groups - l.nextIdx) (s.tquota v - s.quotaUsed v)
      l.vf = v → ∃ t, exec (.launchBegin v i) s = .next t ∧
        t.tq = s.tq ++ (List.range room).map (fun k => ⟨l.part, (l.record (l.nextIdx + k)).prio, l.record (l.nextIdx + k), 0, none, none, s.nextSlot + k⟩) ∧
        (∃ l', t.launchOf v i = some l' ∧ l'.begun = true ∧ l'.nextIdx = l.nextIdx + room) ∧ t.core = s.core ∧ t.mem = s.mem)

/-- R322–R324, R354, R377: a waiting gang fixes its target and, when no gang before it attempts on that unit, asks the first cores
of it; a core that is idle, gated or not, not reserved, not held and not marked grants and is reserved, another denies; when every
reply is there the gang is placed, or backs off; a granting core of a failed attempt is released; after a back-off it tries
again, and from the fourth on holds its target, dealt anew where an edge has taken it; a placed gang commits all its members at
once, at the level of its entry, unless its VF has begun to stop or, by the model's choice (log entry 122), a stop has taken one
of the cores that granted: then none enters and the cores are released. -/
def Obligations.GangReservation : Prop :=
  ∀ (g : Gang) (u p : Nat) (l : Launch) (s : State),
    let i := g.id
    let c := s.coreAt p
    let d := s.deal g
    let gone (x : Instr) (h : Gang) : Prop := ∃ t, exec x s = .next t ∧ t.gangs = s.gangs.map (fun y => if y.id = i then h else y) ∧
      t.core = s.core ∧ t.others = s.others ∧ t.tq = s.tq ∧ t.mem = s.mem
    let may : Prop := s.reservable p = true ∧ s.holdingGang p = none
    let asks (x : Instr) : Prop := d.target = some u → s.attempted g u = false →
      gone x { d with st := .reserving, asked := (s.unitCores g.part g.domain u).take g.size, grants := [], denied := false }
    (s.reservable p = true ↔ (c.run = .idle ∨ c.run = .gated false) ∧ c.reserved = none ∧ s.detHeld p = false ∧
      c.dbg.busy = false ∧ p ∉ s.tst.marks ∧ p ∉ s.tst.cleaning) ∧
    (s.gangOf i = some g → (∀ y ∈ s.gangs, y.id = i → y = g) → s.vfHalted g.vf = false →
      (g.st = .waiting → asks (.gangAttempt i) ∧ (d.target = some u → s.attempted g u = true → gone (.gangAttempt i) d)) ∧
      (g.st = .reserving → p ∈ g.asked →
        (may → ∃ t, exec (.reserve i p) s = .next t ∧ (t.coreAt p) = { c with reserved := some i, run := .idle, quiet := 0 } ∧
          t.gangOf i = some { g with asked := g.asked.erase p, grants := g.grants ++ [p] }) ∧
        (¬ may → gone (.reserve i p) { g with asked := g.asked.erase p, denied := true })) ∧
      (g.st = .reserving → g.asked = [] →
        (g.denied = false → gone (.gangReplies i) { g with st := .placed }) ∧
        (g.denied = true → gone (.gangReplies i) { g with st := .backoff, n := min 4 (g.n + 1) })) ∧
      (g.st = .backoff → p ∈ g.grants → ∃ t, exec (.release i p) s = .next t ∧
        t.gangOf i = some { g with grants := g.grants.erase p } ∧
        (t.coreAt p).reserved = (if c.reserved = some i then none else c.reserved)) ∧
      (g.st = .backoff → g.grants = [] →
        (g.n < 4 ∨ s.unitHeld d = true → asks (.gangBackoffExpiry i)) ∧
        (4 ≤ g.n → d.target = some u → s.unitHeld d = false → gone (.gangBackoffExpiry i) { d with st := .holding })) ∧
      (g.st = .holding →
        let ready := (s.unitCores g.part g.domain u).filter s.reservable
        (d.target = g.target → g.target = some u → g.size ≤ ready.length → ∃ t, exec (.gangHoldComplete i) s = .next t ∧
          t.gangOf i = some { g with st := .placed, grants := ready.take g.size } ∧
          ∀ k ∈ ready.take g.size, (t.coreAt k).reserved = some i) ∧
        (d.target ≠ g.target → gone (.gangHoldComplete i) (if s.unitHeld d then { d with st := .backoff } else d))) ∧
      (s.gangReady g = true ↔ ∀ k ∈ g.grants, (s.coreAt k).reserved = some i ∧ ((s.coreAt k).run = .idle ∨ (s.coreAt k).run = .gated false) ∧
        (s.coreAt k).dbg.busy = false ∧ k ∉ s.tst.marks ∧ k ∉ s.tst.cleaning) ∧
      (g.st = .placed → s.launchOf g.vf g.lid = some l → s.gangReady g = true → (∃ k ∈ g.grants, s.settled k g.vf none = false) →
        exec (.commit i) s = .next s) ∧
      (g.st = .placed → s.launchOf g.vf g.lid = some l → s.gangReady g = true → (∀ k ∈ g.grants, s.settled k g.vf none = true) →
        (s.partCores g.part.toNat).Nodup → ∃ t, exec (.commit i) s = .next t ∧
        t.gangOf i = none ∧ (∀ y ∈ t.tq, y.gang ≠ some i) ∧ t.taken = s.taken ++ s.tq.filter (fun y => y.gang == some i) ∧
        ∀ (j k : Nat), ((s.partCores g.part.toNat).filter g.grants.contains)[j]? = some k →
          (t.coreAt k).work = some { l.record (g.first + j) with prio := s.gangPrio i l.prio } ∧
          (t.coreAt k).run = .running ∧ (t.coreAt k).pc = l.entry)) ∧
    (s.gangOf i = some g → (∀ y ∈ s.gangs, y.id = i → y = g) → s.vfHalted g.vf = true ∨ s.gangReady g = false → g.st = .placed →
      s.launchOf g.vf g.lid = some l → gone (.commit i) { g with st := .reserving, denied := true })

/-- R326, R327, R329, R341, R342, R371, R376, R382: a record whose cycle count passes WDOG_CYC writes WATCHDOG and then the reset into
the cause table, and the partition is reset: its cores take their reset values, its queues, gangs and streams are those of the
last fence, a core gated in WFE counting as one that runs (R354). A reset asked for between a soft stop and its edge waits for the
edge, and a stopped package resets nothing. A doorbell within the queue sets its tail, one beyond it only writes a cause; the
device reads an entry at the head and accepts its launch under the next id, or under the one it had before a replay, or writes the
cause that refuses it.

R381, R383: an event writes its entry at CT_WIDX, advances it and sends the MSI-X message of the partition's VEC, or of vector 0
for KIND 3; a full table loses it and counts it alone. The fields of an entry's first double are those of R381.

R345: a substitution of zeros, or a poisoned unit zeroed before a write, appends a record of SPACE, KIND, ENG, ADDR, VF, PART, CORE and
SEQ to the poison log of the partition and advances PLOG_WIDX; a full log drops it and counts it alone. -/
def Obligations.HostWork : Prop :=
  (∀ (q : BitVec 5) (v : BitVec 9) (n : BitVec 4) (tl : W32) (l : Launch) (s : State),
    let i := n.toNat
    let head := s.pfBits (vfReg v.toNat (0x100 + 8 * i)) 0 32
    let logged (t u : State) : Prop := t.core = u.core ∧ t.others = u.others ∧ t.tq = u.tq ∧ t.launches = u.launches ∧
      t.doorbells = u.doorbells
    let fresh (u : State) (k : Nat) : Prop := ∀ p, p < Config.cores → s.coreHolder p = some k →
      (u.coreAt p).s = Core.reset.s ∧ (u.coreAt p).pc = Core.reset.pc ∧ (u.coreAt p).run = .idle ∧ (u.coreAt p).work = none ∧
      (u.coreAt p).eng = Core.reset.eng ∧ u.byte (spadPa p 0) = 0
    let replayed (u : State) (k : BitVec 5) : Prop := (∀ y ∈ u.tq, y.part = k → y ∈ (s.fenceOf k.toNat).tq) ∧
      (∀ y ∈ u.gangs, y.part = k → y ∈ (s.fenceOf k.toNat).gangs) ∧
      ∀ y ∈ u.launches, y.part = k → y.unread = true ∧ y.begun = false ∧ ∃ z ∈ (s.fenceOf k.toNat).streams, z.lid = y.lid
    let caused (t : State) (u : State) : Prop := t.msix = u.msix ∧ ∀ o, o < 0x80000 → t.pfRaw o = u.pfRaw o
    (s.core.clocked = true → s.boot.power ≠ .stopped → s.pfBits (partReg s.part 0x10) 0 48 ≠ 0 →
      (s.pfBits (partReg s.part 0x10) 0 48 < s.core.wdog.toNat → ∃ t, exec .watchdog s = .next t ∧ fresh t s.part ∧ replayed t s.core.part ∧
        caused t ((s.causeEntry 0 0 s.vf.toNat s.part s.cur Cause.watchdog.code 0 (BitVec.ofNat 64 s.lid)).causeEntry 2 0 s.vf.toNat s.part s.cur
          Cause.watchdog.code 1 (BitVec.ofNat 64 s.lid))) ∧
      (s.core.wdog.toNat ≤ s.pfBits (partReg s.part 0x10) 0 48 → exec .watchdog s = .next s)) ∧
    (s.boot.power = .stopped → s.tst.soft = false → exec (.partitionResetRequest q) s = .next s) ∧
    (s.tst.soft = false → s.pfUp = true → s.boot.power ≠ .stopped → ∃ t, exec (.partitionResetRequest q) s = .next t ∧ fresh t q.toNat ∧
      replayed t q ∧ caused t (s.causeEntry 2 0 0 q.toNat 0xFF 0 1 0) ∧
      (∀ p, s.coreHolder p ≠ some q.toNat → { t.coreAt p with orbit := (s.coreAt p).orbit } = s.coreAt p)) ∧
    (s.pfUp = false → exec (.partitionResetRequest q) s = .next s) ∧
    (s.tst.soft = true → s.pfUp = true → ∃ t, exec (.partitionResetRequest q) s = .next t ∧ logged t s ∧ t.mem = s.mem ∧
      t.pfBits (partReg q.toNat 8) 1 1 = 1) ∧
    (i < s.pfBits (vfReg v.toNat 0x20) 0 5 →
      let size := 2 ^ s.pfBits (vfReg v.toNat (0x80 + 8 * i)) 59 5
      let pending := (tl.toNat + 2 ^ 32 - head) % 2 ^ 32
      (pending ≤ size → exec (.doorbell v n tl) s = .next { s with
        doorbells := (16 * v.toNat + i, tl) :: s.doorbells.filter (fun x => x.1 != 16 * v.toNat + i) }) ∧
      (size < pending → exec (.doorbell v n tl) s = .next (s.causeEntry 1 0 v.toNat (s.vfPart v.toNat) 0xFF 0 3 (BitVec.ofNat 64 (i * 2 ^ 48))) ∧
        logged (s.causeEntry 1 0 v.toNat (s.vfPart v.toNat) 0xFF 0 3 (BitVec.ofNat 64 (i * 2 ^ 48))) s)) ∧
    (s.pfBits (vfReg v.toNat 0x20) 0 5 ≤ i → exec (.doorbell v n tl) s = .next s) ∧
    (∀ b, s.vfEn v.toNat = true → s.vfStopping v.toNat = false → s.vfStopped v.toNat = false →
      i < s.pfBits (vfReg v.toNat 0x20) 0 5 → s.doorbells.find? (fun x => x.1 == 16 * v.toNat + i) = some (16 * v.toNat + i, tl) →
      head ≠ tl.toNat → s.live v < s.lquota v → s.boot.power = .ready →
      (∀ a, s.submitted v i head = .error a → (∀ x ∈ s.replays, x.1 ≠ v) → exec (.submissionQueueRead v n) s = .next
        ((s.setPf (vfReg v.toNat (0x100 + 8 * i)) (BitVec.ofNat 64 ((head + 1) % 2 ^ 32))).causeEntry 1 0 v.toNat (s.vfPart v.toNat) 0xFF 0 1
          (BitVec.ofNat 64 (i * 2 ^ 48 + a)))) ∧
      (s.submitted v i head = .ok (l, b) →
      let again := s.replays.find? (fun x => x.1 == v && x.2.1 == i && x.2.2.1 == head)
      let id := (s.pfRaw (vfReg v.toNat 0x50)).toNat % 2 ^ 32
      (∀ x, again = some x → s.replayWaits x = false) →
        ∃ t, exec (.submissionQueueRead v n) s = .next t ∧ t.pfBits (vfReg v.toNat (0x100 + 8 * i)) 0 32 = (head + 1) % 2 ^ 32 ∧
          t.launches = s.launches ++ [match again with
            | some x => { l with lid := x.2.2.2, replayed := true }
            | none => { l with lid := BitVec.ofNat 32 id }] ∧ t.core = s.core ∧ t.mem = s.mem))) ∧
  (∀ (kind eng vf part core code sub : Nat) (v : W64) (s : State),
    let w := s.pfBits 0x110 0 32
    let i := 0x10000 + 16 * (w % 4096)
    let room : Prop := (w + 2 ^ 32 - s.pfBits 0x118 0 32) % 2 ^ 32 < 4096
    let t := s.causeEntry kind eng vf part core code sub v
    let d := (causeWord kind eng vf part core code sub).toNat
    (t.core = s.core ∧ t.mem = s.mem ∧ t.tq = s.tq ∧ t.others = s.others) ∧
    (room → t.pfRaw i = causeWord kind eng vf part core code sub ∧ t.pfRaw (i + 8) = v ∧ t.pfBits 0x110 0 32 = (w + 1) % 2 ^ 32 ∧
      t.msix = s.msix ++ [if kind = 3 then 0 else s.pfBits (partReg part 0x40) 0 6] ∧
      ∀ o, o ≠ i → o ≠ i + 8 → o ≠ 0x110 → t.pfRaw o = s.pfRaw o) ∧
    (¬ room → t.pfBits 0x120 0 32 = (s.pfBits 0x120 0 32 + 1) % 2 ^ 32 ∧ t.msix = s.msix ∧ ∀ o, o ≠ 0x120 → t.pfRaw o = s.pfRaw o) ∧
    (kind < 4 → eng < 8 → vf < 512 → part < 32 → core < 256 → code < 2 ^ 16 → sub < 2 ^ 16 →
      d / 2 ^ 62 = kind ∧ d / 2 ^ 59 % 8 = eng ∧ d / 2 ^ 50 % 512 = vf ∧ d / 2 ^ 45 % 32 = part ∧ d / 2 ^ 37 % 256 = core ∧
      d / 2 ^ 32 % 32 = 0 ∧ d / 2 ^ 16 % 2 ^ 16 = code ∧ d % 2 ^ 16 = sub)) ∧
  (∀ (kind eng a ga : Nat) (seq : W32) (s : State), kind < 2 → eng < 8 → ga < 2 ^ 48 →
    let q := s.part
    let w := s.pfBits (partReg q 0x58) 0 32
    let n := 2 ^ min 20 (max 8 (s.pfBits (partReg q 0x50) 0 5))
    let full : Prop := (w + 2 ^ 32 - s.pfBits (partReg q 0x60) 0 32) % 2 ^ 32 = n
    let base := s.pfBits (partReg q 0x48) 0 48 + 16 * (w % n)
    let t := s.poisonLog kind eng a ga seq
    let d0 := (t.load8 base).toNat
    let d1 := (t.load8 (base + 8)).toNat
    (full → t.pfRaw (partReg q 0x68) = BitVec.ofNat 64 ((s.pfBits (partReg q 0x68) 0 32 + 1) % 2 ^ 32) ∧ t.mem = s.mem ∧
      ∀ o, o ≠ partReg q 0x68 → t.pfRaw o = s.pfRaw o) ∧
    (¬ full → d0 / 2 ^ 61 % 2 = kind ∧ d0 / 2 ^ 58 % 8 = eng ∧ d0 / 2 ^ 48 % 2 ^ 10 = 0 ∧
      (isSpad a = true → a < spadPa Config.cores 0 → s.logIn q ((a - 2 ^ 40) / 2 ^ 22) < 256 → d0 / 2 ^ 62 = 0 ∧
        d0 % 2 ^ 48 = (0xE00 + s.logIn q ((a - 2 ^ 40) / 2 ^ 22)) * 2 ^ 36 + a / 64 * 64 % 2 ^ 22) ∧
      (isHbm a = true → d0 / 2 ^ 62 = 1 ∧ d0 % 2 ^ 48 = ga) ∧ (isCold a = true → d0 / 2 ^ 62 = 2 ∧ d0 % 2 ^ 48 = ga) ∧
      d1 / 2 ^ 55 = s.vf.toNat ∧ d1 / 2 ^ 50 % 32 = q ∧ d1 / 2 ^ 42 % 256 = s.self % 256 ∧ d1 / 2 ^ 32 % 2 ^ 10 = 0 ∧
      d1 % 2 ^ 32 = seq.toNat ∧ t.pfBits (partReg q 0x58) 0 32 = (w + 1) % 2 ^ 32 ∧ s.SameBytes t base 16 ∧
      ∀ o, o ≠ partReg q 0x58 → t.pfRaw o = s.pfRaw o))

/-- R29, R38–R41, R346–R354: once its engines stand at entry boundaries a core that is being saved leaves its state in an image and
is idle; what its context has there stays, the entries that left counting as completed (log entry 121). What the body of an
image holds is the model's reading of R38's list (log entry 30), its HASH the SHA3 of log entry 103. SCAN_REQ freezes the tile
or answers a code; its chain data stream out (log entry 39 has the raw debug data), the image is sealed once every flit is
accepted, and the tile is idle again. RESTORE_REQ begins a restore or answers a code (which image a matching HASH stands for: log
entry 125); the chain data return with SFC = 0.

R354, R357–R360: a core that has been quiet for 65,536 core cycles is gated and wakes with its state. Where DBG_EN
lets JTAG act, a debug halt stops a core that debug reaches, logically or by a scan stop, and sets its event flag (R137); a halted
core that has come to rest is quiescent, and then its debug data are read and written by SPACE and INDEX; RESUME lets it go on.
Where it does not, JTAG reads 0 and changes nothing. Through JTAG a debugger also selects SPACE and INDEX, reads the state of the
halt and asks for it, as the registers of the core's block. -/
def Obligations.SaveRestore : Prop :=
  (∀ (a : Addr) (g : SavedImage) (d h : Bool) (s : State),
    let frozen : Prop := s.core.run = .scanStopped 1 ∧ s.scanImage s.cur = some g ∧ ∀ x ∈ s.images, x.id = g.id → x = g
    let keeps (t : State) : Prop := t.core.s = s.core.s ∧ t.core.pc = s.core.pc ∧ t.core.eng = s.core.eng ∧ t.core.banks = s.core.banks
    (s.core.run = .saving d h → s.core.quiesced = true → s.core.landed = true → s.core.part ∉ s.tst.donating → s.scrubq = [] →
      ∃ t x, exec .logicalSaveComplete s = .next t ∧ x ∈ t.images ∧ x.id = s.nextImage ∧ x.core = s.savedCore ∧
        x.spad = s.spadCells s.cur ∧ x.vf = s.vf ∧ x.halted = h ∧
        x.parked = s.core.parked ∧ x.hash = Sha3.digest (hashInput x.header 3 (s.imageBody s.cur s.savedCore)) ∧
        x.header.getD 8 0 = BitVec.ofNat 64 (s.imageBody s.cur s.savedCore).length ∧ t.core.run = .idle ∧ t.core.work = none ∧
        t.core.s = s.core.s ∧ t.core.pc = s.core.pc ∧ t.core.ctr = s.core.ctr ∧ t.core.resident = s.core.resident ∧ t.core.stored = true ∧
        (∀ e, (t.eng e).q = [] ∧ (t.eng e).completed = (s.eng e).issued ∧ (t.eng e).tmpl = (s.eng e).tmpl) ∧ (∀ r, s.core.work = some r → ∃ y rest, t.tq = y :: rest ∧ y.work = r ∧ y.img = some x.id)) ∧
    (let u : State := { s with core := { s.core with dbg := { s.core.dbg with reqImg := a } } }
     (u.scanRefusal a.toNat = 0 → ∃ t, exec (.scanReqGo a) s = .next t ∧ t.core.run = .scanStopped 1 ∧ t.core.dbg.busy = true ∧
        keeps t ∧ t.mem = s.mem ∧ ∃ x ∈ t.images, x.scan = true ∧ x.addr = a ∧ x.phys = s.cur ∧ x.written = false ∧
          x.core.s = s.core.s ∧ x.core.pc = s.core.pc) ∧
     (u.scanRefusal a.toNat ≠ 0 → exec (.scanReqGo a) s = .next { u with core := { u.core with
        dbg := { u.core.dbg with result := BitVec.ofNat 8 (u.scanRefusal a.toNat) } } })) ∧
    (frozen → g.written = false → s.scrubq = [] → ∃ t, exec .scanStreamComplete s = .next t ∧ t.core.run = .scanStopped 1 ∧
      t.core.s = Core.reset.s ∧ t.core.dbg = s.core.dbg ∧ (∃ x ∈ t.images, x.id = g.id ∧ x.written = true ∧ x.core = g.core)) ∧
    (frozen → g.written = true → g.sealed = false → s.scrubq = [] → (g.header.getD 3 0).toNat / 2 ^ 32 = s.core.accepted.toNat →
      ∃ t, exec .scanImageSeal s = .next t ∧ t.core.run = .idle ∧ t.core.dbg.busy = false ∧ t.core.dbg.result = 0 ∧
        (∃ x ∈ t.images, x.id = g.id ∧ x.sealed = true ∧ x.hash = Sha3.digest (hashInput x.header 5 (chainData x.id))) ∧
        t.core.s = s.core.s) ∧
    (s.core.dbg.busy = false →
      (s.restoreRefusal a.toNat = 0 → exec (.restoreReqGo a) s = .next { s with core := { s.core with
        dbg := { s.core.dbg with busy := true, resImg := a } } }) ∧
      (s.restoreRefusal a.toNat ≠ 0 → exec (.restoreReqGo a) s = .next { s with core := { s.core with
        dbg := { s.core.dbg with result := BitVec.ofNat 8 (s.restoreRefusal a.toNat) } } })) ∧
    (s.core.dbg.busy = true → exec (.restoreReqGo a) s = .next { s with core := { s.core with dbg := { s.core.dbg with result := 17 } } }) ∧
    (s.core.dbg.busy = true → s.core.isIdle = true → s.core.landed = true → s.scanSource s.core.dbg.resImg.toNat = some g →
      g.parked = [] → g.core.det = false → ∃ t, exec .scanRestoreComplete s = .next t ∧ t.core.s = g.core.s ∧ t.core.pc = g.core.pc ∧
        t.core.pl = g.core.pl ∧ t.core.banks = g.core.banks ∧ t.core.vx = g.core.vx ∧ t.core.mx = g.core.mx ∧ t.core.sfc = 0 ∧
        t.core.orbit = 0 ∧ t.core.dbg.busy = false ∧ t.core.resident = some g.vf) ∧
    (s.core.dbg.busy = true → s.core.landed = false ∨ s.core.isIdle = false → exec .scanRestoreComplete s = .next s)) ∧
  (∀ (b : Bool) (v : W64) (g : SavedImage) (s : State),
    let d := s.core.dbg
    let jtag : Prop := s.pfBits 0x150 32 1 = 1
    let sp := s.dbgSel.1
    let ix := s.dbgSel.2
    (s.quietNow = true → 65536 ≤ s.core.quiet →
      exec .powerGate s = .next { s with core := { s.core with run := .gated (s.core.run == .running) } }) ∧
    (s.core.run = .gated b →
      exec .coreWake s = .next { s with core := { s.core with run := if b then .running else .idle, quiet := 0 } }) ∧
    (jtag → s.haltable = true →
      (∃ t, exec .dbgHaltLogical s = .next t ∧ t.core.run = .halted ∧ t.core.qstop = true ∧ t.core.ev = true ∧ t.core.s = s.core.s ∧
        (s.core.outst = none → t.core.pc = s.core.pc) ∧ t.mem = s.mem) ∧
      (∃ t, exec .dbgHaltScan s = .next t ∧ t.core.run = .scanStopped 2 ∧ t.core.ev = true ∧ t.core.s = s.core.s ∧ t.core.pc = s.core.pc ∧
        t.core.eng = s.core.eng ∧ t.mem = s.mem)) ∧
    (s.haltable = false → exec .dbgHaltLogical s = .next s ∧ exec .dbgHaltScan s = .next s) ∧
    (s.core.run = .halted → s.core.quiesced = true → (∀ e ∈ s.core.sb.toList, e = none) → (∀ x ∈ s.core.cp.xfers, x.begun = false) →
      exec .quiescent s = .next { s with core := { s.core with dbg := { d with quiescent := true } } }) ∧
    (¬ jtag → exec .dbgHaltLogical s = .next s ∧ exec .dbgHaltScan s = .next s ∧ exec .dbgResume s = .next s ∧
      exec .dbgDataRead s = .next { s with hostRd := 0 } ∧ exec (.dbgDataWrite v) s = .next s ∧
      ∀ p r, r ∈ [0x20, 0x28, 0x30, 0x38] → s.jtag p r (some v) = s ∧ s.jtag p r none = { s with hostRd := 0 }) ∧
    (jtag → s.debugOn s.part = true →
      (s.jtag s.cur 0x30 (some v)).core.dbg.sel = v &&& 0xF0000000003FFFFF#64 ∧
      (s.jtag s.cur 0x30 none).hostRd = d.sel ∧ ((s.jtag s.cur 0x28 none).hostRd.toNat / 2 ^ 52 = d.code.toNat) ∧
      ((s.jtag s.cur 0x28 none).hostRd.toNat / 8 % 2 = 1 ↔ d.quiescent = true) ∧
      (v.toNat % 8 = 1 → s.jtag s.cur 0x20 (some v) = s.dbgHalt) ∧ (v.toNat % 8 = 4 → s.jtag s.cur 0x20 (some v) = s.dbgResume)) ∧
    (jtag → s.dbgLive = true →
      (sp = 0 → ix % 8 = 0 → exec .dbgDataRead s = .next { s with hostRd := s.load8 (spadPa s.cur ix) } ∧
        exec (.dbgDataWrite v) s = .next (s.store8 (spadPa s.cur ix) v)) ∧
      (∀ h : ix < 32, sp = 1 → exec .dbgDataRead s = .next { s with hostRd := s.rd ⟨ix, h⟩ } ∧
        exec (.dbgDataWrite v) s = .next (s.wr ⟨ix, h⟩ v)) ∧
      (sp = 3 → exec .dbgDataRead s = .next { s with hostRd := s.core.pc.setWidth 64 } ∧
        exec (.dbgDataWrite v) s = .next { s with core := { s.core with pc := BitVec.ofNat 48 (v.toNat / 4 * 4) } })) ∧
    (s.dbgLive = false → exec .dbgDataRead s = .next { s with hostRd := 0 } ∧ exec (.dbgDataWrite v) s = .next s) ∧
    (jtag → s.debugOn s.part = true → s.core.run = .halted → s.core.parked = [] →
      ∃ t, exec .dbgResume s = .next t ∧ t.core.run = (if s.core.work.isSome then .running else .idle) ∧
        t.core.s = s.core.s ∧ t.core.pc = s.core.pc ∧ t.core.dbg.quiescent = false ∧ t.mem = s.mem) ∧
    (jtag → s.debugOn s.part = true → s.core.run = .scanStopped 2 → s.scanImage s.cur = some g → g.parked = [] →
      ∃ t, exec .dbgResume s = .next t ∧ t.core.run = (if s.core.work.isSome then .running else .idle) ∧
        t.core.s = s.core.s ∧ t.core.pc = s.core.pc ∧ t.core.eng = s.core.eng ∧ (∀ x ∈ t.images, x.id ≠ g.id) ∧ t.mem = s.mem))

/-! ### The package (R361–R417) -/

/-- R360, R363–R372: COMMIT fixes the shadow's length and its withdrawal ends it; a soft-stop marker and then an edge marker are
emitted. At the soft stop a pending commit is decided, an invalid shadow's rule and entry kept for the edge, and every core
whose owner changes is marked and stopped; at the edge the next entry runs, every double of the active table becomes that of the
shadow where a fixed or due commit is good, and stays otherwise, ERR and ERRENT saying why; what a donation has passed is counted
and comes back, a partition reset that waited is made, and a core whose owner changes is cleaned, a running one after its scan image
(logs 32 and 33: DEDUCED), and given to its new partition once clean, halted again where it was halted; one that keeps its owner
goes on, unless an image is due to be restored to it. A phase buffer is the new owner's once no flit of the old one is under way in
it. -/
def Obligations.SlotTable : Prop :=
  ∀ (n : BitVec 6) (s : State),
    let x := s.tst
    let next := s.nextEntryAt s.commitNow
    let due (q : Nat) : Prop := s.pfBits (partReg q 8) 1 1 = 1
    (s.tst.commit = false → s.locked = true →
      exec (.tstCommit n) s = .next { s with tst := { x with commit := true, slen := n.toNat } }) ∧
    (s.tst.commit = true ∨ s.locked = false → exec (.tstCommit n) s = .next s) ∧
    (x.commit = true → x.fixed = false → exec .tstCommitCancel s = .next { s with tst := { x with commit := false, bad := none } }) ∧
    (x.commit = false ∨ x.fixed = true → exec .tstCommitCancel s = .next s) ∧
    (x.sent = 0 → x.soft = false → s.drain 0x28000 x.ent ≠ 0 → exec .softStopEmit s = .next { s with tst := { x with sent := 1 } }) ∧
    (x.sent = 0 → x.soft = true ∨ s.drain 0x28000 x.ent = 0 → exec .slotEdgeEmit s = .next { s with tst := { x with sent := 2 } }) ∧
    (s.boot.minimal = true → s.commitNow = false) ∧
    (x.sent = 1 → s.boot.power ≠ .stopped → ∃ t, exec .softStop s = .next t ∧ t.tst.sent = 0 ∧ t.tst.soft = true ∧ t.tst.fixed = s.commitNow ∧
      t.tst.ent = x.ent ∧ t.mem = s.mem ∧ t.pf = s.pf ∧
      t.tst.bad = (if s.lastEntry = true ∧ x.commit = true ∧ s.commitNow = false then some (s.shadowErr x.slen) else none) ∧
      (∀ p q, p < Config.cores → s.coreHolder p = some q → ownerOf (s.tstByte next.1 next.2 (16 + p)) ≠ some q →
        p ∈ t.tst.marks ∧ (t.coreAt p).s = (s.coreAt p).s ∧ ((s.coreAt p).outst = none → (t.coreAt p).pc = (s.coreAt p).pc) ∧
        ((s.coreAt p).run = .running → (t.coreAt p).run = .saving false false ∧ (t.coreAt p).qstop = true)) ∧
      (∀ p q, s.coreHolder p = some q → ownerOf (s.tstByte next.1 next.2 (16 + p)) = some q → t.coreAt p = s.coreAt p)) ∧
    (x.sent = 2 → s.boot.power ≠ .stopped → ∃ t, exec .slotEdge s = .next t ∧
      t.tst.sent = 0 ∧ t.tst.soft = false ∧ t.tst.marks = [] ∧ t.tst.passed = [] ∧ t.tst.donating = [] ∧ t.tst.bad = none ∧
      t.tst.ent = (if x.len ≤ x.ent + 1 then 0 else x.ent + 1) ∧ (x.len ≤ x.ent + 1 → t.tst.cycles = x.cycles + 1) ∧
      (let good := x.fixed || (!x.soft && s.commitNow)
       let bad := if x.soft = false ∧ s.lastEntry = true ∧ x.commit = true ∧ good = false then some (s.shadowErr x.slen) else x.bad
       (good = true → t.tst.len = x.slen ∧ t.tst.commit = false ∧ t.tst.err = 0 ∧
         ∀ o, 0x28000 ≤ o → o < 0x30000 → t.pfRaw o = s.pfRaw (o - 0x8000)) ∧
       (good = false → t.tst.len = x.len ∧ (∀ o, 0x28000 ≤ o → o < 0x30000 → t.pfRaw o = s.pfRaw o) ∧
         (∀ e n, bad = some (e, n) → t.tst.err = e ∧ t.tst.errent = n ∧ t.tst.commit = false) ∧
         (bad = none → t.tst.err = x.err ∧ t.tst.errent = x.errent ∧ t.tst.commit = x.commit))) ∧
      (∀ o, 0x20000 ≤ o → o < 0x28000 → t.pfRaw o = s.pfRaw o) ∧
      (∀ (q : BitVec 5) r, x.passed = [(q, r)] → t.pfRaw (partReg q.toNat 0x30) = s.pfRaw (partReg q.toNat 0x30) + BitVec.ofNat 64 (s.rc - r)) ∧
      (∀ p, p < Config.cores → s.coreHolder p ≠ t.coreHolder p → p ∈ t.tst.cleaning) ∧
      (∀ q, q < 32 → due q → t.pfBits (partReg q 8) 1 1 = 0 ∧ ∀ p, p < Config.cores → t.coreHolder p = some q →
        (t.coreAt p).s = Core.reset.s ∧ (t.coreAt p).work = none) ∧
      (∀ p q, p < Config.cores → s.coreHolder p = some q → (∀ k, k < 32 → ¬ due k) → (∀ g ∈ s.images, g.id < s.nextImage) →
        t.coreHolder p ≠ some q → (s.coreAt p).run = .running →
        (t.coreAt p).run = .scanStopped 0 ∧ ∃ g ∈ t.images, g.scan = true ∧ g.straggler = true ∧ g.phys = p ∧ g.core.s = (s.coreAt p).s) ∧
      (∀ p, p < Config.cores → s.coreHolder p = t.coreHolder p → (∀ q, s.coreHolder p = some q → ¬ due q) → s.dueImage p = none →
        s.haltedImage p = none → (t.coreAt p).s = (s.coreAt p).s ∧ (t.coreAt p).pc = (s.coreAt p).pc)) ∧
    (s.cur ∈ x.cleaning → s.cur < 100 → s.boot.power ≠ .stopped → s.scanImage s.cur = none →
      (∀ a b, s.core.run ≠ .saving a b) → ∃ t, exec .cleaningComplete s = .next t ∧ s.cur ∉ t.tst.cleaning ∧
      (s.haltedImage s.cur = none → t.core.run = .idle ∧ t.core.s = Core.reset.s ∧ t.core.resident = none ∧
        ∀ q, s.coreHolder s.cur = some q → t.core.part = BitVec.ofNat 5 q) ∧
      ∀ g, s.haltedImage s.cur = some g → g.parked = [] → g.core.cp.xfers = [] → t.core.run = .halted ∧ t.core.s = g.core.s ∧
        t.core.pc = g.core.pc ∧ t.core.resident = some g.vf) ∧
    (∃ t, exec .phaseDrainComplete s = .next t ∧ (∀ k ∈ t.tst.phases, k ∈ x.phases) ∧ t.core = s.core ∧ t.flits = s.flits ∧
      ∀ k ∈ x.phases, k ∈ t.tst.phases ↔ (∃ f ∈ s.flits, f.st = .inSlot ∧ f.phaseByte = some k) ∨ ∃ f ∈ s.linkq, f.phaseByte = some k)

/-- R373, R406, R407, R412–R417: power on and PF reset start the boot from stage 1, PF reset keeping HBM and cold store;
that device memory reads 0 after power on, power loss and the cut is the model's (logs 2 and 42). Each stage writes its code and
does its work: fuses, firmware slot, HBM, cold store, L2P table, clusters, features; the eighth makes the package ready; a
stage that times out, or a temperature of 110 °C, ends the start; LOCK fixes FACC and clears FAILCNT. Throttling starts and ends
at its thresholds, on boundaries of 10 rc, once in a ring cycle and with its cause, and every throttled 10 rc are counted (R373,
log 35); 125 °C cuts the power. GET_MEASUREMENTS answers the digest of what an index covers (R414, logs 37 and 103). -/
def Obligations.BootAndPower : Prop :=
  ∀ (b : BootIn) (t0 t1 : H16) (pwr : W32) (n : Nat) (s : State),
    let k := s.boot.stage
    let fresh (t : State) (p : Power) : Prop := t.boot.power = p ∧ t.boot.stage = State.reset.boot.stage ∧
      t.boot.failcnt = s.boot.failcnt ∧ t.core = Core.reset ∧ t.others = [] ∧ t.tq = [] ∧ t.launches = [] ∧ t.pf = [] ∧
      t.tst = State.reset.tst
    let on (d : Int) : Prop := d ≤ t0.toInt ∨ d ≤ t1.toInt
    let hot : Prop := on s.thrOn ∨ s.pfBits 0xD0 0 32 < pwr.toNat
    let cool : Prop := t0.toInt < s.thrOff ∧ t1.toInt < s.thrOff ∧ pwr.toNat ≤ s.pfBits 0xD0 0 32
    let failed (t : State) (reason : Nat) : Prop := t.boot.power = .failed ∧ t.boot.lreason = reason ∧ t.boot.lstage = k
    let does (f : State → Prop) : Prop := ∃ t, exec (.bootStage b) s = .next t ∧ f t
    let ends (reason detail : Nat) : Prop := does (fun t => t.boot.power = .failed ∧ t.boot.lreason = reason ∧ t.boot.lstage = k + 1 ∧
      t.boot.detail = BitVec.ofNat 32 detail)
    let goes (f : State → Prop) : Prop := does (fun t => t.boot.power = .booting ∧ f t)
    let cs := enabledCores s.boot.harvest0 s.boot.harvest1
    let table (t : State) (l : List Nat) : Prop := t.pfRaw 0x58 = BitVec.ofNat 64 l.length ∧
      ∀ n, n < 72 → t.pfBits (0x60 + n / 8 * 8) (8 * (n % 8)) 8 = l.getD n 0xFF
    let accepts (x : SlotInfo) : Prop := x.sigOk = true ∧ x.keyHashOk = true ∧ s.boot.svn ≤ x.svn
    (s.boot.power = .off → ∃ t, exec .powerOn s = .next t ∧ fresh t .booting ∧ ∀ a, a < 2 ^ 48 → t.byte a = 0) ∧
    (s.boot.power ≠ .off → exec .powerOn s = .next s ∧
      ∃ t, exec .pfReset s = .next t ∧ fresh t .booting ∧ ∀ a, a < 2 ^ 40 → t.byte a = s.byte a) ∧
    (∃ t, exec .powerLoss s = .next t ∧ fresh t .off ∧ ∀ a, a < 2 ^ 48 → t.byte a = 0) ∧
    (s.boot.power = .booting → k < 8 →
      (∃ t, exec (.bootStage b) s = .next t ∧ t.boot.stage = k + 1 ∧ t.mem = s.mem ∧ t.core = s.core) ∧
      (k = 7 → ∃ t, exec (.bootStage b) s = .next t ∧ t.boot.power = .ready ∧ t.pf = s.pf) ∧
      (k = 0 → (b.fusesOk = true → goes (fun t => t.boot.minimal = (s.boot.failcnt == 3) ∧
          t.boot.failcnt = min 3 (s.boot.failcnt + 1) ∧ t.boot.harvest0 = b.harvest0 ∧ t.boot.harvest1 = b.harvest1 ∧ t.boot.devser = b.devser ∧
          t.pfRaw 0x48 = b.harvest0.setWidth 64 ∧ t.pfRaw 0x50 = b.harvest1.setWidth 64)) ∧ (b.fusesOk = false → ends 4 0)) ∧
      (k = 1 → (accepts b.slotA → goes (fun t => t.boot.slot = false ∧ t.boot.slotSvn = b.slotA.svn)) ∧
        (¬ accepts b.slotA → accepts b.slotB → goes (fun t => t.boot.slot = true ∧ t.boot.slotSvn = b.slotB.svn)) ∧
        (¬ accepts b.slotA → ¬ accepts b.slotB → ends 1 0)) ∧
      (k = 2 → (b.hbmBad = none → goes (fun t => t.pf = s.pf)) ∧
        ∀ c, b.hbmBad = some c → (s.boot.minimal = true ∧ c ≠ 0 → goes (fun t => t.pf = s.pf)) ∧ (s.boot.minimal = false ∨ c = 0 → ends 2 c.toNat)) ∧
      (k = 3 → (b.lpddrBad = none → goes (fun t => t.pf = s.pf)) ∧ ∀ c, b.lpddrBad = some c → ends 3 c.toNat) ∧
      (k = 4 → (cs ≠ [] → goes (fun t => table t cs)) ∧ (cs = [] → ends 4 0)) ∧
      (k = 5 →
        (s.boot.minimal = false → (∀ p ∈ cs, p / 4 ∉ b.badClusters) → goes (fun t => t.pf = s.pf)) ∧
        (s.boot.minimal = false → ∀ c, c < 18 → c ∈ b.badClusters → (∃ p ∈ cs, p / 4 = c) → (∀ p ∈ cs, p / 4 < c → p / 4 ∉ b.badClusters) → ends 5 c) ∧
        (s.boot.minimal = true → ∀ c, c < 9 → c ∉ b.badClusters → (cs.filter (fun p => p / 4 == c)).length = 4 →
          (∀ d, d < c → (cs.filter (fun p => p / 4 == d)).length = 4 → d ∈ b.badClusters) → goes (fun t => table t (cs.filter (fun p => p / 4 == c))))) ∧
      (k = 6 → goes (fun t => t.pfRaw 0 = if s.boot.minimal then 0x10 else 0x3F))) ∧
    (s.boot.power = .booting → 1 ≤ k →
      (∃ t, exec .bootStageTimeout s = .next t ∧ failed t 6) ∧
      (on 1760 → ∃ t, exec (.bootTempSample t0 t1) s = .next t ∧ failed t 7) ∧
      (¬ on 1760 → ∃ t, exec (.bootTempSample t0 t1) s = .next t ∧ t.boot = s.boot ∧
        t.pfRaw 0xC0 = BitVec.ofNat 64 (t1.toNat * 2 ^ 16 + t0.toNat))) ∧
    (s.boot.power = .ready → s.locked = false → ∃ t, exec .featureLock s = .next t ∧ t.locked = true ∧ t.boot.failcnt = 0 ∧
      (∀ r, r ≠ 0x40 → t.pfRaw r = s.pfRaw r)) ∧
    (s.boot.power ≠ .ready → exec .featureLock s = .next s) ∧
    (s.thrAt = some s.rc ∨ s.rc % 10 ≠ 0 → ∃ t u, exec (.throttleOnset t0 t1 pwr) s = .next t ∧ exec (.throttleEnd t0 t1 pwr) s = .next u ∧
      t.pfRaw 0xE0 = s.pfRaw 0xE0 ∧ u.pfRaw 0xE0 = s.pfRaw 0xE0 ∧ t.msix = s.msix ∧ u.msix = s.msix) ∧
    (s.rc % 10 = 0 → s.thrAt ≠ some s.rc → s.throttled = false → hot → ∃ t, exec (.throttleOnset t0 t1 pwr) s = .next t ∧ t.throttled = true ∧
      t.pfBits 0xE0 0 32 = (s.pfBits 0xE0 0 32 + 1) % 2 ^ 32 ∧ t.pfRaw 0xC8 = pwr.setWidth 64 ∧ t.core = s.core ∧
      t.thrAt = some s.rc ∧ t.msix = (s.causeEntry 3 0 0 0 0xFF Cause.throttle.code 0 1).msix) ∧
    (s.rc % 10 = 0 → s.thrAt ≠ some s.rc → s.throttled = true → cool → ∃ t, exec (.throttleEnd t0 t1 pwr) s = .next t ∧ t.throttled = false ∧
      t.core = s.core ∧ t.thrAt = some s.rc ∧ t.msix = (s.causeEntry 3 0 0 0 0xFF Cause.throttle.code 0 0).msix) ∧
    (s.throttled = true → (s.rc + 1) % 10 = 0 → s.rcTick.pfRaw 0xE8 = s.pfRaw 0xE8 + 10 ∧
      ∀ q, q < 32 → 0 < s.ncore q → s.rcTick.pfRaw (partReg q 0x28) = s.pfRaw (partReg q 0x28) + BitVec.ofNat 64 (3 * s.ncore q)) ∧
    (s.throttled = false ∨ (s.rc + 1) % 10 ≠ 0 → s.rcTick.pf = s.pf) ∧
    (on 2000 → ∃ t, exec (.thermalCut t0 t1) s = .next t ∧ t.boot.power = .off ∧ t.boot.lreason = 7 ∧ ∀ a, a < 2 ^ 48 → t.byte a = 0) ∧
    (¬ on 2000 → ∃ t, exec (.thermalCut t0 t1) s = .next t ∧ t.boot = s.boot) ∧
    (s.pfUp = true → (1 ≤ n ∧ n ≤ 4) ∨ (16 ≤ n ∧ n < 528) →
      exec (.spdmRequest n) s = .next { s with spdm := s.spdm ++ [Sha3.digest (s.measured n)] }) ∧
    (s.pfUp = true → n = 0 ∨ (4 < n ∧ n < 16) ∨ 528 ≤ n → exec (.spdmRequest n) s = .next { s with spdm := s.spdm ++ [[]] }) ∧
    (s.pfUp = false → exec (.spdmRequest n) s = .next s)

/-- R377–R380, R382, R384, R385, R399, R400, R406: STOP, a function-level reset and a TDI error mark the VF stopping and begin to
save every core of it; once no core holds it the stop completes: the final report, the export block (its records, then its
launches) and the cause with SEQ. RESUME imports the block and lets it go on, and is refused for a VF that is not stopped;
DIRTY_SWAP makes the other bitmap current; the scrub queue takes a frame, zeroes it and counts it. A TDISP message that fits
the state changes it, and one that asks for the report gets it: the message codes are the model's (log entry 37), as is the
digest's layout (log entry 103). A package without power or after a failed start takes none of the host's requests (R407). -/
def Obligations.VirtualFunctions : Prop :=
  ∀ (v : BitVec 9) (m : BitVec 2) (w : W64) (r : List W64) (s : State),
    let ctl := vfReg v.toNat 8
    let dirty := vfReg v.toNat 0x68
    let e := s.pfBits (vfReg v.toNat 0x70) 0 48
    let idle : Prop := s.vfStopping v.toNat = false ∧ s.vfStopped v.toNat = false
    let stops (i : Instr) : Prop := idle → ∃ t, exec i s = .next t ∧ t.vfStopping v.toNat = true ∧ t.mem = s.mem ∧ t.tq = s.tq ∧
      ∀ p, p < Config.cores → (s.coreAt p).resident = some v → (s.coreAt p).run = .running →
        (t.coreAt p).run = .saving false false ∧ (t.coreAt p).qstop = true ∧ (t.coreAt p).s = (s.coreAt p).s
    let a := devPa (w.toNat / 2 ^ 63) (w.toNat % 2 ^ 21) 0
    let host : List Instr := [.vfStop v, .vfFlr v, .vfResume v, .dirtySwap v, .scrubPush w, .tdispRequest v m]
    (s.pfUp = false → ∀ i ∈ host, exec i s = .next s) ∧ stops (.tdiError v) ∧ (s.pfUp = true → stops (.vfStop v) ∧ stops (.vfFlr v)) ∧
    (∃ t, exec (.tdiError v) s = .next t ∧ t.tdiOf v = .error) ∧
    (s.vfStopped v.toNat = true → exec (.vfStop v) s = .next s) ∧
    (s.vfStopping v.toNat = true → s.vfCores v = [] → (∀ i ∈ s.images, ¬(i.scan = true ∧ i.vf = v)) → s.scrubq = [] →
      ∃ t, exec (.vfStopComplete v) s = .next t ∧ t.vfStopping v.toNat = false ∧ t.vfStopped v.toNat = true ∧ t.core = s.core ∧
        t.tq = s.tq ∧ t.launches = s.launches ∧
        t.pfBits dirty 32 32 = (if s.pfBits dirty 0 1 = 1 then (s.pfBits dirty 32 32 + 1) % 2 ^ 32 else s.pfBits dirty 32 32) ∧
        (let u := s.causeEntry 2 0 v.toNat (s.vfPart v.toNat) 0xFF 0 2 (BitVec.ofNat 64 (t.pfBits dirty 32 32))
         t.msix = u.msix ∧ ∀ o, o < 0x20000 → t.pfRaw o = u.pfRaw o) ∧
        (e = 0 → t.mem = s.mem) ∧
        (e ≠ 0 → let rs := s.exportRecs v
          let ls := s.launches.filter (fun l => l.vf == v)
          t.load8 e = BitVec.ofNat 64 (rs.length * 2 ^ 32 + ls.length) ∧ t.load8 (e + 8) = BitVec.ofNat 64 (s.pfBits (vfReg v.toNat 0x50) 0 32) ∧
          (∀ k j x, rs[k]? = some x → j < 8 → t.load8 (e + 64 + 64 * k + 8 * j) = (s.exportRec x).getD j 0) ∧
          ∀ k j x, ls[k]? = some x → j < 8 → t.load8 (e + 64 + 64 * (rs.length + k) + 8 * j) = (exportLaunch x).getD j 0)) ∧
    (s.pfUp = true → s.vfStopped v.toNat = false → ∃ t, exec (.vfResume v) s = .next t ∧ t.pfBits ctl 56 8 = 2 ∧ t.core = s.core ∧ t.tq = s.tq) ∧
    (s.pfUp = true → s.vfStopped v.toNat = true → e = 0 → ∃ t, exec (.vfResume v) s = .next t ∧
      t.vfStopped v.toNat = false ∧ t.pfBits ctl 56 8 = 0 ∧ t.core = s.core ∧ t.tq = s.tq ∧ t.mem = s.mem) ∧
    (s.pfUp = true → s.vfStopped v.toNat = true → e ≠ 0 →
      let nr := (s.load8 e).toNat / 2 ^ 32
      let nl := (s.load8 e).toNat % 2 ^ 32
      let d (k j : Nat) : W64 := s.load8 (e + 64 + 64 * k + 8 * j)
      ∃ t, exec (.vfResume v) s = .next t ∧ t.vfStopped v.toNat = false ∧ t.pfBits ctl 56 8 = 0 ∧
        t.pfBits (vfReg v.toNat 0x50) 0 32 = (s.load8 (e + 8)).toNat % 2 ^ 32 ∧ t.core = s.core ∧
        (nl = 0 → (∀ k, k < nr → (d k 0).toNat.testBit 61 = false) → t.launches = s.launches.filter (fun l => l.vf != v) ∧
          t.tq = s.tq.filter (fun x => x.work.vf != v) ++ (List.range nr).map (fun k =>
            ⟨BitVec.ofNat 5 (s.vfPart v.toNat), (d k 0).toNat / 2 ^ 62, ⟨d k 2, d k 3, d k 4, d k 5, v, BitVec.ofNat 32 (d k 0).toNat,
              (d k 0).toNat / 2 ^ 62, 0, false⟩, 0, none, none, s.nextSlot + k⟩)) ∧
        (nr = 0 → nl = 1 → ∀ l, s.launchOf v (BitVec.ofNat 32 (d 0 1).toNat) = some l →
          t.tq = s.tq.filter (fun x => x.work.vf != v) ∧
          ∃ x, t.launches = s.launches.filter (fun l => l.vf != v) ++ [x] ∧ x.lid = BitVec.ofNat 32 (d 0 1).toNat ∧ x.nextIdx = (d 0 2).toNat ∧
            x.triggered.length = (d 0 3).toNat / 2 ^ 32 ∧ x.retired.length = (d 0 3).toNat % 2 ^ 32)) ∧
    (s.pfUp = true → ∃ t, exec (.dirtySwap v) s = .next t ∧ t.mem = s.mem ∧ t.core = s.core ∧
      t.pfBits (vfReg v.toNat 0x68) 32 32 = (s.pfBits (vfReg v.toNat 0x68) 32 32 + 1) % 2 ^ 32 ∧
      ∀ o, o ≠ vfReg v.toNat 0x68 → t.pfRaw o = s.pfRaw o) ∧
    (s.pfUp = true → s.scrubq.length < 256 → ∃ t x, exec (.scrubPush w) s = .next t ∧ t.scrubq = s.scrubq ++ [x] ∧ x.toNat % 2 ^ 21 = w.toNat % 2 ^ 21 ∧
      x.toNat / 2 ^ 63 = w.toNat / 2 ^ 63 ∧ t.mem = s.mem) ∧
    (s.pfUp = true → 256 ≤ s.scrubq.length → ∃ t, exec (.scrubPush w) s = .next t ∧ t.scrubq = s.scrubq ∧ t.pfBits 0x130 63 1 = 1) ∧
    (s.scrubq = w :: r → ∃ t, exec .scrubComplete s = .next t ∧ t.scrubq = r ∧
      (∀ b, a ≤ b → b < a + 2 ^ 18 → t.byte b = 0 ∧ (a % 64 = 0 → t.poisoned b = false)) ∧
      (∀ b, b < a ∨ a + 2 ^ 18 ≤ b → t.byte b = s.byte b) ∧ t.pfRaw 0x138 = s.pfRaw 0x138 + 1) ∧
    (s.pfUp = true → ∃ t, exec (.tdispRequest v m) s = .next t ∧ t.mem = s.mem ∧ t.core = s.core ∧ (∀ u, u ≠ v → t.tdiOf u = s.tdiOf u) ∧
      (m = 0 → s.tdiOf v = .unlocked → t.tdiOf v = .locked) ∧ (m = 1 → s.tdiOf v = .locked → t.tdiOf v = .run) ∧
      (m = 2 → t.tdiOf v = .unlocked) ∧
      (m = 3 → t = { s with spdm := s.spdm ++ [Sha3.digest (s.measured (16 + v.toNat))] }) ∧ ((m = 0 ∧ s.tdiOf v ≠ .unlocked) ∨ (m = 1 ∧ s.tdiOf v ≠ .locked) → t = s))

/-- R382, R393–R397: training brings a port up exactly when its partner reports the same ring and the neighbouring position, and takes
one down that is up when it does not. A good flit advances the sequence, a bad or missing one, or one for which there is no room
(log entry 115), asks for a replay, the 64th in a row takes the port down, as PORT_DOWN does, which ends the collectives with
COPY_INTEGRITY and writes EVENT 3; a replay begins at one of the last 512 flits.

R382, R395, R397, R436: a lane whose errors pass ERRTH is to move to the lowest spare that is unused and not retired, else the
direction narrows; an unused spare that fails is retired with EVENT 5. The transmitter announces a change 32 transmissions before
it takes effect, each flit sent or received counting one, or two where the direction is narrow; how long an announcement takes to
come is a free value (log entry 50). At the switch the lane is retired and the receiver writes EVENT 1 or 2 (LANE_SPARE). RETRAIN
tests the lanes again and writes EVENT 4; which fail is a free value, the failing data lanes taking the spares that work (log
entry 116).

R401–R404: loading a table reads 64 entries, keeps an entry that is not acceptable as not valid and reports the first in ERR and
its number. A received frame that an entry matches is put with its header at the ring's next slot, WIDX rises and FRAMES counts it; a full
ring only counts a drop, a frame that no entry matches changes nothing; whether filtering or elimination takes a frame is the event's
word (log entry 48). A transmit slot that is written leaves, with the address, tag and class of
its entry, by every port of its stream, and RIDX rises. -/
def Obligations.LinkPorts : Prop :=
  (∀ (p ok : Bool) (pos n drained : Nat) (q : H16) (s : State),
    let x := s.port p
    let down (t : State) : Prop := (t.port p).up = false ∧ (t.port p).held = 0 ∧ t.port (!p) = s.port (!p)
    let only (t : State) (y : LPort) : Prop := t.port p = y ∧ t.port (!p) = s.port (!p) ∧ t.core = s.core ∧ t.mem = s.mem
    let fits : Prop := s.portEnabled p = true ∧ n = s.npkg ∧ pos = s.neighbour p
    let i := exec (.linkFlitReceive p ok q drained) s
    let d := (q - x.rxSeq).toNat
    let held := x.held - drained
    let kept : Prop := 1 ≤ (x.txTop - q).toNat ∧ (x.txTop - q).toNat ≤ 512
    let quiet : Prop := x.moves = [] ∧ x.txMoves = []
    (fits → ∃ t, exec (.lorcyTraining p pos n) s = .next t ∧ only t { x with
      up := true, rxSeq := 0, txSeq := 0, txTop := 0, replays := 0, txReplays := 0, held := 0, stopped := false }) ∧
    (¬ fits → x.up = true → ∃ t, exec (.lorcyTraining p pos n) s = .next t ∧ down t) ∧
    (¬ fits → x.up = false → exec (.lorcyTraining p pos n) s = .next s) ∧
    (x.up = false → i = .next s ∧ exec (.replayRequest p q) s = .next s ∧ exec (.portDown p) s = .next s) ∧
    (x.up = true →
      (ok = true → d = 0 → held < 256 → ∃ t, i = .next t ∧ (t.port p).rxSeq = x.rxSeq + 1 ∧ (t.port p).replays = 0 ∧
        (t.port p).held = held + 1 ∧ (192 ≤ held + 1 → (t.port p).stopped = true) ∧
        (held + 1 ≤ 128 → (t.port p).stopped = false)) ∧
      (ok = false ∨ (d = 0 ∧ 256 ≤ held) ∨ (d ≠ 0 ∧ d < 2 ^ 15) →
        (x.replays + 1 < 64 → ∃ t, i = .next t ∧ (t.port p).rxSeq = x.rxSeq ∧ (t.port p).replays = x.replays + 1) ∧
        (64 ≤ x.replays + 1 → ∃ t, i = .next t ∧ down t)) ∧
      (kept → x.lastReplay ≠ q → quiet → ∃ t, exec (.replayRequest p q) s = .next t ∧
        only t { x with txSeq := q, lastReplay := q, txReplays := 1 }) ∧
      (kept → x.lastReplay = q → 63 ≤ x.txReplays → ∃ t, exec (.replayRequest p q) s = .next t ∧ down t) ∧
      (¬ kept → exec (.replayRequest p q) s = .next (s.receives p)) ∧
      ∃ t, exec (.portDown p) s = .next t ∧ down t ∧ (t.port p).moves = [] ∧ (t.port p).txMoves = [] ∧
        t.msix = (s.laneSpare 3 p 0 0x1F).msix ∧ (∀ o, t.pfRaw o = (s.laneSpare 3 p 0 0x1F).pfRaw o) ∧
        (s.cur < Config.cores → t.core.cp.colls = s.core.cp.colls.map (fun c => if c.written then c
          else { c with written := true, pend := some ⟨.copyIntegrity, c.collid.setWidth 64⟩ })))) ∧
  (∀ (p : Bool) (n : Nat) (lane : BitVec 5) (errs : W32) (y : LaneMove) (r : List LaneMove) (s : State),
    let x := s.port p
    let l := lane.toNat
    let only (t : State) (y : LPort) : Prop := t.port p = y ∧ t.port (!p) = s.port (!p) ∧ t.core = s.core ∧ t.mem = s.mem
    let wrote (t : State) (event lane spare : Nat) : Prop :=
      let u := s.causeEntry 3 0 0 0 0xFF Cause.laneSpare.code 0 (BitVec.ofNat 64 (event * 2 ^ 24 + b2n p * 2 ^ 16 + lane * 2 ^ 8 + spare))
      t.msix = u.msix ∧ ∀ o, t.pfRaw o = u.pfRaw o
    let w := if x.txNarrow then 2 * n else n
    let w1 := if x.narrow then 2 else 1
    let fails (l : Nat) : Prop := x.errth.toNat < errs.toNat ∧ x.bad.toNat.testBit l = false ∧ ∀ m ∈ x.moves, m.failing ≠ l
    let plans (carried : Nat) (k : Option (BitVec 5)) : Prop :=
      8 ≤ ({ x with moves := x.moves ++ [⟨l, BitVec.ofNat 5 carried, k, 0⟩] } : LPort).working → ∃ t c, exec (.laneErrorWindow p lane errs) s = .next t ∧
        (t.port p).moves = x.moves ++ [⟨l, BitVec.ofNat 5 carried, k, c⟩] ∧ 32 ≤ c ∧ (∀ m ∈ x.moves, m.left < c) ∧
        (t.port p).bad = x.bad ∧ t.port (!p) = s.port (!p)
    let moved (carried : Nat) : Prop :=
      (x.narrows = false → x.spareFree 16 = true → plans carried (some 16)) ∧
      (x.narrows = false → x.spareFree 16 = false → x.spareFree 17 = true → plans carried (some 17)) ∧
      (x.narrows = true ∨ (x.spareFree 16 = false ∧ x.spareFree 17 = false) → plans carried none)
    let asked (failing carried : Nat) : Prop :=
      let names (k : Option (BitVec 5)) : Prop := ∃ t, exec (.spareReq p lane) s = .next t ∧
        only t { x with txMoves := [⟨failing, BitVec.ofNat 5 carried, k, 31⟩] }
      (x.txNarrow = true → names none) ∧ (x.txNarrow = false → x.txSpareFree 16 = true → names (some 16)) ∧
      (x.txNarrow = false → x.txSpareFree 16 = false → x.txSpareFree 17 = true → names (some 17)) ∧
      (x.txSpareFree 16 = false → x.txSpareFree 17 = false → names none)
    (x.bad.toNat.testBit l = true ∨ 18 ≤ l → exec (.laneErrorWindow p lane errs) s = .next s) ∧
    (l < 18 → errs.toNat ≤ x.errth.toNat → x.bad.toNat.testBit l = false → ∃ t, exec (.laneErrorWindow p lane errs) s = .next t ∧
      (t.port p).bad = x.bad ∧ (t.port p).moves = x.moves ∧
      (t.port p).errs.toList.getD l 0 = x.errs.toList.getD l 0 + errs) ∧
    (l < 16 → fails l → moved l) ∧
    (l = 16 → fails l → x.sp16.toNat ≠ 0x1F → moved x.sp16.toNat) ∧ (l = 17 → fails l → x.sp17.toNat ≠ 0x1F → moved x.sp17.toNat) ∧
    ((l = 16 ∧ x.sp16.toNat = 0x1F) ∨ (l = 17 ∧ x.sp17.toNat = 0x1F) → fails l → x.moves = [] →
      ∃ t, exec (.laneErrorWindow p lane errs) s = .next t ∧ (t.port p).bad = x.bad ||| BitVec.ofNat 18 (2 ^ l) ∧ (t.port p).moves = [] ∧
        wrote t 5 l 0x1F) ∧
    (x.up = true → x.moves = [] → x.txMoves = [] →
      (l < 16 → x.txSp16 ≠ lane → x.txSp17 ≠ lane → asked l l) ∧ (l < 16 → x.txSp16 = lane → asked 16 l) ∧
      (l < 16 → x.txSp16 ≠ lane → x.txSp17 = lane → asked 17 l)) ∧
    ((∀ m ∈ x.txMoves, w ≤ m.left) → only (s.sends p n) { x with txMoves := x.txMoves.map (fun m => { m with left := m.left - w }) }) ∧
    (x.txMoves = [y] → y.left < w → ((s.sends p n).port p).txMoves = [] ∧ ((s.sends p n).port p).txBad = x.txBad ||| BitVec.ofNat 18 (2 ^ y.failing) ∧
      (y.spare = some 16 → ((s.sends p n).port p).txSp16 = y.lane) ∧ (y.spare = some 17 → ((s.sends p n).port p).txSp17 = y.lane) ∧
      (y.spare = none → ((s.sends p n).port p).txNarrow = true)) ∧
    ((∀ m ∈ x.moves, w1 ≤ m.left) → only (s.receives p) { x with moves := x.moves.map (fun m => { m with left := m.left - w1 }) }) ∧
    (x.moves = [y] → y.left < w1 → s.receives p = (s.updPort p (fun x => { x with moves := [] })).rxSwitch p y) ∧
    (x.moves = y :: r → y.left = 0 → ∃ t, exec (.laneMapSwitch p) s = .next t ∧ t.port (!p) = s.port (!p) ∧ t.core = s.core ∧
      (∀ k, y.spare = some k → wrote t 1 y.lane.toNat k.toNat) ∧ (y.spare = none → wrote t 2 y.lane.toNat 0x1F) ∧
      (y.spare = some 16 → t.port p = { x.retireLane y.failing with sp16 := y.lane, moves := r }) ∧
      (y.spare = some 17 → t.port p = { x.retireLane y.failing with sp17 := y.lane, moves := r }) ∧
      (y.spare = none → t.port p = { x.retireLane y.failing with narrow := true, moves := r })) ∧
    (x.txMoves = y :: r → y.left = 0 → x.moves = [] → ∃ t, exec (.laneMapSwitch p) s = .next t ∧
      (y.spare = some 16 → only t { x.txRetireLane y.failing with txSp16 := y.lane, txMoves := r }) ∧
      (y.spare = some 17 → only t { x.txRetireLane y.failing with txSp17 := y.lane, txMoves := r }) ∧
      (y.spare = none → only t { x.txRetireLane y.failing with txNarrow := true, txMoves := r })) ∧
    ((∀ m ∈ x.moves.head?, m.left ≠ 0) → (∀ m ∈ x.txMoves.head?, m.left ≠ 0) → exec (.laneMapSwitch p) s = .next s) ∧
    (s.pfUp = true → ∃ t, exec (.retrain p) s = .next t ∧ (t.port p).retrains = x.retrains + 1 ∧ t.port (!p) = s.port (!p) ∧
      (t.port p).moves = [] ∧ (t.port p).txMoves = [] ∧
      (let b := (t.port p).bad.toNat
       let lost := (List.range 16).filter (fun k => b.testBit k)
       let free := [16, 17].filter (fun k => !b.testBit k)
       ((t.port p).narrow = true ↔ free.length < lost.length) ∧
       (lost = [] → (t.port p).sp16.toNat = 0x1F ∧ (t.port p).sp17.toNat = 0x1F) ∧
       (lost ≠ [] → b.testBit 16 = false → (t.port p).sp16.toNat = lost.headD 0) ∧
       (b.testBit 16 = true → lost ≠ [] → b.testBit 17 = false → (t.port p).sp17.toNat = lost.headD 0)) ∧
      (x.up = false ∨ (t.port p).up = true → wrote t 4 0 0x1F)) ∧
    (s.pfUp = false → exec (.retrain p) s = .next s)) ∧
  (∀ (port : BitVec 2) (addr : Addr) (f : EthFrame) (e : Nat) (k : BitVec 6) (s u : State) (w r : Nat) (l wl : Loc),
    let p := port.toNat
    let d (e j : Nat) : Nat := s.ethDouble p e j
    let v (e : Nat) : BitVec 9 := BitVec.ofNat 9 (bits (d e 0) 49 9)
    let size (e : Nat) : Nat := 2 ^ bits (d e 4) 60 4
    let count (e : Nat) : Nat := bits (d e 4) 0 16
    let widx (e : Nat) : Nat := bits (d e 2) 0 48
    let ridx (e : Nat) : Nat := bits (d e 3) 0 48
    let slot (e i : Nat) : Nat := bits (d e 1) 0 48 + i % count e * size e
    let ctr (e j : Nat) : Nat := s.pfBits (0x500 + 8 * p) 0 48 + 64 * e + 8 * j
    let apart (a n b m : Nat) : Prop := a + n ≤ b ∨ b + m ≤ a
    let frame : List Byte := leBytes 8 ((if bits (d e 4) 48 4 = 0 then 0 else f.seq.toNat) * 2 ^ 48 + p * 2 ^ 40 + f.payload.length) ++ leBytes 8 f.ts.toNat ++ f.payload
    let n := frame.length
    let counted (t : State) (j : Nat) : Prop := t.load8 (ctr e j) = s.load8 (ctr e j) + 1
    let fits : Prop := s.scrubq = [] ∧ s.ethMatch p f = some e ∧ (f.filtered = false ∨ bits (d e 4) 52 8 = 0xFF) ∧
      (f.dup = false ∨ bits (d e 4) 48 4 = 0) ∧ f.fcsOk = true ∧ n ≤ size e ∧
      (bit (d e 4) 16 = false ∨ f.payload.length % 24 = 0)
    (s.pfUp = false → exec (.ethTabLoad port addr) s = .next s) ∧
    (s.pfUp = true → ∃ t, exec (.ethTabLoad port addr) s = .next t ∧ t.mem = s.mem ∧ t.core = s.core ∧ t.pfBits (0x500 + 8 * p) 0 48 = addr.toNat ∧
      (∀ i j, i < 64 → j < 8 → let x := (List.range 8).map (fun c => s.load8 (addr.toNat + 64 * i + 8 * c))
        bit (x.getD 0 0).toNat 63 = false ∨ s.ethEntryOk p x = true →
        t.ethDouble p i j = (s.load8 (addr.toNat + 64 * i + 8 * j)).toNat) ∧
      (∀ i, i < 64 → let x := (List.range 8).map (fun c => s.load8 (addr.toNat + 64 * i + 8 * c))
        bit (x.getD 0 0).toNat 63 = true → s.ethEntryOk p x = false → bit (t.ethDouble p i 0) 63 = false) ∧
      (let wrong (i : Nat) : Prop := let x := (List.range 8).map (fun c => s.load8 (addr.toNat + 64 * i + 8 * c))
         bit (x.getD 0 0).toNat 63 = true ∧ s.ethEntryOk p x = false
       (∀ i, i < 64 → wrong i → (∀ j, j < i → ¬ wrong j) → t.pfBits (0x500 + 8 * p) 62 1 = 1 ∧ t.pfBits (0x500 + 8 * p) 56 6 = i) ∧
       ((∀ i, i < 64 → ¬ wrong i) → t.pfBits (0x500 + 8 * p) 62 1 = 0 ∧ t.pfBits (0x500 + 8 * p) 56 6 = 0))) ∧
    (s.ethMatch p f = none → exec (.ethRxFrame port f) s = .next s) ∧
    (fits → ∀ a b, s.portRead (v e) (widx e) 4 = .ok (w, a) → a.portRead (v e) (ridx e) 4 = .ok (r, b) →
      ((w + 2 ^ 32 - r) % 2 ^ 32 = count e → b.mem = s.mem → ∃ t, exec (.ethRxFrame port f) s = .next t ∧ counted t 5 ∧
        t.SameBytes s (ctr e 5) 8) ∧
      ((w + 2 ^ 32 - r) % 2 ^ 32 ≠ count e → b.mem = s.mem → b.poison = [] → b.portPlace (v e) (slot e w) n = .ok l →
        b.portPlace (v e) (widx e) 4 = .ok wl → b.pfBits (vfReg (v e).toNat 0x68) 0 1 = 0 → apart l.pa n wl.pa 4 → apart l.pa n (ctr e 6) 8 →
        apart wl.pa 4 (ctr e 6) 8 → ∃ t, exec (.ethRxFrame port f) s = .next t ∧ t.bytes l.pa n = frame ∧
          t.bytes wl.pa 4 = leBytes 4 ((w + 1) % 2 ^ 32) ∧ counted t 6 ∧ t.core = s.core)) ∧
    (s.scrubq = [] → bit (d k.toNat 0) 63 = true → bit (d k.toNat 0) 62 = true → ∀ a b c x g y,
      s.portRead (v k.toNat) (widx k.toNat) 4 = .ok (w, a) → a.portRead (v k.toNat) (ridx k.toNat) 4 = .ok (r, b) →
      a.portPlace (v k.toNat) (ridx k.toNat) 4 = .ok wl → w ≠ r → 1 ≤ count k.toNat →
      b.portRead (v k.toNat) (slot k.toNat r) 16 = .ok (x, c) → x % 2 ^ 16 + 16 ≤ size k.toNat →
      c.portRead (v k.toNat) (slot k.toNat r + 16) (max 1 (x % 2 ^ 16)) = .ok (y, g) → g = u →
      ∃ t, exec (.ethTxSlot port k) s = .next t ∧ t.ethTx.length = u.ethTx.length + (txPorts p (bits (d k.toNat 4) 48 4)).length ∧
        t.ethTx[u.ethTx.length]? = some (ethOut (d k.toNat 0) (d k.toNat 1) (leBytes (x % 2 ^ 16) y) p) ∧
        (u.pfBits (vfReg (v k.toNat).toNat 0x68) 0 1 = 0 → apart wl.pa 4 (ctr k.toNat 6) 8 → u.poison = [] → t.bytes wl.pa 4 = leBytes 4 ((r + 1) % 2 ^ 32))) ∧
    (bit (d k.toNat 0) 63 = false ∨ bit (d k.toNat 0) 62 = false → exec (.ethTxSlot port k) s = .next s))

/-- R357, R361, R366, R374, R375, R383, R397, R409, R412, R415: a host write of a PF register stores the fields that the host may
write, ignores one of device code, acts where its register acts, and changes nothing where the package is off, the offset is not
aligned or the register is read-only. Which registers a host write reaches is the model's reading of the access columns (log entry
45, DEDUCED). -/
def Obligations.RegisterWrites : Prop :=
  ∀ (off : BitVec 24) (v : W64) (q f : Nat) (s : State),
    let o := off.toNat
    let i := exec (.registerWrite off v) s
    let field (lo n : Nat) : Prop := ∃ t, i = .next t ∧ t.pfBits o lo n = bits v.toNat lo n ∧ (∀ r, r ≠ o → t.pfRaw r = s.pfRaw r) ∧
      t.core = s.core ∧ t.mem = s.mem
    let alive : Prop := s.boot.power ≠ .off ∧ s.boot.power ≠ .failed
    (o % 8 ≠ 0 ∨ s.boot.power = .off ∨ s.boot.power = .failed → i = .next s) ∧
    (alive → q < 32 → f < 512 →
      (o = 0x00 ∨ o = 0x48 ∨ o = 0x58 ∨ o = 0xC0 ∨ o = 0x108 ∨ o = 0x110 ∨ o = 0xD0 ∨ o = 0xD8 ∨ o = 0x150 ∨ o = 0x400 →
        i = .next s) ∧
      (o = 0x118 → field 0 32) ∧ (o = 0x140 ∨ o = 0x148 → field 0 48) ∧
      (o = partReg q 0x10 ∨ o = partReg q 0x18 ∨ o = partReg q 0x20 ∨ o = partReg q 0x48 → field 0 48) ∧
      (o = partReg q 0x40 → field 0 6) ∧ (o = vfReg f 0x18 → field 0 64) ∧ (o = vfReg f 0x28 → field 0 16) ∧
      (o = vfReg f 0x30 ∨ o = vfReg f 0x38 ∨ o = vfReg f 0x40 ∨ o = vfReg f 0x48 ∨ o = vfReg f 0x60 ∨ o = vfReg f 0x70 → field 0 48) ∧
      (o = 0x100 → bit v.toNat 8 = true → i = exec (.tstCommit (v.setWidth 6)) s) ∧
      (o = 0x40 → bit v.toNat 63 = true → i = exec .featureLock s) ∧
      (o = partReg q 0 → bit v.toNat 0 = true → i = exec (.partitionResetRequest (BitVec.ofNat 5 q)) s) ∧
      (o = 0x20 → s.boot.stage = 8 → s.boot.power = .ready → s.locked = false → ∃ t, i = .next t ∧ t.pfRaw 0x20 = v &&& s.pfRaw 0) ∧
      (o = 0x20 → s.locked = true → i = .next s) ∧
      (0x20000 ≤ o → o < 0x28000 → s.tst.commit = true → i = .next s))

/-! ### Encodings, the step, the invariant -/

/-- R9, R43–R45, R53 and the agenda (DESIGN CHOICE, log entry 4): a step whose act is CTL's runs the instruction that the words
at the program counter decode to; words that are none run as the illegal word, a fetch that fails traps, a held engine fault is
taken first, and a waiting instruction resumes. An act of an engine, of EP, of the clock or of an event runs what it selects,
of an engine or EP nothing while its tile is frozen (R348); a ring cycle passes, and ECC finds an error, where the agenda
says, and JTAG reads or writes a debug register (R358). -/
def Obligations.StepRunsDecoded : Prop :=
  ∀ (p : Nat) (e : Eng) (i : Instr) (rest : List Act) (s : State), p < Config.cores →
    let u : State := ({ s with agenda := rest }).focus p
    let pl := u.core.pl
    let pc := u.core.pc
    let ready : Prop := s.agenda = .ctl p :: rest ∧ u.runs = true ∧ (u.takeable = [] ∨ u.core.outst ≠ none) ∧ u.core.wait = none
    let whole (n : Nat) : Prop := pl ≠ 0 ∨ n ≤ 1 ∨ ∀ l, l = u.core.lc0 ∨ l = u.core.lc1 → l.act = true →
      pc + 4 ≠ l.start + BitVec.ofNat 48 (4 * (l.lenm1.toNat + 1))
    (∀ w n ws, ready → u.fetchAt pl pc = .ok w → lengthOf w = .ok n → whole n → u.fetchWords pl (pc + 4) (n - 1) = (ws, none) →
      (decode (w :: ws) = .ok i → step s = exec i u) ∧
      (∀ d, decode (w :: ws) = .error d → step s = exec (.illegalCtlWord (BitVec.ofNat 32 w)) u)) ∧
    (∀ w, ready → u.fetchAt pl pc = .ok w → (∃ d, lengthOf w = .error d) ∨ (∃ n, lengthOf w = .ok n ∧ ¬ whole n) →
      step s = exec (.illegalCtlWord (BitVec.ofNat 32 w)) u) ∧
    (∀ w n ws k t, ready → u.fetchAt pl pc = .ok w → lengthOf w = .ok n → whole n →
      u.fetchWords pl (pc + 4) (n - 1) = (ws, some (k, t)) → step s = .next (u.trap t)) ∧
    (∀ t, ready → u.fetchAt pl pc = .error t → step s = .next (u.trap t)) ∧
    (s.agenda = .ctl p :: rest → u.runs = true → u.takeable ≠ [] → u.core.outst = none → step s = exec .engineFaultTaken u) ∧
    (∀ w, s.agenda = .ctl p :: rest → u.runs = true → (u.takeable = [] ∨ u.core.outst ≠ none) → u.core.wait = some w →
      (resumeOf w = some i → step s = exec i u) ∧ (resumeOf w = none → step s = .next u)) ∧
    (s.agenda = .ctl p :: rest → u.runs = false → step s = .next u) ∧
    (u.frozen = false →
      (s.agenda = .engine p e :: rest → (u.engineNext e = some i → step s = exec i u) ∧ (u.engineNext e = none → step s = .next u)) ∧
      (s.agenda = .ep p :: rest → (u.epNextInstr = some i → step s = exec i u) ∧ (u.epNextInstr = none → step s = .next u))) ∧
    (u.frozen = true → s.agenda = .engine p e :: rest ∨ s.agenda = .ep p :: rest → step s = .next u) ∧
    (s.agenda = .on p i :: rest → (isEvent i = true → step s = exec i u) ∧ (isEvent i = false → step s = .next u)) ∧
    (s.agenda = .tick p :: rest → step s = .next u.tick) ∧
    (∀ r v, s.agenda = .jtag p r v :: rest → step s = .next ({ s with agenda := rest }.jtag p r v)) ∧
    (s.agenda = .rc :: rest → step s = .next { s with agenda := rest }.rcTick) ∧
    (∀ a fatal, s.agenda = .ecc a fatal :: rest → step s = .next ({ s with agenda := rest }.eccError a fatal))

/-- R46–R63: words that the spec's own worked examples build decode to what they stand for. -/
def Obligations.DecodeWords : Prop :=
  decode [0x00860010] = .ok (.addi 3 0 0x010#12) ∧
  decode [0x10863000, 0x00012345] = .ok (.addiX 3 3 0x12345#32) ∧
  decode [0x02063020] = .ok (.shli 3 3 32#6) ∧
  decode [0x080A4820] = .ok (.ld 5 4 .w 32#9) ∧
  decode [0x044A0FFB] = .ok (.bne 5 0 0xFFB#12) ∧
  decode [0x06C03044] = .ok (.loopi 3#10 true 4#6) ∧
  decode [0x06805001] = .ok (.loop 5 false 1#6) ∧
  decode [0x070E1FFC] = .ok (.brot 7 1#5 0xFFC#12) ∧
  decode [0x0A006041] = .ok (.give 6 0x041#12) ∧
  decode [0x0B000006] = .ok (.twait 6#8) ∧
  decode [0x0BCE4300] = .ok (.chinit 7 4 6) ∧
  decode [0x0B8A4000] = .ok (.chunk 5 4) ∧
  decode [0x088A48A0] = .ok (.lda 5 4 .w .package) ∧
  decode [0x090A40EA] = .ok (.amoAdd 5 4 .ar true .package) ∧
  decode [0x09400015] = .ok (.fenceRel .package) ∧
  decode [0x0AC046A0] = .ok (.barArvw 4 .package) ∧
  decode [0x0D24F000] = .ok (.launch 18 15) ∧
  decode [0x0E8A0001] = .ok (.csrr 5 1#12) ∧
  decode [0x30C40400] = .ok (.patch .fe 3#6 1#4 0x0400#16) ∧
  decode [0x51D60040] = .ok (.patchS .vx 7#6 5#4 0x0040#16) ∧
  decode [0x00000000] = .ok .nop ∧
  decode [0xFFFFFFFF] = .error .allOnes ∧
  decodeEp 0x01800000 = .ok (.epLda 4#3 false) ∧
  decodeEp 0x07900000 = .ok (.epBias ⟨4#3, 4#3, 0#3, false, 0#3, false, false, false⟩) ∧
  decodeEp 0x0A900800 = .ok (.epCvt ⟨4#3, 4#3, 1#4, 0#3, false, false, 0#2⟩) ∧
  decodeEp 0x0E102000 = .ok (.epStg 4#3 1#2) ∧
  decodeEp 0x10000000 = .ok .epEnd ∧
  decodeImage .fr (imageOfWords [0x00000806, 0x000B0000, 0, 0x00000005, 0, 0, 0x00000071, 0x00000001]) =
    .ok (.frRoll
      { hd := ⟨2#4, 0#8, 0#8⟩, long := ⟨0#16, 0#5, 0#3, 0x0B#8⟩, sess := 0, p1 := 5, p2 := 0, tab := 0x071, hoffhi := 0,
        htid := 0, all := false, keep := false, nowait := false, slot := 1, szm1 := 0, nm1 := 0 }) ∧
  decodeImage .fe (imageOfWords [0x04001003, 0x00148842, 0, 0x00000080, 0x00000005, 0, 0x00000040, 0]) =
    .ok (.feGath
      { hd := ⟨4#4, 4#8, 0#8⟩, pois := true, rnd := 0, typ := 8, conv := 1, q := 2, count := 20, a := 0, b := 128,
        c := 5, d := 0, offhi := 0, tid := 0x040, h13 := 0, h14 := 0 }) ∧
  decodeImage .mx (imageOfWords [0x01400004, 0x00020000, 0x00010000, 0]) =
    .ok (.mxGo { hd := ⟨0#4, 1#8, 0x40#8⟩, long := ⟨0#16, 0#5, 0#3, 2#8⟩, pat := 0, eps := 0, kl := 1 })

/-- R43–R56: for every well-formed instruction of the control stream, decoding its words gives it back, every operand at every
value. -/
def Obligations.ControlRoundTrip : Prop :=
  ∀ (i : Instr) (ws : List Nat), i.wf = true → encode i = some ws → decode ws = .ok i

/-- R57–R63: for every well-formed engine instruction, decoding its image for its engine gives it back; and for every
well-formed EP word, decoding it gives the instruction. -/
def Obligations.EngineRoundTrip : Prop :=
  ∀ (i : Instr), i.wf = true →
    (∀ e m, i.engine = some e → encodeImage i = some m → decodeImage e m = .ok i) ∧ (∀ w, encodeEp i = some w → decodeEp w = .ok i)

/-- The memory keeps its canonical form (DESIGN CHOICE, log entry 2: it lists the bytes that are not 0): from every state in that
form, reached or not, every step leads to one. -/
def Obligations.StepKeepsMemoryForm : Prop :=
  ∀ s t : State, s.Inv → step s = .next t → t.Inv

/-- R17, R361, R363, R366, R406, R407, R415: the state after reset: core 0 in focus at its reset values with its event flag set, no
other core, flit, launch or record, the package in its boot before stage 1, the throttle registers at their reset values. Active
table and shadow hold the same one entry of DUR 2^32 and DRAIN 0: every core and way group of partition 0, the first phase of either
direction too, every other phase and channel group shared, weight 1 for it alone, no beneficiary. No byte of memory is listed
(DESIGN CHOICE, log entry 2); MODE is PL0 with DET and FCE off (DESIGN CHOICE, log entry 1). -/
def Obligations.ResetState : Prop :=
  State.reset.Inv ∧ State.reset.mem = [] ∧ State.reset.cur = 0 ∧ State.reset.others = [] ∧ State.reset.tq = [] ∧
  State.reset.launches = [] ∧ State.reset.flits = [] ∧ State.reset.agenda = [] ∧ State.reset.poison = [] ∧
  (∀ r, State.reset.rd r = 0) ∧ State.reset.core.pl = 0 ∧ State.reset.core.run = .idle ∧ State.reset.core.ev = true ∧
  State.reset.core.lc0 = .off ∧ State.reset.core.lc1 = .off ∧ State.reset.core.vrb = 0 ∧ State.reset.core.sfc = 0 ∧
  State.reset.core.det = false ∧ State.reset.core.fce = false ∧ State.reset.core.wait = none ∧ State.reset.core.work = none ∧
  (∀ i j, i < 8 → j < 8 → State.reset.core.tokCount i j = 0) ∧ (∀ e, (State.reset.eng e).q = [] ∧ (State.reset.eng e).held = none) ∧
  State.reset.boot.power = .booting ∧ State.reset.boot.stage = 0 ∧ State.reset.locked = false ∧
  State.reset.pfRaw 0xD0 = 950000#64 ∧ State.reset.pfRaw 0xD8 = 0x05F00690#64 ∧
  (∀ p, p < Config.cores → State.reset.coreHolder p = some 0) ∧ State.reset.tst.len = 1 ∧ State.reset.tst.ent = 0 ∧
  State.reset.tst.slen = 1 ∧ State.reset.tst.commit = false ∧ State.reset.tst.err = 0 ∧
  State.reset.dur 0x28000 0 = 2 ^ 32 ∧ State.reset.drain 0x28000 0 = 0 ∧ ownerOf (State.reset.tstByte 0x28000 0 8 % 64) = none ∧
  (∀ o, o < 1024 → State.reset.tstByte 0x20000 0 o = State.reset.tstByte 0x28000 0 o) ∧
  (∀ k, k < 32 → State.reset.holder (96 + k) = some 0) ∧ State.reset.holder 128 = some 0 ∧ State.reset.holder 192 = some 0 ∧
  (∀ k, 128 ≤ k → k < 520 → k ≠ 128 → k ≠ 192 → State.reset.holder k = none) ∧ State.reset.tstByte 0x28000 0 520 = 1 ∧
  (∀ k, 521 ≤ k → k < 536 → State.reset.tstByte 0x28000 0 k = 0)
end

