-- ==== Sys2Proof/Laws/Memory.lean ====
section
/-!
SUPPORT. The byte store: every operation on it keeps its canonical form, a byte written reads back, every other byte reads
as before.
-/

namespace Sys2Proof.Machine

/-! ### The recursions as equations -/

theorem nat_beq_decide (a b : Nat) : Nat.beq a b = decide (a = b) := by rw [Bool.eq_iff_iff]; simp

theorem nat_blt_decide (a b : Nat) : Nat.blt a b = decide (a < b) := by
  rw [Bool.eq_iff_iff, Nat.blt, Nat.ble_eq]; simp

@[simp] theorem Memory.get_nil (a : Nat) : Memory.get [] a = 0 := rfl

theorem Memory.get_cons (c : Host.Cell) (r : List Host.Cell) (a : Nat) :
    Memory.get (c :: r) a = if a = c.1 then c.2 else Memory.get r a := by
  show (bif Nat.beq a c.1 then c.2 else Memory.get r a) = _
  rw [nat_beq_decide, Bool.cond_decide]

@[simp] theorem Memory.insert_nil (a : Nat) (v : Byte) : Memory.insert [] a v = [(a, v)] := rfl

theorem Memory.insert_cons (c : Host.Cell) (r : List Host.Cell) (a : Nat) (v : Byte) :
    Memory.insert (c :: r) a v = if a < c.1 then (a, v) :: c :: r else c :: Memory.insert r a v := by
  show (bif Nat.blt a c.1 then (a, v) :: c :: r else c :: Memory.insert r a v) = _
  rw [nat_blt_decide, Bool.cond_decide]

theorem Memory.erase_eq_filter (m : List Host.Cell) (a : Nat) : Memory.erase m a = m.filter (fun c => c.1 != a) := by
  induction m with
  | nil => rfl
  | cons c r ih =>
    rw [List.filter_cons, ← ih]
    show (bif Nat.beq c.1 a then Memory.erase r a else c :: Memory.erase r a) = _
    rw [nat_beq_decide, Bool.cond_decide]
    by_cases h : c.1 = a <;> simp [h]

theorem Memory.set_eq (m : List Host.Cell) (a : Nat) (v : Byte) :
    Memory.set m a v = if v = 0 then m.filter (fun c => c.1 != a) else Memory.insert (m.filter (fun c => c.1 != a)) a v := by
  simp only [Memory.set, Memory.erase_eq_filter]
  rw [nat_beq_decide, Bool.cond_decide]
  have h : (v.toNat = 0) = (v = 0) := by rw [BitVec.toNat_eq]; rfl
  simp only [h]

/-- A byte written at an address that a choice of cells leaves out leaves the choice as it was. -/
theorem Memory.filter_set_out (p : Host.Cell → Bool) (m : List Host.Cell) (a : Nat) (v : Byte) (h : ∀ u, p (a, u) = false) :
    (Memory.set m a v).filter p = m.filter p := by
  have he (l : List Host.Cell) : (l.filter (fun c => c.1 != a)).filter p = l.filter p := by
    rw [List.filter_filter]
    refine List.filter_congr fun c _ => ?_
    by_cases hc : c.1 = a
    · rw [show c = (a, c.2) from Prod.ext hc rfl, h]; simp
    · simp [hc]
  have hi (l : List Host.Cell) : (Memory.insert l a v).filter p = l.filter p := by
    induction l with
    | nil => simp [h]
    | cons c r ih => rw [Memory.insert_cons]; split <;> simp [List.filter_cons, h, ih]
  rw [Memory.set_eq]; split <;> simp only [hi, he]

/-! ### The canonical form -/

theorem Memory.wfFrom_mono {m : List Host.Cell} {lo lo' : Nat} (h : lo' ≤ lo) (w : Memory.wfFrom lo m = true) :
    Memory.wfFrom lo' m = true := by
  cases m with
  | nil => rfl
  | cons c r => simp only [Memory.wfFrom, Bool.and_eq_true, decide_eq_true_eq] at *; exact ⟨⟨by omega, w.1.2⟩, w.2⟩

/-- Dropping cells keeps the form. -/
theorem Memory.wfFrom_filter (p : Host.Cell → Bool) {m : List Host.Cell} {lo : Nat} (w : Memory.wfFrom lo m = true) :
    Memory.wfFrom lo (m.filter p) = true := by
  induction m generalizing lo with
  | nil => rfl
  | cons c r ih =>
    simp only [Memory.wfFrom, Bool.and_eq_true, decide_eq_true_eq] at w
    rw [List.filter_cons]
    split
    · simp only [Memory.wfFrom, Bool.and_eq_true, decide_eq_true_eq]; exact ⟨w.1, ih w.2⟩
    · exact Memory.wfFrom_mono (by omega) (ih w.2)

theorem Memory.wf_filter (p : Host.Cell → Bool) {m : List Host.Cell} (w : Memory.wf m = true) :
    Memory.wf (m.filter p) = true := Memory.wfFrom_filter p w

/-- Putting a byte that is not 0 at an address that is not listed keeps the form. -/
theorem Memory.wfFrom_insert {m : List Host.Cell} {lo a : Nat} {v : Byte} (w : Memory.wfFrom lo m = true) (ha : lo ≤ a)
    (hv : v ≠ 0) (hn : ∀ c ∈ m, c.1 ≠ a) : Memory.wfFrom lo (Memory.insert m a v) = true := by
  induction m generalizing lo with
  | nil => simp [Memory.wfFrom, ha]; exact hv
  | cons c r ih =>
    simp only [Memory.wfFrom, Bool.and_eq_true, decide_eq_true_eq] at w
    have hc : c.1 ≠ a := hn c (by simp)
    rw [Memory.insert_cons]
    split
    · simp only [Memory.wfFrom, Bool.and_eq_true, decide_eq_true_eq]
      exact ⟨⟨ha, by simpa using hv⟩, ⟨⟨by omega, w.1.2⟩, w.2⟩⟩
    · simp only [Memory.wfFrom, Bool.and_eq_true, decide_eq_true_eq]
      exact ⟨w.1, ih w.2 (by omega) (fun d hd => hn d (by simp [hd]))⟩

/-- Writing a byte keeps the form. -/
theorem Memory.wf_set {m : List Host.Cell} (a : Nat) (v : Byte) (w : Memory.wf m = true) :
    Memory.wf (Memory.set m a v) = true := by
  rw [Memory.set_eq]
  split
  · exact Memory.wf_filter _ w
  · rename_i hv
    exact Memory.wfFrom_insert (Memory.wf_filter _ w) (Nat.zero_le a) hv (fun c hc => by simpa using (List.mem_filter.mp hc).2)

/-- Clearing a range keeps the form. -/
theorem Memory.wf_clear {m : List Host.Cell} (a n : Nat) (w : Memory.wf m = true) :
    Memory.wf (Memory.clear m a n) = true := Memory.wf_filter _ w

/-! ### Reading after writing -/

/-- Dropping cells by address: a kept address reads as before. -/
theorem Memory.get_filter_kept (p : Nat → Bool) (m : List Host.Cell) (a : Nat) (h : p a = true) :
    Memory.get (m.filter (fun c => p c.1)) a = Memory.get m a := by
  induction m with
  | nil => rfl
  | cons c r ih =>
    rw [List.filter_cons]
    split
    · simp [Memory.get_cons, ih]
    · rename_i hc
      have hne : a ≠ c.1 := fun e => hc (e ▸ h)
      rw [ih]; simp [Memory.get_cons, hne]

/-- A dropped address reads 0. -/
theorem Memory.get_filter_dropped (p : Nat → Bool) (m : List Host.Cell) (a : Nat) (h : p a = false) :
    Memory.get (m.filter (fun c => p c.1)) a = 0 := by
  induction m with
  | nil => rfl
  | cons c r ih =>
    rw [List.filter_cons]
    split
    · rename_i hc
      have hne : a ≠ c.1 := fun e => by simp [← e, h] at hc
      simp [Memory.get_cons, hne, ih]
    · exact ih

theorem Memory.get_insert_ne {m : List Host.Cell} {a x : Nat} (v : Byte) (h : x ≠ a) :
    Memory.get (Memory.insert m a v) x = Memory.get m x := by
  induction m with
  | nil => simp [Memory.get_cons, h]
  | cons c r ih =>
    rw [Memory.insert_cons]
    split
    · simp [Memory.get_cons, h]
    · simp [Memory.get_cons, ih]

theorem Memory.get_insert_self {m : List Host.Cell} {a : Nat} (v : Byte) (hn : ∀ c ∈ m, c.1 ≠ a) :
    Memory.get (Memory.insert m a v) a = v := by
  induction m with
  | nil => simp [Memory.get_cons]
  | cons c r ih =>
    have hc : a ≠ c.1 := fun e => hn c (by simp) e.symm
    rw [Memory.insert_cons]
    split
    · simp [Memory.get_cons]
    · simp [Memory.get_cons, hc, ih (fun d hd => hn d (by simp [hd]))]

/-- A byte written reads back. -/
@[simp] theorem Memory.get_set_self (m : List Host.Cell) (a : Nat) (v : Byte) : Memory.get (Memory.set m a v) a = v := by
  rw [Memory.set_eq]
  split
  · rename_i hv
    rw [hv]; exact Memory.get_filter_dropped (· != a) m a (by simp)
  · exact Memory.get_insert_self v (fun c hc => by simpa using (List.mem_filter.mp hc).2)

/-- Every other byte reads as before. -/
theorem Memory.get_set_ne (m : List Host.Cell) {a x : Nat} (v : Byte) (h : x ≠ a) :
    Memory.get (Memory.set m a v) x = Memory.get m x := by
  have hf : Memory.get (m.filter (fun c => c.1 != a)) x = Memory.get m x :=
    Memory.get_filter_kept (· != a) m x (by simpa using h)
  rw [Memory.set_eq]
  split
  · exact hf
  · rw [Memory.get_insert_ne v h, hf]

/-- A cleared byte reads 0. -/
theorem Memory.get_clear_in (m : List Host.Cell) {a n x : Nat} (h : a ≤ x) (h' : x < a + n) :
    Memory.get (Memory.clear m a n) x = 0 :=
  Memory.get_filter_dropped (fun x => decide (x < a) || decide (a + n ≤ x)) m x (by simp; omega)

/-- A byte outside a cleared range reads as before. -/
theorem Memory.get_clear_out (m : List Host.Cell) {a n x : Nat} (h : x < a ∨ a + n ≤ x) :
    Memory.get (Memory.clear m a n) x = Memory.get m x :=
  Memory.get_filter_kept (fun x => decide (x < a) || decide (a + n ≤ x)) m x (by simpa using h)

/-! ### The operations of State on memory -/

@[simp] theorem State.byte_setByte_self (s : State) (a : Nat) (v : Byte) : (s.setByte a v).byte a = v :=
  Memory.get_set_self s.mem a v

theorem State.byte_setByte_ne (s : State) {a x : Nat} (v : Byte) (h : x ≠ a) : (s.setByte a v).byte x = s.byte x :=
  Memory.get_set_ne s.mem v h

theorem State.setByte_wf {s : State} (a : Nat) (v : Byte) (w : Memory.wf s.mem = true) : Memory.wf (s.setByte a v).mem = true :=
  Memory.wf_set a v w

theorem State.storeLE_wf {s : State} (a n v : Nat) (w : Memory.wf s.mem = true) : Memory.wf (s.storeLE a n v).mem = true := by
  induction n generalizing s a v with
  | zero => exact w
  | succ k ih => exact ih _ _ (State.setByte_wf _ _ w)

/-- Everything a little-endian store changes is memory, and only the bytes from a to a + n − 1. -/
theorem State.storeLE_byte_out (s : State) (a n v x : Nat) (h : x < a ∨ a + n ≤ x) : (s.storeLE a n v).byte x = s.byte x := by
  induction n generalizing s a v with
  | zero => rfl
  | succ k ih => rw [State.storeLE, ih _ _ _ (by omega), State.byte_setByte_ne _ _ (by omega)]

theorem State.storeLE_eq (s : State) (a n v : Nat) : s.storeLE a n v = { s with mem := (s.storeLE a n v).mem } := by
  induction n generalizing s a v with
  | zero => rfl
  | succ k ih => rw [State.storeLE, ih]; rfl

/-- A little-endian store reads back as the low bytes of what was stored. -/
theorem State.loadLE_storeLE_self (s : State) (a n v : Nat) : (s.storeLE a n v).loadLE a n = v % 256 ^ n := by
  induction n generalizing s a v with
  | zero => simp [State.loadLE, Nat.mod_one]
  | succ k ih =>
    rw [State.storeLE, State.loadLE, ih, State.storeLE_byte_out _ _ _ _ _ (by omega), State.byte_setByte_self, Nat.pow_succ',
      Nat.mod_mul]
    simp

/-- A load apart from a store reads as before. -/
theorem State.loadLE_storeLE_apart (s : State) (a n v b m : Nat) (h : b + m ≤ a ∨ a + n ≤ b) :
    (s.storeLE a n v).loadLE b m = s.loadLE b m := by
  induction m generalizing b with
  | zero => rfl
  | succ k ih => rw [State.loadLE, State.loadLE, ih _ (by omega), State.storeLE_byte_out _ _ _ _ _ (by omega)]

/-- A store outside a range of addresses keeps the cells of the range. -/
theorem State.storeLE_filter_out (s : State) (p : Host.Cell → Bool) (a n v : Nat) (h : ∀ x u, a ≤ x → x < a + n → p (x, u) = false) :
    (s.storeLE a n v).mem.filter p = s.mem.filter p := by
  induction n generalizing s a v with
  | zero => rfl
  | succ k ih =>
    rw [State.storeLE, ih _ _ _ (fun x u h1 h2 => h x u (by omega) (by omega))]
    exact Memory.filter_set_out p _ _ _ (fun u => h a u (by omega) (by omega))

@[simp] theorem State.load8_store8_self (s : State) (a : Nat) (v : W64) : (s.store8 a v).load8 a = v := by
  rw [State.load8, State.store8, State.loadLE_storeLE_self]
  simp [Nat.mod_eq_of_lt v.isLt]

theorem State.load8_store8_apart (s : State) (a b : Nat) (v : W64) (h : b + 8 ≤ a ∨ a + 8 ≤ b) :
    (s.store8 a v).load8 b = s.load8 b := by
  rw [State.load8, State.load8, State.store8, State.loadLE_storeLE_apart _ _ _ _ _ _ h]

theorem State.putBytes_wf {s : State} (a : Nat) (l : List Byte) (w : Memory.wf s.mem = true) :
    Memory.wf (s.putBytes a l).mem = true := by
  induction l generalizing s a with
  | nil => exact w
  | cons b r ih => exact ih _ (State.setByte_wf _ _ w)

theorem State.putBytes_eq (s : State) (a : Nat) (l : List Byte) : s.putBytes a l = { s with mem := (s.putBytes a l).mem } := by
  induction l generalizing s a with
  | nil => rfl
  | cons b r ih => rw [State.putBytes, ih]; rfl

theorem State.putBytes_byte_out (s : State) (a : Nat) (l : List Byte) (x : Nat) (h : x < a ∨ a + l.length ≤ x) :
    (s.putBytes a l).byte x = s.byte x := by
  induction l generalizing s a with
  | nil => rfl
  | cons b r ih =>
    simp only [List.length_cons] at h
    rw [State.putBytes, ih _ _ (by omega), State.byte_setByte_ne _ _ (by omega)]

/-- The byte k of what was put. -/
theorem State.putBytes_byte_in (s : State) (a : Nat) (l : List Byte) (k : Nat) (h : k < l.length) :
    (s.putBytes a l).byte (a + k) = l.getD k 0 := by
  induction l generalizing s a k with
  | nil => simp at h
  | cons b r ih =>
    cases k with
    | zero => rw [State.putBytes, State.putBytes_byte_out _ _ _ _ (by omega)]; simp
    | succ j =>
      have := ih (s.setByte a b) (a + 1) j (by simpa using h)
      rw [State.putBytes, show a + (j + 1) = a + 1 + j by omega, this]; simp

theorem State.writeBytes_wf {s : State} (a : Nat) (l : List Byte) (w : Memory.wf s.mem = true) :
    Memory.wf (s.writeBytes a l).mem = true := State.putBytes_wf a l w

theorem State.zeroUnit_wf {s : State} (u : Nat) (w : Memory.wf s.mem = true) : Memory.wf (s.zeroUnit u).mem = true :=
  Memory.wf_clear _ _ w

end Sys2Proof.Machine
end

