-- ==== Sys2Proof/Laws/State.lean ====
section
/-!
SUPPORT. What each update of State leaves in each of its fields: one lemma for each field and update.
-/

namespace Sys2Proof.Machine

/-! ### The core in focus changed -/

@[simp] theorem State.upd_core (s : State) (f : Core → Core) : (s.upd f).core = f s.core := rfl
@[simp] theorem State.upd_cur (s : State) (f : Core → Core) : (s.upd f).cur = s.cur := rfl
@[simp] theorem State.upd_others (s : State) (f : Core → Core) : (s.upd f).others = s.others := rfl
@[simp] theorem State.upd_mem (s : State) (f : Core → Core) : (s.upd f).mem = s.mem := rfl
@[simp] theorem State.upd_poison (s : State) (f : Core → Core) : (s.upd f).poison = s.poison := rfl
@[simp] theorem State.upd_pf (s : State) (f : Core → Core) : (s.upd f).pf = s.pf := rfl
@[simp] theorem State.upd_tq (s : State) (f : Core → Core) : (s.upd f).tq = s.tq := rfl
@[simp] theorem State.upd_taken (s : State) (f : Core → Core) : (s.upd f).taken = s.taken := rfl
@[simp] theorem State.upd_nextSlot (s : State) (f : Core → Core) : (s.upd f).nextSlot = s.nextSlot := rfl
@[simp] theorem State.upd_launches (s : State) (f : Core → Core) : (s.upd f).launches = s.launches := rfl
@[simp] theorem State.upd_past (s : State) (f : Core → Core) : (s.upd f).past = s.past := rfl
@[simp] theorem State.upd_bindings (s : State) (f : Core → Core) : (s.upd f).bindings = s.bindings := rfl
@[simp] theorem State.upd_gangs (s : State) (f : Core → Core) : (s.upd f).gangs = s.gangs := rfl
@[simp] theorem State.upd_nextGang (s : State) (f : Core → Core) : (s.upd f).nextGang = s.nextGang := rfl
@[simp] theorem State.upd_fences (s : State) (f : Core → Core) : (s.upd f).fences = s.fences := rfl
@[simp] theorem State.upd_subs (s : State) (f : Core → Core) : (s.upd f).subs = s.subs := rfl
@[simp] theorem State.upd_replays (s : State) (f : Core → Core) : (s.upd f).replays = s.replays := rfl
@[simp] theorem State.upd_doorbells (s : State) (f : Core → Core) : (s.upd f).doorbells = s.doorbells := rfl
@[simp] theorem State.upd_markers (s : State) (f : Core → Core) : (s.upd f).markers = s.markers := rfl
@[simp] theorem State.upd_sieve (s : State) (f : Core → Core) : (s.upd f).sieve = s.sieve := rfl
@[simp] theorem State.upd_conflicts (s : State) (f : Core → Core) : (s.upd f).conflicts = s.conflicts := rfl
@[simp] theorem State.upd_detBars (s : State) (f : Core → Core) : (s.upd f).detBars = s.detBars := rfl
@[simp] theorem State.upd_llc (s : State) (f : Core → Core) : (s.upd f).llc = s.llc := rfl
@[simp] theorem State.upd_llcEv (s : State) (f : Core → Core) : (s.upd f).llcEv = s.llcEv := rfl
@[simp] theorem State.upd_llcClock (s : State) (f : Core → Core) : (s.upd f).llcClock = s.llcClock := rfl
@[simp] theorem State.upd_corrected (s : State) (f : Core → Core) : (s.upd f).corrected = s.corrected := rfl
@[simp] theorem State.upd_flits (s : State) (f : Core → Core) : (s.upd f).flits = s.flits := rfl
@[simp] theorem State.upd_linkq (s : State) (f : Core → Core) : (s.upd f).linkq = s.linkq := rfl
@[simp] theorem State.upd_nextFlit (s : State) (f : Core → Core) : (s.upd f).nextFlit = s.nextFlit := rfl
@[simp] theorem State.upd_nextXfer (s : State) (f : Core → Core) : (s.upd f).nextXfer = s.nextXfer := rfl
@[simp] theorem State.upd_collTx (s : State) (f : Core → Core) : (s.upd f).collTx = s.collTx := rfl
@[simp] theorem State.upd_images (s : State) (f : Core → Core) : (s.upd f).images = s.images := rfl
@[simp] theorem State.upd_archive (s : State) (f : Core → Core) : (s.upd f).archive = s.archive := rfl
@[simp] theorem State.upd_nextImage (s : State) (f : Core → Core) : (s.upd f).nextImage = s.nextImage := rfl
@[simp] theorem State.upd_tst (s : State) (f : Core → Core) : (s.upd f).tst = s.tst := rfl
@[simp] theorem State.upd_scrubq (s : State) (f : Core → Core) : (s.upd f).scrubq = s.scrubq := rfl
@[simp] theorem State.upd_ports (s : State) (f : Core → Core) : (s.upd f).ports = s.ports := rfl
@[simp] theorem State.upd_ethTabs (s : State) (f : Core → Core) : (s.upd f).ethTabs = s.ethTabs := rfl
@[simp] theorem State.upd_ethTx (s : State) (f : Core → Core) : (s.upd f).ethTx = s.ethTx := rfl
@[simp] theorem State.upd_boot (s : State) (f : Core → Core) : (s.upd f).boot = s.boot := rfl
@[simp] theorem State.upd_tdi (s : State) (f : Core → Core) : (s.upd f).tdi = s.tdi := rfl
@[simp] theorem State.upd_msix (s : State) (f : Core → Core) : (s.upd f).msix = s.msix := rfl
@[simp] theorem State.upd_spdm (s : State) (f : Core → Core) : (s.upd f).spdm = s.spdm := rfl
@[simp] theorem State.upd_hostRd (s : State) (f : Core → Core) : (s.upd f).hostRd = s.hostRd := rfl
@[simp] theorem State.upd_order (s : State) (f : Core → Core) : (s.upd f).order = s.order := rfl
@[simp] theorem State.upd_rc (s : State) (f : Core → Core) : (s.upd f).rc = s.rc := rfl
@[simp] theorem State.upd_thrAt (s : State) (f : Core → Core) : (s.upd f).thrAt = s.thrAt := rfl
@[simp] theorem State.upd_free (s : State) (f : Core → Core) : (s.upd f).free = s.free := rfl
@[simp] theorem State.upd_turn (s : State) (f : Core → Core) : (s.upd f).turn = s.turn := rfl
@[simp] theorem State.upd_agenda (s : State) (f : Core → Core) : (s.upd f).agenda = s.agenda := rfl

/-! ### One byte written -/

@[simp] theorem State.setByte_core (s : State) (a : Nat) (v : Byte) : (s.setByte a v).core = s.core := rfl
@[simp] theorem State.setByte_cur (s : State) (a : Nat) (v : Byte) : (s.setByte a v).cur = s.cur := rfl
@[simp] theorem State.setByte_others (s : State) (a : Nat) (v : Byte) : (s.setByte a v).others = s.others := rfl
@[simp] theorem State.setByte_mem (s : State) (a : Nat) (v : Byte) : (s.setByte a v).mem = Memory.set s.mem a v := rfl
@[simp] theorem State.setByte_poison (s : State) (a : Nat) (v : Byte) : (s.setByte a v).poison = s.poison := rfl
@[simp] theorem State.setByte_pf (s : State) (a : Nat) (v : Byte) : (s.setByte a v).pf = s.pf := rfl
@[simp] theorem State.setByte_tq (s : State) (a : Nat) (v : Byte) : (s.setByte a v).tq = s.tq := rfl
@[simp] theorem State.setByte_taken (s : State) (a : Nat) (v : Byte) : (s.setByte a v).taken = s.taken := rfl
@[simp] theorem State.setByte_nextSlot (s : State) (a : Nat) (v : Byte) : (s.setByte a v).nextSlot = s.nextSlot := rfl
@[simp] theorem State.setByte_launches (s : State) (a : Nat) (v : Byte) : (s.setByte a v).launches = s.launches := rfl
@[simp] theorem State.setByte_past (s : State) (a : Nat) (v : Byte) : (s.setByte a v).past = s.past := rfl
@[simp] theorem State.setByte_bindings (s : State) (a : Nat) (v : Byte) : (s.setByte a v).bindings = s.bindings := rfl
@[simp] theorem State.setByte_gangs (s : State) (a : Nat) (v : Byte) : (s.setByte a v).gangs = s.gangs := rfl
@[simp] theorem State.setByte_nextGang (s : State) (a : Nat) (v : Byte) : (s.setByte a v).nextGang = s.nextGang := rfl
@[simp] theorem State.setByte_fences (s : State) (a : Nat) (v : Byte) : (s.setByte a v).fences = s.fences := rfl
@[simp] theorem State.setByte_subs (s : State) (a : Nat) (v : Byte) : (s.setByte a v).subs = s.subs := rfl
@[simp] theorem State.setByte_replays (s : State) (a : Nat) (v : Byte) : (s.setByte a v).replays = s.replays := rfl
@[simp] theorem State.setByte_doorbells (s : State) (a : Nat) (v : Byte) : (s.setByte a v).doorbells = s.doorbells := rfl
@[simp] theorem State.setByte_markers (s : State) (a : Nat) (v : Byte) : (s.setByte a v).markers = s.markers := rfl
@[simp] theorem State.setByte_sieve (s : State) (a : Nat) (v : Byte) : (s.setByte a v).sieve = s.sieve := rfl
@[simp] theorem State.setByte_conflicts (s : State) (a : Nat) (v : Byte) : (s.setByte a v).conflicts = s.conflicts := rfl
@[simp] theorem State.setByte_detBars (s : State) (a : Nat) (v : Byte) : (s.setByte a v).detBars = s.detBars := rfl
@[simp] theorem State.setByte_llc (s : State) (a : Nat) (v : Byte) : (s.setByte a v).llc = s.llc := rfl
@[simp] theorem State.setByte_llcEv (s : State) (a : Nat) (v : Byte) : (s.setByte a v).llcEv = s.llcEv := rfl
@[simp] theorem State.setByte_llcClock (s : State) (a : Nat) (v : Byte) : (s.setByte a v).llcClock = s.llcClock := rfl
@[simp] theorem State.setByte_corrected (s : State) (a : Nat) (v : Byte) : (s.setByte a v).corrected = s.corrected := rfl
@[simp] theorem State.setByte_flits (s : State) (a : Nat) (v : Byte) : (s.setByte a v).flits = s.flits := rfl
@[simp] theorem State.setByte_linkq (s : State) (a : Nat) (v : Byte) : (s.setByte a v).linkq = s.linkq := rfl
@[simp] theorem State.setByte_nextFlit (s : State) (a : Nat) (v : Byte) : (s.setByte a v).nextFlit = s.nextFlit := rfl
@[simp] theorem State.setByte_nextXfer (s : State) (a : Nat) (v : Byte) : (s.setByte a v).nextXfer = s.nextXfer := rfl
@[simp] theorem State.setByte_collTx (s : State) (a : Nat) (v : Byte) : (s.setByte a v).collTx = s.collTx := rfl
@[simp] theorem State.setByte_images (s : State) (a : Nat) (v : Byte) : (s.setByte a v).images = s.images := rfl
@[simp] theorem State.setByte_archive (s : State) (a : Nat) (v : Byte) : (s.setByte a v).archive = s.archive := rfl
@[simp] theorem State.setByte_nextImage (s : State) (a : Nat) (v : Byte) : (s.setByte a v).nextImage = s.nextImage := rfl
@[simp] theorem State.setByte_tst (s : State) (a : Nat) (v : Byte) : (s.setByte a v).tst = s.tst := rfl
@[simp] theorem State.setByte_scrubq (s : State) (a : Nat) (v : Byte) : (s.setByte a v).scrubq = s.scrubq := rfl
@[simp] theorem State.setByte_ports (s : State) (a : Nat) (v : Byte) : (s.setByte a v).ports = s.ports := rfl
@[simp] theorem State.setByte_ethTabs (s : State) (a : Nat) (v : Byte) : (s.setByte a v).ethTabs = s.ethTabs := rfl
@[simp] theorem State.setByte_ethTx (s : State) (a : Nat) (v : Byte) : (s.setByte a v).ethTx = s.ethTx := rfl
@[simp] theorem State.setByte_boot (s : State) (a : Nat) (v : Byte) : (s.setByte a v).boot = s.boot := rfl
@[simp] theorem State.setByte_tdi (s : State) (a : Nat) (v : Byte) : (s.setByte a v).tdi = s.tdi := rfl
@[simp] theorem State.setByte_msix (s : State) (a : Nat) (v : Byte) : (s.setByte a v).msix = s.msix := rfl
@[simp] theorem State.setByte_spdm (s : State) (a : Nat) (v : Byte) : (s.setByte a v).spdm = s.spdm := rfl
@[simp] theorem State.setByte_hostRd (s : State) (a : Nat) (v : Byte) : (s.setByte a v).hostRd = s.hostRd := rfl
@[simp] theorem State.setByte_order (s : State) (a : Nat) (v : Byte) : (s.setByte a v).order = s.order := rfl
@[simp] theorem State.setByte_rc (s : State) (a : Nat) (v : Byte) : (s.setByte a v).rc = s.rc := rfl
@[simp] theorem State.setByte_thrAt (s : State) (a : Nat) (v : Byte) : (s.setByte a v).thrAt = s.thrAt := rfl
@[simp] theorem State.setByte_free (s : State) (a : Nat) (v : Byte) : (s.setByte a v).free = s.free := rfl
@[simp] theorem State.setByte_turn (s : State) (a : Nat) (v : Byte) : (s.setByte a v).turn = s.turn := rfl
@[simp] theorem State.setByte_agenda (s : State) (a : Nat) (v : Byte) : (s.setByte a v).agenda = s.agenda := rfl

/-! ### A number stored -/

@[simp] theorem State.storeLE_core (s : State) (a n v : Nat) : (s.storeLE a n v).core = s.core := by rw [State.storeLE_eq]
@[simp] theorem State.storeLE_cur (s : State) (a n v : Nat) : (s.storeLE a n v).cur = s.cur := by rw [State.storeLE_eq]
@[simp] theorem State.storeLE_others (s : State) (a n v : Nat) : (s.storeLE a n v).others = s.others := by rw [State.storeLE_eq]
@[simp] theorem State.storeLE_poison (s : State) (a n v : Nat) : (s.storeLE a n v).poison = s.poison := by rw [State.storeLE_eq]
@[simp] theorem State.storeLE_pf (s : State) (a n v : Nat) : (s.storeLE a n v).pf = s.pf := by rw [State.storeLE_eq]
@[simp] theorem State.storeLE_tq (s : State) (a n v : Nat) : (s.storeLE a n v).tq = s.tq := by rw [State.storeLE_eq]
@[simp] theorem State.storeLE_taken (s : State) (a n v : Nat) : (s.storeLE a n v).taken = s.taken := by rw [State.storeLE_eq]
@[simp] theorem State.storeLE_nextSlot (s : State) (a n v : Nat) : (s.storeLE a n v).nextSlot = s.nextSlot := by rw [State.storeLE_eq]
@[simp] theorem State.storeLE_launches (s : State) (a n v : Nat) : (s.storeLE a n v).launches = s.launches := by rw [State.storeLE_eq]
@[simp] theorem State.storeLE_past (s : State) (a n v : Nat) : (s.storeLE a n v).past = s.past := by rw [State.storeLE_eq]
@[simp] theorem State.storeLE_bindings (s : State) (a n v : Nat) : (s.storeLE a n v).bindings = s.bindings := by rw [State.storeLE_eq]
@[simp] theorem State.storeLE_gangs (s : State) (a n v : Nat) : (s.storeLE a n v).gangs = s.gangs := by rw [State.storeLE_eq]
@[simp] theorem State.storeLE_nextGang (s : State) (a n v : Nat) : (s.storeLE a n v).nextGang = s.nextGang := by rw [State.storeLE_eq]
@[simp] theorem State.storeLE_fences (s : State) (a n v : Nat) : (s.storeLE a n v).fences = s.fences := by rw [State.storeLE_eq]
@[simp] theorem State.storeLE_subs (s : State) (a n v : Nat) : (s.storeLE a n v).subs = s.subs := by rw [State.storeLE_eq]
@[simp] theorem State.storeLE_replays (s : State) (a n v : Nat) : (s.storeLE a n v).replays = s.replays := by rw [State.storeLE_eq]
@[simp] theorem State.storeLE_doorbells (s : State) (a n v : Nat) : (s.storeLE a n v).doorbells = s.doorbells := by rw [State.storeLE_eq]
@[simp] theorem State.storeLE_markers (s : State) (a n v : Nat) : (s.storeLE a n v).markers = s.markers := by rw [State.storeLE_eq]
@[simp] theorem State.storeLE_sieve (s : State) (a n v : Nat) : (s.storeLE a n v).sieve = s.sieve := by rw [State.storeLE_eq]
@[simp] theorem State.storeLE_conflicts (s : State) (a n v : Nat) : (s.storeLE a n v).conflicts = s.conflicts := by rw [State.storeLE_eq]
@[simp] theorem State.storeLE_detBars (s : State) (a n v : Nat) : (s.storeLE a n v).detBars = s.detBars := by rw [State.storeLE_eq]
@[simp] theorem State.storeLE_llc (s : State) (a n v : Nat) : (s.storeLE a n v).llc = s.llc := by rw [State.storeLE_eq]
@[simp] theorem State.storeLE_llcEv (s : State) (a n v : Nat) : (s.storeLE a n v).llcEv = s.llcEv := by rw [State.storeLE_eq]
@[simp] theorem State.storeLE_llcClock (s : State) (a n v : Nat) : (s.storeLE a n v).llcClock = s.llcClock := by rw [State.storeLE_eq]
@[simp] theorem State.storeLE_corrected (s : State) (a n v : Nat) : (s.storeLE a n v).corrected = s.corrected := by rw [State.storeLE_eq]
@[simp] theorem State.storeLE_flits (s : State) (a n v : Nat) : (s.storeLE a n v).flits = s.flits := by rw [State.storeLE_eq]
@[simp] theorem State.storeLE_linkq (s : State) (a n v : Nat) : (s.storeLE a n v).linkq = s.linkq := by rw [State.storeLE_eq]
@[simp] theorem State.storeLE_nextFlit (s : State) (a n v : Nat) : (s.storeLE a n v).nextFlit = s.nextFlit := by rw [State.storeLE_eq]
@[simp] theorem State.storeLE_nextXfer (s : State) (a n v : Nat) : (s.storeLE a n v).nextXfer = s.nextXfer := by rw [State.storeLE_eq]
@[simp] theorem State.storeLE_collTx (s : State) (a n v : Nat) : (s.storeLE a n v).collTx = s.collTx := by rw [State.storeLE_eq]
@[simp] theorem State.storeLE_images (s : State) (a n v : Nat) : (s.storeLE a n v).images = s.images := by rw [State.storeLE_eq]
@[simp] theorem State.storeLE_archive (s : State) (a n v : Nat) : (s.storeLE a n v).archive = s.archive := by rw [State.storeLE_eq]
@[simp] theorem State.storeLE_nextImage (s : State) (a n v : Nat) : (s.storeLE a n v).nextImage = s.nextImage := by rw [State.storeLE_eq]
@[simp] theorem State.storeLE_tst (s : State) (a n v : Nat) : (s.storeLE a n v).tst = s.tst := by rw [State.storeLE_eq]
@[simp] theorem State.storeLE_scrubq (s : State) (a n v : Nat) : (s.storeLE a n v).scrubq = s.scrubq := by rw [State.storeLE_eq]
@[simp] theorem State.storeLE_ports (s : State) (a n v : Nat) : (s.storeLE a n v).ports = s.ports := by rw [State.storeLE_eq]
@[simp] theorem State.storeLE_ethTabs (s : State) (a n v : Nat) : (s.storeLE a n v).ethTabs = s.ethTabs := by rw [State.storeLE_eq]
@[simp] theorem State.storeLE_ethTx (s : State) (a n v : Nat) : (s.storeLE a n v).ethTx = s.ethTx := by rw [State.storeLE_eq]
@[simp] theorem State.storeLE_boot (s : State) (a n v : Nat) : (s.storeLE a n v).boot = s.boot := by rw [State.storeLE_eq]
@[simp] theorem State.storeLE_tdi (s : State) (a n v : Nat) : (s.storeLE a n v).tdi = s.tdi := by rw [State.storeLE_eq]
@[simp] theorem State.storeLE_msix (s : State) (a n v : Nat) : (s.storeLE a n v).msix = s.msix := by rw [State.storeLE_eq]
@[simp] theorem State.storeLE_spdm (s : State) (a n v : Nat) : (s.storeLE a n v).spdm = s.spdm := by rw [State.storeLE_eq]
@[simp] theorem State.storeLE_hostRd (s : State) (a n v : Nat) : (s.storeLE a n v).hostRd = s.hostRd := by rw [State.storeLE_eq]
@[simp] theorem State.storeLE_order (s : State) (a n v : Nat) : (s.storeLE a n v).order = s.order := by rw [State.storeLE_eq]
@[simp] theorem State.storeLE_rc (s : State) (a n v : Nat) : (s.storeLE a n v).rc = s.rc := by rw [State.storeLE_eq]
@[simp] theorem State.storeLE_thrAt (s : State) (a n v : Nat) : (s.storeLE a n v).thrAt = s.thrAt := by rw [State.storeLE_eq]
@[simp] theorem State.storeLE_free (s : State) (a n v : Nat) : (s.storeLE a n v).free = s.free := by rw [State.storeLE_eq]
@[simp] theorem State.storeLE_turn (s : State) (a n v : Nat) : (s.storeLE a n v).turn = s.turn := by rw [State.storeLE_eq]
@[simp] theorem State.storeLE_agenda (s : State) (a n v : Nat) : (s.storeLE a n v).agenda = s.agenda := by rw [State.storeLE_eq]

/-! ### Bytes put -/

@[simp] theorem State.putBytes_core (s : State) (a : Nat) (l : List Byte) : (s.putBytes a l).core = s.core := by rw [State.putBytes_eq]
@[simp] theorem State.putBytes_cur (s : State) (a : Nat) (l : List Byte) : (s.putBytes a l).cur = s.cur := by rw [State.putBytes_eq]
@[simp] theorem State.putBytes_others (s : State) (a : Nat) (l : List Byte) : (s.putBytes a l).others = s.others := by rw [State.putBytes_eq]
@[simp] theorem State.putBytes_poison (s : State) (a : Nat) (l : List Byte) : (s.putBytes a l).poison = s.poison := by rw [State.putBytes_eq]
@[simp] theorem State.putBytes_pf (s : State) (a : Nat) (l : List Byte) : (s.putBytes a l).pf = s.pf := by rw [State.putBytes_eq]
@[simp] theorem State.putBytes_tq (s : State) (a : Nat) (l : List Byte) : (s.putBytes a l).tq = s.tq := by rw [State.putBytes_eq]
@[simp] theorem State.putBytes_taken (s : State) (a : Nat) (l : List Byte) : (s.putBytes a l).taken = s.taken := by rw [State.putBytes_eq]
@[simp] theorem State.putBytes_nextSlot (s : State) (a : Nat) (l : List Byte) : (s.putBytes a l).nextSlot = s.nextSlot := by rw [State.putBytes_eq]
@[simp] theorem State.putBytes_launches (s : State) (a : Nat) (l : List Byte) : (s.putBytes a l).launches = s.launches := by rw [State.putBytes_eq]
@[simp] theorem State.putBytes_past (s : State) (a : Nat) (l : List Byte) : (s.putBytes a l).past = s.past := by rw [State.putBytes_eq]
@[simp] theorem State.putBytes_bindings (s : State) (a : Nat) (l : List Byte) : (s.putBytes a l).bindings = s.bindings := by rw [State.putBytes_eq]
@[simp] theorem State.putBytes_gangs (s : State) (a : Nat) (l : List Byte) : (s.putBytes a l).gangs = s.gangs := by rw [State.putBytes_eq]
@[simp] theorem State.putBytes_nextGang (s : State) (a : Nat) (l : List Byte) : (s.putBytes a l).nextGang = s.nextGang := by rw [State.putBytes_eq]
@[simp] theorem State.putBytes_fences (s : State) (a : Nat) (l : List Byte) : (s.putBytes a l).fences = s.fences := by rw [State.putBytes_eq]
@[simp] theorem State.putBytes_subs (s : State) (a : Nat) (l : List Byte) : (s.putBytes a l).subs = s.subs := by rw [State.putBytes_eq]
@[simp] theorem State.putBytes_replays (s : State) (a : Nat) (l : List Byte) : (s.putBytes a l).replays = s.replays := by rw [State.putBytes_eq]
@[simp] theorem State.putBytes_doorbells (s : State) (a : Nat) (l : List Byte) : (s.putBytes a l).doorbells = s.doorbells := by rw [State.putBytes_eq]
@[simp] theorem State.putBytes_markers (s : State) (a : Nat) (l : List Byte) : (s.putBytes a l).markers = s.markers := by rw [State.putBytes_eq]
@[simp] theorem State.putBytes_sieve (s : State) (a : Nat) (l : List Byte) : (s.putBytes a l).sieve = s.sieve := by rw [State.putBytes_eq]
@[simp] theorem State.putBytes_conflicts (s : State) (a : Nat) (l : List Byte) : (s.putBytes a l).conflicts = s.conflicts := by rw [State.putBytes_eq]
@[simp] theorem State.putBytes_detBars (s : State) (a : Nat) (l : List Byte) : (s.putBytes a l).detBars = s.detBars := by rw [State.putBytes_eq]
@[simp] theorem State.putBytes_llc (s : State) (a : Nat) (l : List Byte) : (s.putBytes a l).llc = s.llc := by rw [State.putBytes_eq]
@[simp] theorem State.putBytes_llcEv (s : State) (a : Nat) (l : List Byte) : (s.putBytes a l).llcEv = s.llcEv := by rw [State.putBytes_eq]
@[simp] theorem State.putBytes_llcClock (s : State) (a : Nat) (l : List Byte) : (s.putBytes a l).llcClock = s.llcClock := by rw [State.putBytes_eq]
@[simp] theorem State.putBytes_corrected (s : State) (a : Nat) (l : List Byte) : (s.putBytes a l).corrected = s.corrected := by rw [State.putBytes_eq]
@[simp] theorem State.putBytes_flits (s : State) (a : Nat) (l : List Byte) : (s.putBytes a l).flits = s.flits := by rw [State.putBytes_eq]
@[simp] theorem State.putBytes_linkq (s : State) (a : Nat) (l : List Byte) : (s.putBytes a l).linkq = s.linkq := by rw [State.putBytes_eq]
@[simp] theorem State.putBytes_nextFlit (s : State) (a : Nat) (l : List Byte) : (s.putBytes a l).nextFlit = s.nextFlit := by rw [State.putBytes_eq]
@[simp] theorem State.putBytes_nextXfer (s : State) (a : Nat) (l : List Byte) : (s.putBytes a l).nextXfer = s.nextXfer := by rw [State.putBytes_eq]
@[simp] theorem State.putBytes_collTx (s : State) (a : Nat) (l : List Byte) : (s.putBytes a l).collTx = s.collTx := by rw [State.putBytes_eq]
@[simp] theorem State.putBytes_images (s : State) (a : Nat) (l : List Byte) : (s.putBytes a l).images = s.images := by rw [State.putBytes_eq]
@[simp] theorem State.putBytes_archive (s : State) (a : Nat) (l : List Byte) : (s.putBytes a l).archive = s.archive := by rw [State.putBytes_eq]
@[simp] theorem State.putBytes_nextImage (s : State) (a : Nat) (l : List Byte) : (s.putBytes a l).nextImage = s.nextImage := by rw [State.putBytes_eq]
@[simp] theorem State.putBytes_tst (s : State) (a : Nat) (l : List Byte) : (s.putBytes a l).tst = s.tst := by rw [State.putBytes_eq]
@[simp] theorem State.putBytes_scrubq (s : State) (a : Nat) (l : List Byte) : (s.putBytes a l).scrubq = s.scrubq := by rw [State.putBytes_eq]
@[simp] theorem State.putBytes_ports (s : State) (a : Nat) (l : List Byte) : (s.putBytes a l).ports = s.ports := by rw [State.putBytes_eq]
@[simp] theorem State.putBytes_ethTabs (s : State) (a : Nat) (l : List Byte) : (s.putBytes a l).ethTabs = s.ethTabs := by rw [State.putBytes_eq]
@[simp] theorem State.putBytes_ethTx (s : State) (a : Nat) (l : List Byte) : (s.putBytes a l).ethTx = s.ethTx := by rw [State.putBytes_eq]
@[simp] theorem State.putBytes_boot (s : State) (a : Nat) (l : List Byte) : (s.putBytes a l).boot = s.boot := by rw [State.putBytes_eq]
@[simp] theorem State.putBytes_tdi (s : State) (a : Nat) (l : List Byte) : (s.putBytes a l).tdi = s.tdi := by rw [State.putBytes_eq]
@[simp] theorem State.putBytes_msix (s : State) (a : Nat) (l : List Byte) : (s.putBytes a l).msix = s.msix := by rw [State.putBytes_eq]
@[simp] theorem State.putBytes_spdm (s : State) (a : Nat) (l : List Byte) : (s.putBytes a l).spdm = s.spdm := by rw [State.putBytes_eq]
@[simp] theorem State.putBytes_hostRd (s : State) (a : Nat) (l : List Byte) : (s.putBytes a l).hostRd = s.hostRd := by rw [State.putBytes_eq]
@[simp] theorem State.putBytes_order (s : State) (a : Nat) (l : List Byte) : (s.putBytes a l).order = s.order := by rw [State.putBytes_eq]
@[simp] theorem State.putBytes_rc (s : State) (a : Nat) (l : List Byte) : (s.putBytes a l).rc = s.rc := by rw [State.putBytes_eq]
@[simp] theorem State.putBytes_thrAt (s : State) (a : Nat) (l : List Byte) : (s.putBytes a l).thrAt = s.thrAt := by rw [State.putBytes_eq]
@[simp] theorem State.putBytes_free (s : State) (a : Nat) (l : List Byte) : (s.putBytes a l).free = s.free := by rw [State.putBytes_eq]
@[simp] theorem State.putBytes_turn (s : State) (a : Nat) (l : List Byte) : (s.putBytes a l).turn = s.turn := by rw [State.putBytes_eq]
@[simp] theorem State.putBytes_agenda (s : State) (a : Nat) (l : List Byte) : (s.putBytes a l).agenda = s.agenda := by rw [State.putBytes_eq]

/-! ### A PF register stored -/

@[simp] theorem State.setPf_core (s : State) (o : Nat) (v : W64) : (s.setPf o v).core = s.core := rfl
@[simp] theorem State.setPf_cur (s : State) (o : Nat) (v : W64) : (s.setPf o v).cur = s.cur := rfl
@[simp] theorem State.setPf_others (s : State) (o : Nat) (v : W64) : (s.setPf o v).others = s.others := rfl
@[simp] theorem State.setPf_mem (s : State) (o : Nat) (v : W64) : (s.setPf o v).mem = s.mem := rfl
@[simp] theorem State.setPf_poison (s : State) (o : Nat) (v : W64) : (s.setPf o v).poison = s.poison := rfl
@[simp] theorem State.setPf_pf (s : State) (o : Nat) (v : W64) : (s.setPf o v).pf = setAssoc s.pf o v := rfl
@[simp] theorem State.setPf_tq (s : State) (o : Nat) (v : W64) : (s.setPf o v).tq = s.tq := rfl
@[simp] theorem State.setPf_taken (s : State) (o : Nat) (v : W64) : (s.setPf o v).taken = s.taken := rfl
@[simp] theorem State.setPf_nextSlot (s : State) (o : Nat) (v : W64) : (s.setPf o v).nextSlot = s.nextSlot := rfl
@[simp] theorem State.setPf_launches (s : State) (o : Nat) (v : W64) : (s.setPf o v).launches = s.launches := rfl
@[simp] theorem State.setPf_past (s : State) (o : Nat) (v : W64) : (s.setPf o v).past = s.past := rfl
@[simp] theorem State.setPf_bindings (s : State) (o : Nat) (v : W64) : (s.setPf o v).bindings = s.bindings := rfl
@[simp] theorem State.setPf_gangs (s : State) (o : Nat) (v : W64) : (s.setPf o v).gangs = s.gangs := rfl
@[simp] theorem State.setPf_nextGang (s : State) (o : Nat) (v : W64) : (s.setPf o v).nextGang = s.nextGang := rfl
@[simp] theorem State.setPf_fences (s : State) (o : Nat) (v : W64) : (s.setPf o v).fences = s.fences := rfl
@[simp] theorem State.setPf_subs (s : State) (o : Nat) (v : W64) : (s.setPf o v).subs = s.subs := rfl
@[simp] theorem State.setPf_replays (s : State) (o : Nat) (v : W64) : (s.setPf o v).replays = s.replays := rfl
@[simp] theorem State.setPf_doorbells (s : State) (o : Nat) (v : W64) : (s.setPf o v).doorbells = s.doorbells := rfl
@[simp] theorem State.setPf_markers (s : State) (o : Nat) (v : W64) : (s.setPf o v).markers = s.markers := rfl
@[simp] theorem State.setPf_sieve (s : State) (o : Nat) (v : W64) : (s.setPf o v).sieve = s.sieve := rfl
@[simp] theorem State.setPf_conflicts (s : State) (o : Nat) (v : W64) : (s.setPf o v).conflicts = s.conflicts := rfl
@[simp] theorem State.setPf_detBars (s : State) (o : Nat) (v : W64) : (s.setPf o v).detBars = s.detBars := rfl
@[simp] theorem State.setPf_llc (s : State) (o : Nat) (v : W64) : (s.setPf o v).llc = s.llc := rfl
@[simp] theorem State.setPf_llcEv (s : State) (o : Nat) (v : W64) : (s.setPf o v).llcEv = s.llcEv := rfl
@[simp] theorem State.setPf_llcClock (s : State) (o : Nat) (v : W64) : (s.setPf o v).llcClock = s.llcClock := rfl
@[simp] theorem State.setPf_corrected (s : State) (o : Nat) (v : W64) : (s.setPf o v).corrected = s.corrected := rfl
@[simp] theorem State.setPf_flits (s : State) (o : Nat) (v : W64) : (s.setPf o v).flits = s.flits := rfl
@[simp] theorem State.setPf_linkq (s : State) (o : Nat) (v : W64) : (s.setPf o v).linkq = s.linkq := rfl
@[simp] theorem State.setPf_nextFlit (s : State) (o : Nat) (v : W64) : (s.setPf o v).nextFlit = s.nextFlit := rfl
@[simp] theorem State.setPf_nextXfer (s : State) (o : Nat) (v : W64) : (s.setPf o v).nextXfer = s.nextXfer := rfl
@[simp] theorem State.setPf_collTx (s : State) (o : Nat) (v : W64) : (s.setPf o v).collTx = s.collTx := rfl
@[simp] theorem State.setPf_images (s : State) (o : Nat) (v : W64) : (s.setPf o v).images = s.images := rfl
@[simp] theorem State.setPf_archive (s : State) (o : Nat) (v : W64) : (s.setPf o v).archive = s.archive := rfl
@[simp] theorem State.setPf_nextImage (s : State) (o : Nat) (v : W64) : (s.setPf o v).nextImage = s.nextImage := rfl
@[simp] theorem State.setPf_tst (s : State) (o : Nat) (v : W64) : (s.setPf o v).tst = s.tst := rfl
@[simp] theorem State.setPf_scrubq (s : State) (o : Nat) (v : W64) : (s.setPf o v).scrubq = s.scrubq := rfl
@[simp] theorem State.setPf_ports (s : State) (o : Nat) (v : W64) : (s.setPf o v).ports = s.ports := rfl
@[simp] theorem State.setPf_ethTabs (s : State) (o : Nat) (v : W64) : (s.setPf o v).ethTabs = s.ethTabs := rfl
@[simp] theorem State.setPf_ethTx (s : State) (o : Nat) (v : W64) : (s.setPf o v).ethTx = s.ethTx := rfl
@[simp] theorem State.setPf_boot (s : State) (o : Nat) (v : W64) : (s.setPf o v).boot = s.boot := rfl
@[simp] theorem State.setPf_tdi (s : State) (o : Nat) (v : W64) : (s.setPf o v).tdi = s.tdi := rfl
@[simp] theorem State.setPf_msix (s : State) (o : Nat) (v : W64) : (s.setPf o v).msix = s.msix := rfl
@[simp] theorem State.setPf_spdm (s : State) (o : Nat) (v : W64) : (s.setPf o v).spdm = s.spdm := rfl
@[simp] theorem State.setPf_hostRd (s : State) (o : Nat) (v : W64) : (s.setPf o v).hostRd = s.hostRd := rfl
@[simp] theorem State.setPf_order (s : State) (o : Nat) (v : W64) : (s.setPf o v).order = s.order := rfl
@[simp] theorem State.setPf_rc (s : State) (o : Nat) (v : W64) : (s.setPf o v).rc = s.rc := rfl
@[simp] theorem State.setPf_thrAt (s : State) (o : Nat) (v : W64) : (s.setPf o v).thrAt = s.thrAt := rfl
@[simp] theorem State.setPf_free (s : State) (o : Nat) (v : W64) : (s.setPf o v).free = s.free := rfl
@[simp] theorem State.setPf_turn (s : State) (o : Nat) (v : W64) : (s.setPf o v).turn = s.turn := rfl
@[simp] theorem State.setPf_agenda (s : State) (o : Nat) (v : W64) : (s.setPf o v).agenda = s.agenda := rfl

/-! ### An s register written -/

@[simp] theorem State.wr_cur (s : State) (r : Reg) (v : W64) : (s.wr r v).cur = s.cur := by unfold State.wr; split <;> rfl
@[simp] theorem State.wr_others (s : State) (r : Reg) (v : W64) : (s.wr r v).others = s.others := by unfold State.wr; split <;> rfl
@[simp] theorem State.wr_mem (s : State) (r : Reg) (v : W64) : (s.wr r v).mem = s.mem := by unfold State.wr; split <;> rfl
@[simp] theorem State.wr_poison (s : State) (r : Reg) (v : W64) : (s.wr r v).poison = s.poison := by unfold State.wr; split <;> rfl
@[simp] theorem State.wr_pf (s : State) (r : Reg) (v : W64) : (s.wr r v).pf = s.pf := by unfold State.wr; split <;> rfl
@[simp] theorem State.wr_tq (s : State) (r : Reg) (v : W64) : (s.wr r v).tq = s.tq := by unfold State.wr; split <;> rfl
@[simp] theorem State.wr_taken (s : State) (r : Reg) (v : W64) : (s.wr r v).taken = s.taken := by unfold State.wr; split <;> rfl
@[simp] theorem State.wr_nextSlot (s : State) (r : Reg) (v : W64) : (s.wr r v).nextSlot = s.nextSlot := by unfold State.wr; split <;> rfl
@[simp] theorem State.wr_launches (s : State) (r : Reg) (v : W64) : (s.wr r v).launches = s.launches := by unfold State.wr; split <;> rfl
@[simp] theorem State.wr_past (s : State) (r : Reg) (v : W64) : (s.wr r v).past = s.past := by unfold State.wr; split <;> rfl
@[simp] theorem State.wr_bindings (s : State) (r : Reg) (v : W64) : (s.wr r v).bindings = s.bindings := by unfold State.wr; split <;> rfl
@[simp] theorem State.wr_gangs (s : State) (r : Reg) (v : W64) : (s.wr r v).gangs = s.gangs := by unfold State.wr; split <;> rfl
@[simp] theorem State.wr_nextGang (s : State) (r : Reg) (v : W64) : (s.wr r v).nextGang = s.nextGang := by unfold State.wr; split <;> rfl
@[simp] theorem State.wr_fences (s : State) (r : Reg) (v : W64) : (s.wr r v).fences = s.fences := by unfold State.wr; split <;> rfl
@[simp] theorem State.wr_subs (s : State) (r : Reg) (v : W64) : (s.wr r v).subs = s.subs := by unfold State.wr; split <;> rfl
@[simp] theorem State.wr_replays (s : State) (r : Reg) (v : W64) : (s.wr r v).replays = s.replays := by unfold State.wr; split <;> rfl
@[simp] theorem State.wr_doorbells (s : State) (r : Reg) (v : W64) : (s.wr r v).doorbells = s.doorbells := by unfold State.wr; split <;> rfl
@[simp] theorem State.wr_markers (s : State) (r : Reg) (v : W64) : (s.wr r v).markers = s.markers := by unfold State.wr; split <;> rfl
@[simp] theorem State.wr_sieve (s : State) (r : Reg) (v : W64) : (s.wr r v).sieve = s.sieve := by unfold State.wr; split <;> rfl
@[simp] theorem State.wr_conflicts (s : State) (r : Reg) (v : W64) : (s.wr r v).conflicts = s.conflicts := by unfold State.wr; split <;> rfl
@[simp] theorem State.wr_detBars (s : State) (r : Reg) (v : W64) : (s.wr r v).detBars = s.detBars := by unfold State.wr; split <;> rfl
@[simp] theorem State.wr_llc (s : State) (r : Reg) (v : W64) : (s.wr r v).llc = s.llc := by unfold State.wr; split <;> rfl
@[simp] theorem State.wr_llcEv (s : State) (r : Reg) (v : W64) : (s.wr r v).llcEv = s.llcEv := by unfold State.wr; split <;> rfl
@[simp] theorem State.wr_llcClock (s : State) (r : Reg) (v : W64) : (s.wr r v).llcClock = s.llcClock := by unfold State.wr; split <;> rfl
@[simp] theorem State.wr_corrected (s : State) (r : Reg) (v : W64) : (s.wr r v).corrected = s.corrected := by unfold State.wr; split <;> rfl
@[simp] theorem State.wr_flits (s : State) (r : Reg) (v : W64) : (s.wr r v).flits = s.flits := by unfold State.wr; split <;> rfl
@[simp] theorem State.wr_linkq (s : State) (r : Reg) (v : W64) : (s.wr r v).linkq = s.linkq := by unfold State.wr; split <;> rfl
@[simp] theorem State.wr_nextFlit (s : State) (r : Reg) (v : W64) : (s.wr r v).nextFlit = s.nextFlit := by unfold State.wr; split <;> rfl
@[simp] theorem State.wr_nextXfer (s : State) (r : Reg) (v : W64) : (s.wr r v).nextXfer = s.nextXfer := by unfold State.wr; split <;> rfl
@[simp] theorem State.wr_collTx (s : State) (r : Reg) (v : W64) : (s.wr r v).collTx = s.collTx := by unfold State.wr; split <;> rfl
@[simp] theorem State.wr_images (s : State) (r : Reg) (v : W64) : (s.wr r v).images = s.images := by unfold State.wr; split <;> rfl
@[simp] theorem State.wr_archive (s : State) (r : Reg) (v : W64) : (s.wr r v).archive = s.archive := by unfold State.wr; split <;> rfl
@[simp] theorem State.wr_nextImage (s : State) (r : Reg) (v : W64) : (s.wr r v).nextImage = s.nextImage := by unfold State.wr; split <;> rfl
@[simp] theorem State.wr_tst (s : State) (r : Reg) (v : W64) : (s.wr r v).tst = s.tst := by unfold State.wr; split <;> rfl
@[simp] theorem State.wr_scrubq (s : State) (r : Reg) (v : W64) : (s.wr r v).scrubq = s.scrubq := by unfold State.wr; split <;> rfl
@[simp] theorem State.wr_ports (s : State) (r : Reg) (v : W64) : (s.wr r v).ports = s.ports := by unfold State.wr; split <;> rfl
@[simp] theorem State.wr_ethTabs (s : State) (r : Reg) (v : W64) : (s.wr r v).ethTabs = s.ethTabs := by unfold State.wr; split <;> rfl
@[simp] theorem State.wr_ethTx (s : State) (r : Reg) (v : W64) : (s.wr r v).ethTx = s.ethTx := by unfold State.wr; split <;> rfl
@[simp] theorem State.wr_boot (s : State) (r : Reg) (v : W64) : (s.wr r v).boot = s.boot := by unfold State.wr; split <;> rfl
@[simp] theorem State.wr_tdi (s : State) (r : Reg) (v : W64) : (s.wr r v).tdi = s.tdi := by unfold State.wr; split <;> rfl
@[simp] theorem State.wr_msix (s : State) (r : Reg) (v : W64) : (s.wr r v).msix = s.msix := by unfold State.wr; split <;> rfl
@[simp] theorem State.wr_spdm (s : State) (r : Reg) (v : W64) : (s.wr r v).spdm = s.spdm := by unfold State.wr; split <;> rfl
@[simp] theorem State.wr_hostRd (s : State) (r : Reg) (v : W64) : (s.wr r v).hostRd = s.hostRd := by unfold State.wr; split <;> rfl
@[simp] theorem State.wr_order (s : State) (r : Reg) (v : W64) : (s.wr r v).order = s.order := by unfold State.wr; split <;> rfl
@[simp] theorem State.wr_rc (s : State) (r : Reg) (v : W64) : (s.wr r v).rc = s.rc := by unfold State.wr; split <;> rfl
@[simp] theorem State.wr_thrAt (s : State) (r : Reg) (v : W64) : (s.wr r v).thrAt = s.thrAt := by unfold State.wr; split <;> rfl
@[simp] theorem State.wr_free (s : State) (r : Reg) (v : W64) : (s.wr r v).free = s.free := by unfold State.wr; split <;> rfl
@[simp] theorem State.wr_turn (s : State) (r : Reg) (v : W64) : (s.wr r v).turn = s.turn := by unfold State.wr; split <;> rfl
@[simp] theorem State.wr_agenda (s : State) (r : Reg) (v : W64) : (s.wr r v).agenda = s.agenda := by unfold State.wr; split <;> rfl
@[simp] theorem State.wr_core_pc (s : State) (r : Reg) (v : W64) : (s.wr r v).core.pc = s.core.pc := by unfold State.wr; split <;> rfl
@[simp] theorem State.wr_core_lc0 (s : State) (r : Reg) (v : W64) : (s.wr r v).core.lc0 = s.core.lc0 := by unfold State.wr; split <;> rfl
@[simp] theorem State.wr_core_lc1 (s : State) (r : Reg) (v : W64) : (s.wr r v).core.lc1 = s.core.lc1 := by unfold State.wr; split <;> rfl
@[simp] theorem State.wr_core_vrb (s : State) (r : Reg) (v : W64) : (s.wr r v).core.vrb = s.core.vrb := by unfold State.wr; split <;> rfl
@[simp] theorem State.wr_core_sfc (s : State) (r : Reg) (v : W64) : (s.wr r v).core.sfc = s.core.sfc := by unfold State.wr; split <;> rfl
@[simp] theorem State.wr_core_sflen (s : State) (r : Reg) (v : W64) : (s.wr r v).core.sflen = s.core.sflen := by unfold State.wr; split <;> rfl
@[simp] theorem State.wr_core_fce (s : State) (r : Reg) (v : W64) : (s.wr r v).core.fce = s.core.fce := by unfold State.wr; split <;> rfl
@[simp] theorem State.wr_core_det (s : State) (r : Reg) (v : W64) : (s.wr r v).core.det = s.core.det := by unfold State.wr; split <;> rfl
@[simp] theorem State.wr_core_pl (s : State) (r : Reg) (v : W64) : (s.wr r v).core.pl = s.core.pl := by unfold State.wr; split <;> rfl
@[simp] theorem State.wr_core_levelBase (s : State) (r : Reg) (v : W64) : (s.wr r v).core.levelBase = s.core.levelBase := by unfold State.wr; split <;> rfl
@[simp] theorem State.wr_core_banks (s : State) (r : Reg) (v : W64) : (s.wr r v).core.banks = s.core.banks := by unfold State.wr; split <;> rfl
@[simp] theorem State.wr_core_tok (s : State) (r : Reg) (v : W64) : (s.wr r v).core.tok = s.core.tok := by unfold State.wr; split <;> rfl
@[simp] theorem State.wr_core_ev (s : State) (r : Reg) (v : W64) : (s.wr r v).core.ev = s.core.ev := by unfold State.wr; split <;> rfl
@[simp] theorem State.wr_core_arv (s : State) (r : Reg) (v : W64) : (s.wr r v).core.arv = s.core.arv := by unfold State.wr; split <;> rfl
@[simp] theorem State.wr_core_ctr (s : State) (r : Reg) (v : W64) : (s.wr r v).core.ctr = s.core.ctr := by unfold State.wr; split <;> rfl
@[simp] theorem State.wr_core_llcwSel (s : State) (r : Reg) (v : W64) : (s.wr r v).core.llcwSel = s.core.llcwSel := by unfold State.wr; split <;> rfl
@[simp] theorem State.wr_core_eng (s : State) (r : Reg) (v : W64) : (s.wr r v).core.eng = s.core.eng := by unfold State.wr; split <;> rfl
@[simp] theorem State.wr_core_vx (s : State) (r : Reg) (v : W64) : (s.wr r v).core.vx = s.core.vx := by unfold State.wr; split <;> rfl
@[simp] theorem State.wr_core_mx (s : State) (r : Reg) (v : W64) : (s.wr r v).core.mx = s.core.mx := by unfold State.wr; split <;> rfl
@[simp] theorem State.wr_core_sx (s : State) (r : Reg) (v : W64) : (s.wr r v).core.sx = s.core.sx := by unfold State.wr; split <;> rfl
@[simp] theorem State.wr_core_cp (s : State) (r : Reg) (v : W64) : (s.wr r v).core.cp = s.core.cp := by unfold State.wr; split <;> rfl
@[simp] theorem State.wr_core_fr (s : State) (r : Reg) (v : W64) : (s.wr r v).core.fr = s.core.fr := by unfold State.wr; split <;> rfl
@[simp] theorem State.wr_core_sb (s : State) (r : Reg) (v : W64) : (s.wr r v).core.sb = s.core.sb := by unfold State.wr; split <;> rfl
@[simp] theorem State.wr_core_l1 (s : State) (r : Reg) (v : W64) : (s.wr r v).core.l1 = s.core.l1 := by unfold State.wr; split <;> rfl
@[simp] theorem State.wr_core_wait (s : State) (r : Reg) (v : W64) : (s.wr r v).core.wait = s.core.wait := by unfold State.wr; split <;> rfl
@[simp] theorem State.wr_core_work (s : State) (r : Reg) (v : W64) : (s.wr r v).core.work = s.core.work := by unfold State.wr; split <;> rfl
@[simp] theorem State.wr_core_trig (s : State) (r : Reg) (v : W64) : (s.wr r v).core.trig = s.core.trig := by unfold State.wr; split <;> rfl
@[simp] theorem State.wr_core_resident (s : State) (r : Reg) (v : W64) : (s.wr r v).core.resident = s.core.resident := by unfold State.wr; split <;> rfl
@[simp] theorem State.wr_core_part (s : State) (r : Reg) (v : W64) : (s.wr r v).core.part = s.core.part := by unfold State.wr; split <;> rfl
@[simp] theorem State.wr_core_preloaded (s : State) (r : Reg) (v : W64) : (s.wr r v).core.preloaded = s.core.preloaded := by unfold State.wr; split <;> rfl
@[simp] theorem State.wr_core_entry (s : State) (r : Reg) (v : W64) : (s.wr r v).core.entry = s.core.entry := by unfold State.wr; split <;> rfl
@[simp] theorem State.wr_core_idleAt (s : State) (r : Reg) (v : W64) : (s.wr r v).core.idleAt = s.core.idleAt := by unfold State.wr; split <;> rfl
@[simp] theorem State.wr_core_run (s : State) (r : Reg) (v : W64) : (s.wr r v).core.run = s.core.run := by unfold State.wr; split <;> rfl
@[simp] theorem State.wr_core_reserved (s : State) (r : Reg) (v : W64) : (s.wr r v).core.reserved = s.core.reserved := by unfold State.wr; split <;> rfl
@[simp] theorem State.wr_core_stored (s : State) (r : Reg) (v : W64) : (s.wr r v).core.stored = s.core.stored := by unfold State.wr; split <;> rfl
@[simp] theorem State.wr_core_rsbHeld (s : State) (r : Reg) (v : W64) : (s.wr r v).core.rsbHeld = s.core.rsbHeld := by unfold State.wr; split <;> rfl
@[simp] theorem State.wr_core_wdog (s : State) (r : Reg) (v : W64) : (s.wr r v).core.wdog = s.core.wdog := by unfold State.wr; split <;> rfl
@[simp] theorem State.wr_core_quiet (s : State) (r : Reg) (v : W64) : (s.wr r v).core.quiet = s.core.quiet := by unfold State.wr; split <;> rfl
@[simp] theorem State.wr_core_qstop (s : State) (r : Reg) (v : W64) : (s.wr r v).core.qstop = s.core.qstop := by unfold State.wr; split <;> rfl
@[simp] theorem State.wr_core_qlevel (s : State) (r : Reg) (v : W64) : (s.wr r v).core.qlevel = s.core.qlevel := by unfold State.wr; split <;> rfl
@[simp] theorem State.wr_core_outst (s : State) (r : Reg) (v : W64) : (s.wr r v).core.outst = s.core.outst := by unfold State.wr; split <;> rfl
@[simp] theorem State.wr_core_left (s : State) (r : Reg) (v : W64) : (s.wr r v).core.left = s.core.left := by unfold State.wr; split <;> rfl
@[simp] theorem State.wr_core_sent (s : State) (r : Reg) (v : W64) : (s.wr r v).core.sent = s.core.sent := by unfold State.wr; split <;> rfl
@[simp] theorem State.wr_core_parked (s : State) (r : Reg) (v : W64) : (s.wr r v).core.parked = s.core.parked := by unfold State.wr; split <;> rfl
@[simp] theorem State.wr_core_orbit (s : State) (r : Reg) (v : W64) : (s.wr r v).core.orbit = s.core.orbit := by unfold State.wr; split <;> rfl
@[simp] theorem State.wr_core_accepted (s : State) (r : Reg) (v : W64) : (s.wr r v).core.accepted = s.core.accepted := by unfold State.wr; split <;> rfl
@[simp] theorem State.wr_core_dbg (s : State) (r : Reg) (v : W64) : (s.wr r v).core.dbg = s.core.dbg := by unfold State.wr; split <;> rfl

/-! ### A bank of the fault CSRs replaced -/

@[simp] theorem State.setBank_cur (s : State) (n : Nat) (b : Bank) : (s.setBank n b).cur = s.cur := rfl
@[simp] theorem State.setBank_others (s : State) (n : Nat) (b : Bank) : (s.setBank n b).others = s.others := rfl
@[simp] theorem State.setBank_mem (s : State) (n : Nat) (b : Bank) : (s.setBank n b).mem = s.mem := rfl
@[simp] theorem State.setBank_poison (s : State) (n : Nat) (b : Bank) : (s.setBank n b).poison = s.poison := rfl
@[simp] theorem State.setBank_pf (s : State) (n : Nat) (b : Bank) : (s.setBank n b).pf = s.pf := rfl
@[simp] theorem State.setBank_tq (s : State) (n : Nat) (b : Bank) : (s.setBank n b).tq = s.tq := rfl
@[simp] theorem State.setBank_taken (s : State) (n : Nat) (b : Bank) : (s.setBank n b).taken = s.taken := rfl
@[simp] theorem State.setBank_nextSlot (s : State) (n : Nat) (b : Bank) : (s.setBank n b).nextSlot = s.nextSlot := rfl
@[simp] theorem State.setBank_launches (s : State) (n : Nat) (b : Bank) : (s.setBank n b).launches = s.launches := rfl
@[simp] theorem State.setBank_past (s : State) (n : Nat) (b : Bank) : (s.setBank n b).past = s.past := rfl
@[simp] theorem State.setBank_bindings (s : State) (n : Nat) (b : Bank) : (s.setBank n b).bindings = s.bindings := rfl
@[simp] theorem State.setBank_gangs (s : State) (n : Nat) (b : Bank) : (s.setBank n b).gangs = s.gangs := rfl
@[simp] theorem State.setBank_nextGang (s : State) (n : Nat) (b : Bank) : (s.setBank n b).nextGang = s.nextGang := rfl
@[simp] theorem State.setBank_fences (s : State) (n : Nat) (b : Bank) : (s.setBank n b).fences = s.fences := rfl
@[simp] theorem State.setBank_subs (s : State) (n : Nat) (b : Bank) : (s.setBank n b).subs = s.subs := rfl
@[simp] theorem State.setBank_replays (s : State) (n : Nat) (b : Bank) : (s.setBank n b).replays = s.replays := rfl
@[simp] theorem State.setBank_doorbells (s : State) (n : Nat) (b : Bank) : (s.setBank n b).doorbells = s.doorbells := rfl
@[simp] theorem State.setBank_markers (s : State) (n : Nat) (b : Bank) : (s.setBank n b).markers = s.markers := rfl
@[simp] theorem State.setBank_sieve (s : State) (n : Nat) (b : Bank) : (s.setBank n b).sieve = s.sieve := rfl
@[simp] theorem State.setBank_conflicts (s : State) (n : Nat) (b : Bank) : (s.setBank n b).conflicts = s.conflicts := rfl
@[simp] theorem State.setBank_detBars (s : State) (n : Nat) (b : Bank) : (s.setBank n b).detBars = s.detBars := rfl
@[simp] theorem State.setBank_llc (s : State) (n : Nat) (b : Bank) : (s.setBank n b).llc = s.llc := rfl
@[simp] theorem State.setBank_llcEv (s : State) (n : Nat) (b : Bank) : (s.setBank n b).llcEv = s.llcEv := rfl
@[simp] theorem State.setBank_llcClock (s : State) (n : Nat) (b : Bank) : (s.setBank n b).llcClock = s.llcClock := rfl
@[simp] theorem State.setBank_corrected (s : State) (n : Nat) (b : Bank) : (s.setBank n b).corrected = s.corrected := rfl
@[simp] theorem State.setBank_flits (s : State) (n : Nat) (b : Bank) : (s.setBank n b).flits = s.flits := rfl
@[simp] theorem State.setBank_linkq (s : State) (n : Nat) (b : Bank) : (s.setBank n b).linkq = s.linkq := rfl
@[simp] theorem State.setBank_nextFlit (s : State) (n : Nat) (b : Bank) : (s.setBank n b).nextFlit = s.nextFlit := rfl
@[simp] theorem State.setBank_nextXfer (s : State) (n : Nat) (b : Bank) : (s.setBank n b).nextXfer = s.nextXfer := rfl
@[simp] theorem State.setBank_collTx (s : State) (n : Nat) (b : Bank) : (s.setBank n b).collTx = s.collTx := rfl
@[simp] theorem State.setBank_images (s : State) (n : Nat) (b : Bank) : (s.setBank n b).images = s.images := rfl
@[simp] theorem State.setBank_archive (s : State) (n : Nat) (b : Bank) : (s.setBank n b).archive = s.archive := rfl
@[simp] theorem State.setBank_nextImage (s : State) (n : Nat) (b : Bank) : (s.setBank n b).nextImage = s.nextImage := rfl
@[simp] theorem State.setBank_tst (s : State) (n : Nat) (b : Bank) : (s.setBank n b).tst = s.tst := rfl
@[simp] theorem State.setBank_scrubq (s : State) (n : Nat) (b : Bank) : (s.setBank n b).scrubq = s.scrubq := rfl
@[simp] theorem State.setBank_ports (s : State) (n : Nat) (b : Bank) : (s.setBank n b).ports = s.ports := rfl
@[simp] theorem State.setBank_ethTabs (s : State) (n : Nat) (b : Bank) : (s.setBank n b).ethTabs = s.ethTabs := rfl
@[simp] theorem State.setBank_ethTx (s : State) (n : Nat) (b : Bank) : (s.setBank n b).ethTx = s.ethTx := rfl
@[simp] theorem State.setBank_boot (s : State) (n : Nat) (b : Bank) : (s.setBank n b).boot = s.boot := rfl
@[simp] theorem State.setBank_tdi (s : State) (n : Nat) (b : Bank) : (s.setBank n b).tdi = s.tdi := rfl
@[simp] theorem State.setBank_msix (s : State) (n : Nat) (b : Bank) : (s.setBank n b).msix = s.msix := rfl
@[simp] theorem State.setBank_spdm (s : State) (n : Nat) (b : Bank) : (s.setBank n b).spdm = s.spdm := rfl
@[simp] theorem State.setBank_hostRd (s : State) (n : Nat) (b : Bank) : (s.setBank n b).hostRd = s.hostRd := rfl
@[simp] theorem State.setBank_order (s : State) (n : Nat) (b : Bank) : (s.setBank n b).order = s.order := rfl
@[simp] theorem State.setBank_rc (s : State) (n : Nat) (b : Bank) : (s.setBank n b).rc = s.rc := rfl
@[simp] theorem State.setBank_thrAt (s : State) (n : Nat) (b : Bank) : (s.setBank n b).thrAt = s.thrAt := rfl
@[simp] theorem State.setBank_free (s : State) (n : Nat) (b : Bank) : (s.setBank n b).free = s.free := rfl
@[simp] theorem State.setBank_turn (s : State) (n : Nat) (b : Bank) : (s.setBank n b).turn = s.turn := rfl
@[simp] theorem State.setBank_agenda (s : State) (n : Nat) (b : Bank) : (s.setBank n b).agenda = s.agenda := rfl
@[simp] theorem State.setBank_core_s (s : State) (n : Nat) (b : Bank) : (s.setBank n b).core.s = s.core.s := rfl
@[simp] theorem State.setBank_core_pc (s : State) (n : Nat) (b : Bank) : (s.setBank n b).core.pc = s.core.pc := rfl
@[simp] theorem State.setBank_core_lc0 (s : State) (n : Nat) (b : Bank) : (s.setBank n b).core.lc0 = s.core.lc0 := rfl
@[simp] theorem State.setBank_core_lc1 (s : State) (n : Nat) (b : Bank) : (s.setBank n b).core.lc1 = s.core.lc1 := rfl
@[simp] theorem State.setBank_core_vrb (s : State) (n : Nat) (b : Bank) : (s.setBank n b).core.vrb = s.core.vrb := rfl
@[simp] theorem State.setBank_core_sfc (s : State) (n : Nat) (b : Bank) : (s.setBank n b).core.sfc = s.core.sfc := rfl
@[simp] theorem State.setBank_core_sflen (s : State) (n : Nat) (b : Bank) : (s.setBank n b).core.sflen = s.core.sflen := rfl
@[simp] theorem State.setBank_core_fce (s : State) (n : Nat) (b : Bank) : (s.setBank n b).core.fce = s.core.fce := rfl
@[simp] theorem State.setBank_core_det (s : State) (n : Nat) (b : Bank) : (s.setBank n b).core.det = s.core.det := rfl
@[simp] theorem State.setBank_core_pl (s : State) (n : Nat) (b : Bank) : (s.setBank n b).core.pl = s.core.pl := rfl
@[simp] theorem State.setBank_core_levelBase (s : State) (n : Nat) (b : Bank) : (s.setBank n b).core.levelBase = s.core.levelBase := rfl
@[simp] theorem State.setBank_core_tok (s : State) (n : Nat) (b : Bank) : (s.setBank n b).core.tok = s.core.tok := rfl
@[simp] theorem State.setBank_core_ev (s : State) (n : Nat) (b : Bank) : (s.setBank n b).core.ev = s.core.ev := rfl
@[simp] theorem State.setBank_core_arv (s : State) (n : Nat) (b : Bank) : (s.setBank n b).core.arv = s.core.arv := rfl
@[simp] theorem State.setBank_core_ctr (s : State) (n : Nat) (b : Bank) : (s.setBank n b).core.ctr = s.core.ctr := rfl
@[simp] theorem State.setBank_core_llcwSel (s : State) (n : Nat) (b : Bank) : (s.setBank n b).core.llcwSel = s.core.llcwSel := rfl
@[simp] theorem State.setBank_core_eng (s : State) (n : Nat) (b : Bank) : (s.setBank n b).core.eng = s.core.eng := rfl
@[simp] theorem State.setBank_core_vx (s : State) (n : Nat) (b : Bank) : (s.setBank n b).core.vx = s.core.vx := rfl
@[simp] theorem State.setBank_core_mx (s : State) (n : Nat) (b : Bank) : (s.setBank n b).core.mx = s.core.mx := rfl
@[simp] theorem State.setBank_core_sx (s : State) (n : Nat) (b : Bank) : (s.setBank n b).core.sx = s.core.sx := rfl
@[simp] theorem State.setBank_core_cp (s : State) (n : Nat) (b : Bank) : (s.setBank n b).core.cp = s.core.cp := rfl
@[simp] theorem State.setBank_core_fr (s : State) (n : Nat) (b : Bank) : (s.setBank n b).core.fr = s.core.fr := rfl
@[simp] theorem State.setBank_core_sb (s : State) (n : Nat) (b : Bank) : (s.setBank n b).core.sb = s.core.sb := rfl
@[simp] theorem State.setBank_core_l1 (s : State) (n : Nat) (b : Bank) : (s.setBank n b).core.l1 = s.core.l1 := rfl
@[simp] theorem State.setBank_core_wait (s : State) (n : Nat) (b : Bank) : (s.setBank n b).core.wait = s.core.wait := rfl
@[simp] theorem State.setBank_core_work (s : State) (n : Nat) (b : Bank) : (s.setBank n b).core.work = s.core.work := rfl
@[simp] theorem State.setBank_core_trig (s : State) (n : Nat) (b : Bank) : (s.setBank n b).core.trig = s.core.trig := rfl
@[simp] theorem State.setBank_core_resident (s : State) (n : Nat) (b : Bank) : (s.setBank n b).core.resident = s.core.resident := rfl
@[simp] theorem State.setBank_core_part (s : State) (n : Nat) (b : Bank) : (s.setBank n b).core.part = s.core.part := rfl
@[simp] theorem State.setBank_core_preloaded (s : State) (n : Nat) (b : Bank) : (s.setBank n b).core.preloaded = s.core.preloaded := rfl
@[simp] theorem State.setBank_core_entry (s : State) (n : Nat) (b : Bank) : (s.setBank n b).core.entry = s.core.entry := rfl
@[simp] theorem State.setBank_core_idleAt (s : State) (n : Nat) (b : Bank) : (s.setBank n b).core.idleAt = s.core.idleAt := rfl
@[simp] theorem State.setBank_core_run (s : State) (n : Nat) (b : Bank) : (s.setBank n b).core.run = s.core.run := rfl
@[simp] theorem State.setBank_core_reserved (s : State) (n : Nat) (b : Bank) : (s.setBank n b).core.reserved = s.core.reserved := rfl
@[simp] theorem State.setBank_core_stored (s : State) (n : Nat) (b : Bank) : (s.setBank n b).core.stored = s.core.stored := rfl
@[simp] theorem State.setBank_core_rsbHeld (s : State) (n : Nat) (b : Bank) : (s.setBank n b).core.rsbHeld = s.core.rsbHeld := rfl
@[simp] theorem State.setBank_core_wdog (s : State) (n : Nat) (b : Bank) : (s.setBank n b).core.wdog = s.core.wdog := rfl
@[simp] theorem State.setBank_core_quiet (s : State) (n : Nat) (b : Bank) : (s.setBank n b).core.quiet = s.core.quiet := rfl
@[simp] theorem State.setBank_core_qstop (s : State) (n : Nat) (b : Bank) : (s.setBank n b).core.qstop = s.core.qstop := rfl
@[simp] theorem State.setBank_core_qlevel (s : State) (n : Nat) (b : Bank) : (s.setBank n b).core.qlevel = s.core.qlevel := rfl
@[simp] theorem State.setBank_core_outst (s : State) (n : Nat) (b : Bank) : (s.setBank n b).core.outst = s.core.outst := rfl
@[simp] theorem State.setBank_core_left (s : State) (n : Nat) (b : Bank) : (s.setBank n b).core.left = s.core.left := rfl
@[simp] theorem State.setBank_core_sent (s : State) (n : Nat) (b : Bank) : (s.setBank n b).core.sent = s.core.sent := rfl
@[simp] theorem State.setBank_core_parked (s : State) (n : Nat) (b : Bank) : (s.setBank n b).core.parked = s.core.parked := rfl
@[simp] theorem State.setBank_core_orbit (s : State) (n : Nat) (b : Bank) : (s.setBank n b).core.orbit = s.core.orbit := rfl
@[simp] theorem State.setBank_core_accepted (s : State) (n : Nat) (b : Bank) : (s.setBank n b).core.accepted = s.core.accepted := rfl
@[simp] theorem State.setBank_core_dbg (s : State) (n : Nat) (b : Bank) : (s.setBank n b).core.dbg = s.core.dbg := rfl

/-! ### An instruction left sequentially -/

@[simp] theorem State.retireTo_cur (s : State) (n : Addr) : (s.retireTo n).cur = s.cur := rfl
@[simp] theorem State.retireTo_others (s : State) (n : Addr) : (s.retireTo n).others = s.others := rfl
@[simp] theorem State.retireTo_mem (s : State) (n : Addr) : (s.retireTo n).mem = s.mem := rfl
@[simp] theorem State.retireTo_poison (s : State) (n : Addr) : (s.retireTo n).poison = s.poison := rfl
@[simp] theorem State.retireTo_pf (s : State) (n : Addr) : (s.retireTo n).pf = s.pf := rfl
@[simp] theorem State.retireTo_tq (s : State) (n : Addr) : (s.retireTo n).tq = s.tq := rfl
@[simp] theorem State.retireTo_taken (s : State) (n : Addr) : (s.retireTo n).taken = s.taken := rfl
@[simp] theorem State.retireTo_nextSlot (s : State) (n : Addr) : (s.retireTo n).nextSlot = s.nextSlot := rfl
@[simp] theorem State.retireTo_launches (s : State) (n : Addr) : (s.retireTo n).launches = s.launches := rfl
@[simp] theorem State.retireTo_past (s : State) (n : Addr) : (s.retireTo n).past = s.past := rfl
@[simp] theorem State.retireTo_bindings (s : State) (n : Addr) : (s.retireTo n).bindings = s.bindings := rfl
@[simp] theorem State.retireTo_gangs (s : State) (n : Addr) : (s.retireTo n).gangs = s.gangs := rfl
@[simp] theorem State.retireTo_nextGang (s : State) (n : Addr) : (s.retireTo n).nextGang = s.nextGang := rfl
@[simp] theorem State.retireTo_fences (s : State) (n : Addr) : (s.retireTo n).fences = s.fences := rfl
@[simp] theorem State.retireTo_subs (s : State) (n : Addr) : (s.retireTo n).subs = s.subs := rfl
@[simp] theorem State.retireTo_replays (s : State) (n : Addr) : (s.retireTo n).replays = s.replays := rfl
@[simp] theorem State.retireTo_doorbells (s : State) (n : Addr) : (s.retireTo n).doorbells = s.doorbells := rfl
@[simp] theorem State.retireTo_markers (s : State) (n : Addr) : (s.retireTo n).markers = s.markers := rfl
@[simp] theorem State.retireTo_sieve (s : State) (n : Addr) : (s.retireTo n).sieve = s.sieve := rfl
@[simp] theorem State.retireTo_conflicts (s : State) (n : Addr) : (s.retireTo n).conflicts = s.conflicts := rfl
@[simp] theorem State.retireTo_detBars (s : State) (n : Addr) : (s.retireTo n).detBars = s.detBars := rfl
@[simp] theorem State.retireTo_llc (s : State) (n : Addr) : (s.retireTo n).llc = s.llc := rfl
@[simp] theorem State.retireTo_llcEv (s : State) (n : Addr) : (s.retireTo n).llcEv = s.llcEv := rfl
@[simp] theorem State.retireTo_llcClock (s : State) (n : Addr) : (s.retireTo n).llcClock = s.llcClock := rfl
@[simp] theorem State.retireTo_corrected (s : State) (n : Addr) : (s.retireTo n).corrected = s.corrected := rfl
@[simp] theorem State.retireTo_flits (s : State) (n : Addr) : (s.retireTo n).flits = s.flits := rfl
@[simp] theorem State.retireTo_linkq (s : State) (n : Addr) : (s.retireTo n).linkq = s.linkq := rfl
@[simp] theorem State.retireTo_nextFlit (s : State) (n : Addr) : (s.retireTo n).nextFlit = s.nextFlit := rfl
@[simp] theorem State.retireTo_nextXfer (s : State) (n : Addr) : (s.retireTo n).nextXfer = s.nextXfer := rfl
@[simp] theorem State.retireTo_collTx (s : State) (n : Addr) : (s.retireTo n).collTx = s.collTx := rfl
@[simp] theorem State.retireTo_images (s : State) (n : Addr) : (s.retireTo n).images = s.images := rfl
@[simp] theorem State.retireTo_archive (s : State) (n : Addr) : (s.retireTo n).archive = s.archive := rfl
@[simp] theorem State.retireTo_nextImage (s : State) (n : Addr) : (s.retireTo n).nextImage = s.nextImage := rfl
@[simp] theorem State.retireTo_tst (s : State) (n : Addr) : (s.retireTo n).tst = s.tst := rfl
@[simp] theorem State.retireTo_scrubq (s : State) (n : Addr) : (s.retireTo n).scrubq = s.scrubq := rfl
@[simp] theorem State.retireTo_ports (s : State) (n : Addr) : (s.retireTo n).ports = s.ports := rfl
@[simp] theorem State.retireTo_ethTabs (s : State) (n : Addr) : (s.retireTo n).ethTabs = s.ethTabs := rfl
@[simp] theorem State.retireTo_ethTx (s : State) (n : Addr) : (s.retireTo n).ethTx = s.ethTx := rfl
@[simp] theorem State.retireTo_boot (s : State) (n : Addr) : (s.retireTo n).boot = s.boot := rfl
@[simp] theorem State.retireTo_tdi (s : State) (n : Addr) : (s.retireTo n).tdi = s.tdi := rfl
@[simp] theorem State.retireTo_msix (s : State) (n : Addr) : (s.retireTo n).msix = s.msix := rfl
@[simp] theorem State.retireTo_spdm (s : State) (n : Addr) : (s.retireTo n).spdm = s.spdm := rfl
@[simp] theorem State.retireTo_hostRd (s : State) (n : Addr) : (s.retireTo n).hostRd = s.hostRd := rfl
@[simp] theorem State.retireTo_order (s : State) (n : Addr) : (s.retireTo n).order = s.order := rfl
@[simp] theorem State.retireTo_rc (s : State) (n : Addr) : (s.retireTo n).rc = s.rc := rfl
@[simp] theorem State.retireTo_thrAt (s : State) (n : Addr) : (s.retireTo n).thrAt = s.thrAt := rfl
@[simp] theorem State.retireTo_free (s : State) (n : Addr) : (s.retireTo n).free = s.free := rfl
@[simp] theorem State.retireTo_turn (s : State) (n : Addr) : (s.retireTo n).turn = s.turn := rfl
@[simp] theorem State.retireTo_agenda (s : State) (n : Addr) : (s.retireTo n).agenda = s.agenda := rfl
@[simp] theorem State.retireTo_core_s (s : State) (n : Addr) : (s.retireTo n).core.s = s.core.s := rfl
@[simp] theorem State.retireTo_core_vrb (s : State) (n : Addr) : (s.retireTo n).core.vrb = s.core.vrb := rfl
@[simp] theorem State.retireTo_core_sfc (s : State) (n : Addr) : (s.retireTo n).core.sfc = s.core.sfc := rfl
@[simp] theorem State.retireTo_core_sflen (s : State) (n : Addr) : (s.retireTo n).core.sflen = s.core.sflen := rfl
@[simp] theorem State.retireTo_core_fce (s : State) (n : Addr) : (s.retireTo n).core.fce = s.core.fce := rfl
@[simp] theorem State.retireTo_core_det (s : State) (n : Addr) : (s.retireTo n).core.det = s.core.det := rfl
@[simp] theorem State.retireTo_core_pl (s : State) (n : Addr) : (s.retireTo n).core.pl = s.core.pl := rfl
@[simp] theorem State.retireTo_core_levelBase (s : State) (n : Addr) : (s.retireTo n).core.levelBase = s.core.levelBase := rfl
@[simp] theorem State.retireTo_core_banks (s : State) (n : Addr) : (s.retireTo n).core.banks = s.core.banks := rfl
@[simp] theorem State.retireTo_core_tok (s : State) (n : Addr) : (s.retireTo n).core.tok = s.core.tok := rfl
@[simp] theorem State.retireTo_core_ev (s : State) (n : Addr) : (s.retireTo n).core.ev = s.core.ev := rfl
@[simp] theorem State.retireTo_core_llcwSel (s : State) (n : Addr) : (s.retireTo n).core.llcwSel = s.core.llcwSel := rfl
@[simp] theorem State.retireTo_core_eng (s : State) (n : Addr) : (s.retireTo n).core.eng = s.core.eng := rfl
@[simp] theorem State.retireTo_core_vx (s : State) (n : Addr) : (s.retireTo n).core.vx = s.core.vx := rfl
@[simp] theorem State.retireTo_core_mx (s : State) (n : Addr) : (s.retireTo n).core.mx = s.core.mx := rfl
@[simp] theorem State.retireTo_core_sx (s : State) (n : Addr) : (s.retireTo n).core.sx = s.core.sx := rfl
@[simp] theorem State.retireTo_core_cp (s : State) (n : Addr) : (s.retireTo n).core.cp = s.core.cp := rfl
@[simp] theorem State.retireTo_core_fr (s : State) (n : Addr) : (s.retireTo n).core.fr = s.core.fr := rfl
@[simp] theorem State.retireTo_core_sb (s : State) (n : Addr) : (s.retireTo n).core.sb = s.core.sb := rfl
@[simp] theorem State.retireTo_core_l1 (s : State) (n : Addr) : (s.retireTo n).core.l1 = s.core.l1 := rfl
@[simp] theorem State.retireTo_core_work (s : State) (n : Addr) : (s.retireTo n).core.work = s.core.work := rfl
@[simp] theorem State.retireTo_core_trig (s : State) (n : Addr) : (s.retireTo n).core.trig = s.core.trig := rfl
@[simp] theorem State.retireTo_core_resident (s : State) (n : Addr) : (s.retireTo n).core.resident = s.core.resident := rfl
@[simp] theorem State.retireTo_core_part (s : State) (n : Addr) : (s.retireTo n).core.part = s.core.part := rfl
@[simp] theorem State.retireTo_core_preloaded (s : State) (n : Addr) : (s.retireTo n).core.preloaded = s.core.preloaded := rfl
@[simp] theorem State.retireTo_core_entry (s : State) (n : Addr) : (s.retireTo n).core.entry = s.core.entry := rfl
@[simp] theorem State.retireTo_core_idleAt (s : State) (n : Addr) : (s.retireTo n).core.idleAt = s.core.idleAt := rfl
@[simp] theorem State.retireTo_core_run (s : State) (n : Addr) : (s.retireTo n).core.run = s.core.run := rfl
@[simp] theorem State.retireTo_core_reserved (s : State) (n : Addr) : (s.retireTo n).core.reserved = s.core.reserved := rfl
@[simp] theorem State.retireTo_core_stored (s : State) (n : Addr) : (s.retireTo n).core.stored = s.core.stored := rfl
@[simp] theorem State.retireTo_core_rsbHeld (s : State) (n : Addr) : (s.retireTo n).core.rsbHeld = s.core.rsbHeld := rfl
@[simp] theorem State.retireTo_core_wdog (s : State) (n : Addr) : (s.retireTo n).core.wdog = s.core.wdog := rfl
@[simp] theorem State.retireTo_core_quiet (s : State) (n : Addr) : (s.retireTo n).core.quiet = s.core.quiet := rfl
@[simp] theorem State.retireTo_core_qstop (s : State) (n : Addr) : (s.retireTo n).core.qstop = s.core.qstop := rfl
@[simp] theorem State.retireTo_core_qlevel (s : State) (n : Addr) : (s.retireTo n).core.qlevel = s.core.qlevel := rfl
@[simp] theorem State.retireTo_core_outst (s : State) (n : Addr) : (s.retireTo n).core.outst = s.core.outst := rfl
@[simp] theorem State.retireTo_core_left (s : State) (n : Addr) : (s.retireTo n).core.left = s.core.left := rfl
@[simp] theorem State.retireTo_core_sent (s : State) (n : Addr) : (s.retireTo n).core.sent = s.core.sent := rfl
@[simp] theorem State.retireTo_core_parked (s : State) (n : Addr) : (s.retireTo n).core.parked = s.core.parked := rfl
@[simp] theorem State.retireTo_core_orbit (s : State) (n : Addr) : (s.retireTo n).core.orbit = s.core.orbit := rfl
@[simp] theorem State.retireTo_core_accepted (s : State) (n : Addr) : (s.retireTo n).core.accepted = s.core.accepted := rfl
@[simp] theorem State.retireTo_core_dbg (s : State) (n : Addr) : (s.retireTo n).core.dbg = s.core.dbg := rfl
@[simp] theorem State.retireTo_core_arv (s : State) (n : Addr) : (s.retireTo n).core.arv = false := rfl
@[simp] theorem State.retireTo_core_wait (s : State) (n : Addr) : (s.retireTo n).core.wait = none := rfl
@[simp] theorem State.retire_cur (s : State) (n : Nat) : (s.retire n).cur = s.cur := rfl
@[simp] theorem State.retire_others (s : State) (n : Nat) : (s.retire n).others = s.others := rfl
@[simp] theorem State.retire_mem (s : State) (n : Nat) : (s.retire n).mem = s.mem := rfl
@[simp] theorem State.retire_poison (s : State) (n : Nat) : (s.retire n).poison = s.poison := rfl
@[simp] theorem State.retire_pf (s : State) (n : Nat) : (s.retire n).pf = s.pf := rfl
@[simp] theorem State.retire_tq (s : State) (n : Nat) : (s.retire n).tq = s.tq := rfl
@[simp] theorem State.retire_taken (s : State) (n : Nat) : (s.retire n).taken = s.taken := rfl
@[simp] theorem State.retire_nextSlot (s : State) (n : Nat) : (s.retire n).nextSlot = s.nextSlot := rfl
@[simp] theorem State.retire_launches (s : State) (n : Nat) : (s.retire n).launches = s.launches := rfl
@[simp] theorem State.retire_past (s : State) (n : Nat) : (s.retire n).past = s.past := rfl
@[simp] theorem State.retire_bindings (s : State) (n : Nat) : (s.retire n).bindings = s.bindings := rfl
@[simp] theorem State.retire_gangs (s : State) (n : Nat) : (s.retire n).gangs = s.gangs := rfl
@[simp] theorem State.retire_nextGang (s : State) (n : Nat) : (s.retire n).nextGang = s.nextGang := rfl
@[simp] theorem State.retire_fences (s : State) (n : Nat) : (s.retire n).fences = s.fences := rfl
@[simp] theorem State.retire_subs (s : State) (n : Nat) : (s.retire n).subs = s.subs := rfl
@[simp] theorem State.retire_replays (s : State) (n : Nat) : (s.retire n).replays = s.replays := rfl
@[simp] theorem State.retire_doorbells (s : State) (n : Nat) : (s.retire n).doorbells = s.doorbells := rfl
@[simp] theorem State.retire_markers (s : State) (n : Nat) : (s.retire n).markers = s.markers := rfl
@[simp] theorem State.retire_sieve (s : State) (n : Nat) : (s.retire n).sieve = s.sieve := rfl
@[simp] theorem State.retire_conflicts (s : State) (n : Nat) : (s.retire n).conflicts = s.conflicts := rfl
@[simp] theorem State.retire_detBars (s : State) (n : Nat) : (s.retire n).detBars = s.detBars := rfl
@[simp] theorem State.retire_llc (s : State) (n : Nat) : (s.retire n).llc = s.llc := rfl
@[simp] theorem State.retire_llcEv (s : State) (n : Nat) : (s.retire n).llcEv = s.llcEv := rfl
@[simp] theorem State.retire_llcClock (s : State) (n : Nat) : (s.retire n).llcClock = s.llcClock := rfl
@[simp] theorem State.retire_corrected (s : State) (n : Nat) : (s.retire n).corrected = s.corrected := rfl
@[simp] theorem State.retire_flits (s : State) (n : Nat) : (s.retire n).flits = s.flits := rfl
@[simp] theorem State.retire_linkq (s : State) (n : Nat) : (s.retire n).linkq = s.linkq := rfl
@[simp] theorem State.retire_nextFlit (s : State) (n : Nat) : (s.retire n).nextFlit = s.nextFlit := rfl
@[simp] theorem State.retire_nextXfer (s : State) (n : Nat) : (s.retire n).nextXfer = s.nextXfer := rfl
@[simp] theorem State.retire_collTx (s : State) (n : Nat) : (s.retire n).collTx = s.collTx := rfl
@[simp] theorem State.retire_images (s : State) (n : Nat) : (s.retire n).images = s.images := rfl
@[simp] theorem State.retire_archive (s : State) (n : Nat) : (s.retire n).archive = s.archive := rfl
@[simp] theorem State.retire_nextImage (s : State) (n : Nat) : (s.retire n).nextImage = s.nextImage := rfl
@[simp] theorem State.retire_tst (s : State) (n : Nat) : (s.retire n).tst = s.tst := rfl
@[simp] theorem State.retire_scrubq (s : State) (n : Nat) : (s.retire n).scrubq = s.scrubq := rfl
@[simp] theorem State.retire_ports (s : State) (n : Nat) : (s.retire n).ports = s.ports := rfl
@[simp] theorem State.retire_ethTabs (s : State) (n : Nat) : (s.retire n).ethTabs = s.ethTabs := rfl
@[simp] theorem State.retire_ethTx (s : State) (n : Nat) : (s.retire n).ethTx = s.ethTx := rfl
@[simp] theorem State.retire_boot (s : State) (n : Nat) : (s.retire n).boot = s.boot := rfl
@[simp] theorem State.retire_tdi (s : State) (n : Nat) : (s.retire n).tdi = s.tdi := rfl
@[simp] theorem State.retire_msix (s : State) (n : Nat) : (s.retire n).msix = s.msix := rfl
@[simp] theorem State.retire_spdm (s : State) (n : Nat) : (s.retire n).spdm = s.spdm := rfl
@[simp] theorem State.retire_hostRd (s : State) (n : Nat) : (s.retire n).hostRd = s.hostRd := rfl
@[simp] theorem State.retire_order (s : State) (n : Nat) : (s.retire n).order = s.order := rfl
@[simp] theorem State.retire_rc (s : State) (n : Nat) : (s.retire n).rc = s.rc := rfl
@[simp] theorem State.retire_thrAt (s : State) (n : Nat) : (s.retire n).thrAt = s.thrAt := rfl
@[simp] theorem State.retire_free (s : State) (n : Nat) : (s.retire n).free = s.free := rfl
@[simp] theorem State.retire_turn (s : State) (n : Nat) : (s.retire n).turn = s.turn := rfl
@[simp] theorem State.retire_agenda (s : State) (n : Nat) : (s.retire n).agenda = s.agenda := rfl
@[simp] theorem State.retire_core_s (s : State) (n : Nat) : (s.retire n).core.s = s.core.s := rfl
@[simp] theorem State.retire_core_vrb (s : State) (n : Nat) : (s.retire n).core.vrb = s.core.vrb := rfl
@[simp] theorem State.retire_core_sfc (s : State) (n : Nat) : (s.retire n).core.sfc = s.core.sfc := rfl
@[simp] theorem State.retire_core_sflen (s : State) (n : Nat) : (s.retire n).core.sflen = s.core.sflen := rfl
@[simp] theorem State.retire_core_fce (s : State) (n : Nat) : (s.retire n).core.fce = s.core.fce := rfl
@[simp] theorem State.retire_core_det (s : State) (n : Nat) : (s.retire n).core.det = s.core.det := rfl
@[simp] theorem State.retire_core_pl (s : State) (n : Nat) : (s.retire n).core.pl = s.core.pl := rfl
@[simp] theorem State.retire_core_levelBase (s : State) (n : Nat) : (s.retire n).core.levelBase = s.core.levelBase := rfl
@[simp] theorem State.retire_core_banks (s : State) (n : Nat) : (s.retire n).core.banks = s.core.banks := rfl
@[simp] theorem State.retire_core_tok (s : State) (n : Nat) : (s.retire n).core.tok = s.core.tok := rfl
@[simp] theorem State.retire_core_ev (s : State) (n : Nat) : (s.retire n).core.ev = s.core.ev := rfl
@[simp] theorem State.retire_core_llcwSel (s : State) (n : Nat) : (s.retire n).core.llcwSel = s.core.llcwSel := rfl
@[simp] theorem State.retire_core_eng (s : State) (n : Nat) : (s.retire n).core.eng = s.core.eng := rfl
@[simp] theorem State.retire_core_vx (s : State) (n : Nat) : (s.retire n).core.vx = s.core.vx := rfl
@[simp] theorem State.retire_core_mx (s : State) (n : Nat) : (s.retire n).core.mx = s.core.mx := rfl
@[simp] theorem State.retire_core_sx (s : State) (n : Nat) : (s.retire n).core.sx = s.core.sx := rfl
@[simp] theorem State.retire_core_cp (s : State) (n : Nat) : (s.retire n).core.cp = s.core.cp := rfl
@[simp] theorem State.retire_core_fr (s : State) (n : Nat) : (s.retire n).core.fr = s.core.fr := rfl
@[simp] theorem State.retire_core_sb (s : State) (n : Nat) : (s.retire n).core.sb = s.core.sb := rfl
@[simp] theorem State.retire_core_l1 (s : State) (n : Nat) : (s.retire n).core.l1 = s.core.l1 := rfl
@[simp] theorem State.retire_core_work (s : State) (n : Nat) : (s.retire n).core.work = s.core.work := rfl
@[simp] theorem State.retire_core_trig (s : State) (n : Nat) : (s.retire n).core.trig = s.core.trig := rfl
@[simp] theorem State.retire_core_resident (s : State) (n : Nat) : (s.retire n).core.resident = s.core.resident := rfl
@[simp] theorem State.retire_core_part (s : State) (n : Nat) : (s.retire n).core.part = s.core.part := rfl
@[simp] theorem State.retire_core_preloaded (s : State) (n : Nat) : (s.retire n).core.preloaded = s.core.preloaded := rfl
@[simp] theorem State.retire_core_entry (s : State) (n : Nat) : (s.retire n).core.entry = s.core.entry := rfl
@[simp] theorem State.retire_core_idleAt (s : State) (n : Nat) : (s.retire n).core.idleAt = s.core.idleAt := rfl
@[simp] theorem State.retire_core_run (s : State) (n : Nat) : (s.retire n).core.run = s.core.run := rfl
@[simp] theorem State.retire_core_reserved (s : State) (n : Nat) : (s.retire n).core.reserved = s.core.reserved := rfl
@[simp] theorem State.retire_core_stored (s : State) (n : Nat) : (s.retire n).core.stored = s.core.stored := rfl
@[simp] theorem State.retire_core_rsbHeld (s : State) (n : Nat) : (s.retire n).core.rsbHeld = s.core.rsbHeld := rfl
@[simp] theorem State.retire_core_wdog (s : State) (n : Nat) : (s.retire n).core.wdog = s.core.wdog := rfl
@[simp] theorem State.retire_core_quiet (s : State) (n : Nat) : (s.retire n).core.quiet = s.core.quiet := rfl
@[simp] theorem State.retire_core_qstop (s : State) (n : Nat) : (s.retire n).core.qstop = s.core.qstop := rfl
@[simp] theorem State.retire_core_qlevel (s : State) (n : Nat) : (s.retire n).core.qlevel = s.core.qlevel := rfl
@[simp] theorem State.retire_core_outst (s : State) (n : Nat) : (s.retire n).core.outst = s.core.outst := rfl
@[simp] theorem State.retire_core_left (s : State) (n : Nat) : (s.retire n).core.left = s.core.left := rfl
@[simp] theorem State.retire_core_sent (s : State) (n : Nat) : (s.retire n).core.sent = s.core.sent := rfl
@[simp] theorem State.retire_core_parked (s : State) (n : Nat) : (s.retire n).core.parked = s.core.parked := rfl
@[simp] theorem State.retire_core_orbit (s : State) (n : Nat) : (s.retire n).core.orbit = s.core.orbit := rfl
@[simp] theorem State.retire_core_accepted (s : State) (n : Nat) : (s.retire n).core.accepted = s.core.accepted := rfl
@[simp] theorem State.retire_core_dbg (s : State) (n : Nat) : (s.retire n).core.dbg = s.core.dbg := rfl
@[simp] theorem State.retire_core_arv (s : State) (n : Nat) : (s.retire n).core.arv = false := rfl
@[simp] theorem State.retire_core_wait (s : State) (n : Nat) : (s.retire n).core.wait = none := rfl

/-! ### An instruction left by a jump -/

@[simp] theorem State.jump_cur (s : State) (a : Addr) : (s.jump a).cur = s.cur := rfl
@[simp] theorem State.jump_others (s : State) (a : Addr) : (s.jump a).others = s.others := rfl
@[simp] theorem State.jump_mem (s : State) (a : Addr) : (s.jump a).mem = s.mem := rfl
@[simp] theorem State.jump_poison (s : State) (a : Addr) : (s.jump a).poison = s.poison := rfl
@[simp] theorem State.jump_pf (s : State) (a : Addr) : (s.jump a).pf = s.pf := rfl
@[simp] theorem State.jump_tq (s : State) (a : Addr) : (s.jump a).tq = s.tq := rfl
@[simp] theorem State.jump_taken (s : State) (a : Addr) : (s.jump a).taken = s.taken := rfl
@[simp] theorem State.jump_nextSlot (s : State) (a : Addr) : (s.jump a).nextSlot = s.nextSlot := rfl
@[simp] theorem State.jump_launches (s : State) (a : Addr) : (s.jump a).launches = s.launches := rfl
@[simp] theorem State.jump_past (s : State) (a : Addr) : (s.jump a).past = s.past := rfl
@[simp] theorem State.jump_bindings (s : State) (a : Addr) : (s.jump a).bindings = s.bindings := rfl
@[simp] theorem State.jump_gangs (s : State) (a : Addr) : (s.jump a).gangs = s.gangs := rfl
@[simp] theorem State.jump_nextGang (s : State) (a : Addr) : (s.jump a).nextGang = s.nextGang := rfl
@[simp] theorem State.jump_fences (s : State) (a : Addr) : (s.jump a).fences = s.fences := rfl
@[simp] theorem State.jump_subs (s : State) (a : Addr) : (s.jump a).subs = s.subs := rfl
@[simp] theorem State.jump_replays (s : State) (a : Addr) : (s.jump a).replays = s.replays := rfl
@[simp] theorem State.jump_doorbells (s : State) (a : Addr) : (s.jump a).doorbells = s.doorbells := rfl
@[simp] theorem State.jump_markers (s : State) (a : Addr) : (s.jump a).markers = s.markers := rfl
@[simp] theorem State.jump_sieve (s : State) (a : Addr) : (s.jump a).sieve = s.sieve := rfl
@[simp] theorem State.jump_conflicts (s : State) (a : Addr) : (s.jump a).conflicts = s.conflicts := rfl
@[simp] theorem State.jump_detBars (s : State) (a : Addr) : (s.jump a).detBars = s.detBars := rfl
@[simp] theorem State.jump_llc (s : State) (a : Addr) : (s.jump a).llc = s.llc := rfl
@[simp] theorem State.jump_llcEv (s : State) (a : Addr) : (s.jump a).llcEv = s.llcEv := rfl
@[simp] theorem State.jump_llcClock (s : State) (a : Addr) : (s.jump a).llcClock = s.llcClock := rfl
@[simp] theorem State.jump_corrected (s : State) (a : Addr) : (s.jump a).corrected = s.corrected := rfl
@[simp] theorem State.jump_flits (s : State) (a : Addr) : (s.jump a).flits = s.flits := rfl
@[simp] theorem State.jump_linkq (s : State) (a : Addr) : (s.jump a).linkq = s.linkq := rfl
@[simp] theorem State.jump_nextFlit (s : State) (a : Addr) : (s.jump a).nextFlit = s.nextFlit := rfl
@[simp] theorem State.jump_nextXfer (s : State) (a : Addr) : (s.jump a).nextXfer = s.nextXfer := rfl
@[simp] theorem State.jump_collTx (s : State) (a : Addr) : (s.jump a).collTx = s.collTx := rfl
@[simp] theorem State.jump_images (s : State) (a : Addr) : (s.jump a).images = s.images := rfl
@[simp] theorem State.jump_archive (s : State) (a : Addr) : (s.jump a).archive = s.archive := rfl
@[simp] theorem State.jump_nextImage (s : State) (a : Addr) : (s.jump a).nextImage = s.nextImage := rfl
@[simp] theorem State.jump_tst (s : State) (a : Addr) : (s.jump a).tst = s.tst := rfl
@[simp] theorem State.jump_scrubq (s : State) (a : Addr) : (s.jump a).scrubq = s.scrubq := rfl
@[simp] theorem State.jump_ports (s : State) (a : Addr) : (s.jump a).ports = s.ports := rfl
@[simp] theorem State.jump_ethTabs (s : State) (a : Addr) : (s.jump a).ethTabs = s.ethTabs := rfl
@[simp] theorem State.jump_ethTx (s : State) (a : Addr) : (s.jump a).ethTx = s.ethTx := rfl
@[simp] theorem State.jump_boot (s : State) (a : Addr) : (s.jump a).boot = s.boot := rfl
@[simp] theorem State.jump_tdi (s : State) (a : Addr) : (s.jump a).tdi = s.tdi := rfl
@[simp] theorem State.jump_msix (s : State) (a : Addr) : (s.jump a).msix = s.msix := rfl
@[simp] theorem State.jump_spdm (s : State) (a : Addr) : (s.jump a).spdm = s.spdm := rfl
@[simp] theorem State.jump_hostRd (s : State) (a : Addr) : (s.jump a).hostRd = s.hostRd := rfl
@[simp] theorem State.jump_order (s : State) (a : Addr) : (s.jump a).order = s.order := rfl
@[simp] theorem State.jump_rc (s : State) (a : Addr) : (s.jump a).rc = s.rc := rfl
@[simp] theorem State.jump_thrAt (s : State) (a : Addr) : (s.jump a).thrAt = s.thrAt := rfl
@[simp] theorem State.jump_free (s : State) (a : Addr) : (s.jump a).free = s.free := rfl
@[simp] theorem State.jump_turn (s : State) (a : Addr) : (s.jump a).turn = s.turn := rfl
@[simp] theorem State.jump_agenda (s : State) (a : Addr) : (s.jump a).agenda = s.agenda := rfl
@[simp] theorem State.jump_core_s (s : State) (a : Addr) : (s.jump a).core.s = s.core.s := rfl
@[simp] theorem State.jump_core_vrb (s : State) (a : Addr) : (s.jump a).core.vrb = s.core.vrb := rfl
@[simp] theorem State.jump_core_sfc (s : State) (a : Addr) : (s.jump a).core.sfc = s.core.sfc := rfl
@[simp] theorem State.jump_core_sflen (s : State) (a : Addr) : (s.jump a).core.sflen = s.core.sflen := rfl
@[simp] theorem State.jump_core_fce (s : State) (a : Addr) : (s.jump a).core.fce = s.core.fce := rfl
@[simp] theorem State.jump_core_det (s : State) (a : Addr) : (s.jump a).core.det = s.core.det := rfl
@[simp] theorem State.jump_core_pl (s : State) (a : Addr) : (s.jump a).core.pl = s.core.pl := rfl
@[simp] theorem State.jump_core_levelBase (s : State) (a : Addr) : (s.jump a).core.levelBase = s.core.levelBase := rfl
@[simp] theorem State.jump_core_banks (s : State) (a : Addr) : (s.jump a).core.banks = s.core.banks := rfl
@[simp] theorem State.jump_core_tok (s : State) (a : Addr) : (s.jump a).core.tok = s.core.tok := rfl
@[simp] theorem State.jump_core_ev (s : State) (a : Addr) : (s.jump a).core.ev = s.core.ev := rfl
@[simp] theorem State.jump_core_llcwSel (s : State) (a : Addr) : (s.jump a).core.llcwSel = s.core.llcwSel := rfl
@[simp] theorem State.jump_core_eng (s : State) (a : Addr) : (s.jump a).core.eng = s.core.eng := rfl
@[simp] theorem State.jump_core_vx (s : State) (a : Addr) : (s.jump a).core.vx = s.core.vx := rfl
@[simp] theorem State.jump_core_mx (s : State) (a : Addr) : (s.jump a).core.mx = s.core.mx := rfl
@[simp] theorem State.jump_core_sx (s : State) (a : Addr) : (s.jump a).core.sx = s.core.sx := rfl
@[simp] theorem State.jump_core_cp (s : State) (a : Addr) : (s.jump a).core.cp = s.core.cp := rfl
@[simp] theorem State.jump_core_fr (s : State) (a : Addr) : (s.jump a).core.fr = s.core.fr := rfl
@[simp] theorem State.jump_core_sb (s : State) (a : Addr) : (s.jump a).core.sb = s.core.sb := rfl
@[simp] theorem State.jump_core_l1 (s : State) (a : Addr) : (s.jump a).core.l1 = s.core.l1 := rfl
@[simp] theorem State.jump_core_work (s : State) (a : Addr) : (s.jump a).core.work = s.core.work := rfl
@[simp] theorem State.jump_core_trig (s : State) (a : Addr) : (s.jump a).core.trig = s.core.trig := rfl
@[simp] theorem State.jump_core_resident (s : State) (a : Addr) : (s.jump a).core.resident = s.core.resident := rfl
@[simp] theorem State.jump_core_part (s : State) (a : Addr) : (s.jump a).core.part = s.core.part := rfl
@[simp] theorem State.jump_core_preloaded (s : State) (a : Addr) : (s.jump a).core.preloaded = s.core.preloaded := rfl
@[simp] theorem State.jump_core_entry (s : State) (a : Addr) : (s.jump a).core.entry = s.core.entry := rfl
@[simp] theorem State.jump_core_idleAt (s : State) (a : Addr) : (s.jump a).core.idleAt = s.core.idleAt := rfl
@[simp] theorem State.jump_core_run (s : State) (a : Addr) : (s.jump a).core.run = s.core.run := rfl
@[simp] theorem State.jump_core_reserved (s : State) (a : Addr) : (s.jump a).core.reserved = s.core.reserved := rfl
@[simp] theorem State.jump_core_stored (s : State) (a : Addr) : (s.jump a).core.stored = s.core.stored := rfl
@[simp] theorem State.jump_core_rsbHeld (s : State) (a : Addr) : (s.jump a).core.rsbHeld = s.core.rsbHeld := rfl
@[simp] theorem State.jump_core_wdog (s : State) (a : Addr) : (s.jump a).core.wdog = s.core.wdog := rfl
@[simp] theorem State.jump_core_quiet (s : State) (a : Addr) : (s.jump a).core.quiet = s.core.quiet := rfl
@[simp] theorem State.jump_core_qstop (s : State) (a : Addr) : (s.jump a).core.qstop = s.core.qstop := rfl
@[simp] theorem State.jump_core_qlevel (s : State) (a : Addr) : (s.jump a).core.qlevel = s.core.qlevel := rfl
@[simp] theorem State.jump_core_outst (s : State) (a : Addr) : (s.jump a).core.outst = s.core.outst := rfl
@[simp] theorem State.jump_core_left (s : State) (a : Addr) : (s.jump a).core.left = s.core.left := rfl
@[simp] theorem State.jump_core_sent (s : State) (a : Addr) : (s.jump a).core.sent = s.core.sent := rfl
@[simp] theorem State.jump_core_parked (s : State) (a : Addr) : (s.jump a).core.parked = s.core.parked := rfl
@[simp] theorem State.jump_core_orbit (s : State) (a : Addr) : (s.jump a).core.orbit = s.core.orbit := rfl
@[simp] theorem State.jump_core_accepted (s : State) (a : Addr) : (s.jump a).core.accepted = s.core.accepted := rfl
@[simp] theorem State.jump_core_dbg (s : State) (a : Addr) : (s.jump a).core.dbg = s.core.dbg := rfl
@[simp] theorem State.jump_core_pc (s : State) (a : Addr) : (s.jump a).core.pc = a := rfl
@[simp] theorem State.jump_core_wait (s : State) (a : Addr) : (s.jump a).core.wait = none := rfl

/-! ### The state of an engine changed -/

@[simp] theorem State.updEng_cur (s : State) (e : Eng) (f : EngState → EngState) : (s.updEng e f).cur = s.cur := rfl
@[simp] theorem State.updEng_others (s : State) (e : Eng) (f : EngState → EngState) : (s.updEng e f).others = s.others := rfl
@[simp] theorem State.updEng_mem (s : State) (e : Eng) (f : EngState → EngState) : (s.updEng e f).mem = s.mem := rfl
@[simp] theorem State.updEng_poison (s : State) (e : Eng) (f : EngState → EngState) : (s.updEng e f).poison = s.poison := rfl
@[simp] theorem State.updEng_pf (s : State) (e : Eng) (f : EngState → EngState) : (s.updEng e f).pf = s.pf := rfl
@[simp] theorem State.updEng_tq (s : State) (e : Eng) (f : EngState → EngState) : (s.updEng e f).tq = s.tq := rfl
@[simp] theorem State.updEng_taken (s : State) (e : Eng) (f : EngState → EngState) : (s.updEng e f).taken = s.taken := rfl
@[simp] theorem State.updEng_nextSlot (s : State) (e : Eng) (f : EngState → EngState) : (s.updEng e f).nextSlot = s.nextSlot := rfl
@[simp] theorem State.updEng_launches (s : State) (e : Eng) (f : EngState → EngState) : (s.updEng e f).launches = s.launches := rfl
@[simp] theorem State.updEng_past (s : State) (e : Eng) (f : EngState → EngState) : (s.updEng e f).past = s.past := rfl
@[simp] theorem State.updEng_bindings (s : State) (e : Eng) (f : EngState → EngState) : (s.updEng e f).bindings = s.bindings := rfl
@[simp] theorem State.updEng_gangs (s : State) (e : Eng) (f : EngState → EngState) : (s.updEng e f).gangs = s.gangs := rfl
@[simp] theorem State.updEng_nextGang (s : State) (e : Eng) (f : EngState → EngState) : (s.updEng e f).nextGang = s.nextGang := rfl
@[simp] theorem State.updEng_fences (s : State) (e : Eng) (f : EngState → EngState) : (s.updEng e f).fences = s.fences := rfl
@[simp] theorem State.updEng_subs (s : State) (e : Eng) (f : EngState → EngState) : (s.updEng e f).subs = s.subs := rfl
@[simp] theorem State.updEng_replays (s : State) (e : Eng) (f : EngState → EngState) : (s.updEng e f).replays = s.replays := rfl
@[simp] theorem State.updEng_doorbells (s : State) (e : Eng) (f : EngState → EngState) : (s.updEng e f).doorbells = s.doorbells := rfl
@[simp] theorem State.updEng_markers (s : State) (e : Eng) (f : EngState → EngState) : (s.updEng e f).markers = s.markers := rfl
@[simp] theorem State.updEng_sieve (s : State) (e : Eng) (f : EngState → EngState) : (s.updEng e f).sieve = s.sieve := rfl
@[simp] theorem State.updEng_conflicts (s : State) (e : Eng) (f : EngState → EngState) : (s.updEng e f).conflicts = s.conflicts := rfl
@[simp] theorem State.updEng_detBars (s : State) (e : Eng) (f : EngState → EngState) : (s.updEng e f).detBars = s.detBars := rfl
@[simp] theorem State.updEng_llc (s : State) (e : Eng) (f : EngState → EngState) : (s.updEng e f).llc = s.llc := rfl
@[simp] theorem State.updEng_llcEv (s : State) (e : Eng) (f : EngState → EngState) : (s.updEng e f).llcEv = s.llcEv := rfl
@[simp] theorem State.updEng_llcClock (s : State) (e : Eng) (f : EngState → EngState) : (s.updEng e f).llcClock = s.llcClock := rfl
@[simp] theorem State.updEng_corrected (s : State) (e : Eng) (f : EngState → EngState) : (s.updEng e f).corrected = s.corrected := rfl
@[simp] theorem State.updEng_flits (s : State) (e : Eng) (f : EngState → EngState) : (s.updEng e f).flits = s.flits := rfl
@[simp] theorem State.updEng_linkq (s : State) (e : Eng) (f : EngState → EngState) : (s.updEng e f).linkq = s.linkq := rfl
@[simp] theorem State.updEng_nextFlit (s : State) (e : Eng) (f : EngState → EngState) : (s.updEng e f).nextFlit = s.nextFlit := rfl
@[simp] theorem State.updEng_nextXfer (s : State) (e : Eng) (f : EngState → EngState) : (s.updEng e f).nextXfer = s.nextXfer := rfl
@[simp] theorem State.updEng_collTx (s : State) (e : Eng) (f : EngState → EngState) : (s.updEng e f).collTx = s.collTx := rfl
@[simp] theorem State.updEng_images (s : State) (e : Eng) (f : EngState → EngState) : (s.updEng e f).images = s.images := rfl
@[simp] theorem State.updEng_archive (s : State) (e : Eng) (f : EngState → EngState) : (s.updEng e f).archive = s.archive := rfl
@[simp] theorem State.updEng_nextImage (s : State) (e : Eng) (f : EngState → EngState) : (s.updEng e f).nextImage = s.nextImage := rfl
@[simp] theorem State.updEng_tst (s : State) (e : Eng) (f : EngState → EngState) : (s.updEng e f).tst = s.tst := rfl
@[simp] theorem State.updEng_scrubq (s : State) (e : Eng) (f : EngState → EngState) : (s.updEng e f).scrubq = s.scrubq := rfl
@[simp] theorem State.updEng_ports (s : State) (e : Eng) (f : EngState → EngState) : (s.updEng e f).ports = s.ports := rfl
@[simp] theorem State.updEng_ethTabs (s : State) (e : Eng) (f : EngState → EngState) : (s.updEng e f).ethTabs = s.ethTabs := rfl
@[simp] theorem State.updEng_ethTx (s : State) (e : Eng) (f : EngState → EngState) : (s.updEng e f).ethTx = s.ethTx := rfl
@[simp] theorem State.updEng_boot (s : State) (e : Eng) (f : EngState → EngState) : (s.updEng e f).boot = s.boot := rfl
@[simp] theorem State.updEng_tdi (s : State) (e : Eng) (f : EngState → EngState) : (s.updEng e f).tdi = s.tdi := rfl
@[simp] theorem State.updEng_msix (s : State) (e : Eng) (f : EngState → EngState) : (s.updEng e f).msix = s.msix := rfl
@[simp] theorem State.updEng_spdm (s : State) (e : Eng) (f : EngState → EngState) : (s.updEng e f).spdm = s.spdm := rfl
@[simp] theorem State.updEng_hostRd (s : State) (e : Eng) (f : EngState → EngState) : (s.updEng e f).hostRd = s.hostRd := rfl
@[simp] theorem State.updEng_order (s : State) (e : Eng) (f : EngState → EngState) : (s.updEng e f).order = s.order := rfl
@[simp] theorem State.updEng_rc (s : State) (e : Eng) (f : EngState → EngState) : (s.updEng e f).rc = s.rc := rfl
@[simp] theorem State.updEng_thrAt (s : State) (e : Eng) (f : EngState → EngState) : (s.updEng e f).thrAt = s.thrAt := rfl
@[simp] theorem State.updEng_free (s : State) (e : Eng) (f : EngState → EngState) : (s.updEng e f).free = s.free := rfl
@[simp] theorem State.updEng_turn (s : State) (e : Eng) (f : EngState → EngState) : (s.updEng e f).turn = s.turn := rfl
@[simp] theorem State.updEng_agenda (s : State) (e : Eng) (f : EngState → EngState) : (s.updEng e f).agenda = s.agenda := rfl
@[simp] theorem State.updEng_core_s (s : State) (e : Eng) (f : EngState → EngState) : (s.updEng e f).core.s = s.core.s := rfl
@[simp] theorem State.updEng_core_pc (s : State) (e : Eng) (f : EngState → EngState) : (s.updEng e f).core.pc = s.core.pc := rfl
@[simp] theorem State.updEng_core_lc0 (s : State) (e : Eng) (f : EngState → EngState) : (s.updEng e f).core.lc0 = s.core.lc0 := rfl
@[simp] theorem State.updEng_core_lc1 (s : State) (e : Eng) (f : EngState → EngState) : (s.updEng e f).core.lc1 = s.core.lc1 := rfl
@[simp] theorem State.updEng_core_vrb (s : State) (e : Eng) (f : EngState → EngState) : (s.updEng e f).core.vrb = s.core.vrb := rfl
@[simp] theorem State.updEng_core_sfc (s : State) (e : Eng) (f : EngState → EngState) : (s.updEng e f).core.sfc = s.core.sfc := rfl
@[simp] theorem State.updEng_core_sflen (s : State) (e : Eng) (f : EngState → EngState) : (s.updEng e f).core.sflen = s.core.sflen := rfl
@[simp] theorem State.updEng_core_fce (s : State) (e : Eng) (f : EngState → EngState) : (s.updEng e f).core.fce = s.core.fce := rfl
@[simp] theorem State.updEng_core_det (s : State) (e : Eng) (f : EngState → EngState) : (s.updEng e f).core.det = s.core.det := rfl
@[simp] theorem State.updEng_core_pl (s : State) (e : Eng) (f : EngState → EngState) : (s.updEng e f).core.pl = s.core.pl := rfl
@[simp] theorem State.updEng_core_levelBase (s : State) (e : Eng) (f : EngState → EngState) : (s.updEng e f).core.levelBase = s.core.levelBase := rfl
@[simp] theorem State.updEng_core_banks (s : State) (e : Eng) (f : EngState → EngState) : (s.updEng e f).core.banks = s.core.banks := rfl
@[simp] theorem State.updEng_core_tok (s : State) (e : Eng) (f : EngState → EngState) : (s.updEng e f).core.tok = s.core.tok := rfl
@[simp] theorem State.updEng_core_ev (s : State) (e : Eng) (f : EngState → EngState) : (s.updEng e f).core.ev = s.core.ev := rfl
@[simp] theorem State.updEng_core_arv (s : State) (e : Eng) (f : EngState → EngState) : (s.updEng e f).core.arv = s.core.arv := rfl
@[simp] theorem State.updEng_core_ctr (s : State) (e : Eng) (f : EngState → EngState) : (s.updEng e f).core.ctr = s.core.ctr := rfl
@[simp] theorem State.updEng_core_llcwSel (s : State) (e : Eng) (f : EngState → EngState) : (s.updEng e f).core.llcwSel = s.core.llcwSel := rfl
@[simp] theorem State.updEng_core_vx (s : State) (e : Eng) (f : EngState → EngState) : (s.updEng e f).core.vx = s.core.vx := rfl
@[simp] theorem State.updEng_core_mx (s : State) (e : Eng) (f : EngState → EngState) : (s.updEng e f).core.mx = s.core.mx := rfl
@[simp] theorem State.updEng_core_sx (s : State) (e : Eng) (f : EngState → EngState) : (s.updEng e f).core.sx = s.core.sx := rfl
@[simp] theorem State.updEng_core_cp (s : State) (e : Eng) (f : EngState → EngState) : (s.updEng e f).core.cp = s.core.cp := rfl
@[simp] theorem State.updEng_core_fr (s : State) (e : Eng) (f : EngState → EngState) : (s.updEng e f).core.fr = s.core.fr := rfl
@[simp] theorem State.updEng_core_sb (s : State) (e : Eng) (f : EngState → EngState) : (s.updEng e f).core.sb = s.core.sb := rfl
@[simp] theorem State.updEng_core_l1 (s : State) (e : Eng) (f : EngState → EngState) : (s.updEng e f).core.l1 = s.core.l1 := rfl
@[simp] theorem State.updEng_core_wait (s : State) (e : Eng) (f : EngState → EngState) : (s.updEng e f).core.wait = s.core.wait := rfl
@[simp] theorem State.updEng_core_work (s : State) (e : Eng) (f : EngState → EngState) : (s.updEng e f).core.work = s.core.work := rfl
@[simp] theorem State.updEng_core_trig (s : State) (e : Eng) (f : EngState → EngState) : (s.updEng e f).core.trig = s.core.trig := rfl
@[simp] theorem State.updEng_core_resident (s : State) (e : Eng) (f : EngState → EngState) : (s.updEng e f).core.resident = s.core.resident := rfl
@[simp] theorem State.updEng_core_part (s : State) (e : Eng) (f : EngState → EngState) : (s.updEng e f).core.part = s.core.part := rfl
@[simp] theorem State.updEng_core_preloaded (s : State) (e : Eng) (f : EngState → EngState) : (s.updEng e f).core.preloaded = s.core.preloaded := rfl
@[simp] theorem State.updEng_core_entry (s : State) (e : Eng) (f : EngState → EngState) : (s.updEng e f).core.entry = s.core.entry := rfl
@[simp] theorem State.updEng_core_idleAt (s : State) (e : Eng) (f : EngState → EngState) : (s.updEng e f).core.idleAt = s.core.idleAt := rfl
@[simp] theorem State.updEng_core_run (s : State) (e : Eng) (f : EngState → EngState) : (s.updEng e f).core.run = s.core.run := rfl
@[simp] theorem State.updEng_core_reserved (s : State) (e : Eng) (f : EngState → EngState) : (s.updEng e f).core.reserved = s.core.reserved := rfl
@[simp] theorem State.updEng_core_stored (s : State) (e : Eng) (f : EngState → EngState) : (s.updEng e f).core.stored = s.core.stored := rfl
@[simp] theorem State.updEng_core_rsbHeld (s : State) (e : Eng) (f : EngState → EngState) : (s.updEng e f).core.rsbHeld = s.core.rsbHeld := rfl
@[simp] theorem State.updEng_core_wdog (s : State) (e : Eng) (f : EngState → EngState) : (s.updEng e f).core.wdog = s.core.wdog := rfl
@[simp] theorem State.updEng_core_quiet (s : State) (e : Eng) (f : EngState → EngState) : (s.updEng e f).core.quiet = s.core.quiet := rfl
@[simp] theorem State.updEng_core_qstop (s : State) (e : Eng) (f : EngState → EngState) : (s.updEng e f).core.qstop = s.core.qstop := rfl
@[simp] theorem State.updEng_core_qlevel (s : State) (e : Eng) (f : EngState → EngState) : (s.updEng e f).core.qlevel = s.core.qlevel := rfl
@[simp] theorem State.updEng_core_outst (s : State) (e : Eng) (f : EngState → EngState) : (s.updEng e f).core.outst = s.core.outst := rfl
@[simp] theorem State.updEng_core_left (s : State) (e : Eng) (f : EngState → EngState) : (s.updEng e f).core.left = s.core.left := rfl
@[simp] theorem State.updEng_core_sent (s : State) (e : Eng) (f : EngState → EngState) : (s.updEng e f).core.sent = s.core.sent := rfl
@[simp] theorem State.updEng_core_parked (s : State) (e : Eng) (f : EngState → EngState) : (s.updEng e f).core.parked = s.core.parked := rfl
@[simp] theorem State.updEng_core_orbit (s : State) (e : Eng) (f : EngState → EngState) : (s.updEng e f).core.orbit = s.core.orbit := rfl
@[simp] theorem State.updEng_core_accepted (s : State) (e : Eng) (f : EngState → EngState) : (s.updEng e f).core.accepted = s.core.accepted := rfl
@[simp] theorem State.updEng_core_dbg (s : State) (e : Eng) (f : EngState → EngState) : (s.updEng e f).core.dbg = s.core.dbg := rfl

@[simp] theorem Engines.get_set_self (g : Engines) (e : Eng) (x : EngState) : (g.set e x).get e = x := by cases e <;> rfl
theorem Engines.get_set_ne (g : Engines) {e f : Eng} (x : EngState) (h : f ≠ e) : (g.set e x).get f = g.get f := by
  cases e <;> cases f <;> first | rfl | exact absurd rfl h
@[simp] theorem State.updEng_eng_self (s : State) (e : Eng) (f : EngState → EngState) : (s.updEng e f).eng e = f (s.eng e) :=
  Engines.get_set_self _ _ _
theorem State.updEng_eng_ne (s : State) {e g : Eng} (f : EngState → EngState) (h : g ≠ e) : (s.updEng e f).eng g = s.eng g :=
  Engines.get_set_ne _ _ h

/-! ### CTL waits -/

@[simp] theorem State.waitIn_cur (s : State) (w : Wait) : (s.waitIn w).cur = s.cur := rfl
@[simp] theorem State.waitIn_others (s : State) (w : Wait) : (s.waitIn w).others = s.others := rfl
@[simp] theorem State.waitIn_mem (s : State) (w : Wait) : (s.waitIn w).mem = s.mem := rfl
@[simp] theorem State.waitIn_poison (s : State) (w : Wait) : (s.waitIn w).poison = s.poison := rfl
@[simp] theorem State.waitIn_pf (s : State) (w : Wait) : (s.waitIn w).pf = s.pf := rfl
@[simp] theorem State.waitIn_tq (s : State) (w : Wait) : (s.waitIn w).tq = s.tq := rfl
@[simp] theorem State.waitIn_taken (s : State) (w : Wait) : (s.waitIn w).taken = s.taken := rfl
@[simp] theorem State.waitIn_nextSlot (s : State) (w : Wait) : (s.waitIn w).nextSlot = s.nextSlot := rfl
@[simp] theorem State.waitIn_launches (s : State) (w : Wait) : (s.waitIn w).launches = s.launches := rfl
@[simp] theorem State.waitIn_past (s : State) (w : Wait) : (s.waitIn w).past = s.past := rfl
@[simp] theorem State.waitIn_bindings (s : State) (w : Wait) : (s.waitIn w).bindings = s.bindings := rfl
@[simp] theorem State.waitIn_gangs (s : State) (w : Wait) : (s.waitIn w).gangs = s.gangs := rfl
@[simp] theorem State.waitIn_nextGang (s : State) (w : Wait) : (s.waitIn w).nextGang = s.nextGang := rfl
@[simp] theorem State.waitIn_fences (s : State) (w : Wait) : (s.waitIn w).fences = s.fences := rfl
@[simp] theorem State.waitIn_subs (s : State) (w : Wait) : (s.waitIn w).subs = s.subs := rfl
@[simp] theorem State.waitIn_replays (s : State) (w : Wait) : (s.waitIn w).replays = s.replays := rfl
@[simp] theorem State.waitIn_doorbells (s : State) (w : Wait) : (s.waitIn w).doorbells = s.doorbells := rfl
@[simp] theorem State.waitIn_markers (s : State) (w : Wait) : (s.waitIn w).markers = s.markers := rfl
@[simp] theorem State.waitIn_sieve (s : State) (w : Wait) : (s.waitIn w).sieve = s.sieve := rfl
@[simp] theorem State.waitIn_conflicts (s : State) (w : Wait) : (s.waitIn w).conflicts = s.conflicts := rfl
@[simp] theorem State.waitIn_detBars (s : State) (w : Wait) : (s.waitIn w).detBars = s.detBars := rfl
@[simp] theorem State.waitIn_llc (s : State) (w : Wait) : (s.waitIn w).llc = s.llc := rfl
@[simp] theorem State.waitIn_llcEv (s : State) (w : Wait) : (s.waitIn w).llcEv = s.llcEv := rfl
@[simp] theorem State.waitIn_llcClock (s : State) (w : Wait) : (s.waitIn w).llcClock = s.llcClock := rfl
@[simp] theorem State.waitIn_corrected (s : State) (w : Wait) : (s.waitIn w).corrected = s.corrected := rfl
@[simp] theorem State.waitIn_flits (s : State) (w : Wait) : (s.waitIn w).flits = s.flits := rfl
@[simp] theorem State.waitIn_linkq (s : State) (w : Wait) : (s.waitIn w).linkq = s.linkq := rfl
@[simp] theorem State.waitIn_nextFlit (s : State) (w : Wait) : (s.waitIn w).nextFlit = s.nextFlit := rfl
@[simp] theorem State.waitIn_nextXfer (s : State) (w : Wait) : (s.waitIn w).nextXfer = s.nextXfer := rfl
@[simp] theorem State.waitIn_collTx (s : State) (w : Wait) : (s.waitIn w).collTx = s.collTx := rfl
@[simp] theorem State.waitIn_images (s : State) (w : Wait) : (s.waitIn w).images = s.images := rfl
@[simp] theorem State.waitIn_archive (s : State) (w : Wait) : (s.waitIn w).archive = s.archive := rfl
@[simp] theorem State.waitIn_nextImage (s : State) (w : Wait) : (s.waitIn w).nextImage = s.nextImage := rfl
@[simp] theorem State.waitIn_tst (s : State) (w : Wait) : (s.waitIn w).tst = s.tst := rfl
@[simp] theorem State.waitIn_scrubq (s : State) (w : Wait) : (s.waitIn w).scrubq = s.scrubq := rfl
@[simp] theorem State.waitIn_ports (s : State) (w : Wait) : (s.waitIn w).ports = s.ports := rfl
@[simp] theorem State.waitIn_ethTabs (s : State) (w : Wait) : (s.waitIn w).ethTabs = s.ethTabs := rfl
@[simp] theorem State.waitIn_ethTx (s : State) (w : Wait) : (s.waitIn w).ethTx = s.ethTx := rfl
@[simp] theorem State.waitIn_boot (s : State) (w : Wait) : (s.waitIn w).boot = s.boot := rfl
@[simp] theorem State.waitIn_tdi (s : State) (w : Wait) : (s.waitIn w).tdi = s.tdi := rfl
@[simp] theorem State.waitIn_msix (s : State) (w : Wait) : (s.waitIn w).msix = s.msix := rfl
@[simp] theorem State.waitIn_spdm (s : State) (w : Wait) : (s.waitIn w).spdm = s.spdm := rfl
@[simp] theorem State.waitIn_hostRd (s : State) (w : Wait) : (s.waitIn w).hostRd = s.hostRd := rfl
@[simp] theorem State.waitIn_order (s : State) (w : Wait) : (s.waitIn w).order = s.order := rfl
@[simp] theorem State.waitIn_rc (s : State) (w : Wait) : (s.waitIn w).rc = s.rc := rfl
@[simp] theorem State.waitIn_thrAt (s : State) (w : Wait) : (s.waitIn w).thrAt = s.thrAt := rfl
@[simp] theorem State.waitIn_free (s : State) (w : Wait) : (s.waitIn w).free = s.free := rfl
@[simp] theorem State.waitIn_turn (s : State) (w : Wait) : (s.waitIn w).turn = s.turn := rfl
@[simp] theorem State.waitIn_agenda (s : State) (w : Wait) : (s.waitIn w).agenda = s.agenda := rfl
@[simp] theorem State.waitIn_core_s (s : State) (w : Wait) : (s.waitIn w).core.s = s.core.s := rfl
@[simp] theorem State.waitIn_core_pc (s : State) (w : Wait) : (s.waitIn w).core.pc = s.core.pc := rfl
@[simp] theorem State.waitIn_core_lc0 (s : State) (w : Wait) : (s.waitIn w).core.lc0 = s.core.lc0 := rfl
@[simp] theorem State.waitIn_core_lc1 (s : State) (w : Wait) : (s.waitIn w).core.lc1 = s.core.lc1 := rfl
@[simp] theorem State.waitIn_core_vrb (s : State) (w : Wait) : (s.waitIn w).core.vrb = s.core.vrb := rfl
@[simp] theorem State.waitIn_core_sfc (s : State) (w : Wait) : (s.waitIn w).core.sfc = s.core.sfc := rfl
@[simp] theorem State.waitIn_core_sflen (s : State) (w : Wait) : (s.waitIn w).core.sflen = s.core.sflen := rfl
@[simp] theorem State.waitIn_core_fce (s : State) (w : Wait) : (s.waitIn w).core.fce = s.core.fce := rfl
@[simp] theorem State.waitIn_core_det (s : State) (w : Wait) : (s.waitIn w).core.det = s.core.det := rfl
@[simp] theorem State.waitIn_core_pl (s : State) (w : Wait) : (s.waitIn w).core.pl = s.core.pl := rfl
@[simp] theorem State.waitIn_core_levelBase (s : State) (w : Wait) : (s.waitIn w).core.levelBase = s.core.levelBase := rfl
@[simp] theorem State.waitIn_core_banks (s : State) (w : Wait) : (s.waitIn w).core.banks = s.core.banks := rfl
@[simp] theorem State.waitIn_core_tok (s : State) (w : Wait) : (s.waitIn w).core.tok = s.core.tok := rfl
@[simp] theorem State.waitIn_core_ev (s : State) (w : Wait) : (s.waitIn w).core.ev = s.core.ev := rfl
@[simp] theorem State.waitIn_core_arv (s : State) (w : Wait) : (s.waitIn w).core.arv = s.core.arv := rfl
@[simp] theorem State.waitIn_core_ctr (s : State) (w : Wait) : (s.waitIn w).core.ctr = s.core.ctr := rfl
@[simp] theorem State.waitIn_core_llcwSel (s : State) (w : Wait) : (s.waitIn w).core.llcwSel = s.core.llcwSel := rfl
@[simp] theorem State.waitIn_core_eng (s : State) (w : Wait) : (s.waitIn w).core.eng = s.core.eng := rfl
@[simp] theorem State.waitIn_core_vx (s : State) (w : Wait) : (s.waitIn w).core.vx = s.core.vx := rfl
@[simp] theorem State.waitIn_core_mx (s : State) (w : Wait) : (s.waitIn w).core.mx = s.core.mx := rfl
@[simp] theorem State.waitIn_core_sx (s : State) (w : Wait) : (s.waitIn w).core.sx = s.core.sx := rfl
@[simp] theorem State.waitIn_core_cp (s : State) (w : Wait) : (s.waitIn w).core.cp = s.core.cp := rfl
@[simp] theorem State.waitIn_core_fr (s : State) (w : Wait) : (s.waitIn w).core.fr = s.core.fr := rfl
@[simp] theorem State.waitIn_core_sb (s : State) (w : Wait) : (s.waitIn w).core.sb = s.core.sb := rfl
@[simp] theorem State.waitIn_core_l1 (s : State) (w : Wait) : (s.waitIn w).core.l1 = s.core.l1 := rfl
@[simp] theorem State.waitIn_core_work (s : State) (w : Wait) : (s.waitIn w).core.work = s.core.work := rfl
@[simp] theorem State.waitIn_core_trig (s : State) (w : Wait) : (s.waitIn w).core.trig = s.core.trig := rfl
@[simp] theorem State.waitIn_core_resident (s : State) (w : Wait) : (s.waitIn w).core.resident = s.core.resident := rfl
@[simp] theorem State.waitIn_core_part (s : State) (w : Wait) : (s.waitIn w).core.part = s.core.part := rfl
@[simp] theorem State.waitIn_core_preloaded (s : State) (w : Wait) : (s.waitIn w).core.preloaded = s.core.preloaded := rfl
@[simp] theorem State.waitIn_core_entry (s : State) (w : Wait) : (s.waitIn w).core.entry = s.core.entry := rfl
@[simp] theorem State.waitIn_core_idleAt (s : State) (w : Wait) : (s.waitIn w).core.idleAt = s.core.idleAt := rfl
@[simp] theorem State.waitIn_core_run (s : State) (w : Wait) : (s.waitIn w).core.run = s.core.run := rfl
@[simp] theorem State.waitIn_core_reserved (s : State) (w : Wait) : (s.waitIn w).core.reserved = s.core.reserved := rfl
@[simp] theorem State.waitIn_core_stored (s : State) (w : Wait) : (s.waitIn w).core.stored = s.core.stored := rfl
@[simp] theorem State.waitIn_core_rsbHeld (s : State) (w : Wait) : (s.waitIn w).core.rsbHeld = s.core.rsbHeld := rfl
@[simp] theorem State.waitIn_core_wdog (s : State) (w : Wait) : (s.waitIn w).core.wdog = s.core.wdog := rfl
@[simp] theorem State.waitIn_core_quiet (s : State) (w : Wait) : (s.waitIn w).core.quiet = s.core.quiet := rfl
@[simp] theorem State.waitIn_core_qstop (s : State) (w : Wait) : (s.waitIn w).core.qstop = s.core.qstop := rfl
@[simp] theorem State.waitIn_core_qlevel (s : State) (w : Wait) : (s.waitIn w).core.qlevel = s.core.qlevel := rfl
@[simp] theorem State.waitIn_core_outst (s : State) (w : Wait) : (s.waitIn w).core.outst = s.core.outst := rfl
@[simp] theorem State.waitIn_core_left (s : State) (w : Wait) : (s.waitIn w).core.left = s.core.left := rfl
@[simp] theorem State.waitIn_core_sent (s : State) (w : Wait) : (s.waitIn w).core.sent = s.core.sent := rfl
@[simp] theorem State.waitIn_core_parked (s : State) (w : Wait) : (s.waitIn w).core.parked = s.core.parked := rfl
@[simp] theorem State.waitIn_core_orbit (s : State) (w : Wait) : (s.waitIn w).core.orbit = s.core.orbit := rfl
@[simp] theorem State.waitIn_core_accepted (s : State) (w : Wait) : (s.waitIn w).core.accepted = s.core.accepted := rfl
@[simp] theorem State.waitIn_core_dbg (s : State) (w : Wait) : (s.waitIn w).core.dbg = s.core.dbg := rfl
@[simp] theorem State.waitIn_core_wait (s : State) (w : Wait) : (s.waitIn w).core.wait = some w := rfl

/-! ### Focus -/

@[simp] theorem State.focus_mem (s : State) (p : Nat) : (s.focus p).mem = s.mem := by unfold State.focus; split <;> rfl
@[simp] theorem State.focus_poison (s : State) (p : Nat) : (s.focus p).poison = s.poison := by unfold State.focus; split <;> rfl
@[simp] theorem State.focus_pf (s : State) (p : Nat) : (s.focus p).pf = s.pf := by unfold State.focus; split <;> rfl
@[simp] theorem State.focus_tq (s : State) (p : Nat) : (s.focus p).tq = s.tq := by unfold State.focus; split <;> rfl
@[simp] theorem State.focus_taken (s : State) (p : Nat) : (s.focus p).taken = s.taken := by unfold State.focus; split <;> rfl
@[simp] theorem State.focus_nextSlot (s : State) (p : Nat) : (s.focus p).nextSlot = s.nextSlot := by unfold State.focus; split <;> rfl
@[simp] theorem State.focus_launches (s : State) (p : Nat) : (s.focus p).launches = s.launches := by unfold State.focus; split <;> rfl
@[simp] theorem State.focus_past (s : State) (p : Nat) : (s.focus p).past = s.past := by unfold State.focus; split <;> rfl
@[simp] theorem State.focus_bindings (s : State) (p : Nat) : (s.focus p).bindings = s.bindings := by unfold State.focus; split <;> rfl
@[simp] theorem State.focus_gangs (s : State) (p : Nat) : (s.focus p).gangs = s.gangs := by unfold State.focus; split <;> rfl
@[simp] theorem State.focus_nextGang (s : State) (p : Nat) : (s.focus p).nextGang = s.nextGang := by unfold State.focus; split <;> rfl
@[simp] theorem State.focus_fences (s : State) (p : Nat) : (s.focus p).fences = s.fences := by unfold State.focus; split <;> rfl
@[simp] theorem State.focus_subs (s : State) (p : Nat) : (s.focus p).subs = s.subs := by unfold State.focus; split <;> rfl
@[simp] theorem State.focus_replays (s : State) (p : Nat) : (s.focus p).replays = s.replays := by unfold State.focus; split <;> rfl
@[simp] theorem State.focus_doorbells (s : State) (p : Nat) : (s.focus p).doorbells = s.doorbells := by unfold State.focus; split <;> rfl
@[simp] theorem State.focus_markers (s : State) (p : Nat) : (s.focus p).markers = s.markers := by unfold State.focus; split <;> rfl
@[simp] theorem State.focus_sieve (s : State) (p : Nat) : (s.focus p).sieve = s.sieve := by unfold State.focus; split <;> rfl
@[simp] theorem State.focus_conflicts (s : State) (p : Nat) : (s.focus p).conflicts = s.conflicts := by unfold State.focus; split <;> rfl
@[simp] theorem State.focus_detBars (s : State) (p : Nat) : (s.focus p).detBars = s.detBars := by unfold State.focus; split <;> rfl
@[simp] theorem State.focus_llc (s : State) (p : Nat) : (s.focus p).llc = s.llc := by unfold State.focus; split <;> rfl
@[simp] theorem State.focus_llcEv (s : State) (p : Nat) : (s.focus p).llcEv = s.llcEv := by unfold State.focus; split <;> rfl
@[simp] theorem State.focus_llcClock (s : State) (p : Nat) : (s.focus p).llcClock = s.llcClock := by unfold State.focus; split <;> rfl
@[simp] theorem State.focus_corrected (s : State) (p : Nat) : (s.focus p).corrected = s.corrected := by unfold State.focus; split <;> rfl
@[simp] theorem State.focus_flits (s : State) (p : Nat) : (s.focus p).flits = s.flits := by unfold State.focus; split <;> rfl
@[simp] theorem State.focus_linkq (s : State) (p : Nat) : (s.focus p).linkq = s.linkq := by unfold State.focus; split <;> rfl
@[simp] theorem State.focus_nextFlit (s : State) (p : Nat) : (s.focus p).nextFlit = s.nextFlit := by unfold State.focus; split <;> rfl
@[simp] theorem State.focus_nextXfer (s : State) (p : Nat) : (s.focus p).nextXfer = s.nextXfer := by unfold State.focus; split <;> rfl
@[simp] theorem State.focus_collTx (s : State) (p : Nat) : (s.focus p).collTx = s.collTx := by unfold State.focus; split <;> rfl
@[simp] theorem State.focus_images (s : State) (p : Nat) : (s.focus p).images = s.images := by unfold State.focus; split <;> rfl
@[simp] theorem State.focus_archive (s : State) (p : Nat) : (s.focus p).archive = s.archive := by unfold State.focus; split <;> rfl
@[simp] theorem State.focus_nextImage (s : State) (p : Nat) : (s.focus p).nextImage = s.nextImage := by unfold State.focus; split <;> rfl
@[simp] theorem State.focus_tst (s : State) (p : Nat) : (s.focus p).tst = s.tst := by unfold State.focus; split <;> rfl
@[simp] theorem State.focus_scrubq (s : State) (p : Nat) : (s.focus p).scrubq = s.scrubq := by unfold State.focus; split <;> rfl
@[simp] theorem State.focus_ports (s : State) (p : Nat) : (s.focus p).ports = s.ports := by unfold State.focus; split <;> rfl
@[simp] theorem State.focus_ethTabs (s : State) (p : Nat) : (s.focus p).ethTabs = s.ethTabs := by unfold State.focus; split <;> rfl
@[simp] theorem State.focus_ethTx (s : State) (p : Nat) : (s.focus p).ethTx = s.ethTx := by unfold State.focus; split <;> rfl
@[simp] theorem State.focus_boot (s : State) (p : Nat) : (s.focus p).boot = s.boot := by unfold State.focus; split <;> rfl
@[simp] theorem State.focus_tdi (s : State) (p : Nat) : (s.focus p).tdi = s.tdi := by unfold State.focus; split <;> rfl
@[simp] theorem State.focus_msix (s : State) (p : Nat) : (s.focus p).msix = s.msix := by unfold State.focus; split <;> rfl
@[simp] theorem State.focus_spdm (s : State) (p : Nat) : (s.focus p).spdm = s.spdm := by unfold State.focus; split <;> rfl
@[simp] theorem State.focus_hostRd (s : State) (p : Nat) : (s.focus p).hostRd = s.hostRd := by unfold State.focus; split <;> rfl
@[simp] theorem State.focus_order (s : State) (p : Nat) : (s.focus p).order = s.order := by unfold State.focus; split <;> rfl
@[simp] theorem State.focus_rc (s : State) (p : Nat) : (s.focus p).rc = s.rc := by unfold State.focus; split <;> rfl
@[simp] theorem State.focus_thrAt (s : State) (p : Nat) : (s.focus p).thrAt = s.thrAt := by unfold State.focus; split <;> rfl
@[simp] theorem State.focus_free (s : State) (p : Nat) : (s.focus p).free = s.free := by unfold State.focus; split <;> rfl
@[simp] theorem State.focus_turn (s : State) (p : Nat) : (s.focus p).turn = s.turn := by unfold State.focus; split <;> rfl
@[simp] theorem State.focus_agenda (s : State) (p : Nat) : (s.focus p).agenda = s.agenda := by unfold State.focus; split <;> rfl
@[simp] theorem State.focus_cur (s : State) (p : Nat) : (s.focus p).cur = p := by unfold State.focus; split <;> simp_all
@[simp] theorem State.focus_core (s : State) (p : Nat) : (s.focus p).core = s.coreAt p := by unfold State.focus State.coreAt; split <;> rfl
@[simp] theorem State.setCoreAt_cur (s : State) (p : Nat) (c : Core) : (s.setCoreAt p c).cur = s.cur := by unfold State.setCoreAt; split <;> rfl
@[simp] theorem State.setCoreAt_mem (s : State) (p : Nat) (c : Core) : (s.setCoreAt p c).mem = s.mem := by unfold State.setCoreAt; split <;> rfl
@[simp] theorem State.setCoreAt_poison (s : State) (p : Nat) (c : Core) : (s.setCoreAt p c).poison = s.poison := by unfold State.setCoreAt; split <;> rfl
@[simp] theorem State.setCoreAt_pf (s : State) (p : Nat) (c : Core) : (s.setCoreAt p c).pf = s.pf := by unfold State.setCoreAt; split <;> rfl
@[simp] theorem State.setCoreAt_tq (s : State) (p : Nat) (c : Core) : (s.setCoreAt p c).tq = s.tq := by unfold State.setCoreAt; split <;> rfl
@[simp] theorem State.setCoreAt_taken (s : State) (p : Nat) (c : Core) : (s.setCoreAt p c).taken = s.taken := by unfold State.setCoreAt; split <;> rfl
@[simp] theorem State.setCoreAt_nextSlot (s : State) (p : Nat) (c : Core) : (s.setCoreAt p c).nextSlot = s.nextSlot := by unfold State.setCoreAt; split <;> rfl
@[simp] theorem State.setCoreAt_launches (s : State) (p : Nat) (c : Core) : (s.setCoreAt p c).launches = s.launches := by unfold State.setCoreAt; split <;> rfl
@[simp] theorem State.setCoreAt_past (s : State) (p : Nat) (c : Core) : (s.setCoreAt p c).past = s.past := by unfold State.setCoreAt; split <;> rfl
@[simp] theorem State.setCoreAt_bindings (s : State) (p : Nat) (c : Core) : (s.setCoreAt p c).bindings = s.bindings := by unfold State.setCoreAt; split <;> rfl
@[simp] theorem State.setCoreAt_gangs (s : State) (p : Nat) (c : Core) : (s.setCoreAt p c).gangs = s.gangs := by unfold State.setCoreAt; split <;> rfl
@[simp] theorem State.setCoreAt_nextGang (s : State) (p : Nat) (c : Core) : (s.setCoreAt p c).nextGang = s.nextGang := by unfold State.setCoreAt; split <;> rfl
@[simp] theorem State.setCoreAt_fences (s : State) (p : Nat) (c : Core) : (s.setCoreAt p c).fences = s.fences := by unfold State.setCoreAt; split <;> rfl
@[simp] theorem State.setCoreAt_subs (s : State) (p : Nat) (c : Core) : (s.setCoreAt p c).subs = s.subs := by unfold State.setCoreAt; split <;> rfl
@[simp] theorem State.setCoreAt_replays (s : State) (p : Nat) (c : Core) : (s.setCoreAt p c).replays = s.replays := by unfold State.setCoreAt; split <;> rfl
@[simp] theorem State.setCoreAt_doorbells (s : State) (p : Nat) (c : Core) : (s.setCoreAt p c).doorbells = s.doorbells := by unfold State.setCoreAt; split <;> rfl
@[simp] theorem State.setCoreAt_markers (s : State) (p : Nat) (c : Core) : (s.setCoreAt p c).markers = s.markers := by unfold State.setCoreAt; split <;> rfl
@[simp] theorem State.setCoreAt_sieve (s : State) (p : Nat) (c : Core) : (s.setCoreAt p c).sieve = s.sieve := by unfold State.setCoreAt; split <;> rfl
@[simp] theorem State.setCoreAt_conflicts (s : State) (p : Nat) (c : Core) : (s.setCoreAt p c).conflicts = s.conflicts := by unfold State.setCoreAt; split <;> rfl
@[simp] theorem State.setCoreAt_detBars (s : State) (p : Nat) (c : Core) : (s.setCoreAt p c).detBars = s.detBars := by unfold State.setCoreAt; split <;> rfl
@[simp] theorem State.setCoreAt_llc (s : State) (p : Nat) (c : Core) : (s.setCoreAt p c).llc = s.llc := by unfold State.setCoreAt; split <;> rfl
@[simp] theorem State.setCoreAt_llcEv (s : State) (p : Nat) (c : Core) : (s.setCoreAt p c).llcEv = s.llcEv := by unfold State.setCoreAt; split <;> rfl
@[simp] theorem State.setCoreAt_llcClock (s : State) (p : Nat) (c : Core) : (s.setCoreAt p c).llcClock = s.llcClock := by unfold State.setCoreAt; split <;> rfl
@[simp] theorem State.setCoreAt_corrected (s : State) (p : Nat) (c : Core) : (s.setCoreAt p c).corrected = s.corrected := by unfold State.setCoreAt; split <;> rfl
@[simp] theorem State.setCoreAt_flits (s : State) (p : Nat) (c : Core) : (s.setCoreAt p c).flits = s.flits := by unfold State.setCoreAt; split <;> rfl
@[simp] theorem State.setCoreAt_linkq (s : State) (p : Nat) (c : Core) : (s.setCoreAt p c).linkq = s.linkq := by unfold State.setCoreAt; split <;> rfl
@[simp] theorem State.setCoreAt_nextFlit (s : State) (p : Nat) (c : Core) : (s.setCoreAt p c).nextFlit = s.nextFlit := by unfold State.setCoreAt; split <;> rfl
@[simp] theorem State.setCoreAt_nextXfer (s : State) (p : Nat) (c : Core) : (s.setCoreAt p c).nextXfer = s.nextXfer := by unfold State.setCoreAt; split <;> rfl
@[simp] theorem State.setCoreAt_collTx (s : State) (p : Nat) (c : Core) : (s.setCoreAt p c).collTx = s.collTx := by unfold State.setCoreAt; split <;> rfl
@[simp] theorem State.setCoreAt_images (s : State) (p : Nat) (c : Core) : (s.setCoreAt p c).images = s.images := by unfold State.setCoreAt; split <;> rfl
@[simp] theorem State.setCoreAt_archive (s : State) (p : Nat) (c : Core) : (s.setCoreAt p c).archive = s.archive := by unfold State.setCoreAt; split <;> rfl
@[simp] theorem State.setCoreAt_nextImage (s : State) (p : Nat) (c : Core) : (s.setCoreAt p c).nextImage = s.nextImage := by unfold State.setCoreAt; split <;> rfl
@[simp] theorem State.setCoreAt_tst (s : State) (p : Nat) (c : Core) : (s.setCoreAt p c).tst = s.tst := by unfold State.setCoreAt; split <;> rfl
@[simp] theorem State.setCoreAt_scrubq (s : State) (p : Nat) (c : Core) : (s.setCoreAt p c).scrubq = s.scrubq := by unfold State.setCoreAt; split <;> rfl
@[simp] theorem State.setCoreAt_ports (s : State) (p : Nat) (c : Core) : (s.setCoreAt p c).ports = s.ports := by unfold State.setCoreAt; split <;> rfl
@[simp] theorem State.setCoreAt_ethTabs (s : State) (p : Nat) (c : Core) : (s.setCoreAt p c).ethTabs = s.ethTabs := by unfold State.setCoreAt; split <;> rfl
@[simp] theorem State.setCoreAt_ethTx (s : State) (p : Nat) (c : Core) : (s.setCoreAt p c).ethTx = s.ethTx := by unfold State.setCoreAt; split <;> rfl
@[simp] theorem State.setCoreAt_boot (s : State) (p : Nat) (c : Core) : (s.setCoreAt p c).boot = s.boot := by unfold State.setCoreAt; split <;> rfl
@[simp] theorem State.setCoreAt_tdi (s : State) (p : Nat) (c : Core) : (s.setCoreAt p c).tdi = s.tdi := by unfold State.setCoreAt; split <;> rfl
@[simp] theorem State.setCoreAt_msix (s : State) (p : Nat) (c : Core) : (s.setCoreAt p c).msix = s.msix := by unfold State.setCoreAt; split <;> rfl
@[simp] theorem State.setCoreAt_spdm (s : State) (p : Nat) (c : Core) : (s.setCoreAt p c).spdm = s.spdm := by unfold State.setCoreAt; split <;> rfl
@[simp] theorem State.setCoreAt_hostRd (s : State) (p : Nat) (c : Core) : (s.setCoreAt p c).hostRd = s.hostRd := by unfold State.setCoreAt; split <;> rfl
@[simp] theorem State.setCoreAt_order (s : State) (p : Nat) (c : Core) : (s.setCoreAt p c).order = s.order := by unfold State.setCoreAt; split <;> rfl
@[simp] theorem State.setCoreAt_rc (s : State) (p : Nat) (c : Core) : (s.setCoreAt p c).rc = s.rc := by unfold State.setCoreAt; split <;> rfl
@[simp] theorem State.setCoreAt_thrAt (s : State) (p : Nat) (c : Core) : (s.setCoreAt p c).thrAt = s.thrAt := by unfold State.setCoreAt; split <;> rfl
@[simp] theorem State.setCoreAt_free (s : State) (p : Nat) (c : Core) : (s.setCoreAt p c).free = s.free := by unfold State.setCoreAt; split <;> rfl
@[simp] theorem State.setCoreAt_turn (s : State) (p : Nat) (c : Core) : (s.setCoreAt p c).turn = s.turn := by unfold State.setCoreAt; split <;> rfl
@[simp] theorem State.setCoreAt_agenda (s : State) (p : Nat) (c : Core) : (s.setCoreAt p c).agenda = s.agenda := by unfold State.setCoreAt; split <;> rfl

end Sys2Proof.Machine
end

