-- ==== Sys2Proof/Laws/Ops.lean ====
section
/-!
SUPPORT. What the shared operations of CTL do: registers, fault banks, PF registers, cores, the loop levels, taking an
exception and returning from one, writing bytes.
-/

namespace Sys2Proof.Machine

/-! ### The s registers -/

@[simp] theorem State.rd_zero (s : State) (h : (0 : Nat) < 32) : s.rd ⟨0, h⟩ = 0 := rfl

@[simp] theorem State.wr_zero (s : State) (v : W64) (h : (0 : Nat) < 32) : s.wr ⟨0, h⟩ v = s := rfl

/-- A register other than s0 reads back what was written. -/
theorem State.rd_wr_self (s : State) {r : Reg} (v : W64) (h : r.val ≠ 0) : (s.wr r v).rd r = v := by
  have hr : r.val < 32 := r.isLt
  simp [State.rd, State.wr, h, State.upd, hr]

/-- Every other register reads as before. -/
theorem State.rd_wr_ne (s : State) {r q : Reg} (v : W64) (h : q ≠ r) : (s.wr r v).rd q = s.rd q := by
  have hv : r.val ≠ q.val := fun e => h (Fin.ext e.symm)
  unfold State.wr
  split
  · rfl
  · simp [State.rd, State.upd, hv]

/-- Reading depends on the s registers of the core in focus only. -/
theorem State.rd_congr {s t : State} (h : t.core.s = s.core.s) (r : Reg) : t.rd r = s.rd r := by simp [State.rd, h]

@[simp] theorem State.rd_retireTo (s : State) (n : Addr) (r : Reg) : (s.retireTo n).rd r = s.rd r := rfl
@[simp] theorem State.rd_retire (s : State) (n : Nat) (r : Reg) : (s.retire n).rd r = s.rd r := rfl
@[simp] theorem State.rd_jump (s : State) (a : Addr) (r : Reg) : (s.jump a).rd r = s.rd r := rfl

/-! ### Fault banks -/

theorem State.bank_setBank_self (s : State) {n : Nat} (b : Bank) (h1 : 1 ≤ n) (h3 : n ≤ 3) : (s.setBank n b).bank n = b := by
  have hn : n - 1 < 3 := by omega
  simp [State.bank, State.setBank, State.upd, hn]

theorem State.bank_setBank_ne (s : State) {n k : Nat} (b : Bank) (h1 : 1 ≤ n) (hk : 1 ≤ k) (h : k ≠ n) :
    (s.setBank n b).bank k = s.bank k := by
  have hn : n - 1 ≠ k - 1 := by omega
  simp [State.bank, State.setBank, State.upd, hn]

/-! ### PF registers -/

@[simp] theorem pfLookup_nil (k : Nat) : pfLookup [] k = pfDefault k := rfl

theorem pfLookup_cons (x : Nat × W64) (l : List (Nat × W64)) (k : Nat) :
    pfLookup (x :: l) k = if x.1 = k then x.2 else pfLookup l k := by
  show (bif Nat.beq x.1 k then x.2 else pfLookup l k) = _
  rw [nat_beq_decide, Bool.cond_decide]

@[simp] theorem setAssoc_nil (k : Nat) (v : W64) : setAssoc [] k v = [(k, v)] := rfl

theorem setAssoc_cons (x : Nat × W64) (l : List (Nat × W64)) (k : Nat) (v : W64) :
    setAssoc (x :: l) k v = if x.1 = k then (k, v) :: l else x :: setAssoc l k v := by
  show (bif Nat.beq x.1 k then (k, v) :: l else x :: setAssoc l k v) = _
  rw [nat_beq_decide, Bool.cond_decide]

theorem pfLookup_setAssoc_self (l : List (Nat × W64)) (k : Nat) (v : W64) : pfLookup (setAssoc l k v) k = v := by
  induction l with
  | nil => simp [pfLookup_cons]
  | cons x r ih =>
    rw [setAssoc_cons]
    split
    · simp [pfLookup_cons]
    · rename_i hx; simp [pfLookup_cons, hx, ih]

theorem pfLookup_setAssoc_ne (l : List (Nat × W64)) {k j : Nat} (v : W64) (h : j ≠ k) :
    pfLookup (setAssoc l k v) j = pfLookup l j := by
  induction l with
  | nil => simp [pfLookup_cons, h.symm]
  | cons x r ih =>
    rw [setAssoc_cons]
    split
    · rename_i hx
      simp [pfLookup_cons, hx, h.symm]
    · simp [pfLookup_cons, ih]

/-- A PF register reads back what was stored. -/
@[simp] theorem State.pfRaw_setPf_self (s : State) (o : Nat) (v : W64) : (s.setPf o v).pfRaw o = v := by
  simp only [State.pfRaw, State.setPf_pf, pfLookup_setAssoc_self]

/-- Every other PF register reads as before. -/
theorem State.pfRaw_setPf_ne (s : State) {o p : Nat} (v : W64) (h : p ≠ o) : (s.setPf o v).pfRaw p = s.pfRaw p := by
  simp only [State.pfRaw, State.setPf_pf, pfLookup_setAssoc_ne _ _ h]

/-! ### Cores -/

@[simp] theorem State.coreAt_cur (s : State) : s.coreAt s.cur = s.core := by simp [State.coreAt]

theorem State.coreAt_setCoreAt_self (s : State) (p : Nat) (c : Core) : (s.setCoreAt p c).coreAt p = c := by
  unfold State.setCoreAt State.coreAt
  split <;> simp_all

theorem find_filter_ne (l : List (Nat × Core)) {p q : Nat} (h : q ≠ p) :
    (l.filter (fun x => x.1 != p)).find? (fun x => x.1 == q) = l.find? (fun x => x.1 == q) := by
  induction l with
  | nil => rfl
  | cons x r ih =>
    rw [List.filter_cons]
    split
    · simp [List.find?_cons, ih]
    · rename_i hx
      have hp : x.1 = p := by simpa using hx
      have hq : (x.1 == q) = false := by simpa [hp] using h.symm
      rw [ih, List.find?_cons, hq]

/-- Every other core is as before. -/
theorem State.coreAt_setCoreAt_ne (s : State) {p q : Nat} (c : Core) (h : q ≠ p) :
    (s.setCoreAt p c).coreAt q = s.coreAt q := by
  unfold State.setCoreAt
  split
  · rename_i hp
    have hq : q ≠ s.cur := fun e => h (e.trans hp.symm)
    simp [State.coreAt, hq]
  · by_cases hq : q = s.cur
    · simp [State.coreAt, hq]
    · simp [State.coreAt, hq, h.symm, find_filter_ne s.others h]

/-- Bringing a core into focus changes no core. -/
theorem State.coreAt_focus (s : State) (p q : Nat) : (s.focus p).coreAt q = s.coreAt q := by
  unfold State.focus
  split
  · rfl
  · rename_i hp
    simp only [State.coreAt]
    by_cases hq : q = p
    · simp [hq]
    · by_cases hc : q = s.cur
      · simp [hc, Ne.symm hp]
      · simp [hq, hc, Ne.symm hc, find_filter_ne s.others hq]

/-! ### The loop levels (R118, R119) -/

/-- A level whose body does not end at n stays as it is. -/
theorem Loop.atEnd_off (l : Loop) {n : Addr} (h : ¬(l.act = true ∧ n = l.start + BitVec.ofNat 48 (4 * (l.lenm1.toNat + 1)))) :
    l.atEnd n = (l, none) := by
  unfold Loop.atEnd
  split
  · rename_i hc
    simp only [Bool.and_eq_true, beq_iff_eq] at hc
    exact absurd hc h
  · rfl

/-- A level whose body ends at n counts down and returns. -/
theorem Loop.atEnd_back (l : Loop) {n : Addr} (h : l.act = true) (hn : n = l.start + BitVec.ofNat 48 (4 * (l.lenm1.toNat + 1)))
    (hc : 1 < l.count.toNat) : l.atEnd n = ({ l with count := l.count - 1 }, some l.start) := by
  subst hn; simp [Loop.atEnd, h, hc]

/-- A level whose body ends at n with a count of at most 1 falls through. -/
theorem Loop.atEnd_through (l : Loop) {n : Addr} (h : l.act = true) (hn : n = l.start + BitVec.ofNat 48 (4 * (l.lenm1.toNat + 1)))
    (hc : l.count.toNat ≤ 1) : l.atEnd n = ({ l with count := 0, act := false }, none) := by
  subst hn; simp [Loop.atEnd, h, Nat.not_lt.mpr hc]

/-- Above PL0 the loop buffer does not act. -/
theorem loopEnd_above {pl : Nat} (h : pl ≠ 0) (l0 l1 : Loop) (n : Addr) : loopEnd pl l0 l1 n = (l0, l1, n) := by
  simp [loopEnd, h]

theorem loopJump_above {pl : Nat} (h : pl ≠ 0) (l0 l1 : Loop) (a : Addr) : loopJump pl l0 l1 a = (l0, l1) := by
  simp [loopJump, h]

/-- A PC that no active level ends at is where a sequential instruction goes. -/
theorem State.retireTo_core_pc_off (s : State) (n : Addr)
    (h : s.core.pl ≠ 0 ∨ ∀ l, l = s.core.lc0 ∨ l = s.core.lc1 →
      ¬(l.act = true ∧ n = l.start + BitVec.ofNat 48 (4 * (l.lenm1.toNat + 1)))) : (s.retireTo n).core.pc = n := by
  simp only [State.retireTo, State.upd_core]
  rcases h with h | h
  · rw [loopEnd_above h]
  · simp only [loopEnd, Loop.atEnd_off _ (h _ (.inl rfl)), Loop.atEnd_off _ (h _ (.inr rfl))]
    split <;> rfl

/-! ### Taking an exception and returning (R339, R344) -/

/-- Trap entry at level h changes the bank of h, PL, PC, the ARV mark and the wait of the core in focus, and nothing else. -/
theorem State.enter_eq (s : State) (h g c2 code : Nat) (v : W64) (seq : W32) (epc : Addr) (arv : Bool) :
    s.enter h g c2 code v seq epc arv = { s with core := { s.core with
      banks := s.core.banks.setIfInBounds (h - 1) ⟨BitVec.ofNat 64 (c2 * 2 ^ 48 + code * 2 ^ 32 + seq.toNat),
        BitVec.ofNat 64 (epc.toNat / 4 * 4 + b2n arv * 2), v, BitVec.ofNat 64 (g * 4 + s.core.pl), (s.bank h).esave⟩,
      pl := h, pc := s.entry h, arv := false, wait := none } } := rfl

/-- A precise cause of CTL that is handled above the running level enters its level. -/
theorem State.trap_enters (s : State) (t : Trap) (hp : s.core.pl < t.handling s.core.pl)
    (ha : t.handling s.core.pl = 1 → s.pfBits (vfReg s.vf.toNat 0x38) 0 48 ≠ 0) :
    s.trap t = s.enter (t.handling s.core.pl) 0 0 t.cause.code t.val 0 s.core.pc (s.arvBit s.core.pc) := by
  unfold State.trap State.raise
  have h0 : t.handling s.core.pl ≠ 0 := by omega
  have h1 : ¬ t.handling s.core.pl ≤ s.core.pl := by omega
  have h2 : ¬(t.handling s.core.pl = 1 ∧ s.pfBits (vfReg s.vf.toNat 0x38) 0 48 = 0) := fun h => ha h.1 h.2
  simp only [h0, h1, if_false, decide_false, Bool.and_false, Bool.false_eq_true, Bool.and_eq_true, decide_eq_true_eq, h2]

/-- Returning changes PL, PC, the ARV mark, the wait, the count of instructions, and the stop of the queues with what it
withheld. -/
theorem State.returnFrom_frame (s : State) (n p : Nat) :
    let t := s.returnFrom n p
    t = { s with core := { s.core with pl := p, pc := BitVec.ofNat 48 ((s.bank n).epc.toNat / 4 * 4),
                                       arv := bit (s.bank n).epc.toNat 1, wait := none,
                                       ctr := { s.core.ctr with ctlRet := s.core.ctr.ctlRet + 1 },
                                       qstop := t.core.qstop, qlevel := t.core.qlevel, eng := t.core.eng } } := by
  simp only [State.returnFrom]
  split <;> rfl

/-! ### Writing bytes -/

/-- A use of the LLC changes nothing but what the LLC holds and the flits that wait for the sector links. -/
theorem State.llcTouch_eq (s : State) (a q : Nat) (ctx : BitVec 9) (w : Bool) :
    s.llcTouch a q ctx w = { s with llc := (s.llcTouch a q ctx w).llc, llcEv := (s.llcTouch a q ctx w).llcEv,
                                    llcClock := (s.llcTouch a q ctx w).llcClock,
                                    linkq := (s.llcTouch a q ctx w).linkq } := by
  unfold State.llcTouch; split <;> rfl

theorem State.llcTouchAll_eq (s : State) (a n q : Nat) (ctx : BitVec 9) (w : Bool) :
    s.llcTouchAll a n q ctx w = { s with llc := (s.llcTouchAll a n q ctx w).llc, llcEv := (s.llcTouchAll a n q ctx w).llcEv,
                                         llcClock := (s.llcTouchAll a n q ctx w).llcClock,
                                         linkq := (s.llcTouchAll a n q ctx w).linkq } := by
  unfold State.llcTouchAll
  generalize List.range ((a + n - 1) / 256 - a / 256 + 1) = l
  induction l generalizing s with
  | nil => rfl
  | cons k r ih => rw [List.foldl_cons, ih, State.llcTouch_eq s]

/-- What bytes put leave in memory depends on memory alone. -/
theorem State.putBytes_mem_congr {s t : State} (h : s.mem = t.mem) (a : Nat) (l : List Byte) :
    (s.putBytes a l).mem = (t.putBytes a l).mem := by
  induction l generalizing s t a with
  | nil => exact h
  | cons b r ih => exact ih (by simp [h]) _

/-- A write of device memory puts exactly its bytes. -/
theorem State.devWrite_mem (s : State) (a q : Nat) (ctx : BitVec 9) (l : List Byte) :
    (s.devWrite a q ctx l).mem = (s.putBytes a l).mem := by
  have h (t : State) (n : Nat) (w : Bool) : (t.llcTouchAll a n q ctx w).mem = t.mem := by rw [State.llcTouchAll_eq]
  have e : (s.devWrite a q ctx l).mem = ((s.llcTouchAll a l.length q ctx false).putBytes a l).mem := by
    simp only [State.devWrite]; rw [h]; rfl
  rw [e, State.putBytes_mem_congr (h s l.length false)]

theorem State.devWrite_byte_out (s : State) (a q : Nat) (ctx : BitVec 9) (l : List Byte) (x : Nat)
    (h : x < a ∨ a + l.length ≤ x) : (s.devWrite a q ctx l).byte x = s.byte x := by
  rw [State.byte, State.devWrite_mem]; exact State.putBytes_byte_out s a l x h

theorem State.devWrite_byte_in (s : State) (a q : Nat) (ctx : BitVec 9) (l : List Byte) (k : Nat) (h : k < l.length) :
    (s.devWrite a q ctx l).byte (a + k) = l.getD k 0 := by
  rw [State.byte, State.devWrite_mem]; exact State.putBytes_byte_in s a l k h

/-- A write of device memory keeps the form of memory. -/
theorem State.devWrite_wf {s : State} (a q : Nat) (ctx : BitVec 9) (l : List Byte) (w : Memory.wf s.mem = true) :
    Memory.wf (s.devWrite a q ctx l).mem = true := by
  rw [State.devWrite_mem]; exact State.putBytes_wf a l w

/-- What the LLC does after a change of memory concerns the LLC alone. -/
theorem State.llcWrites_eq (s : State) (a n q : Nat) (ctx : BitVec 9) :
    s.llcWrites a n q ctx = { s with llc := (s.llcWrites a n q ctx).llc, llcEv := (s.llcWrites a n q ctx).llcEv,
                                     llcClock := (s.llcWrites a n q ctx).llcClock, linkq := (s.llcWrites a n q ctx).linkq } := by
  unfold State.llcWrites
  generalize List.filter _ s.llc = l
  induction l generalizing s with
  | nil => rfl
  | cons b r ih => rw [List.foldl_cons, ih, State.llcTouch_eq s]

@[simp] theorem State.hwAfter_mem (s t : State) (a n q : Nat) (ctx : BitVec 9) : (s.hwAfter t a n q ctx).mem = t.mem := by
  rw [State.hwAfter, State.llcWrites_eq]

/-- A store of the hardware puts exactly its bytes. -/
@[simp] theorem State.hwWriteFor_mem (s : State) (q : Nat) (ctx : BitVec 9) (a : Nat) (l : List Byte) :
    (s.hwWriteFor q ctx a l).mem = (s.putBytes a l).mem := by
  rw [State.hwWriteFor, State.hwAfter_mem]; rfl

@[simp] theorem State.hwWrite_mem (s : State) (a : Nat) (l : List Byte) : (s.hwWrite a l).mem = (s.putBytes a l).mem :=
  State.hwWriteFor_mem ..

/-- A block that the hardware streams puts exactly its bytes. -/
@[simp] theorem State.hwBlock_mem (s : State) (q : Nat) (ctx : BitVec 9) (a : Nat) (l : List Byte) :
    (s.hwBlock q ctx a l).mem = (s.putBlock a l).mem := State.hwAfter_mem ..

/-- A store of the hardware keeps the form of memory. -/
theorem State.hwWrite_wf {s : State} (a : Nat) (l : List Byte) (w : Memory.wf s.mem = true) : Memory.wf (s.hwWrite a l).mem = true := by
  rw [State.hwWrite_mem]; exact State.putBytes_wf a l w

/-- Dirty tracking changes a PF register, or makes a store of the hardware. -/
theorem State.markDirty_cases (s : State) (v g : Nat) :
    s.markDirty v g = s ∨ s.markDirty v g = s.setPfBits (vfReg v 0x68) 2 1 1 ∨ ∃ a b, s.markDirty v g = s.hwWrite a [b] := by
  simp only [State.markDirty]; split
  · exact .inl rfl
  · split
    · exact .inr (.inl rfl)
    · exact .inr (.inr ⟨_, _, rfl⟩)

theorem State.markDirty_wf {s : State} (v g : Nat) (w : Memory.wf s.mem = true) : Memory.wf (s.markDirty v g).mem = true := by
  obtain h | h | ⟨a, b, h⟩ := s.markDirty_cases v g <;> rw [h]
  · exact w
  · exact w
  · exact State.hwWrite_wf _ _ w

theorem State.dirtied_wf {s : State} (l : Loc) (w : Memory.wf s.mem = true) : Memory.wf (s.dirtied l).mem = true := by
  unfold State.dirtied; split
  · exact State.markDirty_wf _ _ w
  · exact w

/-- A place that passes no second stage is not tracked. -/
theorem State.dirtied_none (s : State) {l : Loc} (h : l.gfn = none) : s.dirtied l = s := by simp [State.dirtied, h]

/-- A log entry is a PF register raised, or an entry written to memory. -/
theorem State.poisonLog_wf {s : State} (k e a g : Nat) (q : W32) (w : Memory.wf s.mem = true) :
    Memory.wf (s.poisonLog k e a g q).mem = true := by
  simp only [State.poisonLog]; split
  · exact w
  · exact State.hwWrite_wf _ _ (State.hwWrite_wf _ _ w)

end Sys2Proof.Machine
end

