-- ==== Sys2Proof/Tests/Slice0.lean ====
section
/-!
SUPPORT. Tests of the model: what WellFormed refuses, words that the encodings of the spec build, single steps on small states,
and, for each statement with hypotheses, states and operands that meet them.
-/

set_option Elab.async false
set_option maxRecDepth 100000

open Sys2Proof Sys2Proof.Machine

namespace Sys2Proof.Tests

/-! ### Words and what they decode to -/

def decodesTo (l : List (List Nat × Instr)) : Bool := l.all (fun p => decide (decode p.1 = .ok p.2))

noncomputable def decodesImage (e : Eng) (l : List (List Nat × Instr)) : Bool :=
  l.all (fun p => decide (decodeImage e (imageOfWords p.1) = .ok p.2))

noncomputable def decodesEp (l : List (Nat × Instr)) : Bool := l.all (fun p => decide (decodeEp p.1 = .ok p.2))

/-- R51: the ALU group. -/
theorem test_decode_alu_1 : decodesTo
    [([0x00422F00], .add 1 2 30),
      ([0x00445281], .sub 2 5 5),
      ([0x00468602], .and 3 8 12),
      ([0x0048B983], .or 4 11 19),
      ([0x004AED04], .xor 5 14 26),
      ([0x004D1085], .andn 6 17 1),
      ([0x004F4406], .shl 7 20 8),
      ([0x00517787], .shr 8 23 15),
      ([0x0053AB08], .sar 9 26 22),
      ([0x0055DE89], .rol 10 29 29),
      ([0x0056020A], .ror 11 0 4),
      ([0x0058358B], .min 12 3 11)] = true := by decide +kernel

/-- R51: the ALU group. -/
theorem test_decode_alu_2 : decodesTo
    [([0x005A690C], .max 13 6 18),
      ([0x005C9C8D], .minu 14 9 25),
      ([0x005EC00E], .maxu 15 12 0),
      ([0x0060F38F], .slt 16 15 7),
      ([0x00632710], .sltu 17 18 14),
      ([0x00655A91], .seq 18 21 21),
      ([0x00678E12], .sne 19 24 28),
      ([0x0069B193], .mul 20 27 3),
      ([0x006BE514], .mulh 21 30 10),
      ([0x006C1895], .mulhu 22 1 17),
      ([0x006E4C16], .div 23 4 24),
      ([0x00707F97], .divu 24 7 31)] = true := by decide +kernel

/-- R51: the ALU group. -/
theorem test_decode_alu_3 : decodesTo
    [([0x0072A318], .rem 25 10 6),
      ([0x0074D699], .remu 26 13 13),
      ([0x0053401A], .clz 9 20),
      ([0x0053401B], .ctz 9 20),
      ([0x0053401C], .popc 9 20),
      ([0x0053401D], .brev 9 20),
      ([0x007C111E], .sext 30 1 .w32),
      ([0x007C109F], .zext 30 1 .w16),
      ([0x004A601E], .sext 5 6 .w8)] = true := by decide +kernel

/-- R47, R48, R50, R53: the immediate group and the conditional branches, in both lengths. -/
theorem test_decode_imm_branch_1 : decodesTo
    [([0x00891ABC], .addi 4 17 0xABC),
      ([0x10891000, 0x89ABCDE0], .addiX 4 17 0x89ABCDE0),
      ([0x00C91ABD], .andi 4 17 0xABD),
      ([0x10C91000, 0x89ABCDE1], .andiX 4 17 0x89ABCDE1),
      ([0x01091ABE], .ori 4 17 0xABE),
      ([0x11091000, 0x89ABCDE2], .oriX 4 17 0x89ABCDE2),
      ([0x01491ABF], .xori 4 17 0xABF),
      ([0x11491000, 0x89ABCDE3], .xoriX 4 17 0x89ABCDE3),
      ([0x01891AC0], .slti 4 17 0xAC0),
      ([0x11891000, 0x89ABCDE4], .sltiX 4 17 0x89ABCDE4),
      ([0x01C91AC1], .sltiu 4 17 0xAC1),
      ([0x11C91000, 0x89ABCDE5], .sltiuX 4 17 0x89ABCDE5)] = true := by decide +kernel

/-- R47, R48, R50, R53: the immediate group and the conditional branches, in both lengths. -/
theorem test_decode_imm_branch_2 : decodesTo
    [([0x02091039], .shli 4 17 57),
      ([0x02491038], .shri 4 17 56),
      ([0x02891037], .sari 4 17 55),
      ([0x02C91AC5], .muli 4 17 0xAC5),
      ([0x12C91000, 0x89ABCDE9], .muliX 4 17 0x89ABCDE9),
      ([0x03068CD5], .idx 3 8 25 2 0x15),
      ([0x13068CA0, 0xFFFFFFF0], .idxX 3 8 25 1 0xFFFFFFF0),
      ([0x040F5801], .beq 7 21 0x801),
      ([0x140F5000, 0x80000001], .beqX 7 21 0x80000001),
      ([0x044F5802], .bne 7 21 0x802),
      ([0x144F5000, 0x80000002], .bneX 7 21 0x80000002),
      ([0x048F5803], .blt 7 21 0x803)] = true := by decide +kernel

/-- R47, R48, R50, R53: the immediate group and the conditional branches, in both lengths. -/
theorem test_decode_imm_branch_3 : decodesTo
    [([0x148F5000, 0x80000003], .bltX 7 21 0x80000003),
      ([0x04CF5804], .bge 7 21 0x804),
      ([0x14CF5000, 0x80000004], .bgeX 7 21 0x80000004),
      ([0x050F5805], .bltu 7 21 0x805),
      ([0x150F5000, 0x80000005], .bltuX 7 21 0x80000005),
      ([0x054F5806], .bgeu 7 21 0x806),
      ([0x154F5000, 0x80000006], .bgeuX 7 21 0x80000006)] = true := by decide +kernel

/-- R46 to R53: jumps, loops, rotation, memory, fences, ownership, barriers. -/
theorem test_decode_control_1 : decodesTo
    [([0x05A00001], .j 0x200001),
      ([0x15800000, 0xFFFF0000], .jX 0xFFFF0000),
      ([0x05C207FF], .jal 1 0x7FF),
      ([0x15C20000, 0x00000005], .jalX 1 5),
      ([0x0601FFFE], .jr 31 0xFFE),
      ([0x1601F000, 0x80000000], .jrX 31 0x80000000),
      ([0x0645F004], .jalr 2 31 4),
      ([0x1645F000, 0x00000004], .jalrX 2 31 4),
      ([0x0680C07F], .loop 12 true 63),
      ([0x06FFF000], .loopi 1023 false 0),
      ([0x16C00041, 0x12345678], .loopiX 0x12345678 true 1),
      ([0x070DF800], .brot 6 31 0x800)] = true := by decide +kernel

/-- R46 to R53: jumps, loops, rotation, memory, fences, ownership, barriers. -/
theorem test_decode_control_2 : decodesTo
    [([0x07400011], .rot 17),
      ([0x078030FF], .setvrb 3 0x0FF),
      ([0x080A6DFF], .ld 5 6 .d 0x1FF),
      ([0x180A6200, 0xFFFFFFFF], .ldX 5 6 .bu 0xFFFFFFFF),
      ([0x084A6900], .st 5 6 .w 0x100),
      ([0x184A6400, 0x00000006], .stX 5 6 .h 6),
      ([0x088A6B00], .lda 5 6 .wu .system),
      ([0x08CA6040], .stl 5 6 .b .cluster),
      ([0x09400007], .fenceAcq .host),
      ([0x09400016], .fenceRel .ring),
      ([0x09400024], .fenceFull .die),
      ([0x098090AB], .prefL1 9 0x0AB)] = true := by decide +kernel

/-- R46 to R53: jumps, loops, rotation, memory, fences, ownership, barriers. -/
theorem test_decode_control_3 : decodesTo
    [([0x09809355], .prefLlc 9 0x155),
      ([0x19809200, 0x00000040], .prefX true 9 0x40),
      ([0x0A004001], .give 4 1),
      ([0x0A400DFF], .take 0xDFF),
      ([0x0A9007A5], .ownq 8 0x7A5),
      ([0x0AD6D060], .barInit 11 13 .sector),
      ([0x0AC0D260], .barArv 13 .sector),
      ([0x0AC0D460], .barWait 13 .sector),
      ([0x0AC0D660], .barArvw 13 .sector),
      ([0x0AD6D860], .barTest 11 13 .sector),
      ([0x0AC0DA60], .barDbar 13 .sector)] = true := by decide +kernel

/-- R46, R52 to R56: atomics, work, system registers, patches, headers. -/
theorem test_decode_system_1 : decodesTo
    [([0x090C7000], .amoAdd 6 7 .rlx false .engine),
      ([0x090C7162], .amoAnd 6 7 .acq true .core),
      ([0x090C7284], .amoOr 6 7 .rel false .cluster),
      ([0x090C73E6], .amoXor 6 7 .ar true .sector),
      ([0x090C7408], .amoMin 6 7 .rlx false .die),
      ([0x090C756A], .amoMax 6 7 .acq true .package),
      ([0x090C768C], .amoMinu 6 7 .rel false .ring),
      ([0x090C77EE], .amoMaxu 6 7 .ar true .host),
      ([0x090C7810], .amoSwap 6 7 .rlx false .system),
      ([0x090C7960], .amoCas 6 7 .acq true .engine),
      ([0x0B0000FE], .twait 0xFE),
      ([0x0B400082], .tsig 0x82)] = true := by decide +kernel

/-- R46, R52 to R56: atomics, work, system registers, patches, headers. -/
theorem test_decode_system_2 : decodesTo
    [([0x0B8A4000], .chunk 5 4),
      ([0x0BCE4300], .chinit 7 4 6),
      ([0x0C004003], .spawn 4 3),
      ([0x0C404000], .join 4),
      ([0x0C800000], .tend),
      ([0x0CC00000], .trig),
      ([0x0D24F000], .launch 18 15),
      ([0x0D400000], .yield),
      ([0x0D400001], .yieldDonate),
      ([0x0D860000], .selfLaunchId 3),
      ([0x0D860001], .selfIndex 3),
      ([0x0D860002], .selfGroups 3)] = true := by decide +kernel

/-- R46, R52 to R56: atomics, work, system registers, patches, headers. -/
theorem test_decode_system_3 : decodesTo
    [([0x0D860003], .selfCores 3),
      ([0x0DC00FED], .dbrk 0xFED),
      ([0x0E000801], .trap 0x801),
      ([0x0E400000], .eret),
      ([0x0E8A0038], .csrr 5 0x38),
      ([0x0ECA6010], .csrw 5 6 0x10),
      ([0x0F0A6027], .csrs 5 6 0x27),
      ([0x0F4A6024], .csrc 5 6 0x24),
      ([0x0F800000], .wfe),
      ([0x00000000], .nop),
      ([0xFFFCBEEF], .patch .fr 63 15 0xBEEF),
      ([0x714A1234], .patchS .mx 5 2 0x1234)] = true := by decide +kernel

/-- R46, R52 to R56: atomics, work, system registers, patches, headers. -/
theorem test_decode_system_4 : decodesTo
    [([0xD07BFFFF], .patchSN .cp 1 14 0xFFFF),
      ([0x40000000, 0x00000008, 0x00000000], .engineDispatch .vx .w2 (Image.of [8])),
      ([0x87080000, 0x00000003, 0x00010000, 0x00000000, 0x00000007], .templateStore .sx .w4 33 (Image.of [3, 0, 0, 1, 0, 0, 7, 0]))] = true := by decide +kernel

/-- R57, R62, R163, R164: FE images. -/
theorem test_decode_fe : decodesImage .fe
    [([0x04010001, 0x00048943, 0x00012345, 0xFFFFFF00, 0x00000000, 0x00000000, 0x000097A5, 0x00000000], .feLd ⟨⟨0, 4, 1⟩, true, 0, 9, 1, 3, 4, 0x12345, 0xFFFFFF00, 0x0, 0x0, 9, 0x7A5, 0, 0⟩),
      ([0x00000002, 0x00020041, 0x00000001, 0x00000002, 0x00000003, 0x00000004, 0x00060005, 0x00000007], .feLdg ⟨⟨0, 0, 0⟩, false, 0, 0, 1, 1, 2, 0x1, 0x2, 0x3, 0x4, 0, 0x5, 6, 7⟩),
      ([0x00000003, 0xFFFF0842, 0x00000000, 0x00000080, 0x00000004, 0x00000000, 0x00000040, 0x00000000], .feGath ⟨⟨0, 0, 0⟩, false, 0, 8, 1, 2, 65535, 0x0, 0x80, 0x4, 0x0, 0, 0x40, 0, 0⟩),
      ([0x00000004, 0x00140C02, 0x00000000, 0x00000080, 0x00000004, 0x00000000, 0x00000040, 0x00000000], .feGathq ⟨⟨0, 0, 0⟩, false, 0, 12, 0, 2, 20, 0x0, 0x80, 0x4, 0x0, 0, 0x40, 0, 0⟩),
      ([0x00000005, 0x00030D07, 0x00000003, 0x000000C0, 0x00000000, 0x00000000, 0x00010000, 0x00000000], .feUnpk ⟨⟨0, 0, 0⟩, false, 0, 13, 0, 7, 3, 0x3, 0xC0, 0x0, 0x0, 0, 0x0, 1, 0⟩),
      ([0x00000006, 0x00010004, 0x00000000, 0x3F800000, 0x00000000, 0x00000000, 0x00010000, 0x00000000], .feBcst ⟨⟨0, 0, 0⟩, false, 0, 0, 0, 4, 1, 0x0, 0x3F800000, 0x0, 0x0, 0, 0x0, 1, 0⟩),
      ([0x00000006, 0x00010544, 0x00000010, 0x00000000, 0x00000000, 0x00000000, 0x00000002, 0x00000000], .feBcst ⟨⟨0, 0, 0⟩, false, 0, 5, 1, 4, 1, 0x10, 0x0, 0x0, 0x0, 0, 0x2, 0, 0⟩),
      ([0x00000007, 0x00040005, 0x00000000, 0x00000001, 0x00000040, 0xFFFFFFFE, 0x00000000, 0x00000000], .feAgen ⟨⟨0, 0, 0⟩, false, 0, 0, 0, 5, 4, 0x0, 0x1, 0x40, 0xFFFFFFFE, 0, 0x0, 0, 0⟩),
      ([0x00000008, 0x00090406, 0x00000004, 0x80000000, 0x00000000, 0x00000001, 0x00000DFF, 0x00000000], .feStrm ⟨⟨0, 0, 0⟩, false, 0, 4, 0, 6, 9, 0x4, 0x80000000, 0x0, 0x1, 0, 0xDFF, 0, 0⟩),
      ([0x00000009, 0x00010000, 0x00000008, 0x00000000, 0x00000000, 0x02000000, 0x00000000, 0x00000000], .feIdx ⟨⟨0, 0, 0⟩, false, 0, 0, 0, 0, 1, 0x8, 0x0, 0x0, 0x2000000, 0, 0x0, 0, 0⟩),
      ([0x00000401, 0x00010000, 0x0000001F, 0x00000000, 0x00000000, 0x00000000, 0x00000000, 0x00000000], .feLd ⟨⟨1, 0, 0⟩, false, 0, 0, 0, 0, 1, 0x1F, 0x0, 0x0, 0x0, 0, 0x0, 0, 0⟩)] = true := by decide +kernel

/-- R57, R62, R163, R164: DE images. -/
theorem test_decode_de : decodesImage .de
    [([0x02040001, 0x0004C943, 0x00012345, 0xFFFFFF00, 0x00000000, 0x00000000, 0x0000F7A5, 0x00000000], .deSt ⟨⟨0, 2, 4⟩, true, 4, 9, 1, 3, 4, 0x12345, 0xFFFFFF00, 0x0, 0x0, 15, 0x7A5, 0, 0⟩),
      ([0x00000002, 0x00026041, 0x00000001, 0x00000002, 0x00000003, 0x00000004, 0x00060005, 0x00000007], .deStg ⟨⟨0, 0, 0⟩, false, 6, 0, 1, 1, 2, 0x1, 0x2, 0x3, 0x4, 0, 0x5, 6, 7⟩),
      ([0x00000003, 0x00040842, 0x00000000, 0x00000080, 0x00000004, 0x00000000, 0x00000040, 0x00000000], .deScat ⟨⟨0, 0, 0⟩, false, 0, 8, 1, 2, 4, 0x0, 0x80, 0x4, 0x0, 0, 0x40, 0, 0⟩),
      ([0x00000004, 0x00020442, 0x00000000, 0x00000080, 0x00000004, 0x00000000, 0x00010040, 0x00000000], .deAddst ⟨⟨0, 0, 0⟩, false, 0, 4, 1, 2, 2, 0x0, 0x80, 0x4, 0x0, 0, 0x40, 1, 0⟩),
      ([0x00000005, 0x00030D07, 0x00000003, 0x000000C0, 0x00000000, 0x00000000, 0x00000000, 0x00000000], .dePack ⟨⟨0, 0, 0⟩, false, 0, 13, 0, 7, 3, 0x3, 0xC0, 0x0, 0x0, 0, 0x0, 0, 0⟩),
      ([0x00000006, 0xFFFF0000, 0x00000004, 0x00000001, 0x00000040, 0x00000005, 0x00000001, 0x00000000], .deAgen ⟨⟨0, 0, 0⟩, false, 0, 0, 0, 0, 65535, 0x4, 0x1, 0x40, 0x5, 0, 0x1, 0, 0⟩)] = true := by decide +kernel

/-- R57, R62, R172: VX float and integer images. -/
theorem test_decode_vx_element_1 : decodesImage .vx
    [([0x00000001, 0x01010005, 0x00000000, 0x00000080, 0x00000000, 0x00000000, 0x00000000, 0x00000000], .vxFadd ⟨⟨0, 0, 0⟩, 0, false, false, 0, 5, false, 2, 1, 0x0, false, 0, 1, 0, 0, 0⟩),
      ([0x00000002, 0x24C01840, 0x00000000, 0x00000000, 0x00000000, 0x00000000, 0x00000000, 0x00000000], .vxFsub ⟨⟨0, 0, 0⟩, 1, true, false, 0, 64, false, 73, 64, 0x0, false, 0, 0, 0, 0, 0⟩),
      ([0x00000003, 0x33D42052, 0x00000000, 0x00000000, 0x00000000, 0x00000000, 0x00000000, 0x00000000], .vxFmul ⟨⟨0, 0, 0⟩, 2, false, false, 0, 82, false, 103, 84, 0x0, false, 0, 0, 0, 0, 0⟩),
      ([0x00000004, 0x01010084, 0x00000000, 0x00000283, 0x00000000, 0x00000000, 0x00000000, 0x00000000], .vxFma ⟨⟨0, 0, 0⟩, 0, false, false, 1, 4, false, 2, 1, 0x0, false, 0, 5, 3, 0, 0⟩),
      ([0x00000005, 0x01010004, 0x00000000, 0x0000005F, 0x00000000, 0x00000000, 0x00000000, 0x00000000], .vxFms ⟨⟨0, 0, 0⟩, 0, false, false, 0, 4, false, 2, 1, 0x0, false, 0, 0, 95, 0, 0⟩),
      ([0x00000006, 0x81010051, 0x00000000, 0x00000000, 0x00000000, 0x00000000, 0x00000000, 0x00000000], .vxFmin ⟨⟨0, 0, 0⟩, 0, false, false, 0, 81, true, 2, 1, 0x0, false, 0, 0, 0, 0, 0⟩),
      ([0x00000007, 0x01010050, 0x00000000, 0x00000000, 0x00000000, 0x00000000, 0x00000000, 0x00000000], .vxFmax ⟨⟨0, 0, 0⟩, 0, false, false, 0, 80, false, 2, 1, 0x0, false, 0, 0, 0, 0, 0⟩),
      ([0x00000008, 0x005E0001, 0x00000000, 0x00000000, 0x00000000, 0x00000000, 0x00000000, 0x00000000], .vxFabs ⟨⟨0, 0, 0⟩, 0, false, false, 0, 1, false, 0, 94, 0x0, false, 0, 0, 0, 0, 0⟩),
      ([0x00000009, 0x003F0781, 0x00000000, 0x00000000, 0x00000000, 0x00000000, 0x00000000, 0x00000000], .vxFneg ⟨⟨0, 0, 0⟩, 0, false, true, 7, 1, false, 0, 63, 0x0, false, 0, 0, 0, 0, 0⟩),
      ([0x0000000A, 0x01010007, 0x00000000, 0x00070000, 0x00000000, 0x00000000, 0x00000000, 0x00000000], .vxFcmp ⟨⟨0, 0, 0⟩, 0, false, false, 0, 7, false, 2, 1, 0x0, false, 0, 0, 0, 0, 7⟩),
      ([0x0000000A, 0x01011007, 0x00000000, 0x00850000, 0x00000000, 0x00000000, 0x00000000, 0x00000000], .vxFcmp ⟨⟨0, 0, 0⟩, 1, false, false, 0, 7, false, 2, 1, 0x0, false, 0, 0, 0, 0, 133⟩),
      ([0x0000000B, 0x00000000, 0x00000000, 0x00000000, 0x00000000, 0x00000000, 0x00000000, 0x00000000], .vxFclass ⟨⟨0, 0, 0⟩, 0, false, false, 0, 0, false, 0, 0, 0x0, false, 0, 0, 0, 0, 0⟩)] = true := by decide +kernel

/-- R57, R62, R172: VX float and integer images. -/
theorem test_decode_vx_element_2 : decodesImage .vx
    [([0x0000000C, 0x00000000, 0x00000000, 0x00000300, 0x00000000, 0x00000000, 0x00000000, 0x00000000], .vxFrnd ⟨⟨0, 0, 0⟩, 0, false, false, 0, 0, false, 0, 0, 0x0, false, 0, 6, 0, 0, 0⟩),
      ([0x00000040, 0x04834000, 0x00000000, 0x00010000, 0x00000000, 0x00000000, 0x00000000, 0x00000000], .vxIadd ⟨⟨0, 0, 0⟩, 4, false, false, 0, 0, false, 9, 3, 0x0, false, 0, 0, 0, 0, 1⟩),
      ([0x00000041, 0x04833001, 0x00000000, 0x00000000, 0x00000000, 0x00000000, 0x00000000, 0x00000000], .vxIsub ⟨⟨0, 0, 0⟩, 3, false, false, 0, 1, false, 9, 3, 0x0, false, 0, 0, 0, 0, 0⟩),
      ([0x00000042, 0x04834002, 0x00000000, 0x00000000, 0x00000000, 0x00000000, 0x00000000, 0x00000000], .vxImul ⟨⟨0, 0, 0⟩, 4, false, false, 0, 2, false, 9, 3, 0x0, false, 0, 0, 0, 0, 0⟩),
      ([0x00000043, 0x04833003, 0x00000000, 0x00020000, 0x00000000, 0x00000000, 0x00000000, 0x00000000], .vxImulh ⟨⟨0, 0, 0⟩, 3, false, false, 0, 3, false, 9, 3, 0x0, false, 0, 0, 0, 0, 2⟩),
      ([0x00000044, 0x04834004, 0x00000000, 0x0000000A, 0x00000000, 0x00000000, 0x00000000, 0x00000000], .vxImad ⟨⟨0, 0, 0⟩, 4, false, false, 0, 4, false, 9, 3, 0x0, false, 0, 0, 10, 0, 0⟩),
      ([0x00000045, 0x04833005, 0x00000000, 0x00020000, 0x00000000, 0x00000000, 0x00000000, 0x00000000], .vxImin ⟨⟨0, 0, 0⟩, 3, false, false, 0, 5, false, 9, 3, 0x0, false, 0, 0, 0, 0, 2⟩),
      ([0x00000046, 0x04834006, 0x00000000, 0x00000000, 0x00000000, 0x00000000, 0x00000000, 0x00000000], .vxImax ⟨⟨0, 0, 0⟩, 4, false, false, 0, 6, false, 9, 3, 0x0, false, 0, 0, 0, 0, 0⟩),
      ([0x00000047, 0x04833007, 0x00000000, 0x00000000, 0x00000000, 0x00000000, 0x00000000, 0x00000000], .vxAnd ⟨⟨0, 0, 0⟩, 3, false, false, 0, 7, false, 9, 3, 0x0, false, 0, 0, 0, 0, 0⟩),
      ([0x00000048, 0x04834000, 0x00000000, 0x00000000, 0x00000000, 0x00000000, 0x00000000, 0x00000000], .vxOr ⟨⟨0, 0, 0⟩, 4, false, false, 0, 0, false, 9, 3, 0x0, false, 0, 0, 0, 0, 0⟩),
      ([0x00000049, 0x04833001, 0x00000000, 0x00000000, 0x00000000, 0x00000000, 0x00000000, 0x00000000], .vxXor ⟨⟨0, 0, 0⟩, 3, false, false, 0, 1, false, 9, 3, 0x0, false, 0, 0, 0, 0, 0⟩),
      ([0x0000004A, 0x04834002, 0x00000000, 0x00000000, 0x00000000, 0x00000000, 0x00000000, 0x00000000], .vxAndn ⟨⟨0, 0, 0⟩, 4, false, false, 0, 2, false, 9, 3, 0x0, false, 0, 0, 0, 0, 0⟩)] = true := by decide +kernel

/-- R57, R62, R172: VX float and integer images. -/
theorem test_decode_vx_element_3 : decodesImage .vx
    [([0x0000004B, 0x04833003, 0x00000000, 0x00000000, 0x00000000, 0x00000000, 0x00000000, 0x00000000], .vxShl ⟨⟨0, 0, 0⟩, 3, false, false, 0, 3, false, 9, 3, 0x0, false, 0, 0, 0, 0, 0⟩),
      ([0x0000004C, 0x04834004, 0x00000000, 0x00000000, 0x00000000, 0x00000000, 0x00000000, 0x00000000], .vxShr ⟨⟨0, 0, 0⟩, 4, false, false, 0, 4, false, 9, 3, 0x0, false, 0, 0, 0, 0, 0⟩),
      ([0x0000004D, 0x04833005, 0x00000000, 0x00000000, 0x00000000, 0x00000000, 0x00000000, 0x00000000], .vxSar ⟨⟨0, 0, 0⟩, 3, false, false, 0, 5, false, 9, 3, 0x0, false, 0, 0, 0, 0, 0⟩),
      ([0x0000004E, 0x04834006, 0x00000000, 0x008D0000, 0x00000000, 0x00000000, 0x00000000, 0x00000000], .vxIcmp ⟨⟨0, 0, 0⟩, 4, false, false, 0, 6, false, 9, 3, 0x0, false, 0, 0, 0, 0, 141⟩)] = true := by decide +kernel

/-- R57, R62, R172: VX complex, function, conversion, movement and reduction images. -/
theorem test_decode_vx_other_1 : decodesImage .vx
    [([0x00000080, 0x01825001, 0x00000000, 0x00000080, 0x00000000, 0x00000000, 0x00000000, 0x00000000], .vxCadd ⟨⟨0, 0, 0⟩, 5, false, false, 0, 1, false, 3, 2, 0x0, false, 0, 1, 0, 0, 0⟩),
      ([0x00000081, 0x01826001, 0x00000000, 0x00003400, 0x00000000, 0x00000000, 0x00000000, 0x00000000], .vxCsub ⟨⟨0, 0, 0⟩, 6, false, false, 0, 1, false, 3, 2, 0x0, true, 5, 0, 0, 0, 0⟩),
      ([0x00000082, 0x01827001, 0x00000000, 0x00000080, 0x00000000, 0x00000000, 0x00000000, 0x00000000], .vxCmul ⟨⟨0, 0, 0⟩, 7, false, false, 0, 1, false, 3, 2, 0x0, false, 0, 1, 0, 0, 0⟩),
      ([0x00000083, 0x01825001, 0x00000000, 0x00000084, 0x00000000, 0x00000000, 0x00000000, 0x00000000], .vxCmac ⟨⟨0, 0, 0⟩, 5, false, false, 0, 1, false, 3, 2, 0x0, false, 0, 1, 4, 0, 0⟩),
      ([0x00000084, 0x01826001, 0x00000000, 0x00003400, 0x00000000, 0x00000000, 0x00000000, 0x00000000], .vxCmulj ⟨⟨0, 0, 0⟩, 6, false, false, 0, 1, false, 3, 2, 0x0, true, 5, 0, 0, 0, 0⟩),
      ([0x00000085, 0x00027001, 0x00000000, 0x00000080, 0x00000000, 0x00000000, 0x00000000, 0x00000000], .vxCabs2 ⟨⟨0, 0, 0⟩, 7, false, false, 0, 1, false, 0, 2, 0x0, false, 0, 1, 0, 0, 0⟩),
      ([0x000000A0, 0x00140053, 0x00000000, 0x00000000, 0x00000000, 0x00000000, 0x00000000, 0x00000000], .vxExp2 ⟨⟨0, 0, 0⟩, 0, false, false, 0, 83, false, 0, 20, 0x0, false, 0, 0, 0, 0, 0⟩),
      ([0x000000A1, 0x00151801, 0x00000000, 0x00000080, 0x00000000, 0x00000000, 0x00000000, 0x00000000], .vxLog2 ⟨⟨0, 0, 0⟩, 1, true, false, 0, 1, false, 0, 21, 0x0, false, 0, 1, 0, 0, 0⟩),
      ([0x000000A2, 0x00162002, 0x00000000, 0x00000100, 0x00000000, 0x00000000, 0x00000000, 0x00000000], .vxRcp ⟨⟨0, 0, 0⟩, 2, false, false, 0, 2, false, 0, 22, 0x0, false, 0, 2, 0, 0, 0⟩),
      ([0x000000A3, 0x00170803, 0x00000000, 0x00000180, 0x00000000, 0x00000000, 0x00000000, 0x00000000], .vxRsq ⟨⟨0, 0, 0⟩, 0, true, false, 0, 3, false, 0, 23, 0x0, false, 0, 3, 0, 0, 0⟩),
      ([0x000000A4, 0x00181004, 0x00000000, 0x00000200, 0x00000000, 0x00000000, 0x00000000, 0x00000000], .vxSqrt ⟨⟨0, 0, 0⟩, 1, false, false, 0, 4, false, 0, 24, 0x0, false, 0, 4, 0, 0, 0⟩),
      ([0x000000A5, 0x00192805, 0x00000000, 0x00000280, 0x00000000, 0x00000000, 0x00000000, 0x00000000], .vxSigm ⟨⟨0, 0, 0⟩, 2, true, false, 0, 5, false, 0, 25, 0x0, false, 0, 5, 0, 0, 0⟩)] = true := by decide +kernel

/-- R57, R62, R172: VX complex, function, conversion, movement and reduction images. -/
theorem test_decode_vx_other_2 : decodesImage .vx
    [([0x000000A6, 0x001A0006, 0x00000000, 0x00000300, 0x00000000, 0x00000000, 0x00000000, 0x00000000], .vxTanh ⟨⟨0, 0, 0⟩, 0, false, false, 0, 6, false, 0, 26, 0x0, false, 0, 6, 0, 0, 0⟩),
      ([0x000000A7, 0x001B1807, 0x00000000, 0x00000000, 0x00000000, 0x00000000, 0x00000000, 0x00000000], .vxSilu ⟨⟨0, 0, 0⟩, 1, true, false, 0, 7, false, 0, 27, 0x0, false, 0, 0, 0, 0, 0⟩),
      ([0x000000A8, 0x001C2008, 0x00000000, 0x00000080, 0x00000000, 0x00000000, 0x00000000, 0x00000000], .vxSoftp ⟨⟨0, 0, 0⟩, 2, false, false, 0, 8, false, 0, 28, 0x0, false, 0, 1, 0, 0, 0⟩),
      ([0x000000C0, 0x00020001, 0x00000003, 0x00600000, 0x00000000, 0x00000000, 0x00000000, 0x00000000], .vxCvt ⟨⟨0, 0, 0⟩, 0, false, false, 0, 1, false, 0, 2, 0x3, false, 0, 0, 0, 0, 96⟩),
      ([0x000000C1, 0x01820001, 0x00000001, 0x00402800, 0x00000000, 0x00000000, 0x00000000, 0x00000000], .vxQnt ⟨⟨0, 0, 0⟩, 0, false, false, 0, 1, false, 3, 2, 0x1, true, 2, 0, 0, 0, 64⟩),
      ([0x000000E0, 0x00040003, 0x00000000, 0x00000000, 0x00000000, 0x00000000, 0x00000000, 0x00000000], .vxMov ⟨⟨0, 0, 0⟩, 0, false, false, 0, 3, false, 0, 4, 0x0, false, 0, 0, 0, 0, 0⟩),
      ([0x000004E0, 0x00000003, 0x00000007, 0x00010000, 0x00000000, 0x00000000, 0x00000000, 0x00000000], .vxMovLds ⟨⟨1, 0, 0⟩, 0, false, false, 0, 3, false, 0, 0, 0x7, false, 0, 0, 0, 0, 1⟩),
      ([0x000000E0, 0x00030000, 0x003FFF00, 0x00020000, 0x00000000, 0x00000000, 0x00000000, 0x00000000], .vxMovSts ⟨⟨0, 0, 0⟩, 0, false, false, 0, 0, false, 0, 3, 0x3FFF00, false, 0, 0, 0, 0, 2⟩),
      ([0x000000E1, 0x02840003, 0x00000000, 0x00070000, 0x00000000, 0x00000000, 0x00000000, 0x00000000], .vxSel ⟨⟨0, 0, 0⟩, 0, false, false, 0, 3, false, 5, 4, 0x0, false, 0, 0, 0, 0, 7⟩),
      ([0x000000E2, 0x02840003, 0x00000000, 0x00010006, 0x00000000, 0x00000000, 0x00000000, 0x00000000], .vxShuf ⟨⟨0, 0, 0⟩, 0, false, false, 0, 3, false, 5, 4, 0x0, false, 0, 0, 6, 0, 1⟩),
      ([0x000000E3, 0x00040003, 0xFFFFFFFF, 0x00010000, 0x00000000, 0x00000000, 0x00000000, 0x00000000], .vxLrot ⟨⟨0, 0, 0⟩, 0, false, false, 0, 3, false, 0, 4, 0xFFFFFFFF, false, 0, 0, 0, 0, 1⟩),
      ([0x000000E4, 0x00000007, 0xDEADBEEF, 0x00000000, 0x00000000, 0x00000000, 0x00000000, 0x00000000], .vxKset ⟨⟨0, 0, 0⟩, 0, false, false, 0, 7, false, 0, 0, 0xDEADBEEF, false, 0, 0, 0, 0, 0⟩)] = true := by decide +kernel

/-- R57, R62, R172: VX complex, function, conversion, movement and reduction images. -/
theorem test_decode_vx_other_3 : decodesImage .vx
    [([0x000000E4, 0x00040007, 0x0000003F, 0x00010000, 0x00000000, 0x00000000, 0x00000000, 0x00000000], .vxKsetLane ⟨⟨0, 0, 0⟩, 0, false, false, 0, 7, false, 0, 4, 0x3F, false, 0, 0, 0, 0, 1⟩),
      ([0x000000E5, 0x01820001, 0x00000000, 0x00000000, 0x00000000, 0x00000000, 0x00000000, 0x00000000], .vxMopAnd ⟨⟨0, 0, 0⟩, 0, false, false, 0, 1, false, 3, 2, 0x0, false, 0, 0, 0, 0, 0⟩),
      ([0x000000E5, 0x01820001, 0x00000000, 0x00010000, 0x00000000, 0x00000000, 0x00000000, 0x00000000], .vxMopOr ⟨⟨0, 0, 0⟩, 0, false, false, 0, 1, false, 3, 2, 0x0, false, 0, 0, 0, 0, 1⟩),
      ([0x000000E5, 0x01820001, 0x00000000, 0x00020000, 0x00000000, 0x00000000, 0x00000000, 0x00000000], .vxMopXor ⟨⟨0, 0, 0⟩, 0, false, false, 0, 1, false, 3, 2, 0x0, false, 0, 0, 0, 0, 2⟩),
      ([0x000000E5, 0x01820001, 0x00000000, 0x00030000, 0x00000000, 0x00000000, 0x00000000, 0x00000000], .vxMopAndn ⟨⟨0, 0, 0⟩, 0, false, false, 0, 1, false, 3, 2, 0x0, false, 0, 0, 0, 0, 3⟩),
      ([0x000000E5, 0x00020001, 0x00000000, 0x00040000, 0x00000000, 0x00000000, 0x00000000, 0x00000000], .vxMopNot ⟨⟨0, 0, 0⟩, 0, false, false, 0, 1, false, 0, 2, 0x0, false, 0, 0, 0, 0, 4⟩),
      ([0x000000E5, 0x00000001, 0x00000000, 0x00050000, 0x00000000, 0x00000000, 0x00000000, 0x00000000], .vxMopSet ⟨⟨0, 0, 0⟩, 0, false, false, 0, 1, false, 0, 0, 0x0, false, 0, 0, 0, 0, 5⟩),
      ([0x000000E5, 0x00000001, 0x00000000, 0x00060000, 0x00000000, 0x00000000, 0x00000000, 0x00000000], .vxMopClr ⟨⟨0, 0, 0⟩, 0, false, false, 0, 1, false, 0, 0, 0x0, false, 0, 0, 0, 0, 6⟩),
      ([0x000000E5, 0x003C0001, 0x00000000, 0x00070000, 0x00000000, 0x00000000, 0x00000000, 0x00000000], .vxMopFromv ⟨⟨0, 0, 0⟩, 0, false, false, 0, 1, false, 0, 60, 0x0, false, 0, 0, 0, 0, 7⟩),
      ([0x000000E5, 0x0007003C, 0x00000000, 0x00080000, 0x00000000, 0x00000000, 0x00000000, 0x00000000], .vxMopTov ⟨⟨0, 0, 0⟩, 0, false, false, 0, 60, false, 0, 7, 0x0, false, 0, 0, 0, 0, 8⟩),
      ([0x000000E6, 0x00000047, 0x00000021, 0x00000000, 0x00000000, 0x00000000, 0x00000000, 0x00000000], .vxQcfg ⟨⟨0, 0, 0⟩, 0, false, false, 0, 71, false, 0, 0, 0x21, false, 0, 0, 0, 0, 0⟩),
      ([0x000000E7, 0x00030080, 0x00000000, 0x00000000, 0x00000000, 0x00000000, 0x00000000, 0x00000000], .vxLfsrSeedv ⟨⟨0, 0, 0⟩, 0, false, false, 1, 0, false, 0, 3, 0x0, false, 0, 0, 0, 0, 0⟩)] = true := by decide +kernel

/-- R57, R62, R172: VX complex, function, conversion, movement and reduction images. -/
theorem test_decode_vx_other_4 : decodesImage .vx
    [([0x000000E7, 0x00000000, 0x00000009, 0x00010000, 0x00000000, 0x00000000, 0x00000000, 0x00000000], .vxLfsrSeedi ⟨⟨0, 0, 0⟩, 0, false, false, 0, 0, false, 0, 0, 0x9, false, 0, 0, 0, 0, 1⟩),
      ([0x000000E7, 0x00000009, 0x00000000, 0x00020000, 0x00000000, 0x00000000, 0x00000000, 0x00000000], .vxLfsrRead ⟨⟨0, 0, 0⟩, 0, false, false, 0, 9, false, 0, 0, 0x0, false, 0, 0, 0, 0, 2⟩),
      ([0x000000E7, 0x00000000, 0x00000000, 0x00030000, 0x00000000, 0x00000000, 0x00000000, 0x00000000], .vxLfsrStep ⟨⟨0, 0, 0⟩, 0, false, false, 0, 0, false, 0, 0, 0x0, false, 0, 0, 0, 0, 3⟩),
      ([0x00000100, 0x00020001, 0x00000000, 0x0B000000, 0x00000000, 0x00000000, 0x00000000, 0x00000000], .vxRsum ⟨⟨0, 0, 0⟩, 0, false, false, 0, 1, false, 0, 2, 0x0, false, 0, 0, 0, 11, 0⟩),
      ([0x00000101, 0x00023001, 0x00000000, 0x00020000, 0x00000000, 0x00000000, 0x00000000, 0x00000000], .vxRmax ⟨⟨0, 0, 0⟩, 3, false, false, 0, 1, false, 0, 2, 0x0, false, 0, 0, 0, 0, 2⟩),
      ([0x00000102, 0x00020001, 0x00000000, 0x00000000, 0x00000000, 0x00000000, 0x00000000, 0x00000000], .vxRmin ⟨⟨0, 0, 0⟩, 0, false, false, 0, 1, false, 0, 2, 0x0, false, 0, 0, 0, 0, 0⟩),
      ([0x00000103, 0x00020001, 0x00000000, 0x00000000, 0x00000000, 0x00000000, 0x00000000, 0x00000000], .vxRamax ⟨⟨0, 0, 0⟩, 0, false, false, 0, 1, false, 0, 2, 0x0, false, 0, 0, 0, 0, 0⟩),
      ([0x00000104, 0x00023001, 0x00000000, 0x00000000, 0x00000000, 0x00000000, 0x00000000, 0x00000000], .vxPsum ⟨⟨0, 0, 0⟩, 3, false, false, 0, 1, false, 0, 2, 0x0, false, 0, 0, 0, 0, 0⟩),
      ([0x00000105, 0x00070001, 0x00000000, 0x00060000, 0x00000000, 0x00000000, 0x00000000, 0x00000000], .vxFirst ⟨⟨0, 0, 0⟩, 0, false, false, 0, 1, false, 0, 7, 0x0, false, 0, 0, 0, 0, 6⟩)] = true := by decide +kernel

/-- R57, R62, R206 to R217: MX images. -/
theorem test_decode_mx : decodesImage .mx
    [([0x04000001, 0xFFFF0005, 0xFFFFFF80, 0x00000040, 0x00078000, 0x00000000, 0x00000000, 0x00000000], .mxNest ⟨⟨0, 4, 0⟩, 5, 0xFFFF, 0xFFFFFF80, 64, 0x8000, 7⟩),
      ([0x00000C02, 0x0100569E, 0x00000007, 0x00000008, 0x00000200, 0x00000000, 0x00000000, 0x00000000], .mxOpnd ⟨⟨3, 0, 0⟩, 5, 6, 2, 1, true, true, true, 0x100, 7, 8, 0x200⟩),
      ([0x00000003, 0x01000005, 0x00000040, 0x00000000, 0x00000000, 0x00000000, 0x00000000, 0x00000000], .mxAcc ⟨⟨0, 0, 0⟩, true, 1, 0x100, 0x40⟩),
      ([0x01000004, 0x0005004D, 0x01FEE4E4, 0x00000000, 0x00000000, 0x00000000, 0x00000000, 0x00000000], .mxGo ⟨⟨0, 1, 0⟩, ⟨77, 0, 0, 5⟩, 0xE4E4, 63, 6⟩),
      ([0x00000005, 0x00000007, 0x00000100, 0x00000200, 0x00000000, 0x00000000, 0x00000000, 0x00000000], .mxAccst ⟨⟨0, 0, 0⟩, true, true, true, 0x100, 0x200⟩),
      ([0x00000006, 0x00400000, 0x00000100, 0x00000000, 0x00000000, 0x00000000, 0x00003DFF, 0x00000000], .mxEpld ⟨⟨0, 0, 0⟩, 0, 64, 0x100, 3, 0xDFF⟩),
      ([0x00000007, 0x00000007, 0x00000104, 0x00000000, 0x00000000, 0x00000000, 0x00009001, 0x00000000], .mxEpargLd ⟨⟨0, 0, 0⟩, 7, 0, 0x104, 0, 0, 0, 0x9001⟩),
      ([0x00000007, 0x0000000E, 0x3F800000, 0x00000000, 0x00000000, 0x00000000, 0x00000000, 0x00000000], .mxEpargBc ⟨⟨0, 0, 0⟩, 6, 0, 0x3F800000, 0, 0, 0, 0⟩),
      ([0x00000007, 0xD9000013, 0x00000100, 0xFFFFFF00, 0x00000000, 0x00000000, 0x00000000, 0x00000000], .mxEpargSp ⟨⟨0, 0, 0⟩, 3, 0xD900, 0x100, 0xFFFFFF00, 0, 0, 0⟩),
      ([0x00000007, 0x0040001A, 0x00000001, 0x00000002, 0x00000003, 0x00000004, 0x00000123, 0x00000000], .mxEpargTg ⟨⟨0, 0, 0⟩, 2, 64, 1, 2, 3, 4, 0x123⟩),
      ([0x00000007, 0x00070021, 0x00000000, 0x00000000, 0x00000000, 0x00000000, 0x00000000, 0x00000000], .mxEpargQu ⟨⟨0, 0, 0⟩, 1, 7, 0, 0, 0, 0, 0⟩)] = true := by decide +kernel

/-- R57, R58, R62, R230 to R241: SX images. -/
theorem test_decode_sx : decodesImage .sx
    [([0x00000001, 0x00090000, 0x0FFF7FFE, 0x0000003F, 0x00000000, 0x00000000, 0x00000000, 0x00000000], .sxCfg ⟨⟨0, 0, 0⟩, ⟨0, 0, 0, 9⟩, 31, 255, 2, 4095, 63⟩),
      ([0x20041C02, 0xF80A0000, 0x00000001, 0x00000002, 0x00000003, 0x00000000, 0x00000003, 0x00000000], .sxScan ⟨⟨7, 0x20, 4⟩, ⟨0, 31, 0, 10⟩, 1, 2, 3, 0, true, true⟩),
      ([0x00000003, 0x00000000, 0x00040000, 0x00000001, 0x00000000, 0x00000000, 0x00000000, 0x00000000], .sxReset ⟨⟨0, 0, 0⟩, ⟨0, 0, 0, 0⟩, 0x40000, true⟩),
      ([0x00000004, 0x00000000, 0x80000001, 0x0000000C, 0x00000002, 0x00000000, 0x00000000, 0x00000000], .sxCarry ⟨⟨0, 0, 0⟩, ⟨0, 0, 0, 0⟩, 0x80000001, 12, true, false⟩),
      ([0x00000005, 0x00000009, 0x00000010, 0x00000020, 0x00000030, 0x00000040, 0x00000001, 0x00000000], .sxContr ⟨⟨0, 0, 0⟩, ⟨9, 0, 0, 0⟩, 0x10, 0x20, 0x30, 0x40, false, true⟩),
      ([0x00000006, 0x00000000, 0x003FFF80, 0x00000001, 0x00000000, 0x00000000, 0x00000000, 0x00000000], .sxFadeq ⟨⟨0, 0, 0⟩, ⟨0, 0, 0, 0⟩, 0x3FFF80, true⟩)] = true := by decide +kernel

/-- R57, R58, R62, R245: FR images. -/
theorem test_decode_fr : decodesImage .fr
    [([0x00000001, 0x000B0000, 0x00000000, 0x00000000, 0x00001000, 0x00000000, 0x00000000, 0x1FFF0000], .frSlots ⟨⟨0, 0, 0⟩, ⟨0, 0, 0, 11⟩, 0, 0, 4096, 0, 0, 0, false, false, false, 0, 255, 31⟩),
      ([0x00000002, 0x000B0000, 0x00000005, 0x00000000, 0x00000000, 0x00000000, 0x00000007, 0x0000001F], .frIn ⟨⟨0, 0, 0⟩, ⟨0, 0, 0, 11⟩, 5, 0, 0, 7, 0, 0, false, false, false, 31, 0, 0⟩),
      ([0x00000003, 0x000B0000, 0x00000000, 0x00000000, 0x00000000, 0x00000000, 0x00000007, 0x00000062], .frOut ⟨⟨0, 0, 0⟩, ⟨0, 0, 0, 11⟩, 0, 0, 0, 7, 0, 0, false, true, true, 2, 0, 0⟩),
      ([0x00000004, 0x000B0000, 0x00000009, 0x00000000, 0x00000000, 0x00000000, 0x00000007, 0x00000020], .frSwap ⟨⟨0, 0, 0⟩, ⟨0, 0, 0, 11⟩, 9, 0, 0, 7, 0, 0, false, false, true, 0, 0, 0⟩),
      ([0x00000005, 0x000B0000, 0x00000000, 0x00000003, 0x00000000, 0x00000000, 0x00000007, 0x00000000], .frSnap ⟨⟨0, 0, 0⟩, ⟨0, 0, 0, 11⟩, 0, 3, 0, 7, 0, 0, false, false, false, 0, 0, 0⟩),
      ([0x00000006, 0x000B0000, 0x00000000, 0x00000003, 0x00000000, 0x00000000, 0x00000007, 0x00000001], .frRoll ⟨⟨0, 0, 0⟩, ⟨0, 0, 0, 11⟩, 0, 3, 0, 7, 0, 0, false, false, false, 1, 0, 0⟩),
      ([0x00000007, 0x000B0000, 0x00000004, 0x00000080, 0x00000000, 0x00000000, 0xFABC0007, 0x00000000], .frFork ⟨⟨0, 0, 0⟩, ⟨0, 0, 0, 11⟩, 4, 128, 0, 7, 15, 2748, false, false, false, 0, 0, 0⟩),
      ([0x00000008, 0x000B0000, 0x00000000, 0x00000003, 0x00000000, 0x00000000, 0x00000007, 0x00000000], .frDrop ⟨⟨0, 0, 0⟩, ⟨0, 0, 0, 11⟩, 0, 3, 0, 7, 0, 0, false, false, false, 0, 0, 0⟩),
      ([0x00000008, 0x000B0000, 0x00000000, 0x00000000, 0x00000000, 0x00000000, 0x00000007, 0x00000080], .frDropAll ⟨⟨0, 0, 0⟩, ⟨0, 0, 0, 11⟩, 0, 0, 0, 7, 0, 0, true, false, false, 0, 0, 0⟩),
      ([0x00000009, 0x000B0000, 0x00000000, 0x00000000, 0x00000010, 0x00000000, 0x00000000, 0x00000006], .frStat ⟨⟨0, 0, 0⟩, ⟨0, 0, 0, 11⟩, 0, 0, 16, 0, 0, 0, false, false, false, 6, 0, 0⟩),
      ([0x0000000A, 0x000B0000, 0x00000004, 0x00000080, 0x00000000, 0x00000000, 0x00010007, 0x00000000], .frCold ⟨⟨0, 0, 0⟩, ⟨0, 0, 0, 11⟩, 4, 128, 0, 7, 0, 1, false, false, false, 0, 0, 0⟩)] = true := by decide +kernel

/-- R57, R58, R62, R253: CP images. -/
theorem test_decode_cp : decodesImage .cp
    [([0x00000001, 0x00000000, 0x00000100, 0x00000200, 0x00000040, 0x00400020, 0x20021001, 0x00CFFFFF], .cpCopy ⟨⟨0, 0, 0⟩, ⟨0, 0, 0, 0⟩, 0x100, 0x200, 0x40, 0x400020, 0x1001, 0x2002, 0xFFFF, 0xCF⟩),
      ([0x00000002, 0x00000000, 0x00000100, 0x00000200, 0x00000040, 0x00000080, 0x20021001, 0xFF0F8001], .cpMcast ⟨⟨0, 0, 0⟩, ⟨0, 0, 0, 0⟩, 0x100, 0x200, 0x40, 0x80, 0x1001, 0x2002, 0x8001, 0xFF0F⟩),
      ([0x00000003, 0x00000000, 0x00000000, 0x00000000, 0x00000000, 0x00000000, 0x00000000, 0x00000000], .cpStage ⟨⟨0, 0, 0⟩, ⟨0, 0, 0, 0⟩, 0x0, 0x0, 0x0, 0x0, 0x0, 0x0, 0x0, 0x0⟩),
      ([0x00000004, 0x00000000, 0x00000000, 0x00000000, 0x00000000, 0x00000000, 0x00000000, 0x00000080], .cpDrain ⟨⟨0, 0, 0⟩, ⟨0, 0, 0, 0⟩, 0x0, 0x0, 0x0, 0x0, 0x0, 0x0, 0x80, 0x0⟩),
      ([0x00000005, 0x00000000, 0xA5A5A5A5, 0x00000200, 0x00000040, 0x00400000, 0x20020000, 0x00470002], .cpFill ⟨⟨0, 0, 0⟩, ⟨0, 0, 0, 0⟩, 0xA5A5A5A5, 0x200, 0x40, 0x400000, 0x0, 0x2002, 0x2, 0x47⟩),
      ([0x00000006, 0x00000000, 0x00000080, 0x00000000, 0x00000000, 0x00000000, 0x0000FE00, 0x08050000], .cpSig ⟨⟨0, 0, 0⟩, ⟨0, 0, 0, 0⟩, 0x80, 0x0, 0x0, 0x0, 0xFE00, 0x0, 0x0, 0x805⟩),
      ([0x00000007, 0x00000000, 0x00000100, 0x00000200, 0x00000008, 0x00000003, 0x00000000, 0x04031234], .cpAllred ⟨⟨0, 0, 0⟩, ⟨0, 0, 0, 0⟩, 0x100, 0x200, 0x8, 0x3, 0x0, 0x0, 0x1234, 0x403⟩),
      ([0x00000008, 0x00000000, 0x00000100, 0x00000200, 0x00000008, 0x00000003, 0x00000000, 0x11031234], .cpAllgath ⟨⟨0, 0, 0⟩, ⟨0, 0, 0, 0⟩, 0x100, 0x200, 0x8, 0x3, 0x0, 0x0, 0x1234, 0x1103⟩),
      ([0x00000009, 0x00000000, 0x00000100, 0x00000200, 0x00000008, 0x0000000F, 0x00000000, 0x28031234], .cpRedsc ⟨⟨0, 0, 0⟩, ⟨0, 0, 0, 0⟩, 0x100, 0x200, 0x8, 0xF, 0x0, 0x0, 0x1234, 0x2803⟩),
      ([0x0000000A, 0x00000000, 0x00000100, 0x00000200, 0x00000008, 0x00000003, 0x00000000, 0x02001234], .cpBcast ⟨⟨0, 0, 0⟩, ⟨0, 0, 0, 0⟩, 0x100, 0x200, 0x8, 0x3, 0x0, 0x0, 0x1234, 0x200⟩)] = true := by decide +kernel

/-- R63, R222: EP words. -/
theorem test_decode_ep_1 : decodesEp
    [(0x01E04000, .epLda 7 true),
      (0x02299C00, .epAdd ⟨1, 2, 3, false, 3, true, false, false⟩),
      (0x03299C00, .epMul ⟨1, 2, 3, false, 3, true, false, false⟩),
      (0x04299C00, .epFma ⟨1, 2, 3, false, 3, true, false, false⟩),
      (0x052BC200, .epMax ⟨1, 2, 7, true, 0, false, true, false⟩),
      (0x062BC200, .epMin ⟨1, 2, 7, true, 0, false, true, false⟩),
      (0x072B3100, .epBias ⟨1, 2, 6, false, 6, false, false, true⟩),
      (0x082B3100, .epScale ⟨1, 2, 6, false, 6, false, false, true⟩),
      (0x09940100, .epActRelu ⟨4, 5, 0, true⟩),
      (0x09941500, .epActSigm ⟨4, 5, 2, true⟩),
      (0x09942500, .epActSilu ⟨4, 5, 2, true⟩),
      (0x09943500, .epActSoftp ⟨4, 5, 2, true⟩)] = true := by decide +kernel

/-- R63, R222: EP words. -/
theorem test_decode_ep_2 : decodesEp
    [(0x09944500, .epActTanh ⟨4, 5, 2, true⟩),
      (0x0A9434B0, .epCvt ⟨4, 5, 6, 4, true, false, 3⟩),
      (0x0A940040, .epCvt ⟨4, 5, 0, 0, false, true, 0⟩),
      (0x0BD40000, .epRedSum 6 5 false),
      (0x0BD43000, .epRedMax 6 5 true),
      (0x0BD44000, .epRedMin 6 5 false),
      (0x0C687800, .epPack ⟨3, 2, true, true, 6, false⟩),
      (0x0D1C6000, .epSt 7 3),
      (0x0E1C4000, .epStg 7 2),
      (0x0F00403F, .epSkip 2 63),
      (0x10000000, .epEnd)] = true := by decide +kernel

/-! ### Ill-formed terms: one for each check -/

/-- The base is well formed and no variant of it is. -/
def onlyFirst (l : List Instr) : Bool :=
  match l with
  | [] => false
  | i :: r => i.wf && r.all (fun j => !j.wf)

def hd0 : Hd := ⟨0, 0, 0⟩
def lg0 : Long := ⟨0, 0, 0, 0⟩
def fd0 : FdArgs := ⟨hd0, false, 0, 0, 0, 1, 4, 0, 0, 0, 0, 0, 0, 0, 0⟩
def vx0 : VxArgs := ⟨hd0, 0, false, false, 0, 1, false, 2, 3, 0, false, 0, 0, 0, 0, 0⟩
def cp0 : CpArgs := ⟨hd0, lg0, 0, 0, 64, 0, 0, 0, 1, 0⟩
def fr0 : FrArgs := ⟨hd0, lg0, 0, 0, 0, 7, 0, 0, false, false, false, 0, 0, 0⟩

/-- R50, R52, R54: AMO.CAS on an odd pair or s0, a tid out of range, an own token bit, an image longer than SZ. -/
theorem test_ill_formed_control_1 : onlyFirst
    [.amoCas 2 3 .rlx false .core,
      .amoCas 3 3 .rlx false .core,
      .amoCas 0 3 .rlx false .core] = true := by decide +kernel

/-- R50, R52, R54: AMO.CAS on an odd pair or s0, a tid out of range, an own token bit, an image longer than SZ. -/
theorem test_ill_formed_control_2 : onlyFirst
    [.give 1 1,
      .give 1 0,
      .give 1 0xE00,
      .take 0,
      .ownq 1 0xFFF] = true := by decide +kernel

/-- R50, R52, R54: AMO.CAS on an odd pair or s0, a tid out of range, an own token bit, an image longer than SZ. -/
theorem test_ill_formed_control_3 : onlyFirst
    [.twait 2,
      .twait 1,
      .tsig 3] = true := by decide +kernel

/-- R50, R52, R54: AMO.CAS on an odd pair or s0, a tid out of range, an own token bit, an image longer than SZ. -/
theorem test_ill_formed_control_4 : onlyFirst
    [.engineDispatch .vx .w2 (Image.of [8, 0, 0, 1]),
      .engineDispatch .vx .w2 (Image.of [8, 0, 0, 0, 1]),
      .templateStore .vx .w4 0 (Image.of [8, 0, 0, 0, 0, 0, 0, 0, 1])] = true := by decide +kernel

/-- R57, R59, R163, R164: own token bits, a bound pair above 31, RND, CONV, COUNT, TYPE and the fields each row keeps zero. -/
theorem test_ill_formed_fe_1 : onlyFirst
    [.feLd fd0,
      .feLd { fd0 with hd := ⟨0, 0, 2⟩ },
      .feLd { fd0 with hd := ⟨0, 2, 0⟩ },
      .feLd { fd0 with hd := ⟨1, 0, 0⟩, a := 32 },
      .feLd { fd0 with rnd := 1 },
      .feLd { fd0 with conv := 2 },
      .feLd { fd0 with count := 0 },
      .feLd { fd0 with count := 5 },
      .feLd { fd0 with typ := 13 },
      .feLd { fd0 with typ := 10, conv := 1 },
      .feLd { fd0 with c := 1 },
      .feLd { fd0 with d := 1 },
      .feLd { fd0 with h13 := 1 },
      .feLd { fd0 with h14 := 1 }] = true := by decide +kernel

/-- R57, R59, R163, R164: own token bits, a bound pair above 31, RND, CONV, COUNT, TYPE and the fields each row keeps zero. -/
theorem test_ill_formed_fe_2 : onlyFirst
    [.feLdg fd0,
      .feLdg { fd0 with typ := 1 },
      .feLdg { fd0 with offhi := 1 }] = true := by decide +kernel

/-- R57, R59, R163, R164: own token bits, a bound pair above 31, RND, CONV, COUNT, TYPE and the fields each row keeps zero. -/
theorem test_ill_formed_fe_3 : onlyFirst
    [.feGath fd0,
      .feGath { fd0 with d := 1 },
      .feGath { fd0 with h13 := 1 },
      .feGath { fd0 with h14 := 1 },
      .feGath { fd0 with typ := 14 }] = true := by decide +kernel

/-- R57, R59, R163, R164: own token bits, a bound pair above 31, RND, CONV, COUNT, TYPE and the fields each row keeps zero. -/
theorem test_ill_formed_fe_4 : onlyFirst
    [.feUnpk { fd0 with typ := 13 },
      .feUnpk { { fd0 with typ := 13 } with typ := 12 },
      .feUnpk { { fd0 with typ := 13 } with conv := 1 },
      .feUnpk { { fd0 with typ := 13 } with c := 1 },
      .feUnpk { { fd0 with typ := 13 } with d := 1 },
      .feUnpk { { fd0 with typ := 13 } with h13 := 2 },
      .feUnpk { { fd0 with typ := 13 } with h14 := 1 }] = true := by decide +kernel

/-- R57, R59, R163, R164: own token bits, a bound pair above 31, RND, CONV, COUNT, TYPE and the fields each row keeps zero. -/
theorem test_ill_formed_fe_5 : onlyFirst
    [.feBcst { fd0 with h13 := 1 },
      .feBcst { { fd0 with h13 := 1 } with typ := 1 },
      .feBcst { { fd0 with h13 := 1 } with conv := 1 },
      .feBcst { { fd0 with h13 := 1 } with tid := 1 },
      .feBcst { { fd0 with h13 := 1 } with offhi := 1 },
      .feBcst { { fd0 with h13 := 1 } with c := 1 },
      .feBcst { { fd0 with h13 := 1 } with d := 1 },
      .feBcst { { fd0 with h13 := 1 } with h13 := 2 },
      .feBcst { { fd0 with h13 := 1 } with h14 := 1 },
      .feBcst { { fd0 with h13 := 1 } with h13 := 0, conv := 0 },
      .feBcst { { fd0 with h13 := 1 } with h13 := 0, conv := 1, typ := 10 }] = true := by decide +kernel

/-- R57, R59, R163, R164: own token bits, a bound pair above 31, RND, CONV, COUNT, TYPE and the fields each row keeps zero. -/
theorem test_ill_formed_fe_6 : onlyFirst
    [.feAgen fd0,
      .feAgen { fd0 with a := 1 },
      .feAgen { fd0 with typ := 1 },
      .feAgen { fd0 with conv := 1 },
      .feAgen { fd0 with tid := 1 },
      .feAgen { fd0 with offhi := 1 },
      .feAgen { fd0 with h13 := 1 },
      .feAgen { fd0 with h14 := 1 }] = true := by decide +kernel

/-- R57, R59, R163, R164: own token bits, a bound pair above 31, RND, CONV, COUNT, TYPE and the fields each row keeps zero. -/
theorem test_ill_formed_fe_7 : onlyFirst
    [.feStrm { fd0 with d := 1 },
      .feStrm { { fd0 with d := 1 } with d := 0 },
      .feStrm { { fd0 with d := 1 } with c := 1 },
      .feStrm { { fd0 with d := 1 } with h13 := 1 },
      .feStrm { { fd0 with d := 1 } with h14 := 1 },
      .feStrm { { fd0 with d := 1 } with typ := 13 }] = true := by decide +kernel

/-- R57, R59, R163, R164: own token bits, a bound pair above 31, RND, CONV, COUNT, TYPE and the fields each row keeps zero. -/
theorem test_ill_formed_fe_8 : onlyFirst
    [.feIdx { fd0 with d := 1 },
      .feIdx { { fd0 with d := 1 } with d := 0 },
      .feIdx { { fd0 with d := 1 } with d := 0x2000001 },
      .feIdx { { fd0 with d := 1 } with b := 1 },
      .feIdx { { fd0 with d := 1 } with c := 1 },
      .feIdx { { fd0 with d := 1 } with tid := 1 },
      .feIdx { { fd0 with d := 1 } with typ := 1 },
      .feIdx { { fd0 with d := 1 } with conv := 1 },
      .feIdx { { fd0 with d := 1 } with h13 := 1 },
      .feIdx { { fd0 with d := 1 } with h14 := 1 }] = true := by decide +kernel

/-- R163, R164: the same for DE, whose RND is a rounding code. -/
theorem test_ill_formed_de_1 : onlyFirst
    [.deSt fd0,
      .deSt { fd0 with hd := ⟨0, 0, 32⟩ },
      .deSt { fd0 with hd := ⟨0, 32, 0⟩ },
      .deSt { fd0 with rnd := 5 },
      .deSt { fd0 with rnd := 7 },
      .deSt { fd0 with conv := 2 },
      .deSt { fd0 with count := 0 },
      .deSt { fd0 with count := 5 },
      .deSt { fd0 with typ := 13 },
      .deSt { fd0 with c := 1 }] = true := by decide +kernel

/-- R163, R164: the same for DE, whose RND is a rounding code. -/
theorem test_ill_formed_de_2 : onlyFirst
    [.deScat fd0,
      .deScat { fd0 with count := 5 },
      .deScat { fd0 with d := 1 }] = true := by decide +kernel

/-- R163, R164: the same for DE, whose RND is a rounding code. -/
theorem test_ill_formed_de_3 : onlyFirst
    [.deAddst { fd0 with conv := 1 },
      .deAddst { { fd0 with conv := 1 } with conv := 0 },
      .deAddst { { fd0 with conv := 1 } with typ := 10 },
      .deAddst { { fd0 with conv := 1 } with d := 1 },
      .deAddst { { fd0 with conv := 1 } with h13 := 2 },
      .deAddst { { fd0 with conv := 1 } with h14 := 1 }] = true := by decide +kernel

/-- R163, R164: the same for DE, whose RND is a rounding code. -/
theorem test_ill_formed_de_4 : onlyFirst
    [.dePack { fd0 with typ := 13 },
      .dePack { { fd0 with typ := 13 } with typ := 0 },
      .dePack { { fd0 with typ := 13 } with h13 := 2 }] = true := by decide +kernel

/-- R163, R164: the same for DE, whose RND is a rounding code. -/
theorem test_ill_formed_de_5 : onlyFirst
    [.deStg fd0,
      .deStg { fd0 with typ := 1 },
      .deStg { fd0 with offhi := 1 }] = true := by decide +kernel

/-- R163, R164: the same for DE, whose RND is a rounding code. -/
theorem test_ill_formed_de_6 : onlyFirst
    [.deAgen { fd0 with q := 0 },
      .deAgen { { fd0 with q := 0 } with q := 1 },
      .deAgen { { fd0 with q := 0 } with typ := 1 },
      .deAgen { { fd0 with q := 0 } with conv := 1 },
      .deAgen { { fd0 with q := 0 } with h13 := 1 },
      .deAgen { { fd0 with q := 0 } with h14 := 1 },
      .deAgen { { fd0 with q := 0 } with count := 0 }] = true := by decide +kernel

/-- R172 to R202: the fields that the row does not name, selectors, destinations, masks, functions. -/
theorem test_ill_formed_vx_1 : onlyFirst
    [.vxFadd vx0,
      .vxFadd { vx0 with hd := ⟨0, 0, 4⟩ },
      .vxFadd { vx0 with hd := ⟨0, 4, 0⟩ },
      .vxFadd { vx0 with hd := ⟨1, 0, 0⟩ },
      .vxFadd { vx0 with typ := 3 },
      .vxFadd { vx0 with d := 72 },
      .vxFadd { vx0 with d := 80 },
      .vxFadd { vx0 with d := 84 },
      .vxFadd { vx0 with a := 104 },
      .vxFadd { vx0 with b := 127 },
      .vxFadd { vx0 with c := 1 },
      .vxFadd { vx0 with a := 64, b := 64 },
      .vxFadd { vx0 with a := 64, b := 72 },
      .vxFadd { vx0 with pb := true },
      .vxFadd { vx0 with rnd := 7 },
      .vxFadd { vx0 with smen := true },
      .vxFadd { vx0 with sm := 1 },
      .vxFadd { vx0 with imm := 1 },
      .vxFadd { vx0 with fn := 1 },
      .vxFadd { vx0 with prof := 1 }] = true := by decide +kernel

/-- R172 to R202: the fields that the row does not name, selectors, destinations, masks, functions. -/
theorem test_ill_formed_vx_2 : onlyFirst
    [.vxIadd { vx0 with typ := 3 },
      .vxIadd { { vx0 with typ := 3 } with typ := 0 },
      .vxIadd { { vx0 with typ := 3 } with ftz := true },
      .vxIadd { { vx0 with typ := 3 } with rnd := 1 },
      .vxIadd { { vx0 with typ := 3 } with a := 87 },
      .vxIadd { { vx0 with typ := 3 } with b := 94 },
      .vxIadd { { vx0 with typ := 3 } with fn := 2 },
      .vxIadd { { vx0 with typ := 3 } with smen := true, typ := 5 }] = true := by decide +kernel

/-- R172 to R202: the fields that the row does not name, selectors, destinations, masks, functions. -/
theorem test_ill_formed_vx_3 : onlyFirst
    [.vxFmin vx0,
      .vxFmin { vx0 with d := 81 },
      .vxFmin { vx0 with d := 80, pb := true },
      .vxFmin { vx0 with rnd := 1 }] = true := by decide +kernel

/-- R172 to R202: the fields that the row does not name, selectors, destinations, masks, functions. -/
theorem test_ill_formed_vx_4 : onlyFirst
    [.vxFabs { vx0 with b := 0 },
      .vxFabs { { vx0 with b := 0 } with b := 1 }] = true := by decide +kernel

/-- R172 to R202: the fields that the row does not name, selectors, destinations, masks, functions. -/
theorem test_ill_formed_vx_5 : onlyFirst
    [.vxFcmp vx0,
      .vxFcmp { vx0 with d := 8 },
      .vxFcmp { vx0 with fn := 8 },
      .vxFcmp { vx0 with fn := 128 }] = true := by decide +kernel

/-- R172 to R202: the fields that the row does not name, selectors, destinations, masks, functions. -/
theorem test_ill_formed_vx_6 : onlyFirst
    [.vxIcmp { vx0 with typ := 4 },
      .vxIcmp { { vx0 with typ := 4 } with fn := 6 },
      .vxIcmp { { vx0 with typ := 4 } with fn := 128, typ := 3 }] = true := by decide +kernel

/-- R172 to R202: the fields that the row does not name, selectors, destinations, masks, functions. -/
theorem test_ill_formed_vx_7 : onlyFirst
    [.vxRsum { vx0 with b := 0 },
      .vxRsum { { vx0 with b := 0 } with prof := 1 },
      .vxRsum { { vx0 with b := 0 } with typ := 3 },
      .vxRsum { { vx0 with b := 0 } with d := 82 }] = true := by decide +kernel

/-- R172 to R202: the fields that the row does not name, selectors, destinations, masks, functions. -/
theorem test_ill_formed_vx_8 : onlyFirst
    [.vxCvt { vx0 with b := 0, fn := 16 },
      .vxCvt { { vx0 with b := 0, fn := 16 } with fn := 17 },
      .vxCvt { { vx0 with b := 0, fn := 16 } with imm := 2 },
      .vxCvt { { vx0 with b := 0, fn := 16 } with fn := 176 }] = true := by decide +kernel

/-- R172 to R202: the fields that the row does not name, selectors, destinations, masks, functions. -/
theorem test_ill_formed_vx_9 : onlyFirst
    [.vxQnt { vx0 with fn := 16 },
      .vxQnt { { vx0 with fn := 16 } with imm := 2 },
      .vxQnt { { vx0 with fn := 16 } with fn := 0 },
      .vxQnt { { vx0 with fn := 16 } with fn := 48 }] = true := by decide +kernel

/-- R172 to R202: the fields that the row does not name, selectors, destinations, masks, functions. -/
theorem test_ill_formed_vx_10 : onlyFirst
    [.vxMopAnd vx0,
      .vxMopAnd { vx0 with a := 8 },
      .vxMopAnd { vx0 with b := 8 },
      .vxMopAnd { vx0 with msel := 1 },
      .vxMopAnd { vx0 with mz := true }] = true := by decide +kernel

/-- R172 to R202: the fields that the row does not name, selectors, destinations, masks, functions. -/
theorem test_ill_formed_vx_11 : onlyFirst
    [.vxKset { vx0 with a := 0, b := 0 },
      .vxKset { { vx0 with a := 0, b := 0 } with d := 8 },
      .vxKset { { vx0 with a := 0, b := 0 } with msel := 1 },
      .vxKset { { vx0 with a := 0, b := 0 } with a := 1 }] = true := by decide +kernel

/-- R172 to R202: the fields that the row does not name, selectors, destinations, masks, functions. -/
theorem test_ill_formed_vx_12 : onlyFirst
    [.vxKsetLane { vx0 with b := 0, fn := 1 },
      .vxKsetLane { { vx0 with b := 0, fn := 1 } with imm := 64 }] = true := by decide +kernel

/-- R172 to R202: the fields that the row does not name, selectors, destinations, masks, functions. -/
theorem test_ill_formed_vx_13 : onlyFirst
    [.vxQcfg { vx0 with a := 0, b := 0, d := 64, imm := 0x21 },
      .vxQcfg { { vx0 with a := 0, b := 0, d := 64, imm := 0x21 } with d := 63 },
      .vxQcfg { { vx0 with a := 0, b := 0, d := 64, imm := 0x21 } with d := 72 },
      .vxQcfg { { vx0 with a := 0, b := 0, d := 64, imm := 0x21 } with imm := 0x14 },
      .vxQcfg { { vx0 with a := 0, b := 0, d := 64, imm := 0x21 } with imm := 0x31 },
      .vxQcfg { { vx0 with a := 0, b := 0, d := 64, imm := 0x21 } with imm := 0x20 }] = true := by decide +kernel

/-- R172 to R202: the fields that the row does not name, selectors, destinations, masks, functions. -/
theorem test_ill_formed_vx_14 : onlyFirst
    [.vxMovSts { vx0 with b := 0, d := 0, fn := 2 },
      .vxMovSts { { vx0 with b := 0, d := 0, fn := 2 } with d := 1 },
      .vxMovSts { { vx0 with b := 0, d := 0, fn := 2 } with fn := 1 }] = true := by decide +kernel

/-- R172 to R202: the fields that the row does not name, selectors, destinations, masks, functions. -/
theorem test_ill_formed_vx_15 : onlyFirst
    [.vxFma { vx0 with c := 4 },
      .vxFma { { vx0 with c := 4 } with c := 104 },
      .vxFma { { vx0 with c := 4 } with c := 71, a := 79 }] = true := by decide +kernel

/-- R206 to R217: levels, operand types and pitches, modes, profiles, ranges. -/
theorem test_ill_formed_mx_1 : onlyFirst
    [.mxNest (⟨hd0, 5, 0, 0, 0, 0, 0⟩ : NestArgs),
      .mxNest { (⟨hd0, 5, 0, 0, 0, 0, 0⟩ : NestArgs) with level := 6 },
      .mxNest { (⟨hd0, 5, 0, 0, 0, 0, 0⟩ : NestArgs) with hd := ⟨4, 0, 0⟩ },
      .mxNest { (⟨hd0, 5, 0, 0, 0, 0, 0⟩ : NestArgs) with hd := ⟨0, 8, 0⟩ },
      .mxNest { (⟨hd0, 5, 0, 0, 0, 0, 0⟩ : NestArgs) with hd := ⟨0, 0, 8⟩ }] = true := by decide +kernel

/-- R206 to R217: levels, operand types and pitches, modes, profiles, ranges. -/
theorem test_ill_formed_mx_2 : onlyFirst
    [.mxOpnd (⟨hd0, 0, 1, 0, 1, false, false, false, 0, 0, 0, 0⟩ : OpndArgs),
      .mxOpnd { (⟨hd0, 0, 1, 0, 1, false, false, false, 0, 0, 0, 0⟩ : OpndArgs) with ta := 3 },
      .mxOpnd { (⟨hd0, 0, 1, 0, 1, false, false, false, 0, 0, 0, 0⟩ : OpndArgs) with tb := 5 },
      .mxOpnd { (⟨hd0, 0, 1, 0, 1, false, false, false, 0, 0, 0, 0⟩ : OpndArgs) with pa := 1 },
      .mxOpnd { (⟨hd0, 0, 1, 0, 1, false, false, false, 0, 0, 0, 0⟩ : OpndArgs) with pb := 1 }] = true := by decide +kernel

/-- R206 to R217: levels, operand types and pitches, modes, profiles, ranges. -/
theorem test_ill_formed_mx_3 : onlyFirst
    [.mxAcc (⟨hd0, false, 1, 4, 8⟩ : AccArgs),
      .mxAcc { (⟨hd0, false, 1, 4, 8⟩ : AccArgs) with mode := 3 },
      .mxAcc { (⟨hd0, false, 1, 4, 8⟩ : AccArgs) with lp := 2 },
      .mxAcc { (⟨hd0, false, 1, 4, 8⟩ : AccArgs) with mode := 0 },
      .mxAcc { (⟨hd0, false, 1, 4, 8⟩ : AccArgs) with mode := 2, lp := 0 }] = true := by decide +kernel

/-- R206 to R217: levels, operand types and pitches, modes, profiles, ranges. -/
theorem test_ill_formed_mx_4 : onlyFirst
    [.mxGo (⟨hd0, lg0, 0, 0, 1⟩ : GoArgs),
      .mxGo { (⟨hd0, lg0, 0, 0, 1⟩ : GoArgs) with kl := 0 },
      .mxGo { (⟨hd0, lg0, 0, 0, 1⟩ : GoArgs) with kl := 7 },
      .mxGo { (⟨hd0, lg0, 0, 0, 1⟩ : GoArgs) with hd := ⟨1, 0, 0⟩ },
      .mxGo { (⟨hd0, lg0, 0, 0, 1⟩ : GoArgs) with long := ⟨0, 1, 0, 0⟩ },
      .mxGo { (⟨hd0, lg0, 0, 0, 1⟩ : GoArgs) with long := ⟨0, 0, 1, 0⟩ },
      .mxGo { (⟨hd0, lg0, 0, 0, 1⟩ : GoArgs) with long := ⟨0, 0, 0, 9⟩ }] = true := by decide +kernel

/-- R206 to R217: levels, operand types and pitches, modes, profiles, ranges. -/
theorem test_ill_formed_mx_5 : onlyFirst
    [.mxAccst (⟨hd0, false, false, false, 0, 256⟩ : AccstArgs),
      .mxAccst { (⟨hd0, false, false, false, 0, 256⟩ : AccstArgs) with pitch := 252 },
      .mxAccst { (⟨hd0, false, false, false, 0, 256⟩ : AccstArgs) with pitch := 258 }] = true := by decide +kernel

/-- R206 to R217: levels, operand types and pitches, modes, profiles, ranges. -/
theorem test_ill_formed_mx_6 : onlyFirst
    [.mxEpld (⟨hd0, 60, 4, 0, 0, 0xDFF⟩ : EpldArgs),
      .mxEpld { (⟨hd0, 60, 4, 0, 0, 0xDFF⟩ : EpldArgs) with at_ := 61 },
      .mxEpld { (⟨hd0, 60, 4, 0, 0, 0xDFF⟩ : EpldArgs) with n := 0 },
      .mxEpld { (⟨hd0, 60, 4, 0, 0, 0xDFF⟩ : EpldArgs) with n := 65, at_ := 0 },
      .mxEpld { (⟨hd0, 60, 4, 0, 0, 0xDFF⟩ : EpldArgs) with tid := 0xE00 }] = true := by decide +kernel

/-- R206 to R217: levels, operand types and pitches, modes, profiles, ranges. -/
theorem test_ill_formed_mx_7 : onlyFirst
    [.mxEpargLd (⟨hd0, 7, 0, 4, 0, 0, 0, 1⟩ : EpargArgs),
      .mxEpargLd { (⟨hd0, 7, 0, 4, 0, 0, 0, 1⟩ : EpargArgs) with h3 := 1 },
      .mxEpargLd { (⟨hd0, 7, 0, 4, 0, 0, 0, 1⟩ : EpargArgs) with p1 := 1 },
      .mxEpargLd { (⟨hd0, 7, 0, 4, 0, 0, 0, 1⟩ : EpargArgs) with p2 := 1 },
      .mxEpargLd { (⟨hd0, 7, 0, 4, 0, 0, 0, 1⟩ : EpargArgs) with p3 := 1 }] = true := by decide +kernel

/-- R206 to R217: levels, operand types and pitches, modes, profiles, ranges. -/
theorem test_ill_formed_mx_8 : onlyFirst
    [.mxEpargBc (⟨hd0, 7, 0, 4, 0, 0, 0, 0⟩ : EpargArgs),
      .mxEpargBc { (⟨hd0, 7, 0, 4, 0, 0, 0, 0⟩ : EpargArgs) with h3 := 1 },
      .mxEpargBc { (⟨hd0, 7, 0, 4, 0, 0, 0, 0⟩ : EpargArgs) with p1 := 1 },
      .mxEpargBc { (⟨hd0, 7, 0, 4, 0, 0, 0, 0⟩ : EpargArgs) with h12 := 1 }] = true := by decide +kernel

/-- R206 to R217: levels, operand types and pitches, modes, profiles, ranges. -/
theorem test_ill_formed_mx_9 : onlyFirst
    [.mxEpargSp (⟨hd0, 3, 0x2002, 0, 0, 0, 0, 0⟩ : EpargArgs),
      .mxEpargSp { (⟨hd0, 3, 0x2002, 0, 0, 0, 0, 0⟩ : EpargArgs) with idx := 4 },
      .mxEpargSp { (⟨hd0, 3, 0x2002, 0, 0, 0, 0, 0⟩ : EpargArgs) with h3 := 0x6002 },
      .mxEpargSp { (⟨hd0, 3, 0x2002, 0, 0, 0, 0, 0⟩ : EpargArgs) with h3 := 0x2202 },
      .mxEpargSp { (⟨hd0, 3, 0x2002, 0, 0, 0, 0, 0⟩ : EpargArgs) with h3 := 0x2001 },
      .mxEpargSp { (⟨hd0, 3, 0x2002, 0, 0, 0, 0, 0⟩ : EpargArgs) with h3 := 0x2000 },
      .mxEpargSp { (⟨hd0, 3, 0x2002, 0, 0, 0, 0, 0⟩ : EpargArgs) with h3 := 0x2081 },
      .mxEpargSp { (⟨hd0, 3, 0x2002, 0, 0, 0, 0, 0⟩ : EpargArgs) with h3 := 0x2082 },
      .mxEpargSp { (⟨hd0, 3, 0x2002, 0, 0, 0, 0, 0⟩ : EpargArgs) with p2 := 1 },
      .mxEpargSp { (⟨hd0, 3, 0x2002, 0, 0, 0, 0, 0⟩ : EpargArgs) with h12 := 1 }] = true := by decide +kernel

/-- R206 to R217: levels, operand types and pitches, modes, profiles, ranges. -/
theorem test_ill_formed_mx_10 : onlyFirst
    [.mxEpargTg (⟨hd0, 3, 64, 0, 0, 0, 0, 0xFFF⟩ : EpargArgs),
      .mxEpargTg { (⟨hd0, 3, 64, 0, 0, 0, 0, 0xFFF⟩ : EpargArgs) with idx := 4 },
      .mxEpargTg { (⟨hd0, 3, 64, 0, 0, 0, 0, 0xFFF⟩ : EpargArgs) with h3 := 0 },
      .mxEpargTg { (⟨hd0, 3, 64, 0, 0, 0, 0, 0xFFF⟩ : EpargArgs) with h3 := 65 },
      .mxEpargTg { (⟨hd0, 3, 64, 0, 0, 0, 0, 0xFFF⟩ : EpargArgs) with h12 := 0x1000 }] = true := by decide +kernel

/-- R206 to R217: levels, operand types and pitches, modes, profiles, ranges. -/
theorem test_ill_formed_mx_11 : onlyFirst
    [.mxEpargQu (⟨hd0, 3, 7, 0, 0, 0, 0, 0⟩ : EpargArgs),
      .mxEpargQu { (⟨hd0, 3, 7, 0, 0, 0, 0, 0⟩ : EpargArgs) with idx := 4 },
      .mxEpargQu { (⟨hd0, 3, 7, 0, 0, 0, 0, 0⟩ : EpargArgs) with h3 := 8 },
      .mxEpargQu { (⟨hd0, 3, 7, 0, 0, 0, 0, 0⟩ : EpargArgs) with p0 := 1 },
      .mxEpargQu { (⟨hd0, 3, 7, 0, 0, 0, 0, 0⟩ : EpargArgs) with h12 := 1 }] = true := by decide +kernel

/-- R222: RND, T with RND or FTZ, SAT without T, activation rounding, conversions, PACK, SKIP. -/
theorem test_ill_formed_ep_1 : onlyFirst
    [.epAdd (⟨0, 0, 0, false, 0, false, false, false⟩ : EpArgs),
      .epAdd { (⟨0, 0, 0, false, 0, false, false, false⟩ : EpArgs) with rnd := 7 },
      .epAdd { (⟨0, 0, 0, false, 0, false, false, false⟩ : EpArgs) with t := true, rnd := 1 },
      .epAdd { (⟨0, 0, 0, false, 0, false, false, false⟩ : EpArgs) with t := true, ftz := true },
      .epAdd { (⟨0, 0, 0, false, 0, false, false, false⟩ : EpArgs) with sat := true },
      .epAdd { (⟨0, 0, 0, false, 0, false, false, false⟩ : EpArgs) with row := true }] = true := by decide +kernel

/-- R222: RND, T with RND or FTZ, SAT without T, activation rounding, conversions, PACK, SKIP. -/
theorem test_ill_formed_ep_2 : onlyFirst
    [.epMax (⟨0, 0, 0, false, 0, false, false, false⟩ : EpArgs),
      .epMax { (⟨0, 0, 0, false, 0, false, false, false⟩ : EpArgs) with rnd := 1 },
      .epMax { (⟨0, 0, 0, false, 0, false, false, false⟩ : EpArgs) with row := true }] = true := by decide +kernel

/-- R222: RND, T with RND or FTZ, SAT without T, activation rounding, conversions, PACK, SKIP. -/
theorem test_ill_formed_ep_3 : onlyFirst
    [.epActRelu (⟨0, 0, 0, false⟩ : EpActArgs),
      .epActRelu { (⟨0, 0, 0, false⟩ : EpActArgs) with rnd := 1 }] = true := by decide +kernel

/-- R222: RND, T with RND or FTZ, SAT without T, activation rounding, conversions, PACK, SKIP. -/
theorem test_ill_formed_ep_4 : onlyFirst
    [.epActTanh (⟨0, 0, 6, false⟩ : EpActArgs),
      .epActTanh { (⟨0, 0, 6, false⟩ : EpActArgs) with rnd := 7 }] = true := by decide +kernel

/-- R222: RND, T with RND or FTZ, SAT without T, activation rounding, conversions, PACK, SKIP. -/
theorem test_ill_formed_ep_5 : onlyFirst
    [.epCvt (⟨0, 0, 1, 0, false, false, 1⟩ : EpCvtArgs),
      .epCvt { (⟨0, 0, 1, 0, false, false, 1⟩ : EpCvtArgs) with dst := 11 },
      .epCvt { (⟨0, 0, 1, 0, false, false, 1⟩ : EpCvtArgs) with dst := 0, part := 0 },
      .epCvt { (⟨0, 0, 1, 0, false, false, 1⟩ : EpCvtArgs) with dst := 3, part := 0, fromi := true },
      .epCvt { (⟨0, 0, 1, 0, false, false, 1⟩ : EpCvtArgs) with rnd := 7 },
      .epCvt { (⟨0, 0, 1, 0, false, false, 1⟩ : EpCvtArgs) with part := 2 }] = true := by decide +kernel

/-- R222: RND, T with RND or FTZ, SAT without T, activation rounding, conversions, PACK, SKIP. -/
theorem test_ill_formed_ep_6 : onlyFirst
    [.epPack (⟨0, 0, true, false, 0, false⟩ : EpPackArgs),
      .epPack { (⟨0, 0, true, false, 0, false⟩ : EpPackArgs) with ftz := true },
      .epPack { (⟨0, 0, true, false, 0, false⟩ : EpPackArgs) with rnd := 7 }] = true := by decide +kernel

/-- R222: RND, T with RND or FTZ, SAT without T, activation rounding, conversions, PACK, SKIP. -/
theorem test_ill_formed_ep_7 : onlyFirst
    [.epSkip 2 1,
      .epSkip 3 1,
      .epSkip 0 0] = true := by decide +kernel

/-- R230 to R241: groups, FADE, RND, PROF, bindings. -/
theorem test_ill_formed_sx_1 : onlyFirst
    [.sxCfg (⟨hd0, lg0, 0, 0, 0, 5, 2⟩ : SxCfgArgs),
      .sxCfg { (⟨hd0, lg0, 0, 0, 0, 5, 2⟩ : SxCfgArgs) with gm1 := 3 },
      .sxCfg { (⟨hd0, lg0, 0, 0, 0, 5, 2⟩ : SxCfgArgs) with long := ⟨0, 1, 0, 0⟩ },
      .sxCfg { (⟨hd0, lg0, 0, 0, 0, 5, 2⟩ : SxCfgArgs) with long := ⟨0, 0, 1, 0⟩ },
      .sxCfg { (⟨hd0, lg0, 0, 0, 0, 5, 2⟩ : SxCfgArgs) with long := ⟨0, 0, 0, 13⟩ },
      .sxCfg { (⟨hd0, lg0, 0, 0, 0, 5, 2⟩ : SxCfgArgs) with hd := ⟨1, 0, 0⟩ },
      .sxCfg { (⟨hd0, lg0, 0, 0, 0, 5, 2⟩ : SxCfgArgs) with hd := ⟨0, 16, 0⟩ }] = true := by decide +kernel

/-- R230 to R241: groups, FADE, RND, PROF, bindings. -/
theorem test_ill_formed_sx_2 : onlyFirst
    [.sxReset (⟨hd0, lg0, 3, false⟩ : SxResetArgs),
      .sxReset { (⟨hd0, lg0, 3, false⟩ : SxResetArgs) with hd := ⟨2, 0, 0⟩ },
      .sxReset { (⟨hd0, lg0, 3, false⟩ : SxResetArgs) with long := ⟨0, 1, 0, 0⟩ }] = true := by decide +kernel

/-- R230 to R241: groups, FADE, RND, PROF, bindings. -/
theorem test_ill_formed_sx_3 : onlyFirst
    [.sxCarry (⟨hd0, lg0, 3, 0, false, false⟩ : SxCarryArgs),
      .sxCarry { (⟨hd0, lg0, 3, 0, false, false⟩ : SxCarryArgs) with hd := ⟨4, 0, 0⟩ },
      .sxCarry { (⟨hd0, lg0, 3, 0, false, false⟩ : SxCarryArgs) with long := ⟨0, 1, 0, 0⟩ }] = true := by decide +kernel

/-- R230 to R241: groups, FADE, RND, PROF, bindings. -/
theorem test_ill_formed_sx_4 : onlyFirst
    [.sxScan (⟨hd0, ⟨0, 31, 0, 9⟩, 0, 0, 0, 0, true, true⟩ : SxScanArgs),
      .sxScan { (⟨hd0, ⟨0, 31, 0, 9⟩, 0, 0, 0, 0, true, true⟩ : SxScanArgs) with p3 := 1 },
      .sxScan { (⟨hd0, ⟨0, 31, 0, 9⟩, 0, 0, 0, 0, true, true⟩ : SxScanArgs) with long := ⟨0, 0, 0, 1⟩ },
      .sxScan { (⟨hd0, ⟨0, 31, 0, 9⟩, 0, 0, 0, 0, true, true⟩ : SxScanArgs) with long := ⟨0, 0, 1, 0⟩ },
      .sxScan { (⟨hd0, ⟨0, 31, 0, 9⟩, 0, 0, 0, 0, true, true⟩ : SxScanArgs) with hd := ⟨8, 0, 0⟩ }] = true := by decide +kernel

/-- R230 to R241: groups, FADE, RND, PROF, bindings. -/
theorem test_ill_formed_sx_5 : onlyFirst
    [.sxContr (⟨hd0, lg0, 0, 0, 0, 1, false, true⟩ : SxScanArgs),
      .sxContr { (⟨hd0, lg0, 0, 0, 0, 1, false, true⟩ : SxScanArgs) with noh := true }] = true := by decide +kernel

/-- R230 to R241: groups, FADE, RND, PROF, bindings. -/
theorem test_ill_formed_sx_6 : onlyFirst
    [.sxFadeq (⟨hd0, lg0, 0, true⟩ : SxFadeqArgs),
      .sxFadeq { (⟨hd0, lg0, 0, true⟩ : SxFadeqArgs) with hd := ⟨2, 0, 0⟩ },
      .sxFadeq { (⟨hd0, lg0, 0, true⟩ : SxFadeqArgs) with long := ⟨0, 1, 0, 0⟩ }] = true := by decide +kernel

/-- R245: the fields that an instruction does not use. -/
theorem test_ill_formed_fr_1 : onlyFirst
    [.frIn fr0,
      .frIn { fr0 with hd := ⟨8, 0, 0⟩ },
      .frIn { fr0 with long := ⟨0, 0, 0, 13⟩ },
      .frIn { fr0 with p1 := 1 },
      .frIn { fr0 with p2 := 1 },
      .frIn { fr0 with htid := 1 },
      .frIn { fr0 with hoffhi := 1 },
      .frIn { fr0 with keep := true },
      .frIn { fr0 with nowait := true },
      .frIn { fr0 with all := true },
      .frIn { fr0 with szm1 := 1 },
      .frIn { fr0 with nm1 := 1 }] = true := by decide +kernel

/-- R245: the fields that an instruction does not use. -/
theorem test_ill_formed_fr_2 : onlyFirst
    [.frSlots { fr0 with tab := 0 },
      .frSlots { { fr0 with tab := 0 } with slot := 1 },
      .frSlots { { fr0 with tab := 0 } with tab := 1 },
      .frSlots { { fr0 with tab := 0 } with sess := 1 }] = true := by decide +kernel

/-- R245: the fields that an instruction does not use. -/
theorem test_ill_formed_fr_3 : onlyFirst
    [.frOut fr0,
      .frOut { fr0 with sess := 1 },
      .frOut { fr0 with all := true }] = true := by decide +kernel

/-- R245: the fields that an instruction does not use. -/
theorem test_ill_formed_fr_4 : onlyFirst
    [.frDropAll { fr0 with all := true },
      .frDropAll { { fr0 with all := true } with all := false }] = true := by decide +kernel

/-- R245: the fields that an instruction does not use. -/
theorem test_ill_formed_fr_5 : onlyFirst
    [.frDrop fr0,
      .frDrop { fr0 with all := true },
      .frDrop { fr0 with keep := true }] = true := by decide +kernel

/-- R245: the fields that an instruction does not use. -/
theorem test_ill_formed_fr_6 : onlyFirst
    [.frStat { fr0 with tab := 0 },
      .frStat { { fr0 with tab := 0 } with tab := 1 },
      .frStat { { fr0 with tab := 0 } with nowait := true }] = true := by decide +kernel

/-- R253, R261: the fields that an instruction does not use, ROWS, masks, types, operations. -/
theorem test_ill_formed_cp_1 : onlyFirst
    [.cpCopy cp0,
      .cpCopy { cp0 with h14 := 0 },
      .cpCopy { cp0 with h15 := 0x10 },
      .cpCopy { cp0 with p3 := 1 },
      .cpCopy { cp0 with hd := ⟨0, 64, 0⟩ },
      .cpCopy { cp0 with long := ⟨0, 1, 0, 0⟩ },
      .cpCopy { cp0 with long := ⟨0, 0, 1, 0⟩ }] = true := by decide +kernel

/-- R253, R261: the fields that an instruction does not use, ROWS, masks, types, operations. -/
theorem test_ill_formed_cp_2 : onlyFirst
    [.cpMcast cp0,
      .cpMcast { cp0 with h14 := 0 },
      .cpMcast { cp0 with h15 := 0x80 }] = true := by decide +kernel

/-- R253, R261: the fields that an instruction does not use, ROWS, masks, types, operations. -/
theorem test_ill_formed_cp_3 : onlyFirst
    [.cpStage { cp0 with p2 := 0, h14 := 0 },
      .cpStage { { cp0 with p2 := 0, h14 := 0 } with p0 := 1 },
      .cpStage { { cp0 with p2 := 0, h14 := 0 } with h12 := 1 },
      .cpStage { { cp0 with p2 := 0, h14 := 0 } with h13 := 1 },
      .cpStage { { cp0 with p2 := 0, h14 := 0 } with h14 := 1 },
      .cpStage { { cp0 with p2 := 0, h14 := 0 } with h15 := 1 }] = true := by decide +kernel

/-- R253, R261: the fields that an instruction does not use, ROWS, masks, types, operations. -/
theorem test_ill_formed_cp_4 : onlyFirst
    [.cpFill cp0,
      .cpFill { cp0 with h12 := 1 },
      .cpFill { cp0 with h14 := 0 },
      .cpFill { cp0 with h15 := 8 },
      .cpFill { cp0 with p3 := 1, h14 := 2 },
      .cpFill { cp0 with p3 := 0x10000 }] = true := by decide +kernel

/-- R253, R261: the fields that an instruction does not use, ROWS, masks, types, operations. -/
theorem test_ill_formed_cp_5 : onlyFirst
    [.cpSig { cp0 with p2 := 0, h14 := 0 },
      .cpSig { { cp0 with p2 := 0, h14 := 0 } with p1 := 1 },
      .cpSig { { cp0 with p2 := 0, h14 := 0 } with h13 := 1 },
      .cpSig { { cp0 with p2 := 0, h14 := 0 } with h14 := 1 },
      .cpSig { { cp0 with p2 := 0, h14 := 0 } with h15 := 0x10 },
      .cpSig { { cp0 with p2 := 0, h14 := 0 } with h15 := 0x900 }] = true := by decide +kernel

/-- R253, R261: the fields that an instruction does not use, ROWS, masks, types, operations. -/
theorem test_ill_formed_cp_6 : onlyFirst
    [.cpAllred { cp0 with p3 := 3 },
      .cpAllred { { cp0 with p3 := 3 } with h12 := 1 },
      .cpAllred { { cp0 with p3 := 3 } with h13 := 1 },
      .cpAllred { { cp0 with p3 := 3 } with h15 := 8 },
      .cpAllred { { cp0 with p3 := 3 } with h15 := 0x300 },
      .cpAllred { { cp0 with p3 := 3 } with h15 := 0xC00 },
      .cpAllred { { cp0 with p3 := 3 } with h15 := 0x600 },
      .cpAllred { { cp0 with p3 := 3 } with p3 := 0x10003 },
      .cpAllred { { cp0 with p3 := 3 } with p2 := 0 },
      .cpAllred { { cp0 with p3 := 3 } with p2 := 0x100001 },
      .cpAllred { { cp0 with p3 := 3 } with long := ⟨0, 0, 0, 1⟩ },
      .cpAllred { { cp0 with p3 := 3 } with long := ⟨0, 0, 1, 0⟩ },
      .cpAllred { { cp0 with p3 := 3 } with long := ⟨0, 0, 5, 0⟩, h15 := 0x100 }] = true := by decide +kernel

/-- R253, R261: the fields that an instruction does not use, ROWS, masks, types, operations. -/
theorem test_ill_formed_cp_7 : onlyFirst
    [.cpAllgath { cp0 with p3 := 3 },
      .cpAllgath { { cp0 with p3 := 3 } with h15 := 0x400 },
      .cpAllgath { { cp0 with p3 := 3 } with long := ⟨0, 0, 1, 0⟩, h15 := 0x100 }] = true := by decide +kernel

/-- R253, R261: the fields that an instruction does not use, ROWS, masks, types, operations. -/
theorem test_ill_formed_cp_8 : onlyFirst
    [.cpRedsc { cp0 with p3 := 3 },
      .cpRedsc { { cp0 with p3 := 3 } with h15 := 0x600 }] = true := by decide +kernel

/-- R253, R261: the fields that an instruction does not use, ROWS, masks, types, operations. -/
theorem test_ill_formed_cp_9 : onlyFirst
    [.cpBcast { cp0 with p3 := 3 },
      .cpBcast { { cp0 with p3 := 3 } with h15 := 0x400 }] = true := by decide +kernel

/-- R253, R261: the fields that an instruction does not use, ROWS, masks, types, operations. -/
theorem test_ill_formed_cp_10 : onlyFirst
    [.cpDrain { cp0 with p2 := 0 },
      .cpDrain { { cp0 with p2 := 0 } with h14 := 0 },
      .cpDrain { { cp0 with p2 := 0 } with h14 := 256 },
      .cpDrain { { cp0 with p2 := 0 } with p1 := 1 },
      .cpDrain { { cp0 with p2 := 0 } with h12 := 1 },
      .cpDrain { { cp0 with p2 := 0 } with h13 := 1 },
      .cpDrain { { cp0 with p2 := 0 } with h15 := 1 }] = true := by decide +kernel

/-! ### Small states -/

/-- Core 0 at PL0 running the record of launch 1 of VF 1, about to fetch a NOP; two enabled cores, both of partition 0. -/
def base : State :=
  let s := ((State.reset.placeCode [0, 0]).setPf 0x58 2).setPf 0x60 0x0100
  { s with boot := { s.boot with power := .ready, stage := 8 } }

/-- The state with its s registers from s1 on. -/
def setRegs (s : State) (l : List W64) : State :=
  (l.zipIdx).foldl (fun s x => s.upd (fun c => { c with s := c.s.setIfInBounds (x.2 + 1) x.1 })) s

def regs (l : List W64) : State := setRegs base l

/-- The state that an instruction leads to; the state it ran in where it leads to none. -/
noncomputable def after (i : Instr) (s : State) : State :=
  match exec i s with
  | .next t => t
  | _ => s

/-- s3 after an instruction on s1 = a and s2 = b. -/
noncomputable def s3 (i : Instr) (a b : W64) : W64 := (after i (regs [a, b])).rd 3

noncomputable def s3s (l : List (Instr × W64 × W64 × W64)) : Bool := l.all (fun x => s3 x.1 x.2.1 x.2.2.1 == x.2.2.2)

/-- An address or place found, and what holds of it. -/
def okAnd {ε α : Type} (e : Except ε α) (p : α → Bool) : Bool :=
  match e with
  | .ok a => p a
  | .error _ => false

def someAnd {α : Type} (o : Option α) (p : α → Bool) : Bool :=
  match o with
  | some a => p a
  | none => false

/-- The spec's R109 to R112 worked by hand: wraps, signs, shift counts above 63, division corners. -/
theorem test_alu_1 : s3s
    [(.add 3 1 2, -1, 1, 0), (.sub 3 1 2, 0, 1, 0xFFFFFFFFFFFFFFFF), (.and 3 1 2, 0xFF0F, 0x0FFF, 0x0F0F), (.or 3 1 2, 0xF0, 0x0F, 0xFF),
      (.xor 3 1 2, 0xFF, 0x0F, 0xF0), (.andn 3 1 2, 0xFF, 0x0F, 0xF0), (.shl 3 1 2, 3, 65, 6), (.shr 3 1 2, 0x8000000000000000, 63, 1),
      (.sar 3 1 2, 0x8000000000000000, 127, -1), (.rol 3 1 2, 0x8000000000000001, 4, 0x18), (.ror 3 1 2, 0x18, 4, 0x8000000000000001),
      (.ror 3 1 2, 0x18, 64, 0x18), (.min 3 1 2, -1, 1, -1), (.max 3 1 2, -1, 1, 1), (.minu 3 1 2, -1, 1, 1), (.maxu 3 1 2, -1, 1, -1)] = true := by
  decide +kernel

/-- R109, R110. -/
theorem test_alu_2 : s3s
    [(.slt 3 1 2, -1, 1, 1), (.sltu 3 1 2, -1, 1, 0), (.seq 3 1 2, 5, 5, 1), (.sne 3 1 2, 5, 5, 0), (.mul 3 1 2, -3, 5, -15),
      (.mulh 3 1 2, -1, -1, 0), (.mulhu 3 1 2, -1, -1, -2), (.div 3 1 2, -7, 2, -3), (.rem 3 1 2, -7, 2, -1), (.divu 3 1 2, -7, 2, 0x7FFFFFFFFFFFFFFC),
      (.remu 3 1 2, -7, 2, 1), (.div 3 1 2, 9, 0, -1), (.rem 3 1 2, 9, 0, 9), (.divu 3 1 2, 9, 0, -1), (.remu 3 1 2, 9, 0, 9),
      (.div 3 1 2, 0x8000000000000000, -1, 0x8000000000000000), (.rem 3 1 2, 0x8000000000000000, -1, 0)] = true := by decide +kernel

/-- R109. -/
theorem test_alu_3 : s3s
    [(.clz 3 1, 1, 0, 63), (.clz 3 1, 0, 0, 64), (.ctz 3 1, 8, 0, 3), (.ctz 3 1, 0, 0, 64), (.popc 3 1, 0xF0F0, 0, 8), (.brev 3 1, 1, 0, 0x8000000000000000),
      (.sext 3 1 .w8, 0x80, 0, -128), (.sext 3 1 .w16, 0x17FFF, 0, 0x7FFF), (.sext 3 1 .w32, 0x80000000, 0, 0xFFFFFFFF80000000), (.zext 3 1 .w8, 0x1FF, 0, 0xFF),
      (.zext 3 1 .w32, -1, 0, 0xFFFFFFFF)] = true := by decide +kernel

/-- R111, R112: ANDI with −256 keeps bits [63:8]; the 64-bit constant of R112's example. -/
theorem test_immediate : s3s
    [(.addi 3 1 0xFFF, 0, 0, -1), (.addiX 3 1 0x9ABCDEF0, 0x1234567900000000, 0, 0x123456789ABCDEF0), (.andi 3 1 0xF00, 0x12FF, 0, 0x1200),
      (.andiX 3 1 0xFFFFFF00, -1, 0, -256), (.ori 3 1 0x800, 0, 0, 0xFFFFFFFFFFFFF800), (.oriX 3 1 0x800, 0, 0, 0x800), (.xori 3 1 0xFFF, 5, 0, -6),
      (.xoriX 3 1 0x7FFFFFFF, 0, 0, 0x7FFFFFFF), (.slti 3 1 0xFFF, -2, 0, 1), (.sltiX 3 1 0x80000000, 0, 0, 0), (.sltiu 3 1 0xFFF, 5, 0, 1),
      (.sltiuX 3 1 0x80000000, 5, 0, 1), (.shli 3 1 32, 0x12345679, 0, 0x1234567900000000), (.shri 3 1 63, -1, 0, 1), (.sari 3 1 63, -1, 0, -1)] = true := by
  decide +kernel

/-- R111, R112. -/
theorem test_index : s3s
    [(.muli 3 1 0xFFF, 7, 0, -7), (.muliX 3 1 0xFFFFFFFF, 7, 0, -7), (.idx 3 1 2 3 0x1F, 0x1000, 4, 0x101F), (.idxX 3 1 2 2 0x100, 0x1000, -1, 0x10FC)] = true := by
  decide +kernel

/-- R17: s0 reads 0 and discards a write. -/
theorem test_zero_register : (after (.add 0 1 1) (regs [7])).rd 0 = 0 ∧ (after (.add 1 0 0) (regs [7])).rd 1 = 0 := by decide +kernel

/-! ### Control transfer -/

/-- Where CTL stands after an instruction, from PC 0x1000000000. -/
noncomputable def pcOf (i : Instr) (s : State) : Addr := (after i s).core.pc

/-- R113, R48: taken and not taken, in both lengths; the hypotheses of ConditionalBranch. -/
theorem test_branches :
    [(Instr.beq 1 2 0xFFF, (5 : W64), (5 : W64), (0xFFFFFFFFC : Addr)), (.beq 1 2 0xFFF, 5, 6, 0x1000000004), (.bne 1 2 4, 5, 6, 0x1000000010),
      (.blt 1 2 4, -1, 0, 0x1000000010), (.bge 1 2 4, -1, 0, 0x1000000004), (.bltu 1 2 4, -1, 0, 0x1000000004), (.bgeu 1 2 4, -1, 0, 0x1000000010),
      (.beqX 1 2 0x80000000, 5, 5, 0xFFFE00000000 + 0x1000000000), (.bneX 1 2 1, 5, 5, 0x1000000008), (.bltX 1 2 2, -1, 0, 0x1000000008),
      (.bgeX 1 2 3, 0, -1, 0x100000000C), (.bltuX 1 2 3, 0, -1, 0x100000000C), (.bgeuX 1 2 3, 0, -1, 0x1000000008)].all
      (fun x => pcOf x.1 (regs [x.2.1, x.2.2.1]) == x.2.2.2) = true := by decide +kernel

/-- R114, R115: jumps, links, and ALIGN for a target that is no word address, with no link written. -/
theorem test_jumps :
    pcOf (.j 0x3FFFFF) (regs []) = 0xFFFFFFFFC ∧ pcOf (.jX 2) (regs []) = 0x1000000008 ∧
    pcOf (.jal 1 2) (regs []) = 0x1000000008 ∧ (after (.jal 1 2) (regs [])).rd 1 = 0x1000000004 ∧ (after (.jalX 1 2) (regs [])).rd 1 = 0x1000000008 ∧
    pcOf (.jr 1 0xFFF) (regs [0x40]) = 0x3C ∧ pcOf (.jrX 1 1) (regs [0xFFFFFFFFFFFC]) = 0 ∧
    pcOf (.jalr 1 1 1) (regs [0x40]) = 0x44 ∧ (after (.jalr 1 1 1) (regs [0x40])).rd 1 = 0x1000000004 ∧ pcOf (.jalrX 2 1 0) (regs [0x40]) = 0x40 := by
  decide +kernel

/-- A partition whose VF has entry 1 at 0x2000000000. -/
def armed (l : List W64) : State := (regs l).setPf (vfReg 1 0x38) 0x2000000000

/-- The fault bank 1 of core 0: cause, value, return address. -/
def fault1 (s : State) : Nat × W64 × W64 := ((s.bank 1).ecause.toNat / 2 ^ 32, (s.bank 1).eval, (s.bank 1).epc)

theorem test_jump_align : fault1 (after (.jalr 1 1 1) (armed [0x42])) = (3, 0x46, 0x1000000000) ∧ (after (.jalr 1 1 1) (armed [0x42])).rd 1 = 0x42 ∧
    pcOf (.jalr 1 1 1) (armed [0x42]) = 0x2000000000 := by decide +kernel

/-- Loop levels at PL0: body of n words from a, count c. -/
def looping (l0 l1 : Loop) (l : List W64) : State := (armed l).upd (fun c => { c with lc0 := l0, lc1 := l1 })
def lv (count : W32) (words : Nat) (start : Addr) : Loop := ⟨count, start, BitVec.ofNat 6 (words - 1), true⟩

/-- R116, R117: a LOOP opens, skips on a count of 0, is refused on an active level and on levels that do not nest: the witness
of every clause of LoopLevels about opening. -/
theorem test_loop_opens :
    (after (.loop 1 true 3) (regs [0xFFFFFFFF00000002])).core.lc1 = ⟨2, 0x1000000004, 3, true⟩ ∧
    (after (.loopiX 5 false 0) (regs [])).core.lc0 = ⟨5, 0x1000000008, 0, true⟩ ∧ pcOf (.loopiX 5 false 0) (regs []) = 0x1000000008 ∧
    pcOf (.loopi 0 false 4) (regs []) = 0x1000000018 ∧ (after (.loopi 0 false 4) (regs [])).core.lc0.act = false ∧
    (fault1 (after (.loopi 2 true 0) (looping .off (lv 1 9 0x1000000000) []))).1 = 1 ∧
    (fault1 (after (.loopi 2 false 9) (looping .off (lv 1 4 0x1000000000) []))).1 = 1 ∧
    (after (.loopi 2 false 2) (looping .off (lv 1 4 0x1000000000) [])).core.lc0.act = true := by decide +kernel

/-- R118: the inner level returns, then falls through to the outer one, both bodies ending at the same word; above PL0 nothing
acts: the witness of every clause of LoopLevels about the end of a body. -/
theorem test_loop_end :
    let s := looping (lv 2 1 0x1000000000) (lv 2 2 0xFFFFFFFFC) []
    let t := after .nop s
    let u := after .nop t
    let v := after .nop { u with core := { u.core with pc := 0x1000000000 } }
    t.core.pc = 0x1000000000 ∧ t.core.lc0.count = 1 ∧ t.core.lc1.count = 2 ∧
    u.core.pc = 0xFFFFFFFFC ∧ u.core.lc0.act = false ∧ u.core.lc0.count = 0 ∧ u.core.lc1.count = 1 ∧
    v.core.pc = 0x1000000004 ∧ v.core.lc1.act = false ∧
    (after .nop (s.upd (fun c => { c with pl := 1 }))).core.pc = 0x1000000004 := by decide +kernel

/-- R119: a jump out of the inner body, out of both, and within. -/
theorem test_transfer :
    let s := looping (lv 2 2 0x1000000000) (lv 2 8 0x1000000000) []
    ((after (.j 1) s).core.lc0.act, (after (.j 1) s).core.lc1.act) = (true, true) ∧
    ((after (.j 2) s).core.lc0.act, (after (.j 2) s).core.lc1.act) = (false, true) ∧
    ((after (.j 8) s).core.lc0.act, (after (.j 8) s).core.lc1.act) = (false, false) ∧ (after (.j 8) s).core.lc1.count = 2 := by decide +kernel

/-- R120 to R122. -/
theorem test_rotation :
    pcOf (.brot 1 1 0xFFF) (regs [2]) = 0xFFFFFFFFC ∧ (after (.brot 1 1 0xFFF) (regs [2])).rd 1 = 1 ∧
    (after (.brot 1 1 0xFFF) (regs [2])).core.vrb = 31 ∧ pcOf (.brot 1 1 0xFFF) (regs [1]) = 0x1000000004 ∧
    pcOf (.brot 0 0 1) (regs [1]) = 0x1000000004 ∧ (after (.rot 3) (regs [])).core.vrb = 29 ∧ (after (.setvrb 1 0xFFF) (regs [36])).core.vrb = 3 := by
  decide +kernel

/-! ### Memory -/

/-- Bytes put at an address of the own scratchpad. -/
def spad (o : Nat) (l : List Byte) (s : State) : State := s.putBytes (spadPa s.cur o) l

/-- The place of an offset of the own scratchpad of core 0. -/
def here (o : Nat) : Loc := ⟨spadPa 0 o, .spad, false, false, none, 0⟩

/-- R141, R142: the hypotheses of LoadStoreResult and AddressSpace on the first and last bytes of the own scratchpad, beyond
it, on a core's remote scratchpad, on none. -/
theorem witness_AddressSpace :
    (regs []).ctlPlace 0 8 = .ok (.here (here 0)) ∧ (regs []).ctlPlace 0x3FFFFF 1 = .ok (.here (here 0x3FFFFF)) ∧
    (regs []).ctlPlace 0x400000 4 = .error ⟨.translation, 0x400000⟩ ∧ (regs []).ctlPlace 3 2 = .error ⟨.align, 3⟩ ∧
    (regs []).ctlPlace 0xE01000000008 8 = .ok (.remote 1 8) ∧ (regs []).ctlPlace 0xE02000000008 8 = .error ⟨.translation, 0xE02000000008⟩ ∧
    (regs []).ctlPlace 0xF00000000000 1 = .error ⟨.translation, 0xF00000000000⟩ ∧ (regs []).ncore 0 = 2 := by decide +kernel

/-- The hypotheses of LoadStoreResult and AccessTraps: a plain place that is not poisoned, one that is, and a sieve conflict. -/
theorem witness_LoadStoreResult :
    let s := regs [0x100, 0x11223344]
    s.ctlPlace 0x104 4 = .ok (.here (here 0x104)) ∧ s.sbHit 0x104 4 = false ∧ s.poisonUnits (spadPa 0 0x104) 4 = [] ∧
    (s.judge s.judged true (here 0x104) 0x104 4).2 = none ∧ s.scrubFull (here 0x104) 4 5 = false ∧ (here 0x104).gfn = none ∧
    (s.setPoison (spadPa 0 0x100)).poisoned (spadPa 0 0x104) = true := by decide +kernel

/-- A shared tensor's byte, on core 0 at PL0 under DET, last stored by core 1. -/
def sharedLoc : Loc := ⟨0x4C0000, .hbm, false, true, some 19, 0x1000000000⟩

theorem witness_AccessTraps :
    let s := { (armed []).upd (fun c => { c with det := true }) with sieve := [⟨0x4C0000 / 8, 0, some 1, []⟩] }
    s.ctlPlace 0x1000000000 4 = .ok (.here sharedLoc) ∧ s.poisoned sharedLoc.pa = false ∧
    (s.judge s.judged false sharedLoc 0x1000000000 4).2 = some 0x1000000000 ∧
    fault1 (after (.ld 3 1 .w 0) (s.upd (fun c => { c with s := c.s.setIfInBounds 1 0x1000000000 }))) = (16, 0x1000000000, 0x1000000000) ∧
    (s.judge s.judged true sharedLoc 0x1000000000 4).2 = some 0x1000000000 ∧ s.self = 0 ∧
    (after (.st 3 1 .w 0) (s.upd (fun c => { c with s := c.s.setIfInBounds 1 0x1000000000 }))).conflicts = [(0, 1, 0x1000000000)] := by
  decide +kernel

/-- R141: sizes and signs; R144: poison of the scratchpad traps, and nothing is stored. -/
theorem test_loads :
    let s := spad 0x0FF [0x80, 0x80, 0x81, 0x82, 0x83, 0x84, 0x85, 0x86, 0x87] (regs [0x100, 0xFFFFFFFF])
    (after (.ld 3 1 .b 0x1FF) s).rd 3 = -128 ∧ (after (.ld 3 1 .bu 0) s).rd 3 = 0x80 ∧ (after (.ld 3 1 .h 1) s).rd 3 = 0xFFFFFFFFFFFF8382 ∧
    (after (.ld 3 1 .wu 1) s).rd 3 = 0x87868584 ∧ (after (.ld 3 1 .d 0) s).rd 3 = 0x8786858483828180 ∧ (after (.ldX 3 1 .hu 0xFFFFFFFE) s).rd 3 = 0x8000 ∧
    (after (.lda 3 1 .w .package) s).rd 3 = 0xFFFFFFFF83828180 ∧ (after (.ld 0 1 .d 0) s).rd 0 = 0 := by decide +kernel

theorem test_stores :
    let s := spad 0x0FF [1, 2, 3, 4, 5, 6, 7, 8, 9, 10] (regs [0x100, 0x1122334455667788])
    (after (.st 2 1 .w 0) s).loadLE (spadPa 0 0x0FE) 8 = 0x0706556677880100 ∧ (after (.stX 2 1 .b 0xFFFFFFFF) s).loadLE (spadPa 0 0x0FE) 4 = 0x03028800 ∧
    (after (.stl 2 1 .d .core) s).loadLE (spadPa 0 0x100) 9 = 0x0A1122334455667788 ∧ (after (.st 2 1 .h 0x1FF) s).loadLE (spadPa 0 0x0FE) 2 = 0x7788 := by
  decide +kernel

theorem test_poison :
    let s := (spad 0x100 [9] (armed [0x100, 7])).setPoison (spadPa 0 0x100)
    fault1 (after (.ld 3 1 .w 0) s) = (7, 0x100, 0x1000000000) ∧ fault1 (after (.st 2 1 .w 0) s) = (7, 0x100, 0x1000000000) ∧
    (after (.st 2 1 .w 0) s).loadLE (spadPa 0 0x100) 4 = 9 := by decide +kernel

/-- The place that AtomicResult asks for, and the ten operations on the word 7 with s3 = −2 (R148). -/
noncomputable def amoCase (i : Instr) : Nat × W64 :=
  let t := after i (spad 0x100 [7, 0, 0, 0, 9] (regs [0x100, 0, -2, 5]))
  (t.loadLE (spadPa 0 0x100) 8, t.rd 3)

theorem test_atomics :
    amoCase (.amoAdd 3 1 .ar false .core) = (0x900000005, 7) ∧ amoCase (.amoAnd 3 1 .rlx false .core) = (0x900000006, 7) ∧
    amoCase (.amoOr 3 1 .acq false .core) = (0x9FFFFFFFF, 7) ∧ amoCase (.amoXor 3 1 .rel false .core) = (0x9FFFFFFF9, 7) ∧
    amoCase (.amoMin 3 1 .ar false .core) = (0x9FFFFFFFE, 7) ∧ amoCase (.amoMax 3 1 .ar false .core) = (0x900000007, 7) ∧
    amoCase (.amoMinu 3 1 .ar false .core) = (0x900000007, 7) ∧ amoCase (.amoMaxu 3 1 .ar false .core) = (0x9FFFFFFFE, 7) ∧
    amoCase (.amoSwap 3 1 .ar true .system) = (0xFFFFFFFFFFFFFFFE, 0x900000007) := by decide +kernel

theorem test_compare_and_swap :
    let s := spad 0x100 [7, 0, 0, 0] (regs [0x100, 7, 0x55])
    s.ScrubRoom ∧ (regs [0x100]).place (.ctl 0) 0x100 8 = .ok (.here (here 0x100)) ∧ s.poisoned (spadPa 0 0x100) = false ∧
    (after (.amoCas 2 1 .ar false .core) s).loadLE (spadPa 0 0x100) 4 = 0x55 ∧ (after (.amoCas 2 1 .ar false .core) s).rd 2 = 7 ∧
    (after (.amoCas 2 1 .ar false .core) (spad 0x100 [8] s)).loadLE (spadPa 0 0x100) 4 = 8 ∧
    (after (.amoCas 2 1 .ar false .core) (spad 0x100 [8] s)).rd 2 = 8 := by decide +kernel

/-- R149, R290, R143: an acquire at CLUSTER scope empties the L1, one at CORE scope does not; a prefetch of tensor 1 fetches. -/
theorem test_fences :
    let s := (regs [0x1000000000]).upd (fun c => { c with l1 := [5] })
    (after (.fenceAcq .core) s).core.l1 = [5] ∧ (after (.fenceAcq .cluster) s).core.l1 = [] ∧ (after (.fenceFull .system) s).core.l1 = [] ∧
    (after (.fenceRel .system) s).core.l1 = [5] ∧ (after (.prefL1 1 0) s).core.l1 = [5, 0x4C0000 / 64] ∧ (after (.prefLlc 1 0) s).llc.length = 1 ∧
    (after (.prefX true 0 0) s).llc = [] ∧ (after (.l1LineExpiry 5) s).core.l1 = [] ∧ pcOf (.prefX true 0 0) s = 0x1000000008 := by decide +kernel

/-- Tensor 2 with the frames of tensor 1: kind EXCL, owner and TAKEN as given. -/
def owned (owner : Nat) (taken : Bool) (l : List W64) : State :=
  (((armed l).store8 0x480080 0x481000).store8 0x480088 (BitVec.ofNat 64 (0x12000000 + owner + 2 ^ 15 * b2n taken))).store8 0x480090 0x40000

/-- R150 to R154: the hypotheses of FencesAndOwnership and what the steps leave. -/
theorem witness_OwnershipWord :
    (owned 0 true [1]).ScrubRoom ∧ (owned 0 true [1]).linkq = [] ∧
    okAnd ((owned 0 true [1]).ownership 2) (fun x => x.1.kind == 0 && x.1.owner == 0 && x.1.taken && x.2 == 0x480088) = true ∧
    (owned 0 true [1]).self = 0 ∧ (owned 0 true [1]).ncore (owned 0 true [1]).part = 2 ∧
    (after (.ownq 3 2) (owned 7 true [1])).rd 3 = 0x8007 ∧ (after (.ownq 3 1) (owned 7 true [1])).rd 3 = 0x10000 ∧
    (after (.give 1 2) (owned 0 true [1])).core.wait = some (.give 2 1) ∧ (fault1 (after (.give 1 2) (owned 1 true [1]))).1 = 6 ∧
    (after (.take 2) (owned 0 false [1])).core.wait = some (.take 2) ∧ (fault1 (after (.take 1) (owned 0 false [1]))).1 = 6 := by decide +kernel

theorem test_ownership :
    let g := after .giveComplete (after (.give 1 2) (owned 0 true [1]))
    let t := after .takeComplete (after (.take 2) (owned 0 false [1]))
    g.loadLE 0x480088 4 = 0x12000001 ∧ g.core.pc = 0x1000000004 ∧ t.loadLE 0x480088 4 = 0x12008000 ∧ t.core.wait = none := by decide +kernel

/-! ### Barriers and counters -/

/-- A barrier at 0x1000 of the own scratchpad: pending and count as given, the ARRIVED bytes after them. -/
def barrier (pending count : Byte) (arrived : Byte) : State :=
  spad 0x1020 [arrived] (spad 0x1000 [pending, 0, 0, 0, 9, 0, 0, 0, count] (armed [0x1000, 3]))

/-- R155, R156: the hypotheses of Barriers, on a barrier that waits, on the last arrival, and with the bit set. -/
theorem witness_Barriers :
    (barrier 2 2 0).ctlPlace 0x1000 64 = .ok (.here (here 0x1000)) ∧ (barrier 2 2 0).sbHit 0x1000 64 = false ∧
    (barrier 2 2 0).poisonUnits (spadPa 0 0x1000) 64 = [] ∧ (barrier 2 2 0).arrivedBit (spadPa 0 0x1000) 0 = false ∧
    (barrier 2 2 1).arrivedBit (spadPa 0 0x1000) (barrier 2 2 1).self = true ∧ (barrier 2 2 0).core.arv = false := by decide +kernel

theorem test_barriers_1 :
    let t := after (.barArv 1 .core) (barrier 2 2 0)
    let u := after (.barArv 1 .core) (barrier 1 2 1)
    (t.loadLE (spadPa 0 0x1000) 8, t.loadLE (spadPa 0 0x1020) 1) = (0x900000001, 1) ∧ (u.loadLE (spadPa 0 0x1000) 8, u.loadLE (spadPa 0 0x1020) 1) = (0xA00000002, 0) ∧
    (after (.barInit 2 1 .core) (barrier 1 2 1)).loadLE (spadPa 0 0x1000) 12 = 0x000000030000000900000003 ∧
    (after (.barTest 3 1 .core) (barrier 1 2 1)).rd 3 = 0x900000001 ∧ (after (.barArv 1 .core) (barrier 1 0 1)).loadLE (spadPa 0 0x1000) 8 = 0x900000001 := by
  decide +kernel

theorem test_barriers_2 :
    (after (.barWait 1 .core) (barrier 2 2 1)).core.wait = some (.bar 0x1000 false) ∧ pcOf (.barWait 1 .core) (barrier 2 2 0) = 0x1000000004 ∧
    (after (.barArvw 1 .core) (barrier 2 2 0)).core.wait = some (.bar 0x1000 false) ∧ pcOf (.barArvw 1 .core) (barrier 1 2 0) = 0x1000000004 ∧
    pcOf (.barDbar 1 .core) (barrier 1 2 0) = 0x1000000004 ∧ (after (.barDbar 1 .core) (barrier 2 2 0)).core.arv = true ∧
    (after .barWaitComplete (after (.barWait 1 .core) (barrier 2 2 1))).core.wait = some (.bar 0x1000 false) ∧
    (after .barWaitComplete (spad 0x1020 [0] (after (.barWait 1 .core) (barrier 2 2 1)))).core.pc = 0x1000000004 := by decide +kernel

/-- A counter at byte 0x100 of tensor 2, a shared tensor: words as given (R159), and its address in s1. -/
def counter (ws : List Nat) (l : List W64) : State :=
  let s := (((armed (0x2000000100 :: l)).store8 0x480080 0x481000).store8 0x480088 0x12010000).store8 0x480090 0x40000
  (ws.zipIdx).foldl (fun s x => s.storeLE (0x4C0100 + 4 * x.2) 4 x.1) s

/-- R159, R160: a counter that CTL reaches, a division that rounds up, the last chunk, and CHINIT. -/
theorem witness_ChunkCounter :
    objAddr 0x2000000100 32 = none ∧ okAnd ((counter [10, 5, 2, 4] []).place (.ctl 0) 0x2000000100 32) (fun p => p == .here ⟨0x4C0100, .hbm, false, true, some 19, 0x2000000100⟩) = true ∧
    (counter [10, 5, 2, 4] []).poisoned 0x4C0100 = false ∧ (after (.chunk 2 1) (counter [10, 5, 2, 4] [])).rd 2 = 0x300000005 ∧
    (after (.chunk 2 1) (counter [10, 5, 2, 4] [])).loadLE 0x4C0100 8 = 0x800000007 ∧ (after (.chunk 2 1) (counter [1, 5, 2, 4] [])).loadLE 0x4C0100 8 = 0x600000000 ∧
    (after (.chinit 2 1 3) (counter [1, 5, 2, 4, 7] [0x400000000, 20])).loadLE 0x4C0100 20 = 0x0000000800000004000000010000000000000014 := by decide +kernel

/-! ### Exceptions and system registers -/

/-- R338, R339, R53: TRAP after it has completed, an illegal word, each at PL0; the hypotheses of TrapEntry. -/
theorem witness_TrapEntry :
    (armed []).core.pl < (Trap.mk .align 0).handling 0 ∧ (armed []).pfBits (vfReg (armed []).vf.toNat 0x38) 0 48 ≠ 0 ∧
    fault1 (after (.trap 0x123) (armed [])) = (19, 0x123, 0x1000000004) ∧ fault1 (after (.illegalCtlWord 0xFFFFFFFF) (armed [])) = (1, 0xFFFFFFFF, 0x1000000000) ∧
    (after (.trap 0x123) (armed [])).core.pl = 1 ∧ (after (.trap 0x123) (armed [])).core.pc = 0x2000000000 := by decide +kernel

/-- Core 0 at a level. -/
def atLevel (n : Nat) (l : List W64) : State := (armed l).upd (fun c => { c with pl := n })

/-- R341: DOUBLE from PL1, the package stop from PL3. -/
theorem witness_NestedTrap :
    (Trap.mk .align 0).handling 1 = 1 ∧ (Trap.mk .align 0).handling 3 = 1 ∧
    ((after (.ld 3 1 .w 0) (atLevel 1 [2])).bank 2).ecause = 0x3001400000000 ∧ (after (.ld 3 1 .w 0) (atLevel 1 [2])).core.pl = 2 ∧
    (after (.ld 3 1 .w 0) (atLevel 3 [2])).boot.power = .stopped := by decide +kernel

/-- R134, R344: back to PL0 at the saved address, with and without stopped queues. -/
theorem witness_ReturnFromTrap :
    let s := (atLevel 1 []).setBank 1 ⟨0, 0x1000000012, 0, 0, 0⟩
    (s.bank 1).epl.toNat % 4 = 0 ∧ (after .eret s).core.pc = 0x1000000010 ∧ (after .eret s).core.arv = true ∧ (after .eret s).core.pl = 0 ∧
    (fault1 (after .eret (armed []))).1 = 2 ∧ (after .eret (s.upd (fun c => { c with qstop := true, qlevel := 1 }))).core.qstop = false ∧
    ((after .eret ((atLevel 1 []).setBank 1 ⟨0, 0, 0, 1, 0⟩)).bank 2).ecause = 0x1001400000000 := by decide +kernel

/-- R30, R36, R135, R136: numbers assigned and not, below the level, read-only. -/
theorem witness_SystemRegisters :
    csrLevel 0xFFF = none ∧ csrLevel 0x12 = some 1 ∧ csrWritable 0x12 1 = true ∧ csrWritable 0x01 0 = false ∧
    (fault1 (after (.csrr 3 0xFFF) (armed []))).1 = 1 ∧ (fault1 (after (.csrr 3 0x12) (armed []))).1 = 2 ∧
    (after (.csrw 0 1 0x12) (atLevel 1 [77])).rd 3 = 0 ∧ (after (.csrr 3 0x12) (after (.csrw 0 1 0x12) (atLevel 1 [77]))).rd 3 = 77 ∧
    (after (.csrr 3 0x20) (after (.csrs 0 1 0x20) (armed [6]))).rd 3 = 6 ∧
    (after (.csrr 3 0x20) (after (.csrc 0 2 0x20) (after (.csrs 0 1 0x20) (armed [6, 2])))).rd 3 = 4 := by decide +kernel

/-! ### Waiting, tokens, work -/

/-- R137, R138: the hypotheses of WaitAndTokens about WFE and DBRK. -/
theorem witness_WaitAndBreak :
    let e (b : Bool) : State := (regs []).upd (fun c => { c with ev := b })
    (e true).core.ev = true ∧ pcOf .wfe (e true) = 0x1000000004 ∧ (after .wfe (e true)).core.ev = false ∧ (after .wfe (e false)).core.wait = some .wfe ∧
    pcOf .wfeComplete ((after .wfe (e false)).upd (fun c => { c with ev := true })) = 0x1000000004 ∧
    (e true).debugOn 0 = false ∧ pcOf (.dbrk 5) (e true) = 0x1000000004 ∧ (after (.dbrk 5) (e true)).core.run = .running := by decide +kernel

/-- A partition whose debug is on. -/
def debugged (l : List W64) : State := (armed l).setPf 0x150 0x100000001

theorem test_debug_break : (debugged []).debugOn 0 = true ∧ (after (.dbrk 5) (debugged [])).core.run = .halted ∧ pcOf (.dbrk 5) (debugged []) = 0x1000000004 ∧
    (after (.dbrk 5) (debugged [])).core.dbg.code = 5 := by decide +kernel

/-- Token queue i→j holding n (R12). -/
def tokens (i j n : Nat) (s : State) : State := s.upd (fun c => { c with tok := c.tok.setIfInBounds (8 * i + j) n })

/-- R12 to R14, R158: TWAIT with and without its tokens, TSIG below and at 15. -/
theorem witness_ControlTokens :
    let s := tokens 3 0 1 (tokens 2 0 15 (armed []))
    s.core.tokCount 2 0 = 15 ∧ s.core.tokCount 3 0 = 1 ∧ (after (.twait 0xC) s).core.tokCount 2 0 = 14 ∧ (after (.twait 0xC) s).core.tokCount 3 0 = 0 ∧
    (after (.twait 0x1C) s).core.wait = some (.twait 0x1C) ∧ (after .twaitComplete (tokens 4 0 1 (after (.twait 0x1C) s))).core.tokCount 4 0 = 0 ∧
    (after (.tsig 0xC) s).core.tokCount 0 2 = 1 ∧ fault1 (after (.tsig 0xC) (tokens 0 2 15 s)) = (9, 4, 0x1000000000) ∧
    (after (.tsig 0xC) (tokens 0 2 15 s)).core.tokCount 0 3 = 0 := by decide +kernel

/-- A task record at byte 0x200 of tensor 2, its address in s1: entry 0x1000000000, two addresses, a base index (R307). -/
def spawning : State :=
  let s := (counter [] []).setPf (vfReg 1 0x18) 4
  ((((s.store8 0x4C0200 0x1000000000).store8 0x4C0208 0x100).store8 0x4C0210 0x200).store8 0x4C0218 3).upd
    (fun c => { c with s := c.s.setIfInBounds 1 0x2000000200 })

/-- R123 to R127: a record that is read, a quota with and without room, a misaligned and a tid-0 address; a join counter. -/
theorem witness_SpawnAndJoin :
    objAddr 0x2000000200 32 = none ∧ okAnd (spawning.readDoubles (.ctl 0) 0x2000000200 4) (fun x => x.1 == [0x1000000000, 0x100, 0x200, 3]) = true ∧
    spawning.quotaUsed 1 < spawning.tquota 1 ∧ (after (.spawn 1 2) spawning).tq.length = 1 ∧
    (spawning.setPf (vfReg 1 0x18) 0).tquota 1 ≤ (spawning.setPf (vfReg 1 0x18) 0).quotaUsed 1 ∧
    (after (.spawn 1 2) (spawning.setPf (vfReg 1 0x18) 0)).core.wait = some (.spawn 0x1000000000 0x100 0x200 3 2) ∧
    (after .spawnAppend ((after (.spawn 1 2) (spawning.setPf (vfReg 1 0x18) 0)).setPf (vfReg 1 0x18) 4)).tq.length = 1 ∧
    (fault1 (after (.spawn 1 2) (armed [0x2000000201]))).1 = 3 ∧ (fault1 (after (.spawn 1 2) (armed [0x200]))).1 = 4 := by decide +kernel

theorem test_join :
    (after (.join 1) (counter [2, 0, 0x200, 0x20] [])).loadLE 0x4C0100 8 = 1 ∧ (after (.join 1) (counter [1, 0, 0, 0] [])).tq = [] ∧
    (after (.join 1) ((((counter [1, 0, 0x200, 0x20, 1] []).setPf (vfReg 1 0x18) 4).store8 0x4C0200 0x1000000000))).tq.map (fun x => (x.prio, x.work.d0)) =
      [(1, 0x1000000000)] ∧
    (fault1 (after (.join 1) (counter [1, 0, 0x201, 0x20] []))) = (3, 0x2000000201, 0x1000000004) := by decide +kernel

/-- A launch record at byte 0x400 of tensor 2, its address in s1: one group of one level, its doubles as given over that
(R314). -/
def launching (d : List (Nat × W64)) (quota : Nat) : State :=
  let s := (counter [] []).setPf (vfReg 1 0x18) (BitVec.ofNat 64 (quota * 2 ^ 32 + 8))
  let all : List (Nat × W64) := [(0, 0x1000000000), (1, 0x100), (2, 0x480000), (8, 1)] ++ d
  let s := all.foldl (fun s x => s.store8 (0x4C0400 + 8 * x.1) x.2) s
  s.upd (fun c => { c with s := c.s.setIfInBounds 1 0x2000000400 })

/-- The doubles that LAUNCH reads at s1. -/
noncomputable def launchDoubles (s : State) : List W64 :=
  match s.readDoubles (.ctl 0) 0x2000000400 16 with
  | .ok x => x.1
  | .error _ => []

noncomputable def parsedLaunch (s : State) (d : List W64) : Option (Launch × Nat × Nat) :=
  parseLaunch d s.vf s.core.part 0x2000000400 (s.ncore s.part) (s.persists s.core.part) (s.feature 3)

def launchList : List W64 := [0x1000000000, 0x100, 0x480000, 0, 0, 0, 0, 0, 1, 0, 0, 0, 0, 0, 0, 0]

/-- R130, R318: a well-formed record with room, one that is malformed, one with no room, one whose schedule is malformed. -/
theorem witness_LaunchResult_1 :
    objAddr 0x2000000400 64 = none ∧ launchDoubles (launching [] 1) = launchList ∧
    (parsedLaunch (launching [] 1) (launchList.set 7 1)).isNone = true := by decide +kernel

theorem witness_LaunchResult_2 :
    someAnd (parsedLaunch (launching [] 1) launchList) (fun x =>
      okAnd ((launching [] 1).launchTables (.ctl 0) x.1 x.2.1 x.2.2) (fun y => y.1.isSome)) = true ∧
    someAnd (parsedLaunch (launching [] 1) (launchList.set 3 0x2000000600)) (fun x =>
      okAnd ((launching [] 1).launchTables (.ctl 0) x.1 x.2.1 x.2.2) (fun y => y.1.isNone)) = true ∧
    (launching [] 1).live 1 < (launching [] 1).lquota 1 ∧ (launching [] 0).lquota 1 ≤ (launching [] 0).live 1 := by decide +kernel

theorem test_launch_1 :
    let t := after (.launch 2 1) (launching [] 1)
    (t.rd 2, t.launches.map (fun l => (l.lid, l.groups))) = (1, [(1, 1)]) := by decide +kernel

theorem test_launch_2 : (after (.launch 2 1) (launching [] 0)).rd 2 = 0x8000000200000000 := by decide +kernel

/-- Launch 1 of VF 1 with a number of groups. -/
def live (groups : Nat) : Launch :=
  { vf := 1, lid := 1, part := 0, recAddr := 0x2000000400, entry := 0x1000000000, args := 0x100, ttab := 0x480000, sched := 0, preload := [], done := 0,
    prio := 0, det := false, persist := false, fence := false, sflen := 0, levels := [⟨false, 0, 1⟩, ⟨false, 0, groups⟩], deps := [], groups := groups,
    begun := true, nextIdx := groups, triggered := [], retired := [], replayed := false, host := none, unread := false }

/-- The base state with its record a group of launch 1. -/
def grouped (groups : Nat) : State :=
  { (armed []).upd (fun c => { c with work := some ⟨0x1000000000, 0, 0, 0, 1, 1, 0, 0x480000, true⟩ }) with launches := [live groups] }

/-- R128, R129: TEND and TRIG wait, the record retires with its group or with the launch's last group, TRIG completes. -/
theorem witness_LaunchAndRecordEnds :
    let t (n : Nat) : State := after .recordRetire (after .tend (grouped n))
    ((grouped 2).launchOf 1 1).isSome = true ∧ (after .tend (grouped 2)).core.wait = some .tend ∧
    (t 2).core.run = .idle ∧ ((t 2).launchOf 1 1).map (·.retired) = some [0] ∧ ((t 1).launchOf 1 1).isNone = true ∧
    (after .trig (grouped 2)).core.wait = some (.trig [0, 0, 0, 0, 0, 0, 0]) ∧ (after .trigComplete (after .trig (grouped 2))).core.trig = true ∧
    (after .trigComplete (after .trig (grouped 2))).core.pc = 0x1000000004 ∧ (fault1 (after .tend (atLevel 1 []))).1 = 0 := by decide +kernel

/-- R131, R132: YIELD with and without a higher record, with an entry queued, above PL1; YIELD DONATE; SELF. -/
theorem witness_YieldAndSelf :
    let hi : State := { grouped 2 with tq := [⟨0, 3, ⟨0x1000000000, 0, 0, 0, 1, 1, 3, 0x480000, false⟩, 0, none, none, 1⟩] }
    (grouped 2).queuesEmpty = true ∧ (grouped 2).higherReady = false ∧ hi.higherReady = true ∧ (grouped 2).tst.donating = [] ∧
    pcOf .yield (grouped 2) = 0x1000000004 ∧ (after .yield hi).core.pc = 0x1000000004 ∧ (after .yield hi).core.run = .saving false false ∧
    (after .yieldDonate (grouped 2)).tst.donating = [0] ∧ (grouped 2).cur ∈ (after .yieldDonate (grouped 2)).tst.marks ∧
    ((grouped 2).append .vx (Image.of [8])).queuesEmpty = false ∧
    (after (.selfLaunchId 3) (grouped 2)).rd 3 = 1 ∧ (after (.selfIndex 3) ((grouped 2).upd (fun c => { c with levelBase := 0x500000007 }))).rd 3 = 7 ∧
    (after (.selfGroups 3) (grouped 2)).rd 3 = 2 ∧ (after (.selfCores 3) (grouped 2)).rd 3 = 2 ∧ ((regs []).launchOf 1 1).isNone = true := by decide +kernel

/-! ### Engine queues -/

/-- Image of VX.FADD v5 := v1 + v2, and one whose selectors rotate. -/
def faddImg : Image := Image.of [1, 0, 5, 0x0101]
def rotImg : Image := Image.of [1, 0, 63, 0x1020]

/-- R9, R11, R20, R54, R56: a defined and an undefined image, a full queue, PROFILE under DET, templates. -/
theorem witness_DispatchAppends :
    let full : State := (List.range 32).foldl (fun s _ => s.append .vx faddImg) (armed [])
    let det : State := (armed []).upd (fun c => { c with det := true })
    imageDefined .vx faddImg = true ∧ imageDefined .vx (Image.of [0]) = false ∧ (full.eng .vx).q.length = 32 ∧
    (after (.engineDispatch .vx .w2 faddImg) (armed [])).core.pc = 0x100000000C ∧ ((after (.engineDispatch .vx .w2 faddImg) (armed [])).eng .vx).q.map (·.img) = [faddImg] ∧
    (after (.engineDispatch .vx .w2 faddImg) full).core.wait = some (.space .vx faddImg 3) ∧ (fault1 (after (.engineDispatch .vx .w2 (Image.of [0])) (armed []))).1 = 1 ∧
    profZero .mx (Image.of [4, 0, 0, 0, 0, 1]) = true ∧ (fault1 (after (.engineDispatch .mx .w4 (Image.of [4, 0, 0, 0, 0, 1])) det)).1 = 14 := by decide +kernel

theorem test_dispatch :
    let s := (armed []).upd (fun c => { c with vrb := 31 })
    let t := after (.templateStore .vx .w2 7 faddImg) s
    ((after (.engineDispatch .vx .w2 rotImg) s).eng .vx).q.map (·.img) = [Image.of [1, 0, 62, 0x1FBF]] ∧
    t.template .vx 7 = faddImg ∧ (t.eng .vx).q = [] ∧ ((after (.patch .vx 7 2 9) t).eng .vx).q.map (·.img) = [Image.of [1, 0, 9, 0x0101]] ∧
    (after (.patch .vx 7 2 9) t).template .vx 7 = faddImg ∧ (after (.patchS .vx 7 2 9) t).template .vx 7 = Image.of [1, 0, 9, 0x0101] ∧
    ((after (.patchSN .vx 7 2 9) t).eng .vx).q = [] ∧ (after (.patchSN .vx 7 2 9) t).template .vx 7 = Image.of [1, 0, 9, 0x0101] ∧
    ((after .queueSpaceAppend ((armed []).upd (fun c => { c with wait := some (.space .vx faddImg 3) }))).eng .vx).q.length = 1 ∧
    ((after (.engineDispatch .vx .w4 (Image.of [0x4E0, 0, 5, 0, 1, 0, 0, 1])) (armed [0x12345])).eng .vx).q.map (fun x => x.img.pair 4) = [0x12345] := by decide +kernel

/-- An entry with every effect at the head of an engine's queue. -/
def finished (e : Eng) (m : Image) (s : State) : State := (s.append e m).updEng e (fun x => { x with q := x.q.map (fun y => { y with phase := .finished }) })

/-- R10, R12 to R14, R339, R340: completion with and without room for its tokens; a held fault that is taken. -/
theorem witness_EntryCompletion :
    let s := finished .vx (Image.of [1, 0x4100, 5, 0x0101]) (armed [])
    let o := after (.entryComplete .vx) (tokens 2 6 15 s)
    (s.eng .vx).q.map (fun x => (imgSig x.img, x.phase, x.pend)) = [(0x41, .finished, none)] ∧
    (after (.entryComplete .vx) s).core.tokCount 2 0 = 1 ∧ (after (.entryComplete .vx) s).core.tokCount 2 6 = 1 ∧
    ((after (.entryComplete .vx) s).eng .vx).q = [] ∧ ((after (.entryComplete .vx) s).eng .vx).completed = 1 ∧
    (o.eng .vx).held.map (fun h => (h.trap.cause, h.trap.val, h.seq)) = some (.tokenOverflow, 0x40, 1) ∧ o.core.tokCount 2 0 = 0 ∧ o.core.qstop = true ∧
    (earliest o.takeable).isSome = true ∧ o.runs = true ∧ o.core.outst = none ∧
    ((after .engineFaultTaken o).bank 1).ecause = 0x900000001 ∧ ((after .engineFaultTaken o).bank 1).epl = 8 ∧ (after .engineFaultTaken o).core.pl = 1 := by
  decide +kernel

/-! ### FE and DE -/

/-- The image of FE or DE on operand queue q: element type, CONV, COUNT, A, B, C, D, the tensor, the half-word 13. -/
def fd (q : BitVec 3) (typ : BitVec 4) (conv : BitVec 2) (count : H16) (a b c d : W32) (tid : BitVec 12) (h13 : H16) : FdArgs :=
  ⟨⟨0, 0, 0⟩, false, 0, typ, conv, q, count, a, b, c, d, 0, tid, h13, 0⟩

/-- An entry of an engine in its queue, operand queue 2 between producer p and consumer k with entries as given. -/
def fdState (e : Eng) (opc : Nat) (a : FdArgs) (p k : Nat) (ents : List Lanes) (s : State) : State :=
  (s.append e (Image.of (a.enc opc))).updQ 2 (fun _ => ⟨p, k, ents⟩)

/-- The next entry of an engine starts (Boolean reading of StartsNow). -/
noncomputable def startsB (e : Eng) (s : State) : Bool :=
  someAnd (s.ready e) (fun x => s.isHead e x && !x.stamped e)

/-- A run that the engine reaches at once. -/
noncomputable def cleanB (s : State) (r : IoRun) : Bool :=
  match s.goTo r.2.2 with
  | .ok l => (s.poisonUnits l.pa r.2.1).isEmpty && !s.runsHeld [r]
  | _ => false

noncomputable def cleanRuns (s : State) (e : Except Trap (List (List IoRun))) : Bool := okAnd e (fun rs => rs.all (fun r => r.all (cleanB s)))

/-- The lanes an FE instruction pushed to queue 2. -/
noncomputable def fed (i : Instr) (s : State) : List Lanes := ((after i s).opQ 2).ents

/-- The phase of the entry of an engine at its queue's head. -/
noncomputable def headPhase (e : Eng) (s : State) : Option Phase := ((s.eng e).q.head?).map (·.phase)

/-- R162 to R167: a widened load of two entries of INT8 at 0x100, a broadcast, positions of bits. -/
theorem witness_FeedEntries_1 :
    let a := fd 2 0 1 2 0x100 64 0 0 0 0
    let s := fdState .fe 1 a 1 5 [] (spad 0x100 [0x80, 1] (armed []))
    startsB .fe s = true ∧ (s.opQ 2).ents.length + 2 ≤ 4 ∧ (s.opQ 2).prod = 1 ∧
    cleanRuns s (s.entryRuns .fe .engine a 1 64 64 (fun v => v * 64)) = true ∧
    (fed (.feLd a) s).map (fun v => (lane v 0, lane v 1)) = [(0xFFFFFF80, 1), (0, 0)] ∧ headPhase .fe (after (.feLd a) s) = some .finished := by decide +kernel

theorem witness_FeedEntries_2 :
    let p := fd 2 0 0 1 0x18 0 0 0 0 0
    let i := fd 2 0 0 1 0x100 0 0 9 0 0
    let l := fd 2 5 1 1 0x110 0 0 0 0 0
    let s := spad 0x100 [0x05, 1] (spad 0x18 [0x01, 0x08, 0xFF] (armed []))
    cleanRuns s (s.entryRuns .fe .pack p 24 192 0 (fun v => v * 0)) = true ∧
    (fed (.feUnpk p) (fdState .fe 5 p 1 5 [] s)).map (fun v => (lane v 0, lane v 1)) = [(0xFFF0F801, 0)] ∧
    okAnd (s.ioPlaces .engine 0 0x100 2) (fun r => r.all (cleanB s)) = true ∧
    (fed (.feIdx i) (fdState .fe 9 i 1 5 [] s)).map (fun v => (lane v 0, lane v 1, lane v 2, lane v 3)) = [(0, 2, 8, 0xFFFFFFFF)] ∧
    cleanRuns s (s.entryRuns .fe .engine l 1 1 0 (fun _ => 0)) = true ∧
    (fed (.feBcst l) (fdState .fe 6 l 1 5 [] (spad 0x110 [0xC4] s))).map (fun v => (lane v 0, lane v 63)) = [(0xC0400000, 0xC0400000)] := by decide +kernel

theorem witness_FeedEntries_3 :
    let g := fd 2 0 0 2 0 1 0x40 0xFFFFFFFE 0 0
    let b := fd 2 0 0 4 0 7 0 0 0 1
    (fed (.feAgen g) (fdState .fe 7 g 1 5 [] (armed []))).map (fun v => (lane v 0, lane v 3)) = [(0xFFFFFFFE, 1), (0x3E, 0x41)] ∧
    (fed (.feBcst b) (fdState .fe 6 b 1 5 [] (armed []))).map (fun v => lane v 63) = [7, 7, 7, 7] := by decide +kernel

/-- Tensor 2, a shared flat tensor of INT16, extents 4 by 3, its first elements as given. -/
def tensor (l : List Byte) : State :=
  ((((armed []).store8 0x480080 0x481000).store8 0x480088 0x34010000).store8 0x480090 0x300000004).putBytes 0x4C0000 l

/-- R164, R167: two entries of a coordinate form from (2, 0) on; elements beyond the first extent are 0. -/
theorem witness_FeedEntries_4 :
    let a := fd 2 0 1 1 2 1 0 0 2 0
    let s := fdState .fe 2 a 1 5 [] (tensor [0, 0, 0, 0, 0, 0, 0, 0, 1, 0, 2, 0, 0xFD, 0xFF, 4, 0])
    okAnd (s.coordDesc a) (fun d => okAnd ((List.range 1).mapM (s.coordEntry a d)) (fun rs =>
      rs.all (fun r => r.all (fun y => match y with
        | some y => cleanB s y
        | none => true)) && okAnd (s.coordRun a d 0 2) Option.isNone && okAnd (s.coordRun a d 0 1) Option.isSome)) = true ∧
    (fed (.feLdg a) s).map (fun v => (lane v 0, lane v 1, lane v 2)) = [(0xFFFFFFFD, 4, 0)] := by decide +kernel

/-- R165, R168: a gather of two entries by the list at 0x40, its first element delivered, then its second and last; a stream;
a negative offset raises its cause before anything is delivered. -/
theorem witness_GatherDelivery :
    let a := fd 2 0 0 2 0x100 0x20 0x40 0 0 0
    let s := fdState .fe 3 a 1 5 [] (spad 0x40 [1, 0, 0, 0, 2] (spad 0x120 [7] (armed [])))
    let t := after (.feGath a) s
    let u := after .feElementDelivery t
    startsB .fe s = true ∧ someAnd (t.entryIn .fe .started) (fun x => x.prog == 0 && okAnd (t.gathDisp a x) (fun d => d.1 == 0x20)) = true ∧
    t.sbHit 0x40 4 = false ∧ (t.opQ 2).ents = [] ∧ t.core.qstop = false ∧ (t.eng .fe).held = none ∧
    (u.opQ 2).ents.map (fun v => lane v 0) = [7] ∧ (u.eng .fe).q.map (fun y => (y.prog, y.phase)) = [(1, .started)] := by decide +kernel

theorem test_gather_ends :
    let a := fd 2 0 0 1 0x100 0xFFFFFFE0 0x40 0 0 0
    let go (o : Byte) : State := after .feElementDelivery (after (.feGath a) (fdState .fe 3 a 1 5 [] (spad 0x40 [o] (armed []))))
    headPhase .fe (go 1) = some .finished ∧ ((go 9).eng .fe).held.map (fun h => (h.trap.cause, h.trap.val, h.seq)) = some (.translation, 0xFFFFFFFFFFE0, 1) ∧
    (go 9).core.qstop = true ∧ ((go 9).opQ 2).ents = [] := by decide +kernel

theorem test_stream :
    let a := fd 2 0 1 2 0x100 0x400 0 2 0 0
    let s := (List.range 4).foldl (fun (s : State) _ => after .feElementDelivery s)
      (after (.feStrm a) (fdState .fe 8 a 1 5 [] (spad 0x540 [4] (spad 0x500 [3] (spad 0x140 [2] (spad 0x100 [1] (armed [])))))))
    (s.opQ 2).ents.map (fun v => lane v 0) = [1, 2, 3, 4] ∧ headPhase .fe s = some .finished := by decide +kernel

/-- Lanes that all hold w but lane 0, which holds v. -/
def lanes0 (v w : W32) : Lanes := (Vector.replicate 64 w).setIfInBounds 0 v

noncomputable def drained (i : Instr) (s : State) (o n : Nat) : Nat := (after i s).loadLE (spadPa 0 o) n

/-- R169, R170: a narrowed store of two entries with a third left, an addition to what lies there, a packed entry, addresses. -/
theorem witness_DrainEntries_1 :
    let a := fd 2 0 2 2 0x100 64 0 0 0 0
    let s := fdState .de 1 a 4 5 [lanes0 2 0, lanes0 0xFFFFFFFD 0, lanes0 1 1] (armed [])
    let z := fd 2 0 2 2 0x100 0 0 0 0 0
    startsB .de s = true ∧ (s.opQ 2).cons = 5 ∧ cleanRuns s (s.entryRuns .de .engine a 1 64 64 (fun v => v * 64)) = true ∧
    Eng.de.num = 5 ∧ drained (.deSt a) s 0x100 1 = 2 ∧ drained (.deSt a) s 0x140 2 = 0x00FD ∧ ((after (.deSt a) s).opQ 2).ents = [lanes0 1 1] ∧
    headPhase .de (after (.deSt a) s) = some .finished ∧
    drained (.deSt z) (fdState .de 1 z 4 5 [lanes0 2 0, lanes0 0xFFFFFFFD 0] (armed [])) 0x100 1 = 0xFD := by decide +kernel

theorem witness_DrainEntries_2 :
    let a := fd 2 4 0 1 0x100 0 0 0 0 0
    let s := fdState .de 4 a 4 5 [lanes0 5 1] (spad 0x100 [3, 0, 0, 0, 9] (armed []))
    let p := fd 2 0 0 1 0x18 0 0 0 0 0
    let g := fd 2 0 0 1 0x100 4 0 0x1000 0 0
    cleanRuns s (s.entryRuns .de .engine a 4 256 0 (fun v => v * 0)) = true ∧ drained (.deAddst a) s 0x100 8 = 0x0000000A00000008 ∧
    drained (.dePack p) (fdState .de 5 p 4 5 [lanes0 0x0FFF0801 0] (armed [])) 0x18 4 = 0x00FFF801 ∧
    drained (.deAgen g) (fdState .de 6 g 4 5 [] (armed [])) 0x100 8 = 0x0000100400001000 := by decide +kernel

/-- R164, R169: a scatter by the list at 0x40, a coordinate form that stores only what lies within the extents. -/
theorem witness_DrainEntries_3 :
    let a := fd 2 4 0 1 0x100 0x200 0x40 0 0 0
    let s := fdState .de 3 a 4 5 [lanes0 5 1] (spad 0x40 [2] (armed []))
    let g := fd 2 0 2 1 3 2 0 0 2 0
    let u := fdState .de 2 g 4 5 [lanes0 7 9] (tensor [])
    someAnd (s.ready .de) (fun x => okAnd (s.indexedRuns a x) (fun r => r.1.all (fun l => l.all (cleanB s)))) = true ∧
    drained (.deScat a) s 0x500 4 = 5 ∧
    okAnd (u.coordDesc g) (fun d => okAnd ((List.range 1).mapM (u.coordEntry g d)) (fun rs => rs.all (fun r => r.all (fun y => match y with
      | some y => cleanB u y
      | none => true)))) = true ∧
    (after (.deStg g) u).loadLE 0x4C0016 4 = 7 := by decide +kernel

/-! ### VX -/

/-- The state with an engine instruction at the end of its engine's queue. -/
def queued (i : Instr) (s : State) : State :=
  match i.engine, encodeImage i with
  | some e, some m => s.append e m
  | _, _ => s

/-- What an engine instruction leads to from its queue. -/
noncomputable def ran (i : Instr) (s : State) : State := after i (queued i s)

/-- v1, v2, v3, … hold the lanes given. -/
def vregs (l : List Lanes) (s : State) : State :=
  s.upd (fun c => { c with vx := { c.vx with v := (l.zipIdx).foldl (fun (v : Vector Lanes 64) x => v.setIfInBounds (x.2 + 1) x.1) c.vx.v } })

/-- An image of VX: element type, D, A, B, C, FN, immediate; no mask. -/
def vx (typ : BitVec 4) (d a b c : BitVec 7) (fn : BitVec 8) (imm : W32) : VxArgs :=
  ⟨⟨0, 0, 0⟩, typ, false, false, 0, d, false, b, a, imm, false, 0, 0, c, 0, fn⟩

/-- The lanes of the last pending result. -/
noncomputable def result (i : Instr) (s : State) : Lanes :=
  match (ran i s).core.vx.pend.getLast? with
  | some p => p.val
  | none => zeroLanes

/-- Lane 0 of v9 := an operation of TYPE typ and FN fn on lanes of a, b and c. -/
noncomputable def vxLane0 (i : VxArgs → Instr) (typ : BitVec 4) (fn : BitVec 8) (a b c : W32) : W32 :=
  lane (result (i (vx typ 9 1 2 3 fn 0)) (vregs [lanes0 a 0, lanes0 b 0, lanes0 c 0] base)) 0

noncomputable def vxTable (l : List ((VxArgs → Instr) × BitVec 4 × BitVec 8 × W32 × W32 × W32 × W32)) : Bool :=
  l.all (fun x => vxLane0 x.1 x.2.1 x.2.2.1 x.2.2.2.1 x.2.2.2.2.1 x.2.2.2.2.2.1 == x.2.2.2.2.2.2)

/-- R184, R186: sums that round, packed halves, fused and not, NaN handling of FMIN, the classes. -/
theorem test_vx_float : vxTable
    [(.vxFadd, 0, 0, 0x3F800000, 0x33800000, 0, 0x3F800000), (.vxFsub, 1, 0, 0x3C004000, 0x3C003C00, 0, 0x00003C00), (.vxFmul, 0, 0, 0x40400000, 0xC0000000, 0, 0xC0C00000),
      (.vxFma, 0, 0, 0x3F800001, 0x3F800001, 0xBF800002, 0x28800000), (.vxFms, 0, 0, 0x40000000, 0x40400000, 0x3F800000, 0x40A00000),
      (.vxFmin, 0, 0, 0x3F800000, 0xC0000000, 0, 0xC0000000), (.vxFmax, 0, 0, 0x3F800000, 0xC0000000, 0, 0x3F800000), (.vxFabs, 0, 0, 0xC0000000, 0, 0, 0x40000000),
      (.vxFneg, 2, 0, 0x3F80BF80, 0, 0, 0xBF803F80), (.vxFrnd, 0, 0, 0x40200000, 0, 0, 0x40000000), (.vxSqrt, 0, 0, 0x40800000, 0, 0, 0x40000000),
      (.vxRcp, 0, 0, 0x40800000, 0, 0, 0x3E800000), (.vxRsq, 0, 0, 0x40800000, 0, 0, 0x3F000000)] = true := by decide +kernel

/-- R189: exact arguments, special values, correctly rounded ones. -/
theorem test_vx_functions_1 : vxTable
    [(.vxExp2, 0, 0, 0x3F800000, 0, 0, 0x40000000), (.vxLog2, 0, 0, 0x41000000, 0, 0, 0x40400000), (.vxLog2, 0, 0, 0x80000000, 0, 0, 0xFF800000),
      (.vxSigm, 0, 0, 0, 0, 0, 0x3F000000), (.vxTanh, 0, 0, 0xFF800000, 0, 0, 0xBF800000), (.vxSilu, 0, 0, 0xFF800000, 0, 0, 0x80000000),
      (.vxSoftp, 0, 0, 0xFF800000, 0, 0, 0), (.vxRcp, 0, 0, 0x80000000, 0, 0, 0xFF800000), (.vxRsq, 0, 0, 0x80000000, 0, 0, 0xFF800000),
      (.vxSqrt, 0, 0, 0xBF800000, 0, 0, 0x7FC00000), (.vxFclass, 0, 0, 0x80000001, 0, 0, 4), (.vxFclass, 0, 0, 0x7FC00001, 0, 0, 0x100)] = true := by decide +kernel

theorem test_vx_functions_2 : vxTable
    [(.vxSoftp, 0, 0, 0, 0, 0, 0x3F317218), (.vxTanh, 0, 0, 0x3F800000, 0, 0, 0x3F42F7D6), (.vxSilu, 0, 0, 0x3F800000, 0, 0, 0x3F3B26A8),
      (.vxExp2, 0, 0, 0x3F000000, 0, 0, 0x3FB504F3), (.vxLog2, 0, 0, 0x40400000, 0, 0, 0x3FCAE00D), (.vxSoftp, 0, 0, 0xC3480000, 0, 0, 0)] = true := by decide +kernel

/-- R187: wrap, clamp, sign and size. -/
theorem test_vx_integer : vxTable
    [(.vxIadd, 3, 0, 0x7FFFFFFF, 1, 0, 0x80000000), (.vxIadd, 3, 1, 0x7FFFFFFF, 1, 0, 0x7FFFFFFF), (.vxIsub, 4, 1, 0x80000005, 0x00010007, 0, 0x8000FFFE),
      (.vxImul, 3, 0, 0xFFFFFFFD, 5, 0, 0xFFFFFFF1), (.vxImulh, 3, 0, 0xFFFFFFFF, 0xFFFFFFFF, 0, 0), (.vxImulh, 3, 2, 0xFFFFFFFF, 0xFFFFFFFF, 0, 0xFFFFFFFE),
      (.vxImad, 3, 1, 0x40000000, 0xFFFFFFFE, 0xFFFFFFFF, 0x80000000), (.vxImin, 3, 0, 0xFFFFFFFF, 1, 0, 0xFFFFFFFF), (.vxImin, 3, 2, 0xFFFFFFFF, 1, 0, 1),
      (.vxImax, 4, 2, 0xFFFF0001, 0x00010002, 0, 0xFFFF0002), (.vxAnd, 3, 0, 0xFF, 0x3C, 0, 0x3C), (.vxOr, 3, 0, 0xF0, 0x0F, 0, 0xFF), (.vxXor, 3, 0, 0xFF, 0x0F, 0, 0xF0),
      (.vxAndn, 3, 0, 0xFF, 0x0F, 0, 0xF0), (.vxShl, 3, 0, 3, 33, 0, 6), (.vxShl, 4, 0, 0x00018001, 0x00110001, 0, 0x00020002),
      (.vxShr, 4, 0, 0x80008000, 0x000F0001, 0, 0x00014000), (.vxSar, 3, 0, 0x80000000, 31, 0, 0xFFFFFFFF)] = true := by decide +kernel

/-- R188: (1 + 2i)(3 + 4i) and its kin in CF16, CI12 clamped with sign copies, a pair of lanes of CF32P. -/
theorem test_vx_complex : vxTable
    [(.vxCadd, 5, 0, 0x40003C00, 0x44004200, 0, 0x46004400), (.vxCsub, 5, 0, 0x40003C00, 0x44004200, 0, 0xC000C000), (.vxCmul, 5, 0, 0x40003C00, 0x44004200, 0, 0x4900C500),
      (.vxCmac, 5, 0, 0x40003C00, 0x44004200, 0x3C003C00, 0x4980C400), (.vxCmulj, 5, 0, 0x40003C00, 0x44004200, 0, 0x40004980), (.vxCabs2, 5, 0, 0x40003C00, 0, 0, 0x00004500),
      (.vxCmul, 6, 0, 0x07FF0002, 0x00030000, 0, 0x0006F800), (.vxCabs2, 6, 0, 0x07FF0002, 0, 0, 0x000007FF), (.vxCadd, 7, 0, 0x3F800000, 0x40000000, 0, 0x40400000)] = true := by
  decide +kernel

/-- R190, R192: a conversion down keeps the other groups of D, one up takes group PART. -/
theorem test_vx_convert :
    let v (l : List Lanes) (d : Lanes) : State := (vregs l base).upd (fun c => { c with vx := { c.vx with v := c.vx.v.setIfInBounds 9 d } })
    lane (result (.vxCvt (vx 0 9 1 0 0 0x60 1)) (v [lanes0 0x43160000 0] (lanes0 0x11223344 0))) 0 = 0x11227F44 ∧
    lane (result (.vxCvt (vx 0 9 1 0 0 0x06 2)) (v [lanes0 0x11FE3344 0] (lanes0 0 0))) 0 = 0xC0000000 ∧
    lane (result (.vxCvt (vx 0 9 1 0 0 0x10 0)) (v [lanes0 0x3F800000 0] (lanes0 0x11223344 0))) 0 = 0x11223C00 ∧
    lane (result (.vxQnt (vx 0 9 1 2 0 0x60 3)) (v [lanes0 0x40400000 0, lanes0 0x40000000 0] (lanes0 0x11223344 0))) 0 = 0x06223344 := by decide +kernel

/-- R193, R194, R195, R196, R198: moves, selections, shuffles, rotations; the scratchpad forms. -/
theorem test_vx_moves :
    let s := vregs [lanesOf (fun l => BitVec.ofNat 32 (l + 100)), lanes0 63 1, lanes0 7 7] ((armed []).setMask 3 5)
    let r (i : Instr) : W32 × W32 := (lane (result i s) 0, lane (result i s) 1)
    r (.vxMov (vx 3 9 1 0 0 0 0)) = (100, 101) ∧ r (.vxSel (vx 3 9 1 2 0 3 0)) = (100, 1) ∧ r (.vxShuf (vx 3 9 1 2 0 0 0)) = (163, 101) ∧
    r (.vxShuf (vx 3 9 1 2 3 1 0)) = (163, 101) ∧ r (.vxLrot (vx 3 9 1 0 0 0 1)) = (163, 100) ∧ r (.vxLrot (vx 3 9 1 0 0 1 1)) = (0, 100) ∧
    r (.vxMopTov (vx 3 9 3 0 0 8 0)) = (1, 0) ∧ lane (result (.vxMovLds (vx 3 9 0 0 0 1 0x100)) (spad 0x104 [7, 1] s)) 1 = 0x107 ∧
    (ran (.vxMovSts (vx 3 0 1 0 0 2 0x100)) s).loadLE (spadPa 0 0x100) 8 = 0x6500000064 := by decide +kernel

/-- R180, R185, R196 to R198: what takes effect in the issue slot. -/
theorem test_vx_slot_effects :
    let s := vregs [lanesOf (fun l => BitVec.ofNat 32 l), lanes0 5 1] (((armed []).setMask 1 0x0F).setMask 2 0x3C)
    let m (i : Instr) (n : Nat) : W64 := (ran i s).maskReg n
    m (.vxIcmp (vx 3 6 1 2 0 2 0)) 6 = 1 ∧ m (.vxFcmp (vx 0 6 1 1 0 0 0)) 6 = BitVec.allOnes 64 ∧ m (.vxMopAnd (vx 3 6 1 2 0 0 0)) 6 = 0x0C ∧
    m (.vxMopOr (vx 3 6 1 2 0 1 0)) 6 = 0x3F ∧ m (.vxMopXor (vx 3 6 1 2 0 2 0)) 6 = 0x33 ∧ m (.vxMopAndn (vx 3 6 1 2 0 3 0)) 6 = 0x03 ∧
    m (.vxMopNot (vx 3 6 1 0 0 4 0)) 6 = 0xFFFFFFFFFFFFFFF0 ∧ m (.vxMopSet (vx 3 6 0 0 0 5 0)) 6 = BitVec.allOnes 64 ∧ m (.vxMopClr (vx 3 1 0 0 0 6 0)) 1 = 0 ∧
    m (.vxMopFromv (vx 3 6 1 0 0 7 0)) 6 = 0xFFFFFFFFFFFFFFFE ∧ m (.vxMopClr (vx 3 1 0 0 0 6 0)) 2 = 0x3C := by decide +kernel

theorem test_vx_registers :
    let s := vregs [lanesOf (fun l => BitVec.ofNat 32 (l + 9))] (armed [])
    (ran (.vxKset (vx 3 7 0 0 0 0 0x55)) s).core.vx.k.toList.getD 7 0 = 0x55 ∧ (ran (.vxKsetLane (vx 3 7 1 0 0 1 63)) s).core.vx.k.toList.getD 7 0 = 72 ∧
    (ran (.vxQcfg (vx 3 71 0 0 0 0 0x21)) s).opQ 7 = ⟨1, 2, []⟩ ∧ lane (ran (.vxLfsrSeedi (vx 3 0 0 0 0 1 5)) s).core.vx.lfsr 63 = 68 ∧
    lane (ran (.vxLfsrSeedv (vx 3 0 1 0 0 0 0)) s).core.vx.lfsr 63 = 72 ∧ lane (ran (.vxLfsrStep (vx 3 0 0 0 0 3 0)) s).core.vx.lfsr 0 = lfsrStep (lane s.core.vx.lfsr 0) ∧
    result (.vxLfsrRead (vx 3 9 0 0 0 2 0)) s = s.core.vx.lfsr := by decide +kernel

/-- R199 to R202. -/
theorem test_vx_reductions :
    let f := vregs [lanesOf (fun l => if l < 2 then 0x40400000 else if l = 2 then 0xC1000000 else 0)] ((armed []).setMask 3 0x24)
    let z := vregs [lanesOf (fun l => BitVec.ofNat 32 (l + 5))] (armed [])
    let p (t : BitVec 4) (q : BitVec 8) (fn : BitVec 8) : VxArgs := { vx t 9 1 0 0 fn 0 with prof := q }
    let r (i : Instr) (s : State) (l : Nat) : W32 := lane (result i s) l
    r (.vxRsum (p 0 0x0B 0)) f 7 = 0xC0000000 ∧ r (.vxRsum (p 0 4 0)) f 7 = 0xC0000000 ∧ r (.vxRmax (p 0 0 0)) f 63 = 0x40400000 ∧ r (.vxRmin (p 0 0 0)) f 0 = 0xC1000000 ∧
    r (.vxRamax (p 0 0 0)) f 0 = 0x41000000 ∧ r (.vxPsum (p 3 0 0)) z 2 = 18 ∧ r (.vxRmax (p 3 0 0)) z 0 = 68 ∧
    r (.vxFirst (vx 3 9 3 0 0 2 0)) f 3 = 2 ∧ r (.vxFirst (vx 3 9 3 0 0 2 0)) f 4 = 1 ∧ r (.vxFirst (vx 3 9 3 0 0 2 0)) f 8 = 4 := by decide +kernel

/-- An instruction of VX issues from its queue (Boolean reading of VxIssues). -/
noncomputable def issuesB (i : Instr) (srcs : List Nat) (d : BitVec 7) (s : State) : Bool :=
  let t := queued i s
  (t.ready .vx).isSome && decide (t.vxSlot.vxQueues srcs (dstQueue d.toNat) = .ok)

/-- R181, R183: an instruction on registers issues, one that pops q3 and pushes q4 too; an active and an inactive lane. -/
theorem witness_VxFloatResult :
    let a := { vx 0 9 1 2 3 0 0 with msel := 3 }
    let b := vx 0 68 67 2 0 0 0
    let s := (((vregs [lanes0 0x3F800000 0] base).setMask 3 1).updQ 3 (fun _ => ⟨1, 2, [lanes0 0x40000000 0]⟩)).updQ 4 (fun _ => ⟨2, 5, []⟩)
    Eng.vx.num = 2 ∧ issuesB (.vxFma a) (srcs3 a) 9 s = true ∧ issuesB (.vxFadd b) (srcs2 b) 68 s = true ∧ issuesB (.vxFabs b) (srcs1 b) 68 s = true ∧
    (queued (.vxFadd a) s).vxSlot.active a 0 = true ∧ (queued (.vxFadd a) s).vxSlot.active a 1 = false ∧
    ((ran (.vxFadd b) s).opQ 3).ents = [] ∧ (ran (.vxFadd b) s).core.vx.pend.map (fun p => (p.dst, p.y, p.left, lane p.val 0)) = [(.q 4, some 2, 3, 0x40000000)] := by
  decide +kernel

theorem witness_VxIntegerResult :
    let a := vx 3 9 1 2 3 3 0
    issuesB (.vxImad a) (srcs3 a) 9 base = true ∧ issuesB (.vxAnd a) (srcs2 a) 9 base = true ∧ (queued (.vxImad a) base).vxSlot.active a 63 = true ∧
    vxElems 3 = 1 ∧ vxElems 4 = 2 := by decide +kernel

theorem witness_VxComplexResult :
    let a := vx 5 9 1 2 3 0 0
    let p := vx 7 9 1 2 3 0 0
    issuesB (.vxCmac a) (srcs3 a) 9 base = true ∧ vxElems 5 = 2 ∧ issuesB (.vxCabs2 p) (srcs1 p) 9 base = true ∧
    lane (result (.vxCmul p) (vregs [lanesOf (fun l => if l % 2 = 0 then 0x3F800000 else 0x40000000), lanesOf (fun l => if l % 2 = 0 then 0x40400000 else 0x40800000)] base)) 63
      = 0x41200000 := by decide +kernel

/-- R191 to R198: every PART in range for formats of 4, 2 and 1 elements, both FN forms, the scratchpad of LDS and STS clean. -/
theorem witness_VxMoveResult :
    let a := vx 0 9 1 2 3 0x61 1
    let u := vx 0 9 1 2 3 0x16 1
    let l := vx 3 9 1 0 0 1 0x3FFF00
    Machine.cvtElems 6 = 4 ∧ Machine.cvtElems 1 = 2 ∧ issuesB (.vxCvt a) (srcs1 a) 9 base = true ∧ issuesB (.vxCvt u) (srcs1 u) 9 base = true ∧
    issuesB (.vxShuf { a with fn := 1 }) (srcs3 a) 9 base = true ∧ issuesB (.vxMopTov a) [] 9 base = true ∧
    (queued (.vxMovLds l) base).vxSlot.vxSpad l = .ok ∧ (queued (.vxMovLds l) base).poisonUnits (spadPa 0 0x3FFF00) 256 = [] ∧
    issuesB (.vxMovSts l) (srcs1 l) 0 base = true := by decide +kernel

/-- R178 to R180: a queue configured where nothing is pending to it; an empty slot with a result that comes nearer, that is
written under its mask, that is pushed. -/
theorem witness_VxSlotEffects :
    let p (d : VxTarget) (n : Nat) : VxPend := ⟨d, some 2, Vector.replicate 64 7, 1, false, n, 1⟩
    let s (d : VxTarget) (n : Nat) : State := ((vregs [] (armed [])).updQ 4 (fun _ => ⟨2, 5, []⟩)).upd (fun c => { c with vx := { c.vx with pend := [p d n] } })
    let t (d : VxTarget) (n : Nat) : State := after .vxResultVisible (s d n)
    issuesB (.vxQcfg (vx 3 71 0 0 0 0 0x21)) [] 0 (armed []) = true ∧ (armed []).vxSlot.pendingPushes 7 = 0 ∧ (s (.v 9) 1).emptySlot = true ∧
    (t (.v 9) 1).core.vx.pend = [p (.v 9) 0] ∧ (t (.v 9) 0).core.vx.pend = [] ∧
    (lane ((t (.v 9) 0).core.vx.v.toList.getD 9 zeroLanes) 0, lane ((t (.v 9) 0).core.vx.v.toList.getD 9 zeroLanes) 1) = (7, 0) ∧
    ((t (.q 4) 0).opQ 4).ents.map (fun v => (lane v 0, lane v 1)) = [(7, 0)] ∧ lane ((t (.q 4) 0).core.vx.y.toList.getD 2 zeroLanes) 0 = 7 := by decide +kernel

theorem witness_VxReductionResult :
    let a := { vx 0 9 1 0 0 0 0 with prof := 4, msel := 3 }
    issuesB (.vxRsum a) (srcs1 a) 9 base = true ∧ issuesB (.vxFirst { a with prof := 0 }) [] 9 base = true ∧
    issuesB (.vxRsum { a with prof := 0 }) (srcs1 a) 9 base = true := by decide +kernel

/-! ### MX and EP -/

/-- INT8 operands at 0 and at 0x100000 of the own scratchpad. -/
def opnd8 : OpndArgs := ⟨⟨0, 0, 0⟩, 0, 0, 0, 1, false, false, false, 0, 0, 0x100000, 0⟩
def accSet (drn : Bool) : AccArgs := ⟨⟨0, 0, 0⟩, drn, 0, 0, 0⟩
def go8 : GoArgs := ⟨⟨0, 0, 0⟩, ⟨0, 0, 0, 5⟩, 0, 0, 1⟩
def eparg (idx : BitVec 3) (h3 : H16) (p0 p1 p2 p3 : W32) (h12 : H16) : EpargArgs := ⟨⟨0, 0, 0⟩, idx, h3, p0, p1, p2, p3, h12⟩

/-- a(0,0) = 5, a(1,0) = −2, a(0,1) = 3, b(0,0) = 7, b(1,0) = −1. -/
def operands (s : State) : State := spad 0x100040 [0xFF] (spad 0x100000 [7] (spad 128 [3] (spad 0 [5, 0xFE] s)))

/-- An MX.GO that has started, and its tile begun. -/
noncomputable def mxStarted : State := ran (.mxGo go8) (ran (.mxAcc (accSet false)) (ran (.mxOpnd opnd8) (operands (armed []))) |> fun s =>
  s.updEng .mx (fun x => { x with q := [] }))
noncomputable def tiled : State := after .mxTileBegin mxStarted

noncomputable def readyB (e : Eng) (i : Instr) (s : State) : Bool := someAnd ((queued i s).ready e) (fun x => !x.stamped e)

/-- R208 to R210, R217: the set-up instructions, each ready with every earlier MX.GO done. -/
theorem witness_MatrixSetup_1 :
    let n : NestArgs := ⟨⟨0, 0, 0⟩, 5, 9, 1, 2, 3, 4⟩
    let s := armed []
    let d (i : Instr) (k : Nat) : Desc := (ran i s).core.mx.descAt k
    readyB .mx (.mxNest n) s = true ∧ (ran (.mxNest n) s).core.mx.staging.toList.getD 5 ⟨0, 0, 0, 0, 0⟩ = ⟨9, 1, 2, 3, 4⟩ ∧
    (ran (.mxOpnd opnd8) s).core.mx.opnd.bbase = 0x100000 ∧ (ran (.mxAcc ⟨⟨0, 0, 0⟩, true, 2, 7, 8⟩) s).core.mx.acc = ⟨true, 2, 7, 8⟩ ∧
    someAnd ((queued (.mxNest n) s).ready .mx) (fun x => (queued (.mxNest n) s).gosDone x) = true ∧
    d (.mxEpargSp (eparg 2 0xB008 0x40 0x100 0 0 0)) 2 = .sp true 2 4 8 0x40 0x100 ∧ d (.mxEpargTg (eparg 3 4 1 2 3 4 0x17)) 3 = .tg 4 0x17 1 2 3 4 ∧
    d (.mxEpargQu (eparg 1 6 0 0 0 0 0)) 1 = .qu 6 ∧ lane ((ran (.mxEpargBc (eparg 7 0 0x55 0 0 0 0)) s).eReg 7) 63 = 0x55 := by decide +kernel

/-- R215 to R217: EPLD of one EP.END, EPARG.LD, ACCST of one accumulator into rows of 256 bytes. -/
theorem witness_MatrixSetup_2 :
    let s := spad 0x204 [1] (spad 0x200 [0, 0, 0, 0x10] (armed []))
    let p : EpldArgs := ⟨⟨0, 0, 0⟩, 5, 1, 0x200, 0, 0⟩
    let l := eparg 6 0 0x200 0 0 0 0
    epDefined 0x10000000 = true ∧ okAnd (s.wordPlaces 0 0x200 1) (fun r => r.all (cleanB s)) = true ∧
    (ran (.mxEpld p) s).core.mx.prog.toList.getD 5 0 = 0x10000000 ∧ okAnd (s.wordPlaces 0 0x200 64) (fun r => r.all (cleanB s)) = true ∧
    (lane ((ran (.mxEpargLd l) s).eReg 6) 0, lane ((ran (.mxEpargLd l) s).eReg 6) 1) = (0x10000000, 1) := by decide +kernel

/-- R211 to R213: an MX.GO that starts, one whose profile does not suit its operands. -/
theorem witness_MatrixCompute_1 :
    let s := ran (.mxOpnd opnd8) (operands (armed []))
    let s := s.updEng .mx (fun x => { x with q := [] })
    let bad : GoArgs := { go8 with long := ⟨0, 0, 0, 2⟩ }
    readyB .mx (.mxGo go8) s = true ∧ s.core.mx.arrayFree = true ∧ s.core.mx.accFree s.core.mx.na = true ∧
    someAnd ((queued (.mxGo go8) s).ready .mx) (fun x => (s.goCheck (s.goOf go8 x)).isNone && (s.goCheck (s.goOf bad x)).isSome) = true ∧
    (ran (.mxGo go8) s).core.mx.gos.map (fun g => (g.total, g.next)) = [(1, 0)] ∧ headPhase .mx (ran (.mxGo go8) s) = some .started ∧
    ((ran (.mxGo bad) s).eng .mx).held.isSome = true ∧ (ran (.mxGo bad) s).core.mx.gos = [] := by decide +kernel

/-- R212, R214: the tile of mxStarted; its products are 5·7 + 3·(−1) and −2·7. -/
theorem witness_MatrixCompute_2 :
    mxStarted.core.qstop = false ∧ mxStarted.core.scanned = false ∧ mxStarted.core.mx.accFree 0 = true ∧ mxCplx 0 = false ∧
    someAnd (mxStarted.core.mx.gos.find? (fun g => decide (g.next < g.total))) (fun g =>
      !(g.tileRuns g.next).any (fun r => mxStarted.sbHit r.1 r.2) && (mxStarted.ownRuns (g.tileRuns g.next)).all (cleanB mxStarted)) = true ∧
    tiled.core.mx.tiles.map (fun t => (t.idx, t.acc, t.nr, t.eps)) = [(0, 0, 128, 0)] ∧ tiled.core.mx.na = 1 := by decide +kernel

theorem test_tile_products :
    (accLane (tiled.core.mx.accAt 0).rows 0 0, accLane (tiled.core.mx.accAt 0).rows 1 0, accLane (tiled.core.mx.accAt 0).rows 2 0) = (32, 0xFFFFFFF2, 0) := by
  decide +kernel

/-- The tile of `tiled` in its drain, and a word of EP run at its row. -/
def oneTile (row : Nat) : State :=
  let t : Tile := ⟨1, 0, 0, 0, 0, 128, 3, some ⟨row, 3, Vector.replicate 8 zeroLanes, zeroLanes, 0, 0, false, 0⟩, false, 0⟩
  (armed []).upd (fun c => { c with mx := { c.mx with tiles := [t] } })

def eregs (l : List Lanes) (s : State) : State :=
  s.upd (fun c => { c with mx := { c.mx with e := (l.zipIdx).foldl (fun (v : Vector Lanes 8) x => v.setIfInBounds x.2 x.1) c.mx.e } })

/-- R218, R219, R228: a drain begins, one that a fault held begins again, the last row releases the tile and the MX.GO. -/
theorem witness_TileDrainRelease :
    let s := tiled
    let t := after .mxTileDrain s
    let held (b : Bool) (row : Nat) : State := t.upd (fun c => { c with mx := { c.mx with tiles := c.mx.tiles.map (fun x =>
      { x with held := b, drain := x.drain.map (fun d => { d with row := row, pushes := 2 }) }) } })
    s.core.mx.tiles.map (fun t => (t.drain.isNone, s.core.mx.releasable t)) = [(true, false)] ∧
    t.core.mx.tiles.map (fun t => t.drain.map (fun d => (d.row, d.pc))) = [some (0, 0)] ∧
    (after .mxTileDrain (held true 5)).core.mx.tiles.map (fun t => t.drain.map (fun d => (d.row, d.pushes, d.skip))) = [some (0, 0, 2)] ∧
    (held false 128).core.mx.tiles.map (·.nr) = [128] ∧ (held false 128).core.mx.gos.map (fun g => (g.seq, g.released + 1, g.total)) = [(3, 1, 1)] ∧
    (after .mxTileRelease (held false 128)).core.mx.tiles = [] ∧ headPhase .mx (after .mxTileRelease (held false 128)) = some .finished := by decide +kernel

/-- R221 to R224: arithmetic of both kinds, the functions, conversions, reductions, and where a word leaves the drain. -/
theorem witness_EpilogueArithmetic_1 :
    let s := eregs [lanes0 0x40000000 0, lanes0 0x40400000 0, lanes0 0x3F800000 0, lanes0 0x7FFFFFFF 0] (oneTile 0)
    let a (t sat row : Bool) : EpArgs := ⟨2, 0, 1, t, 0, false, sat, row⟩
    let r (i : Instr) : W32 := lane ((after i s).eReg 2) 0
    (oneTile 0).core.mx.draining.isSome = true ∧ r (.epAdd (a false false false)) = 0x40A00000 ∧ r (.epMul (a false false false)) = 0x40C00000 ∧
    r (.epFma (a false false false)) = 0x40E00000 ∧ r (.epMax (a false false false)) = 0x40400000 ∧ r (.epMin (a false false false)) = 0x40000000 ∧
    r (.epBias (a false false true)) = 0x40A00000 ∧ r (.epScale (a false false true)) = 0x40C00000 ∧
    r (.epAdd { a true true false with a := 3, b := 3 }) = 0x7FFFFFFF ∧ r (.epAdd { a true false false with a := 3, b := 3 }) = 0xFFFFFFFE ∧
    (after (.epAdd (a false false false)) s).core.mx.tiles.map (fun t => t.drain.map (fun d => (d.row, d.pc))) = [some (0, 4)] := by decide +kernel

theorem witness_EpilogueArithmetic_2 :
    let s := eregs [lanes0 0xC0000000 0, lanes0 0 0, lanes0 0x43160000 0x3F800000, lanes0 0x11223344 5] (oneTile 65)
    let v : EpActArgs := ⟨4, 1, 0, false⟩
    let r (i : Instr) : W32 := lane ((after i s).eReg 4) 0
    r (.epActRelu { v with a := 0 }) = 0 ∧ r (.epActSigm v) = 0x3F000000 ∧ r (.epActSilu v) = 0 ∧ r (.epActTanh v) = 0 ∧ r (.epActSoftp v) = 0x3F317218 ∧
    lane ((after (.epCvt ⟨3, 2, 6, 0, false, false, 1⟩) s).eReg 3) 0 = 0x11227F44 ∧
    lane ((after (.epRedSum 4 3 true) s).eReg 5) 1 = 0x1122347F ∧ lane ((after (.epRedMax 4 0 false) s).eReg 5) 1 = 0 ∧
    lane ((after (.epRedMin 4 0 false) s).eReg 5) 1 = 0xC0000000 ∧ (after .epEnd s).core.mx.tiles.map (fun t => t.drain.map (fun d => (d.row, d.pc))) = [some (66, 3)] ∧
    (after (.epSkip 1 4) s).core.mx.tiles.map (fun t => t.drain.map (fun d => (d.row, d.pc))) = [some (65, 8)] ∧
    (after (.epSkip 2 59) s).core.mx.tiles.map (fun t => t.drain.map (fun d => (d.row, d.pc))) = [some (65, 63)] := by decide +kernel

theorem test_ep_pack_and_lda :
    let s := eregs [lanesOf (fun l => if l % 2 = 0 then 0x3F800000 else 0x40000000)] (oneTile 1)
    let t := (oneTile 1).upd (fun c => { c with mx := { c.mx with accs := tiled.core.mx.accs } })
    lane ((after (.epPack ⟨1, 0, false, true, 0, false⟩) s).eReg 1) 32 = 0x40003C00 ∧ lane ((after (.epPack ⟨1, 0, false, true, 0, false⟩) s).eReg 1) 31 = 0 ∧
    lane ((after (.epLda 4 false) t).eReg 4) 0 = 0xFFFFFFF2 := by decide +kernel

/-- A tile at row 5 of its drain, with descriptors 0 to 2: SP on bytes, TG on tensor 2, QU on queue 2. -/
def storing (d0 d1 d2 : Desc) (s : State) : State :=
  let t : Tile := ⟨1, 0, 0, 0, 0, 128, 3, some ⟨0, 3, Vector.replicate 8 zeroLanes, zeroLanes, 0, 0, false, 0⟩, false, 0⟩
  (eregs [lanesOf (fun l => BitVec.ofNat 32 (l + 1))] s).upd (fun c => { c with mx := { c.mx with tiles := [t], desc := #v[d0, d1, d2, d2] } })

/-- R225, R226: a store of bytes, one beyond the scratchpad, coordinates inside and beyond the extents, a queue with room, a
full one, a push that was made before. -/
theorem witness_EpilogueStores_1 :
    let s := storing (.sp false 2 1 8 0x100 0) (.sp false 4 1 4 0x400000 0) (.tg 4 2 2 1 0 0) (tensor [9, 9])
    s.core.mx.draining.isSome = true ∧ okAnd (s.spanPlace .engine 0 0x100 8) (fun p => p == .here (here 0x100)) = true ∧ s.poisonUnits (spadPa 0 0x100) 8 = [] ∧
    (after (.epSt 0 0) s).loadLE (spadPa 0 0x100) 9 = 0x0004000300020001 ∧
    ((after (.epSt 0 1) s).eng .mx).held.map (fun h => (h.trap, h.seq)) = some (⟨.translation, 0x400000⟩, 1) ∧
    (after (.epSt 0 1) s).core.mx.tiles.map (·.held) = [true] ∧ (after (.epSt 0 1) s).core.qstop = true := by decide +kernel

theorem witness_EpilogueStores_2 :
    let s := storing .none .none (.tg 4 2 2 1 0 0) (tensor [9, 9])
    okAnd (s.descriptor (s.regime 0) (gaddr 2 0) 2) (fun t => t.e == 2 && t.ext.getD 0 0 == 4) = true ∧ okAnd (s.spanPlace .engine 2 12 2) (fun p => p == .here ⟨0x4C000C, .hbm, false, true, some 19, 0x200000000C⟩) = true ∧
    ((after (.epStg 0 2) s).loadLE 0x4C0000 8, (after (.epStg 0 2) s).loadLE 0x4C0008 8) = (0x0909, 0x0002000100000000) ∧
    (after (.epStg 0 2) s).loadLE 0x4C0010 8 = 0 := by decide +kernel

theorem witness_EpilogueStores_3 :
    let q (n : Nat) : State := (storing .none .none (.qu 2) (armed [])).updQ 2 (fun _ => ⟨3, 5, List.replicate n (lanes0 7 7)⟩)
    let skip : State := (q 0).upd (fun c => { c with mx := { c.mx with tiles := c.mx.tiles.map (fun t => { t with drain := t.drain.map (fun d => { d with skip := 1 }) }) } })
    let w : State := after (.epSt 0 2) (q 4)
    ((after (.epSt 0 2) (q 3)).opQ 2).ents.map (fun v => lane v 0) = [7, 7, 7, 1] ∧
    w.core.mx.tiles.map (fun t => t.drain.map (fun d => (d.pc, d.waits))) = [some (3, true)] ∧ ((after (.epSt 0 2) skip).opQ 2).ents = [] ∧
    (after (.epSt 0 2) skip).core.mx.tiles.map (fun t => t.drain.map (fun d => (d.pc, d.pushes))) = [some (4, 1)] := by decide +kernel

/-- R225: the word that waited pushes once its queue has room. -/
theorem test_queue_push_resume :
    let waiting (l : List Tile) : List Tile := l.map (fun t => { t with drain := t.drain.map (fun d => { d with waits := true }) })
    let q (n : Nat) : State := (storing .none .none (.qu 2) (armed [])).updQ 2 (fun _ => ⟨3, 5, List.replicate n (lanes0 7 7)⟩)
    let w : State := (q 3).upd (fun c => { c with mx := { c.mx with prog := c.mx.prog.setIfInBounds 3 (BitVec.ofNat 32 ((encodeEp (.epSt 0 2)).getD 0)), tiles := waiting c.mx.tiles } })
    ((after .epQueuePushResume w).opQ 2).ents.length = 4 ∧ (after .epQueuePushResume w).core.mx.tiles.map (fun t => t.drain.map (fun d => (d.pc, d.waits))) = [some (4, false)] := by
  decide +kernel

/-! ### SX and FR -/

/-- R231 to R234, R241: the instructions that only set something, ready and free of checks, and a misaligned offset. -/
theorem witness_ScanSetup :
    let l : Long := ⟨0, 0, 0, 0⟩
    let c : SxCfgArgs := ⟨⟨0, 0, 0⟩, l, 31, 255, 2, 4095, 63⟩
    let r : SxResetArgs := ⟨⟨0, 0, 0⟩, l, 0x3FFFE0, true⟩
    let k : SxCarryArgs := ⟨⟨0, 0, 0⟩, l, 5, 8, true, false⟩
    let f (o : W32) (b : Bool) : SxFadeqArgs := ⟨⟨0, 0, 0⟩, l, o, b⟩
    let s := (armed []).upd (fun c => { c with sx := { c.sx with fade := c.sx.fade.setIfInBounds 1 0x1234 } })
    readyB .sx (.sxCfg c) s = true ∧ someAnd ((queued (.sxCfg c) s).ready .sx) (queued (.sxCfg c) s).sxFree = true ∧
    (geoOf (ran (.sxCfg c) s).core.sx.cfg).nv = 4096 ∧ (geoOf (ran (.sxCfg c) s).core.sx.cfg).l = 256 ∧ (geoOf (ran (.sxReset r) s).core.sx.cfg).mbase = some 0x3FFFE0 ∧
    carryMask (ran (.sxCarry k) s).core.sx.staged = 5 ∧ carryOff (ran (.sxCarry k) s).core.sx.staged = 8 ∧
    (ran (.sxFadeq (f 0x3FFF80 true)) s).loadLE (spadPa 0 0x3FFF82) 2 = 0x1234 ∧ (ran (.sxFadeq (f 0x3FFF80 true)) s).core.sx.fade.toList.getD 1 7 = 0 ∧
    ((ran (.sxFadeq (f 3 false)) s).eng .sx).held.map (fun h => h.trap) = some ⟨.align, 3⟩ ∧
    ((ran (.sxReset { r with moff := 4 }) s).eng .sx).held.map (fun h => h.trap) = some ⟨.align, 4⟩ ∧
    ((ran (.sxCarry { k with coff := 2 }) s).eng .sx).held.map (fun h => h.trap) = some ⟨.align, 2⟩ := by decide +kernel

/-- A scan of two steps of one component in DIAG: x = 1, 2 at 0x100, A = 3, 4 at 0x200, the results at 0x300. -/
def scanArgs : SxScanArgs := ⟨⟨0, 0, 0⟩, ⟨0, 0, 0, 6⟩, 0x100, 0x200, 0x300, 0, false, false⟩
def fp (l : List W32) : List Byte := (l.map (fun w => leBytes 4 w.toNat)).flatten
noncomputable def scanning (steps : Byte) : State :=
  let s := spad 0x200 (fp [0x40400000, 0x40800000]) (spad 0x100 (fp [0x3F800000, 0x40000000]) (armed []))
  (ran (.sxCfg ⟨⟨0, 0, 0⟩, ⟨0, 0, 0, 0⟩, 0, steps, 0, 0, 0⟩) s).updEng .sx (fun x => { x with q := [] })

/-- R236 to R240: a scan that starts, one with a misaligned base, the results h[0] = x[0] and h[1] = 4 · h[0] + x[1]. -/
theorem witness_ScanResult :
    let s := scanning 1
    let t := ran (.sxScan scanArgs) s
    let one := after .sxScanComplete (ran (.sxScan scanArgs) (scanning 0))
    let u := after .sxScanComplete t
    readyB .sx (.sxScan scanArgs) s = true ∧ s.scanCheck (s.scanSet false scanArgs 0) = none ∧ (s.scanCheck (s.scanSet false { scanArgs with x := 2 } 0)).isSome = true ∧
    headPhase .sx t = some .started ∧ (t.scanSet false scanArgs 0).ranges.all (fun r => !t.sbHit r.1 r.2 && (t.poisonUnits (spadPa 0 r.1) r.2).isEmpty) = true ∧
    headPhase .sx u = some .finished ∧ u.loadLE (spadPa 0 0x300) 8 = 0x40C000003F800000 ∧ one.loadLE (spadPa 0 0x300) 8 = 0x3F800000 ∧
    ((ran (.sxScan { scanArgs with x := 2 }) s).eng .sx).held.isSome = true := by decide +kernel

/-- R237: SX.CONTR in DIAG: y = c · h. -/
theorem test_contraction :
    let a : SxScanArgs := { scanArgs with p2 := 0x400, p3 := 0x500 }
    (after .sxScanComplete (ran (.sxContr a) (spad 0x400 (fp [0x40A00000]) (scanning 0)))).loadLE (spadPa 0 0x500) 4 = 0x40A00000 := by decide +kernel

/-- Tensor 2 as a FRAME tensor that holds a session table of two sessions: session 0 of one block, its home at byte 0x10000 of the
tensor, session 1 free; two slots of one block at 0x8000 (R242, R247). -/
def framed : State :=
  let s := (((armed []).store8 0x480080 0x481000).store8 0x480088 0x12030000).store8 0x480090 0x40000
  let s := (((s.store8 0x4C0000 0x200000002).store8 0x4C0080 0x8000000100000005).store8 0x4C0088 0x2000010000).store8 0x4D0000 0x1122
  s.upd (fun c => { c with fr := ⟨Vector.replicate 32 .empty, 0x8000, 2, 1, none, []⟩ })

def frArgs (sess p1 p2 : W32) (slot : BitVec 5) : FrArgs := ⟨⟨0, 0, 0⟩, ⟨0, 0, 0, 0⟩, sess, p1, p2, 2, 0, 2, false, false, false, slot, 0, 1⟩

/-- Slot 0 resident with session 0. -/
def resident (pins : Nat) : State := framed.upd (fun c => { c with fr := c.fr.updSlot 0 (fun x => { x with st := .resident, sess := 0, tid := 2, pins := pins }) })

/-- R244 to R248: FR.IN starts, an occupied slot answers RES 2, a slot number beyond N is refused. -/
theorem witness_FrameMoves_1 :
    let a := frArgs 0 0 0 0
    let t := ran (.frIn a) framed
    startsB .fr (queued (.frIn a) framed) = true ∧ framed.frCheck 2 a = none ∧ okAnd (framed.frRes 2 a) (· == 0) = true ∧ framed.frHeld 2 a = false ∧
    (t.frSlot 0).st = .loading ∧ (t.eng .fr).q.map (fun y => (y.phase, y.prog)) = [(.started, 1)] ∧
    ((ran (.frIn a) (resident 0)).frSlot 0).res = 2 ∧ headPhase .fr (ran (.frIn a) (resident 0)) = some .finished ∧
    ((ran (.frIn (frArgs 0 0 0 2)) framed).eng .fr).held.map (fun h => h.trap) = some ⟨.illegalInstruction, 1⟩ := by decide +kernel

/-- R247: a pinned slot, with and without NOWAIT, and its release. -/
theorem witness_FrameMoves_2 :
    let a := frArgs 0 0 0 0
    let w := ran (.frOut a) (resident 1)
    let r := w.upd (fun c => { c with fr := c.fr.updSlot 0 (fun x => { x with pins := 0 }) })
    (resident 1).frCheck 3 a = none ∧ frWaitsPin 3 = true ∧ w.core.fr = (resident 1).core.fr ∧ headPhase .fr w = some .started ∧
    ((ran (.frOut { a with nowait := true }) (resident 1)).frSlot 0).res = 1 ∧ someAnd r.frStarted (fun x => x.prog == 0) = true ∧
    ((after .frPinReleaseProceed r).frSlot 0).st = .writing := by decide +kernel

/-- R247, R251: FR.SLOTS, FR.STAT of an empty and of a resident slot. -/
theorem witness_FrameMoves_3 :
    let a : FrArgs := { frArgs 0 0 0x40000 0 with szm1 := 2, nm1 := 3 }
    let b := frArgs 0 0 0x100 0
    framed.frCheck 1 a = none ∧ (ran (.frSlots a) framed).core.fr = ⟨Vector.replicate 32 .empty, 0x40000, 4, 3, none, []⟩ ∧
    framed.frCheck 9 b = none ∧ (ran (.frStat b) framed).loadLE (spadPa 0 0x100) 8 = 0x10000 ∧
    (ran (.frStat b) (resident 3)).loadLE (spadPa 0 0x100) 4 = 0x10302 ∧ (ran (.frStat b) (resident 3)).loadLE (spadPa 0 0x108) 8 = 5 := by decide +kernel

/-- FR.IN of session 0 under way, its slot loading (R248): the first block of the home is moved into the slot. -/
theorem witness_FrameMoves_4 :
    let a := frArgs 0 0 0 0
    let s := (queued (.frIn a) framed).updEng .fr (fun x => { x with q := x.q.map (fun y => { y with phase := .started, prog := 1 }) })
    let t := s.upd (fun c => { c with fr := c.fr.updSlot 0 (fun x => { x with st := .loading }) })
    someAnd t.frStarted (fun x => x.prog != 0 && decide (FrArgs.ofImage x.img = a)) = true ∧ t.core.fr.fails = [] ∧ t.frSrcHeld 2 a = false ∧
    ((after .frTransferComplete t).frSlot 0).st = .resident := by decide +kernel

/-! ### CP, collectives, the ring -/

/-- The image of CP: four pairs, h12 to h15. -/
def cp (p0 p1 p2 p3 : W32) (h12 h13 h14 h15 : H16) : CpArgs := ⟨⟨0, 0, 0⟩, ⟨0, 0, 0, 0⟩, p0, p1, p2, p3, h12, h13, h14, h15⟩

/-- Sixteen bytes from 0x100 of the own scratchpad to byte 0x200 of tensor 2 on channel 3. -/
def copyArgs : CpArgs := cp 0x100 0x200 16 0 0 2 1 3
noncomputable def copying : State := ran (.cpCopy copyArgs) (spad 0x100 [1, 2, 3] (counter [] []))

/-- R253 to R255, R257, R259: what starts at once, and a misaligned barrier. -/
theorem witness_TransferStart_1 :
    let s := armed []
    let y := cpXfer copyArgs ⟨Image.of [], 1, false, false, .queued, 0, none⟩ 0 .copy
    let sig (o : W32) : CpArgs := cp o 0 0 0 0 0 0 3
    readyB .cp (.cpCopy copyArgs) s = true ∧ s.core.cp.xfers = [] ∧ s.roomFor y.ch y.recvs = true ∧ s.ci12pAt y.stid y.soff = none ∧
    copying.core.cp.xfers.map (fun z => (z.id, z.ch, z.kind, z.units, z.begun)) = [(s.nextXfer, 3, .copy, 1, true)] ∧ headPhase .cp copying = some .started ∧
    (ran (.cpFill (cp 7 0x200 16 0 0 0 1 3)) s).core.cp.xfers.map (fun z => (z.kind, z.pattern)) = [(.fill, 7)] ∧
    headPhase .cp (ran (.cpDrain (cp 0 0 0 0 0 0 8 0)) s) = some .started ∧ okAnd (s.place .engine 0x1000 64) (fun _ => true) = true ∧
    headPhase .cp (ran (.cpSig (sig 0x1000)) s) = some .started ∧ ((ran (.cpSig (sig 0x1020)) s).eng .cp).held.map (fun h => h.trap) = some ⟨.align, 0x1020⟩ ∧
    (ran (.cpStage (cp 0 0 0 0 0 0 0 0)) s).core.cp.stage = s.core.cp.stage + 1 := by decide +kernel

/-- R258: a multicast to cores 0 and 1 of the partition, its barrier at 0x1000 of tensor 2. -/
theorem witness_TransferStart_2 :
    let a := cp 0x100 0x200 64 0x1000 0 2 3 3
    (counter [] []).ncore 0 = 2 ∧ (cpXfer a ⟨Image.of [], 1, false, false, .queued, 0, none⟩ 0 .mcast).recvs.map (fun r => (r.tid, r.off)) = [(0xE00, 0x200), (0xE01, 0x200)] ∧
    (ran (.cpMcast a) (counter [] [])).core.cp.xfers.map (fun z => (z.recvs.length, z.bar)) = [(2, 0x2000001000)] := by decide +kernel

/-- R256: a unit that passes its check, one that fails, its resend, one that has failed six times. -/
theorem witness_TransferUnits :
    let s := copying
    let id := (armed []).nextXfer
    let v := after (.unitVerify id 0 0 true) s
    let far : State := { s with cur := 12 }
    let f := after (.unitVerify id 0 0 false) far
    let many : State := far.upd (fun c => { c with cp := { c.cp with xfers := c.cp.xfers.map (fun x => { x with recvs := x.recvs.map (fun r => { r with fails := [0, 0, 0, 0, 0, 0] }) }) } })
    someAnd (s.xferAt id) (fun x => x.1 == 0 && s.issues x.2 && someAnd (x.2.recvs[0]?) (fun r => s.recvOpen r && r.mayRun 1 0 && !r.wantsResend 0 && 
      s.canAck x.2 && okAnd (s.srcPlaces x.2 0) (fun l => l.all (cleanB s) && !s.srcHeld x.2 l && okAnd (s.runPlaces r.tid (x.2.dstRuns r 0)) (fun d => d.all (cleanB s) && !s.mxHolds d &&
        s.noLink l d && !far.noLink l d)))) = true ∧
    (after (.unitVerify id 0 0 false) s).core.cp = s.core.cp ∧
    v.loadLE 0x4C0200 16 = 0x030201 ∧ v.core.cp.xfers.map (fun x => x.recvs.map (fun r => (r.ok, r.acked))) = [[([0], true)]] ∧
    f.core.cp.xfers.map (fun x => x.recvs.map (fun r => (r.fails, r.dead, r.wantsResend 0))) = [[([0], false, true)]] ∧
    (after (.unitResend id 0 0) f).core.cp.xfers.map (fun x => x.recvs.map (fun r => (r.fails, r.wantsResend 0))) = [[([0, 0], false)]] ∧
    someAnd (many.core.cp.xfers.head?.bind (fun x => x.recvs.head?)) (fun r => decide (6 ≤ (r.fails.filter (· == 0)).length) && !r.wantsResend 0 &&
      r.mayRun 1 0 && !r.dead) = true := by decide +kernel

/-- R254, R257, R259: a transfer that has ended, and what waits for it. -/
theorem witness_TransferStart_3 :
    let id := (armed []).nextXfer
    let v := after (.unitVerify id 0 0 true) (queued (.cpSig (cp 0x1000 0 0 0 0 0 0 3)) (queued (.cpDrain (cp 0 0 0 0 0 0 8 0)) copying))
    let w := after (.cpSig (cp 0x1000 0 0 0 0 0 0 3)) (after (.cpDrain (cp 0 0 0 0 0 0 8 0)) v)
    let t := after (.transferComplete id) w
    someAnd (v.xferAt id) (fun x => x.1 == 0 && x.2.ended) = true ∧ w.drained 8 2 = false ∧ (w.eng .cp).q.map (·.phase) = [.started, .started, .started] ∧
    t.core.cp.xfers = [] ∧ t.drained 8 2 = true ∧ ((t.waitingCp 4).map (·.seq), (t.waitingCp 6).map (·.seq)) = ([2], [3]) ∧
    ((after .cpDrainComplete t).eng .cp).q.map (·.phase) = [.finished, .finished, .started] ∧
    ((after .cpSigArrival t).eng .cp).q.map (·.phase) = [.finished, .started, .finished] := by decide +kernel

theorem test_stage_complete :
    headPhase .cp (after .cpStageComplete (ran (.cpStage (cp 0 0 0 0 0 0 0 0)) (armed []))) = some .finished ∧
    (after (.mcastSenderArrival 0) copying).core.cp.xfers.map (·.sentArr) = [false] := by decide +kernel

/-- R258: once every unit of a multicast to the own core has been sent the sender arrives at the barrier. -/
theorem test_multicast_arrival :
    let s := (counter [] []).putBytes 0x4C1000 [2, 0, 0, 0, 0, 0, 0, 0, 2]
    let id := s.nextXfer
    let v := after (.unitVerify id 0 0 true) (ran (.cpMcast (cp 0x100 0x200 64 0x1000 0 2 1 3)) s)
    let t := after (.mcastSenderArrival id) v
    v.core.cp.xfers.map (fun x => (x.sentArr, x.recvs.map (fun r => (r.dead, r.sentAll x.units, (v.recvRemote r).isNone)))) = [(false, [(false, true, true)])] ∧
    t.core.cp.xfers.map (·.sentArr) = [true] := by decide +kernel

/-- Package `pos` of a ring of two packages, both participants, CP's state otherwise as at first (R260, R393). -/
def ring (pos : Nat) : State :=
  (((armed []).setPf 0x400 (BitVec.ofNat 64 (0xC000000000000100 + pos))).setPf 0x20 0xFFFFFFFFFFFFFFFF |>.setPf 0x40 0x8000000000000000).updPort false (fun x => { x with up := true })

/-- CP.ALLRED of one FP32 element by addition under a profile, root 0, from 0x100 to 0x200 (R261). -/
def allred (prof : Byte) : CpArgs := { cp 0x100 0x200 1 3 0 0 0x77 0x0003 with long := ⟨0, 0, 0, prof⟩ }
noncomputable def sending (pos : Nat) (prof : Byte) : State := ran (.cpAllred (allred prof)) (spad 0x100 (fp [0x3F800000]) (ring pos))

/-- The contribution is in the port stop's buffer, and taken there. -/
noncomputable def atPort (pos : Nat) (prof : Byte) : State :=
  let s := sending pos prof
  { s with flits := s.flits.map (fun f => { f with st := .buffered }) }
noncomputable def reducing (pos : Nat) (prof : Byte) : State := after (.ringFlitArrival (armed []).nextFlit) (atPort pos prof)

/-- A message of that collective. -/
def collMsg (prof : Byte) (rank : Nat) (v : List W32) : CollMsg := ⟨0x77, 7, 0, 3, 1, 0, 0, prof, rank, v⟩

/-- R260, R261, R398: the start at rank 0 and at rank 1, the checks that fail. -/
theorem witness_CollectiveSteps_1 :
    let x : Entry := ⟨Image.of [], 1, false, false, .queued, 0, none⟩
    let y := collOf (allred 0xC) 7 x
    readyB .cp (.cpAllred (allred 0xC)) (ring 0) = true ∧ (ring 0).collCheck y = none ∧ (ring 0).core.cp.colls = [] ∧ (ring 0).collsInFlight < 8 ∧
    (ring 0).sbHit 0x100 4 = false ∧ (ring 0).poisonUnits (spadPa 0 0x100) 4 = [] ∧ (sbFree (ring 0).core 8).isSome = true ∧ (ring 0).collidUsed 0x77 = false ∧
    ((ring 0).rankIn y, (ring 1).rankIn y, y.np) = (0, 1, 2) ∧ (sending 0 0xC).flits.map (fun f => (f.msg, f.dst)) = [(.contrib 0x77, lorcyEast)] ∧
    (ran (.cpBcast { allred 0 with long := ⟨0, 0, 0, 0⟩ }) (ring 1)).flits = [] ∧ ((ran (.cpAllred { allred 0xC with p2 := 0 }) (ring 0)).eng .cp).held.map (fun h => h.trap) = some ⟨.illegalInstruction, 3⟩ ∧
    headPhase .cp (ran (.cpBcast { allred 0 with long := ⟨0, 0, 0, 0⟩ }) (ring 0)) = some .started := by decide +kernel

/-- R389, R398: the contribution that reaches its port stop: rank 0 sends the running value east, a package whose contribution goes
to the root sends that, one on the lap's way only keeps it; while the port is down it waits. -/
theorem witness_RingFlits_2 :
    let s := atPort 0 0xC
    let down := s.updPort false (fun x => { x with up := false })
    (s.flits.map (fun f => (f.st, f.msg)) = [(.buffered, .contrib 0x77)] ∧ s.boot.power ≠ .stopped) ∧ someAnd ((s.focus 0).coll 0x77) (fun y => y.np == 2 && !y.atRoot && !y.here) = true ∧
    s.eastOpen = true ∧ down.eastOpen = false ∧ (reducing 0 0xC).collTx = [collMsg 0xC 0 [0x3F800000]] ∧ (reducing 1 0xC).collTx = [] ∧
    (reducing 1 0xB).collTx = [collMsg 0xB 1 [0x3F800000]] ∧ (reducing 1 0xC).core.cp.colls.map (·.here) = [true] ∧ (reducing 1 0xC).flits = [] ∧
    (after (.ringFlitArrival (armed []).nextFlit) down).flits.map (·.st) = [.buffered] := by decide +kernel

theorem test_collective_kinds :
    (ran (.cpAllgath (allred 0)) (ring 0)).core.cp.colls.map (fun z => z.kind) = [8] ∧ (ran (.cpRedsc { allred 0xC with p2 := 2 }) (ring 0)).core.cp.colls.map (fun z => z.kind) = [9] := by
  decide +kernel

/-- R260, R262, R263: the last rank forms the sum and begins the lap, the lap writes it at rank 0 and ends there, a message that
disagrees, one for other packages, the contribution that reaches rank 0. -/
theorem witness_CollectiveSteps_2 :
    let s := reducing 1 0xC
    let t := after (.collectiveReduceStep (collMsg 0xC 0 [0x40000000])) s
    let w := after (.collectiveResultWrite (collMsg 0xC 2 [0x40400000])) (reducing 0 0xC)
    let r := after (.collectiveReduceStep (collMsg 0xB 1 [0x40000000])) (reducing 0 0xB)
    someAnd (s.coll 0x77) (fun x => x.agrees (collMsg 0xC 0 [0x40000000]) && !x.atRoot && x.got.isEmpty && x.wire.length == 1 && x.here &&
      decide (s.anyColl 0x77 = some x)) = true ∧ (3#16).toNat.testBit s.pos = true ∧ s.frozen = false ∧
    someAnd ((reducing 0 0xB).coll 0x77) (fun x => x.here && x.got.isEmpty && x.wire.length == 1) = true ∧
    t.collTx = [collMsg 0xC 2 [0x40400000]] ∧ (t.core.cp.colls.map (fun z => z.result)) = [some [0x40400000]] ∧
    someAnd ((reducing 0 0xC).coll 0x77) (fun x => (reducing 0 0xC).lapOk x (collMsg 0xC 2 [0x40400000])) = true ∧
    (reducing 0 0xC).poisonUnits (spadPa 0 0x200) 4 = [] ∧ w.loadLE (spadPa 0 0x200) 4 = 0x40400000 ∧ (w.core.cp.colls.map (fun z => z.written)) = [true] ∧
    (after (.collectiveComplete 0x77) w).core.cp.colls = [] ∧ headPhase .cp (after (.collectiveComplete 0x77) w) = some .finished ∧
    r.core.cp.colls.map (fun z => z.result) = [some [0x40400000]] := by decide +kernel

theorem witness_CollectiveSteps_3 :
    let s := reducing 1 0xC
    let other : CollMsg := { collMsg 0xC 0 [7] with pmask := 1 }
    let bad : CollMsg := { collMsg 0xC 0 [7] with count := 9 }
    let e : CollMsg := { collMsg 0xC 0 [] with rank := breakRank, vals := [0] }
    (other.pmask.toNat.testBit (ring 1).pos) = false ∧ ((ring 1).anyColl 0x77).isNone = true ∧ (after (.collectiveReduceStep other) (ring 1)).collTx = [other] ∧
    someAnd (s.anyColl 0x77) (fun x => x.agrees bad) = false ∧ (after (.collectiveReduceStep bad) s).core.cp.colls.map (fun z => z.written) = [true] ∧ s.cur < Config.cores ∧
    (after (.collectiveReduceStep bad) s).collTx = [{ collMsg 0xC 0 [] with rank := breakRank, vals := [1] }] ∧
    (after (.collectiveResultWrite e) s).core.cp.colls.map (fun z => z.written) = [true] ∧ (after (.collectiveReduceStep e) s).collTx = [e] ∧
    (after (.collectiveReduceStep { e with vals := [1] }) s).collTx = [] ∧
    (after (.collectiveReduceStep bad) (s.updPort false (fun x => { x with up := false }))).core.cp.colls.map (fun z => z.written) = [false] := by
  decide +kernel

/-! ### The ring -/

/-- A store of core 0 to the scratchpad of core 1, sent. -/
noncomputable def sent : State := after (.st 2 1 .w 0) (armed [0xE01000000100, 0x55])
noncomputable def launched : State := after (.ringFlitLaunch (armed []).nextFlit 0) sent
noncomputable def arrived : State := after (.ringFlitArrival (armed []).nextFlit) launched

/-- R387, R389 to R391: a waiting flit, its slot, its buffer. -/
theorem witness_RingExchange_1 :
    let id := (armed []).nextFlit
    someAnd (sent.flit id) (fun f => f.st == .waiting && sent.slotAllowed f 0 && sent.stillWanted f && !sent.slotAllowed f 152 && f.src == 0 && f.dst == 1) = true ∧
    (launched.flits.map (fun f => (f.st, f.slot)), launched.core.outst.isSome) = ([(.inSlot, 0)], true) ∧
    someAnd (launched.flit id) (fun f => launched.onReserved f || !launched.deflects f) = true ∧ arrived.flits.map (·.st) = [.buffered] := by decide +kernel

/-- R146, R355: the buffered access, applied at core 1 for its resident context, and its acceptance at core 0. -/
theorem witness_RingExchange_2 :
    let there (vf : Nat) : State := (arrived.focus 1).upd (fun c => { c with resident := some (BitVec.ofNat 9 vf), run := .running })
    let a := after .remoteAccessApply (there 1)
    (there 1).bufferedAccess.isSome = true ∧ (there 1).reach 1 1 = .applied ∧ a.loadLE (spadPa 1 0x100) 4 = 0x55 ∧
    a.flits.map (fun f => f.msg) = arrived.core.outst.toList.map (fun r => .reply r .accepted) ∧
    (after .remoteAccessApply (there 2)).flits.map (fun f => f.msg) = arrived.core.outst.toList.map (fun r => .reply r .refused) ∧
    (after .remoteAccessApply ((there 1).upd (fun c => { c with run := .halted }))).core.parked.length = 1 := by decide +kernel

/-- R347, R355: an access for a context that lies in a logical image is parked there, and PARKED in memory counts it. -/
theorem witness_RingExchange_5 :
    let s := (arrived.focus 1).upd (fun c => { c with resident := none, run := .idle })
    let g : SavedImage := ⟨9, false, 1, 0, 1, 1, 0x800000, s.core, [], [], [], [], [], [], [], true, true, false, false⟩
    let s := { s with images := [g] }
    let t := after .remoteAccessApply s
    s.boot.power ≠ .stopped ∧ s.bufferedAccess.isSome = true ∧ s.reach 1 1 = .inImage 9 ∧ t.images.map (fun i => i.parked.length) = [1] ∧
    (s.countParked 9).load8 0x800018 = 0x100000000 := by decide +kernel

/-- R146, R356: a load of core 1's scratchpad whose answer has come back: the value, a trap, a refusal. -/
theorem witness_RingExchange_3 :
    let s := after (.ringFlitLaunch (armed []).nextFlit 0) (after (.ld 3 1 .w 0) (armed [0xE01000000100, 0x55]))
    let with_ (a : Reply) : State := { s with flits := s.flits.map (fun f => match f.msg with
      | .access r => { f with msg := .reply r a, dst := 0, src := 1, st := .buffered }
      | _ => f) }
    someAnd (with_ (.value 7)).bufferedReply (fun x => decide (s.core.outst = some x.2.1) && ((with_ (.value 7)).imageAwaiting x.2.1).isNone &&
      (with_ (.value 7)).coreAwaiting x.2.1 == some 0) = true ∧ s.core.run = .running ∧ s.core.left = none ∧ s.runs = true ∧
    (match s.core.wait with
      | some (.reply _ _) => false
      | _ => true) = true ∧ (after .remoteReply (with_ (.value 7))).rd 3 = 7 ∧ pcOf .remoteReply (with_ (.value 7)) = 0x1000000004 ∧
    (fault1 (after .remoteReply (with_ (.trap ⟨.spPoison, 9⟩)))) = (7, 9, 0x1000000000) ∧ fault1 (after .remoteReply (with_ .refused)) = (17, 0xE01000000100, 0x1000000000) ∧
    (after .remoteReply (with_ (.value 7))).core.outst = none ∧
    (let x := after .remoteReply ((with_ .accepted).upd (fun c => { c with left := some ⟨0x40, .off, .off, false⟩ })); (x.core.left, x.core.pc, x.core.outst.isSome)) =
      (none, 0x1000000000, false) := by decide +kernel

/-- R27: the header of a multicast from core 0 reaches core 1, whose scoreboard has a free incoming entry; a header that finds
one buffered is answered by a NACK. -/
theorem witness_RingExchange_4 :
    let s := ran (.cpMcast (cp 0x100 0x200 64 0x1000 0 2 3 3)) (counter [] [])
    let x := (armed []).nextXfer
    let h : State := { s with flits := s.flits.map (fun f => { f with st := .buffered }) }
    let b : State := ((h.upd (fun c => { c with resident := some 1 })).focus 1).upd (fun c => { c with resident := some 1, run := .running })
    b.flits.map (fun f => (decide (f.msg = .header x 1), f.dst)) = [(true, 1)] ∧ (sbFree b.core 8).isSome = true ∧ b.reach 1 1 = .applied ∧
    ((after (.transferHeaderAccept x) b).core.sb.toList.filterMap id).map (fun e => e.start) = [0x200] ∧ (after (.transferHeaderAccept x) b).flits = [] ∧
    (s.flits.map (fun f => f.header)) = [true] := by decide +kernel

theorem test_nack :
    let s := ran (.cpMcast (cp 0x100 0x200 64 0x1000 0 2 3 3)) (counter [] [])
    let f : Flit := (s.flits.headD ⟨0, 0, 0, 0, 0, 0, 0, .waiting, .header 0 0⟩)
    let two : State := { s with flits := [{ f with st := .inSlot, slot := 0 }, { f with id := f.id + 1, st := .buffered }] }
    two.headerBusy { f with st := .inSlot, slot := 0 } = true ∧ ((after (.ringFlitArrival f.id) two).flits.map (·.st)) = [.buffered, .nacked] ∧
    ((after (.nackRelaunch f.id 0) (after (.ringFlitArrival f.id) two)).flits.map (·.st)) = [.buffered, .inSlot] := by decide +kernel

/-! ### Frames, records, gangs, the host -/

/-- Launch 1 as a DET launch of frame length 256. -/
def detState (next : Nat) : State :=
  { (armed []).upd (fun c => { c with run := .idle, work := none, resident := some 1 }) with launches := [{ live 1 with det := true, sflen := 256, nextIdx := next }] }

/-- A scan that is due at SFC 9 in a frame. -/
noncomputable def stamped : State :=
  let s := (scanning 1).upd (fun c => { c with det := true, sfc := 9 })
  queued (.sxScan { scanArgs with long := ⟨9, 0, 0, 6⟩ }) s

/-- R331 to R333: a due entry that starts, one whose token is missing, the launch start, the marker. -/
theorem witness_FramesAndStamps_1 :
    let late : State := stamped.upd (fun c => { c with qstop := true })
    (stamped.stampDue .sx).map (fun x => x.seq) = (stamped.ready .sx).map (fun x => x.seq) ∧ (stamped.stampDue .sx).isSome = true ∧
    headPhase .sx (after (.stampedEntryStart .sx) stamped) = some .started ∧ late.ready .sx = none ∧
    ((after (.stampedEntryStart .sx) late).eng .sx).held.map (fun h => (h.trap.cause, h.trap.val)) = some (.stampOverrun, 9) ∧
    (after (.stampedEntryStart .sx) late).core.ctr.stampOvr = late.core.ctr.stampOvr + 1 := by decide +kernel

theorem witness_FramesAndStamps_2 :
    let run (n : Nat) (sfc : W32) : State := (detState n).upd (fun c => { c with sfc := sfc, ev := false })
    ((detState 0).detLaunch 0).isSome = true ∧ (detState 0).markers = [] ∧ (after (.detLaunchStart 0) (detState 0)).markers = [0] ∧
    (run 1 208).emitAt { live 1 with sflen := 256 } = 208 ∧ (after (.frameMarkerEmit 0) (run 1 208)).markers = [0] ∧ (after (.frameMarkerEmit 0) (run 1 207)).markers = [] ∧
    ((run 1 208).setPf 0xE0 0x8000000000000000).emitAt { live 1 with sflen := 256 } = 232 ∧
    (after (.frameMarkerDelivery 0) { run 1 9 with markers := [0] }).core.sfc = 0 ∧ (after (.frameMarkerDelivery 0) { run 1 9 with markers := [0] }).core.ev = true ∧
    (after (.frameMarkerDelivery 0) { run 0 9 with markers := [0] }).core.run = .running ∧ (after (.frameMarkerDelivery 0) { run 0 9 with markers := [0] }).core.pc = 0x1000000000 := by decide +kernel

/-- Core 0 idle with two records queued: priority 1 and priority 2. -/
def tqueued : State :=
  let r (p : Nat) (d0 : W64) : TqEntry := ⟨0, p, ⟨d0, 0x10, 0x20, 0x30, 1, 1, p, 0x480000, false⟩, 0, none, none, p⟩
  { (armed [1, 2, 3]).upd (fun c => { c with run := .idle, work := none, resident := some 1, pl := 1, ev := false }) with tq := [r 1 0x1000, r 2 0x2000] }

/-- R309, R311: the record of priority 2 is chosen and begun. -/
theorem witness_RecordEntry_1 :
    let t := after .coreTakeRecord tqueued
    tqueued.free? = true ∧ tqueued.chosen.map (fun x => (x.prio, x.work.d0, x.img)) = some (2, 0x2000, none) ∧ tqueued.core.resident = some 1 ∧
    t.core.pc = 0x2000 ∧ (t.rd 1, t.rd 2, t.rd 3) = (0x10, 0x20, 3) ∧ t.core.levelBase = 0x30 ∧ t.core.pl = 0 ∧ t.core.ev = true ∧ t.tq.length = 1 ∧
    t.taken.length = 1 ∧ t.core.run = .running := by decide +kernel

/-- R319: a launch of three groups with room for two. -/
theorem witness_RecordEntry_2 :
    let l : Launch := { live 3 with begun := false, nextIdx := 0 }
    let s : State := { (armed []).setPf (vfReg 1 0x18) 2 with launches := [l] }
    let t := after (.launchBegin 1 1) s
    s.mayBegin l = true ∧ l.gangLevel = none ∧ s.tquota 1 - s.quotaUsed 1 = 2 ∧ t.tq.map (fun x => x.work.d0) = [0x1000000000, 0x1000000000] ∧
    (t.launchOf 1 1).map (fun l => (l.begun, l.nextIdx)) = some (true, 2) := by decide +kernel

/-- A gang of two in a domain of the partition's two cores. -/
def gang (st : GangSt) (n : Nat) : Gang := ⟨5, 0, 1, 1, 0, 2, 0, 1, some 0, st, n, [], [], false⟩
def ganged (g : Gang) (idle : Bool) : State :=
  { (armed []).upd (fun c => { c with run := if idle then .idle else .running }) with gangs := [g], launches := [live 2] }

/-- R322 to R324: attempt, grant, denial, the replies, release, back-off, hold. -/
theorem witness_GangReservation_1 :
    let r : Gang := { gang .reserving 0 with asked := [0] }
    let s := after (.gangAttempt 5) (ganged (gang .waiting 0) true)
    ((ganged (gang .waiting 0) true).deal (gang .waiting 0)).target = some 0 ∧ s.gangs.map (fun g => (g.st, g.asked.length)) = [(.reserving, 2)] ∧
    ((after (.reserve 5 0) (ganged r true)).core.reserved, (after (.reserve 5 0) (ganged r true)).gangs.map (fun g => (g.asked, g.grants))) = (some 5, [([], [0])]) ∧
    (after (.reserve 5 0) (ganged r false)).gangs.map (fun g => (g.asked, g.grants, g.denied)) = [([], [], true)] ∧
    (after (.gangReplies 5) (ganged { gang .reserving 0 with grants := [0, 1] } true)).gangs.map (·.st) = [.placed] ∧
    (after (.gangReplies 5) (ganged { gang .reserving 3 with denied := true } true)).gangs.map (fun g => (g.st, g.n)) = [(.backoff, 4)] ∧
    (after (.release 5 0) ((ganged { gang .backoff 1 with grants := [0] } true).upd (fun c => { c with reserved := some 5 }))).core.reserved = none ∧
    (after (.gangBackoffExpiry 5) (ganged (gang .backoff 1) true)).gangs.map (·.st) = [.reserving] ∧
    (after (.gangBackoffExpiry 5) (ganged (gang .backoff 4) true)).gangs.map (·.st) = [.holding] := by decide +kernel

theorem witness_GangReservation_2 :
    let h := after (.gangHoldComplete 5) (ganged (gang .holding 4) true)
    let e (g : Nat) : TqEntry := ⟨0, 0, ⟨0x1000000000, 0, 0, 0, 1, 1, 0, 0x480000, true⟩, 0, some g, none, g⟩
    let p : State := { ganged { gang .placed 0 with grants := [0, 1] } true with tq := [e 5, e 6] }
    let p : State := (p.upd (fun c => { c with reserved := some 5, resident := some 1 })).updAt 1 (fun c => { c with reserved := some 5, resident := some 1 })
    h.gangs.map (fun g => (g.st, g.grants)) = [(.placed, [0, 1])] ∧ h.core.reserved = some 5 ∧ (h.coreAt 1).reserved = some 5 ∧
    (p.launchOf 1 1).isSome = true ∧ p.gangReady { gang .placed 0 with grants := [0, 1] } = true ∧ p.settled 0 1 none = true ∧ p.settled 1 1 none = true ∧ (after (.commit 5) p).gangs = [] ∧ (after (.commit 5) p).tq = [e 6] ∧ (after (.commit 5) p).taken = [e 5] := by decide +kernel

/-- R326, R327, R376: the watchdog above and at its limit, a reset request with and without a soft stop, doorbells. -/
theorem witness_HostWork_1 :
    let w (n : W64) : State := ((grouped 1).setPf (partReg 0 0x10) 100).upd (fun c => { c with wdog := BitVec.ofNat _ n.toNat })
    let d : State := ((armed []).setPf (vfReg 1 0x20) 2).setPf (vfReg 1 0x88) (BitVec.ofNat 64 (3 * 2 ^ 59))
    (w 101).core.run = .running ∧ (after .watchdog (w 101)).core.run = .idle ∧ (after .watchdog (w 100)).core.run = .running ∧
    (armed []).tst.soft = false ∧ (after (.partitionResetRequest 0) (armed [9])).rd 1 = 0 ∧
    (after (.partitionResetRequest 0) { armed [9] with tst := { (armed []).tst with soft := true } }).pfBits (partReg 0 8) 1 1 = 1 ∧
    (after (.doorbell 1 1 8) d).doorbells = [(17, 8)] ∧ (after (.doorbell 1 1 9) d).doorbells = [] ∧ (after (.doorbell 1 2 1) d).doorbells = [] := by decide +kernel

/-! ### Submissions, saves, debug -/

/-- Queue 1 of VF 1, of eight entries at 0x10000 of host memory, whose entry 0 submits the record at 0x20000. -/
def submitting : State :=
  let s := (((armed []).setPf (vfReg 1 0) 1).setPf (vfReg 1 0x20) 2).setPf (vfReg 1 0x18) 0x100000008
  let s := s.setPf (vfReg 1 0x88) (BitVec.ofNat 64 (3 * 2 ^ 59 + 0x10000))
  let s : State := [(0x10000, (0x20000 : W64)), (0x20000, 0x1000000000), (0x20008, 0x100), (0x20010, 0x480000), (0x20040, 1)].foldl (fun (s : State) x => s.store8 (guestPa 1 x.1) x.2) s
  { s with doorbells := [(17, 1)] }

/-- R376: the entry at the head is read and its launch accepted as launch 1. -/
theorem witness_HostWork_2 :
    let t := after (.submissionQueueRead 1 1) submitting
    submitting.vfEn 1 = true ∧ submitting.vfStopping 1 = false ∧ submitting.vfStopped 1 = false ∧ 1 < submitting.pfBits (vfReg 1 0x20) 0 5 ∧
    submitting.live 1 < submitting.lquota 1 ∧ submitting.boot.power = .ready ∧ okAnd (submitting.submitted 1 1 0) (fun _ => true) = true ∧ submitting.subs = [] ∧
    t.launches.map (fun l => (l.lid, l.entry)) = [(1, 0x1000000000)] ∧ t.pfBits (vfReg 1 0x108) 0 32 = 1 := by decide +kernel

/-- R343, R346: a core whose engines have stopped may be saved. -/
theorem witness_SaveRestore_1 :
    let s := (spad 0x40 [7] (grouped 1)).upd (fun c => { c with run := .saving false false })
    s.core.quiesced = true ∧ s.core.landed = true ∧ s.core.part ∉ s.tst.donating ∧ s.spadCells s.cur = [(0x40, 7)] ∧ s.savedCore.work = s.core.work ∧
    (after .logicalSaveComplete (s.sbAlloc 0 9 ⟨0, 64, 3⟩)).core.run = .saving false false := by decide +kernel

/-- R348, R350: a request that is taken, one with a misaligned address; what the stream and the seal find. -/
theorem witness_SaveRestore_2 :
    let s := (grouped 1).upd (fun c => { c with s := c.s.setIfInBounds 5 77 })
    let t := after (.scanReqGo 0x800000) s
    let w : State := { t with images := t.images.map (fun g => { g with written := true }) }
    (s.scanRefusal 0x800000, s.scanRefusal 0x800001) = (0, 18) ∧ t.core.run = .scanStopped 1 ∧ t.core.dbg.busy = true ∧ t.rd 5 = 77 ∧ (after (.scanReqGo 0x800001) s).core.dbg.result = 18 ∧
    someAnd (t.scanImage 0) (fun g => !g.written && g.addr == 0x800000 && t.images == [g]) = true ∧
    someAnd (w.scanImage 0) (fun g => g.written && !g.sealed && g.core.s.toList.getD 5 0 == 77 && w.images == [g] && (g.header.getD 3 0).toNat / 2 ^ 32 == w.core.accepted.toNat) = true := by
  decide +kernel

/-- Core 0 idle, and memory at 0x800000 as a sealed scan image of it leaves it whose chain data are zeros and whose HASH is 1, 2, 3, 4;
s5 of the saved core is 77. -/
def scanned : State :=
  let s := (armed []).upd (fun c => { c with run := .idle, work := none, resident := none })
  let h : List W64 := [0x0001000100010102, 0, 0, 0, 0, 1, 0, 0]
  let g : SavedImage := ⟨9, true, 1, 0, 0, 0, 0x800000, { s.core with s := s.core.s.setIfInBounds 5 77 }, [], [], [], h, [1, 2, 3, 4], [], [], true, true, false, false⟩
  (h ++ g.hash).zipIdx.foldl (fun (t : State) x => t.store8 (0x800000 + 8 * x.2) x.1) { s with images := [g], archive := [g] }

/-- R352: a restore refused for want of an image, for a word of it that has changed, or while another is under way, one that is
taken, and its end. -/
theorem witness_SaveRestore_3 :
    let b : State := scanned.upd (fun c => { c with dbg := { c.dbg with busy := true, resImg := 0x800000 } })
    let t := after .scanRestoreComplete b
    scanned.restoreRefusal 0x900000 = 1 ∧ scanned.restoreRefusal 0x800000 = 0 ∧ scanned.core.dbg.busy = false ∧
    (after (.restoreReqGo 0x900000) scanned).core.dbg.result = 1 ∧ (after (.restoreReqGo 0x800000) scanned).core.dbg.busy = true ∧ (after (.restoreReqGo 0x800000) b).core.dbg.result = 17 ∧
    b.core.isIdle = true ∧ b.core.landed = true ∧ someAnd (b.scanSource 0x800000) (fun g => !g.core.det && g.parked.isEmpty) = true ∧ t.rd 5 = 77 ∧ t.core.dbg.busy = false := by decide +kernel

/-- R354, R357 to R360: gating, waking, halts, the debug data, the resume. -/
theorem witness_SaveRestore_4 :
    let q : State := (armed []).upd (fun c => { c with run := .idle, quiet := 65536 })
    let h := after .dbgHaltLogical (debugged [])
    let c : State := after .quiescent h
    let sel (v : W64) : State := c.upd (fun c => { c with dbg := { c.dbg with sel := v } })
    q.quietNow = true ∧ (after .powerGate q).core.run = .gated false ∧ (after .coreWake (after .powerGate q)).core.run = .idle ∧ (debugged []).haltable = true ∧
    (armed []).haltable = false ∧ h.core.run = .halted ∧ h.core.quiesced = true ∧ c.core.dbg.quiescent = true ∧ c.dbgLive = true ∧
    (after .dbgDataRead (after (.dbgDataWrite 9) (sel 0x1000000000000005))).hostRd = 9 ∧ (after (.dbgDataWrite 9) (sel 0x1000000000000005)).rd 5 = 9 ∧
    (after (.dbgDataWrite 9) (sel 0x40)).load8 (spadPa 0 0x40) = 9 ∧ (after (.dbgDataWrite 0x43) (sel 0x3000000000000000)).core.pc = 0x40 ∧
    (after .dbgDataRead (armed [])).hostRd = 0 ∧ (let n : State := (debugged []).setPf 0x150 1; n.haltable = true ∧ (after .dbgHaltLogical n).core.run = .running) ∧
    (∀ e ∈ h.core.sb.toList, e = none) ∧ h.core.cp.xfers = [] ∧ c.debugOn c.part = true ∧ c.core.parked = [] ∧
    (let z := after .dbgHaltScan (debugged []); someAnd (z.scanImage z.cur) (fun g => g.parked.isEmpty) = true ∧ (after .dbgResume z).core.run = .running) ∧ (after .dbgResume c).core.run = .running ∧ (after .dbgHaltScan (debugged [])).core.run = .scanStopped 2 := by decide +kernel

/-! ### The slot table, the boot, virtual functions -/

/-- A package whose features are locked, at a table of two entries whose second gives core 0 to partition 1. -/
def locked : State :=
  let s := ((armed []).setPf 0x40 0x8000000000000000).setPf 0x28410 1
  { s with tst := { s.tst with len := 2 } }

/-- R366 to R368: COMMIT, its withdrawal, the markers. -/
theorem witness_SlotTable_1 :
    let c := after (.tstCommit 3) locked
    let d := locked.setPf 0x28008 0x100000000000
    locked.tst.commit = false ∧ locked.locked = true ∧ locked.boot.minimal = false ∧ (armed []).locked = false ∧ (after (.tstCommit 3) (armed [])).tst.commit = false ∧
    (c.tst.commit, c.tst.slen, c.tst.fixed) = (true, 3, false) ∧ (after .tstCommitCancel c).tst.commit = false ∧
    locked.drain 0x28000 locked.tst.ent = 0 ∧ (after .slotEdgeEmit locked).tst.sent = 2 ∧ d.drain 0x28000 d.tst.ent = 0x1000 ∧ (after .softStopEmit d).tst.sent = 1 := by
  decide +kernel

/-- R368 to R371: the soft stop stops core 0, whose owner changes; the edge begins entry 1 and cleans the idle core; clean, it
is partition 1's. -/
theorem witness_SlotTable_2 :
    let s : State := { locked with tst := { locked.tst with sent := 1 } }
    let t := after .softStop s
    s.coreHolder 0 = some 0 ∧ s.commitNow = false ∧ s.nextEntryAt false = (0x28000, 1) ∧ ownerOf (s.tstByte 0x28000 1 16) = some 1 ∧ ownerOf (s.tstByte 0x28000 1 17) = some 0 ∧
    (t.tst.sent, t.tst.soft) = (0, true) ∧ t.tst.marks.contains 0 = true ∧ t.core.run = .saving false false ∧ (t.coreAt 1).run = .idle := by decide +kernel

theorem witness_SlotTable_3 :
    let u := after .slotEdge ({ locked with tst := { locked.tst with sent := 2 } }.upd (fun c => { c with run := .idle }))
    let t := after .cleaningComplete u
    locked.tst.passed = [] ∧ (List.range 32).all (fun q => locked.pfBits (partReg q 8) 1 1 == 0) = true ∧ u.core.run = .cleaning ∧ (u.tst.sent, u.tst.soft, u.tst.ent) = (0, false, 1) ∧ u.cur < 100 ∧ u.tst.cleaning.contains u.cur = true ∧ (u.scanImage u.cur).isNone = true ∧
    t.tst.cleaning.contains 0 = false ∧ t.core.part = 1 ∧ t.core.run = .idle ∧
    (after .phaseDrainComplete { locked with tst := { locked.tst with phases := [128, 300] } }).tst.phases = [] ∧ locked.flits = [] := by decide +kernel

/-! ### The boot -/

/-- A package at a stage of its boot. -/
def booting (k : Nat) (p : Power) : State := { State.reset with boot := { State.reset.boot with power := p, stage := k } }
def bootIn (fuses sig : Bool) : BootIn := ⟨fuses, 5, 6, 7, 0, ⟨sig, true, 0⟩, ⟨sig, true, 0⟩, none, none, []⟩

/-- R406, R407: power on, PF reset, power loss, the stages, what ends the start. -/
theorem witness_BootAndPower_1 :
    let off := booting 3 .off
    let b (k : Nat) (i : BootIn) : State := after (.bootStage i) (booting k .booting)
    (after .powerOn off).boot.power = .booting ∧ (after .powerOn (booting 3 .booting)).boot.stage = 3 ∧ (after .pfReset (booting 3 .ready)).boot.stage = 0 ∧
    (after .powerLoss (booting 3 .ready)).boot.power = .off ∧ (b 2 (bootIn true true)).boot.stage = 3 ∧ (b 7 (bootIn true true)).boot.power = .ready ∧
    ((b 0 (bootIn true true)).boot.failcnt, (b 0 (bootIn true true)).boot.harvest0) = (1, 6) ∧ ((b 1 (bootIn true false)).boot.power, (b 1 (bootIn true false)).boot.lreason) = (.failed, 1) ∧
    ((after .bootStageTimeout (booting 4 .booting)).boot.lreason, (after .bootStageTimeout (booting 4 .booting)).boot.lstage) = (6, 4) := by decide +kernel

theorem witness_BootAndPower_2 :
    let s := booting 8 .ready
    let b := booting 4 .booting
    (after (.bootTempSample 1760 0) b).boot.lreason = 7 ∧ (after (.bootTempSample 1759 0xFFFF) b).pfRaw 0xC0 = 0xFFFF06DF ∧ (after (.bootTempSample 1759 0) b).boot.power = .booting ∧
    s.locked = false ∧ (after .featureLock s).locked = true ∧ (after .featureLock b).locked = false ∧ s.throttled = false ∧
    (after (.throttleOnset (BitVec.ofInt 16 s.thrOn) 0 5) s).throttled = true ∧ (after (.throttleOnset 0 0 950001) s).throttled = true ∧ (after (.throttleOnset 0 0 950000) s).throttled = false ∧
    (after (.throttleEnd (BitVec.ofInt 16 (s.thrOff - 1)) 0 5) { after (.throttleOnset 0 0 950001) s with thrAt := none }).throttled = false ∧
    s.thrAt ≠ some s.rc ∧ (after (.throttleOnset 0 0 950001) s).thrAt = some s.rc ∧ (after (.throttleEnd 0 0 5) (after (.throttleOnset 0 0 950001) s)).throttled = true ∧
    (after (.thermalCut 0 2000) s).boot.power = .off ∧ (after (.thermalCut 0 1999) s).boot.power = .ready ∧
    s.pfUp = true ∧ (after (.spdmRequest 5) s).spdm = [[]] ∧ (after (.spdmRequest 5) (booting 3 .failed)).spdm = [] ∧ s.rc % 10 = 0 ∧
    (let h : State := { after (.throttleOnset 0 0 950001) (armed []) with rc := 9 }; ((h.throttled, h.rcTick.pfRaw 0xE8, h.ncore 0), h.rcTick.pfRaw (partReg 0 0x28)) =
      ((true, 10, 2), 6) ∧ { h with rc := 8 }.rcTick.pfRaw 0xE8 = 0) := by
  decide +kernel

/-! ### Virtual functions -/

/-- R377, R378: a stop, its completion, the resume. -/
theorem witness_VirtualFunctions_1 :
    let s : State := (grouped 1).upd (fun c => { c with resident := some 1 })
    let t := after (.vfStop 1) s
    let stopping : State := ((armed []).setPf (vfReg 1 8) 4).upd (fun c => { c with run := .idle, work := none, resident := none })
    let stopped := after (.vfStopComplete 1) stopping
    s.vfStopping 1 = false ∧ s.vfStopped 1 = false ∧ (s.coreAt 0).run = .running ∧ t.vfStopping 1 = true ∧ t.core.run = .saving false false ∧
    (after (.vfFlr 1) s).vfStopping 1 = true ∧ (after (.tdiError 1) s).vfStopping 1 = true ∧ (after (.tdiError 1) s).tdiOf 1 = .error ∧
    stopping.vfCores 1 = [] ∧ (stopped.vfStopping 1, stopped.vfStopped 1) = (false, true) ∧ (after (.vfResume 1) stopped).vfStopped 1 = false ∧
    stopped.pfBits (vfReg 1 0x70) 0 48 = 0 ∧ (after (.vfResume 1) s).pfBits (vfReg 1 8) 56 8 = 2 := by decide +kernel

/-- R379, R384, R385, R399. -/
theorem witness_VirtualFunctions_2 :
    let s := armed []
    let q : State := (s.setByte 0x4C0005 7)
    let p := after (.scrubPush 19) q
    let full : State := { s with scrubq := List.replicate 256 0 }
    let x := after (.tdispRequest 1 0) s
    (after (.dirtySwap 1) s).pfBits (vfReg 1 0x68) 32 32 = 1 ∧ p.scrubq.map (fun w => w.toNat % 2 ^ 21) = [19] ∧ (after .scrubComplete p).scrubq = [] ∧
    (after .scrubComplete p).byte 0x4C0005 = 0 ∧ (after .scrubComplete p).pfRaw 0x138 = s.pfRaw 0x138 + 1 ∧ (after (.scrubPush 1) full).pfBits 0x130 63 1 = 1 ∧
    (s.tdiOf 1, x.tdiOf 1, (after (.tdispRequest 1 1) x).tdiOf 1, (after (.tdispRequest 1 2) x).tdiOf 1) = (.unlocked, .locked, .run, .unlocked) := by decide +kernel


/-! ### Further states that meet the hypotheses of scheduling -/

/-- R330, R333, R388, R350: what the start and the markers of a frame ask for; a tile that a scan holds does not see a marker. -/
theorem witness_FramesAndStamps_3 :
    let m : State := { (detState 1).upd (fun c => { c with run := .running, sfc := 9 }) with markers := [0] }
    (detState 0).vfHalted 1 = false ∧ (detState 0).frameId 0 = some 0 ∧ ((detState 0).partCores 0).Nodup ∧ (detState 0).detHeld 0 = true ∧ (detState 0).reservable 0 = false ∧ (detState 0).free? = false ∧
    someAnd ((detState 0).detLaunch 0) (fun l => (detState 0).detReady l && (detState 0).detCores l == [0]) = true ∧
    someAnd ((detState 0).detLaunch 0) (fun l => !((detState 0).upd (fun c => { c with run := .running })).detReady l) = true ∧
    (m.detLaunch 0).isSome = true ∧ (0 : BitVec 5) ∈ m.markers ∧ (after (.frameMarkerDelivery 0) m).core.sfc = 0 ∧
    (after (.frameMarkerDelivery 0) (m.upd (fun c => { c with run := .scanStopped 1 }))).core.sfc = 9 := by decide +kernel

/-- R311: another core has waited longer for the record. -/
theorem witness_RecordEntry_3 :
    let s := tqueued.upd (fun c => { c with idleAt := 5 })
    someAnd tqueued.chosen (fun x => !tqueued.takesFirst x && decide (x ∈ tqueued.tq) && tqueued.eligible x) = true ∧
    someAnd s.chosen (fun x => s.takesFirst x) = true ∧ s.free? = true ∧ (after .coreTakeRecord s).tq.length = 2 := by decide +kernel

/-- R323, R324, R377: a unit that is free, one that another gang holds, a target that an edge has taken, a VF that stops. -/
theorem witness_GangReservation_3 :
    let s := ganged (gang .waiting 0) true
    let two : State := { s with gangs := [gang .backoff 4, { gang .holding 4 with id := 6 }] }
    let lost := ganged { gang .holding 4 with target := some 9 } true
    let p := (ganged { gang .placed 0 with grants := [0, 1] } true).setPf (vfReg 1 8) 4
    s.vfHalted 1 = false ∧ s.attempted (gang .waiting 0) 0 = false ∧ s.reservable 0 = true ∧ (s.holdingGang 0).isNone = true ∧ (s.partCores 0).Nodup ∧
    two.unitHeld (two.deal (gang .backoff 4)) = true ∧ (after (.gangBackoffExpiry 5) two).gangs.map (·.st) = [.reserving, .holding] ∧
    (lost.deal { gang .holding 4 with target := some 9 }).target = some 0 ∧ (after (.gangHoldComplete 5) lost).gangs.map (fun g => (g.st, g.target)) = [(.holding, some 0)] ∧
    p.vfHalted 1 = true ∧ (after (.commit 5) p).gangs.map (fun g => (g.st, g.denied)) = [(.reserving, true)] := by decide +kernel

/-- R327, R329, R354, R407: a core gated in WFE counts, a failed start answers no reset, an entry submitted again keeps its id. -/
theorem witness_HostWork_3 :
    let w : State := ((grouped 1).setPf (partReg 0 0x10) 100).upd (fun c => { c with wdog := 101, run := .gated true })
    let r : State := { submitting with replays := [(1, 1, 0, 7)] }
    let f : State := { armed [9] with boot := { (armed []).boot with power := .failed } }
    w.core.clocked = true ∧ (after .watchdog w).core.run = .idle ∧ r.replayWaits (1, 1, 0, 7) = false ∧
    (after (.submissionQueueRead 1 1) r).launches.map (fun l => (l.lid, l.replayed)) = [(7, true)] ∧
    f.pfUp = false ∧ (after (.partitionResetRequest 0) f).rd 1 = 9 ∧ (armed []).pfUp = true := by decide +kernel

/-! ### The ports -/

/-- The east port of package 0 of a ring of two, up. -/
def linked (f : LPort → LPort) : State :=
  (ring 0).updPort false (fun x => f { x with up := true, errth := 4 })

noncomputable def east (i : Instr) (s : State) : LPort := (after i s).port false

/-- R393 to R397: training with the right partner and with others; flits, replays, lanes, spares, the announced maps. -/
theorem witness_LinkPorts_1 :
    let s := linked id
    s.portEnabled false = true ∧ s.npkg = 2 ∧ s.neighbour false = 1 ∧ (east (.lorcyTraining false 1 2) s).up = true ∧ (east (.lorcyTraining false 0 2) s).up = false ∧
    (east (.lorcyTraining false 1 3) s).up = false ∧ (east (.linkFlitReceive false true 0 0) s).rxSeq = 1 ∧ (east (.linkFlitReceive false true 0 0) (linked (fun x => { x with held := 191 }))).stopped = true ∧
    (east (.linkFlitReceive false true 0 64) (linked (fun x => { x with held := 191, stopped := true }))).stopped = false ∧
    (east (.linkFlitReceive false false 0 0) s).replays = 1 ∧ (east (.linkFlitReceive false false 0 0) (linked (fun x => { x with replays := 63 }))).up = false ∧
    (east (.replayRequest false 9) (linked (fun x => { x with txTop := 10 }))).txSeq = 9 ∧ (east (.replayRequest false 9) s).txReplays = 0 ∧
    (east (.linkFlitReceive false true 0 0) (linked (fun x => { x with held := 256 }))).replays = 1 ∧ (east (.lorcyTraining false 0 2) ((ring 0).updPort false (fun x => { x with up := false }))).up = false ∧
    (east (.replayRequest false 9) (linked (fun x => { x with txTop := 10, lastReplay := 9, txReplays := 63 }))).up = false := by decide +kernel

theorem witness_LinkPorts_2 :
    let s := linked id
    (east (.portDown false) s).up = false ∧ s.port true = LPort.reset ∧ (s.port false).bad = 0 ∧ (s.port false).sp16 = 0x1F ∧ (s.port false).narrow = false ∧
    (s.port false).spareFree 16 = true ∧ (s.port false).narrows = false ∧ ({ s.port false with moves := [⟨3, 3, some 16, 0⟩] } : LPort).working = 17 ∧
    (east (.laneErrorWindow false 3 5) s).moves.map (fun m => (m.failing, m.lane, m.spare)) = [(3, 3, some 16)] ∧ (east (.laneErrorWindow false 3 4) s).moves = [] ∧ (east (.laneErrorWindow false 17 4) s).errs.toList.getD 17 0 = 4 ∧
    (east (.laneErrorWindow false 3 5) (linked (fun x => { x with bad := 8 }))).errs.toList.getD 3 0 = 0 ∧ (s.port false).txSp16 = 0x1F ∧ (s.port false).txNarrow = false ∧
    (east (.spareReq false 3) s).txMoves = [⟨3, 3, some 16, 31⟩] ∧ (east (.spareReq false 3) (linked (fun x => { x with txSp16 := 1 }))).txMoves = [⟨3, 3, some 17, 31⟩] ∧
    (east (.spareReq false 3) (linked (fun x => { x with txNarrow := true }))).txMoves = [⟨3, 3, none, 31⟩] := by decide +kernel

/-- R395, R436: the switch of each kind of move, at the receiver and at the transmitter; the lane is bad from then on. -/
theorem witness_LinkPorts_6 :
    let rx (k : Option (BitVec 5)) : LPort := east (.laneMapSwitch false) (linked (fun x => { x with moves := [⟨3, 3, k, 0⟩] }))
    let tx (k : Option (BitVec 5)) : LPort := east (.laneMapSwitch false) (linked (fun x => { x with txMoves := [⟨3, 3, k, 0⟩] }))
    ((rx (some 16)).sp16, (rx (some 17)).sp17, (rx none).narrow, (rx none).bad, (rx none).moves) = (3, 3, true, 8, []) ∧
    ((tx (some 16)).txSp16, (tx (some 17)).txSp17, (tx none).txNarrow, (tx none).bad, (tx none).txBad, (tx none).txMoves) = (3, 3, true, 0, 8, []) ∧
    (linked id).pfUp = true ∧ (east (.retrain false) ((linked id).updPort false (fun x => { x with up := false, moves := [⟨3, 3, none, 9⟩] }))).moves = [] ∧
    (east (.retrain false) ((linked id).updPort false (fun x => { x with up := false, retrains := 4 }))).retrains = 5 := by decide +kernel

/-- Port 2's table at 0x4A0000: entry 0 receives frames for address 5 into a ring of two slots at the start of tensor 1, its
indices in that tensor; entry 1 sends from the same ring; entry 2 has no slot. -/
def ethernet (w r : Nat) : State :=
  let s := ((armed []).setPf (vfReg 1 0x40) 0x480000).setPf (vfReg 1 0) 1
  let l : List (Nat × W64) :=
    [(0, 0x8002000000000005), (8, 0x1000000000), (16, 0x1000010000), (24, 0x1000010004), (32, 0xBFF0000000000002), (64, 0xC002000000000000),
      (72, 0x1000000000), (80, 0x1000010000), (88, 0x1000010004), (96, 0xBFF0000000000002), (128, 0x8002000000000006)]
  let s := l.foldl (fun (s : State) x => s.store8 (0x4A0000 + x.1) x.2) s
  (s.putBytes 0x4D0000 (leBytes 4 w)).putBytes 0x4D0004 (leBytes 4 r)

noncomputable def ethLoaded (w r : Nat) : State := after (.ethTabLoad 2 0x4A0000) (ethernet w r)

def ethFrame (dmac : BitVec 48) : EthFrame := ⟨dmac, none, 0, 0x11, 0x22, true, false, false, [1, 2, 3]⟩

theorem witness_LinkPorts_3 :
    let s := ethLoaded 7 6
    s.ethDouble 2 0 0 = 0x8002000000000005 ∧ s.ethDouble 2 1 4 = 0xBFF0000000000002 ∧ s.ethDouble 2 2 0 = 0x0002000000000006 ∧ s.pfRaw 0x510 = 0x42000000004A0000 ∧
    s.ethMatch 2 (ethFrame 5) = some 0 ∧ s.ethMatch 2 (ethFrame 6) = none := by decide +kernel

/-- R403: a frame lands in slot W mod 2; with the ring full it is counted. -/
theorem witness_LinkPorts_4 :
    let s := ethLoaded 7 6
    let t := after (.ethRxFrame 2 (ethFrame 5)) s
    let u := after (.ethRxFrame 2 (ethFrame 5)) (ethLoaded 8 6)
    okAnd (s.portRead 1 0x1000010000 4) (fun x => x.1 == 7 && okAnd (x.2.portRead 1 0x1000010004 4) (fun y => y.1 == 6 && y.2.mem == s.mem && y.2.poison == [] &&
      okAnd (y.2.portPlace 1 0x1000000800 19) (fun l => l.pa == 0x4C0800) && okAnd (y.2.portPlace 1 0x1000010000 4) (fun l => l.pa == 0x4D0000))) = true ∧
    s.pfBits (vfReg 1 0x68) 0 1 = 0 ∧ t.loadLE 0x4C0800 20 = 0x030201_0000000000000011_0000020000000003 ∧ t.loadLE 0x4D0000 8 = 0x600000008 ∧ (t.load8 0x4A0030, t.load8 0x4A0028) = (1, 0) ∧
    (u.load8 0x4A0030, u.load8 0x4A0028) = (0, 1) ∧ u.loadLE 0x4C0000 8 = s.loadLE 0x4C0000 8 := by decide +kernel

/-- R404: the slot at R is sent and R advances. -/
theorem witness_LinkPorts_5 :
    let s := after (.ethRxFrame 2 (ethFrame 5)) (ethLoaded 6 6)
    let t := after (.ethTxSlot 2 1) s
    okAnd (s.portRead 1 0x1000010000 4) (fun x => x.1 == 7 && okAnd (x.2.portRead 1 0x1000010004 4) (fun y => y.1 == 6 && okAnd (x.2.portPlace 1 0x1000010004 4) (fun l => l.pa == 0x4D0004) &&
      okAnd (y.2.portRead 1 0x1000000000 16) (fun h => h.1 % 2 ^ 16 == 3 && okAnd (h.2.portRead 1 0x1000000010 3) (fun z => z.1 == 0x030201 && z.2.poison == [])))) = true ∧
    s.pfBits (vfReg 1 0x68) 0 1 = 0 ∧ t.ethTx = [ethOut (s.ethDouble 2 1 0) (s.ethDouble 2 1 1) [1, 2, 3] 2] ∧ t.loadLE 0x4D0000 8 = 0x700000007 ∧ t.load8 0x4A0070 = 1 ∧ (after (.ethTxSlot 2 1) t).ethTx = t.ethTx ∧ (after (.ethTxSlot 2 0) s).ethTx = [] := by decide +kernel

/-- R361, R374, R409, R412: the writes of each clause of RegisterWrites. -/
theorem witness_RegisterWrites :
    let s := armed []
    let w (o : Nat) (v : W64) (s : State) : State := after (.registerWrite (BitVec.ofNat 24 o) v) s
    let all : W64 := 0xFFFFFFFFFFFFFFFF
    s.boot.power = .ready ∧ (w 0x119 all s).pf = s.pf ∧ (w 0xC0 all s).pf = s.pf ∧ (w 0x118 all s).pfRaw 0x118 = 0xFFFFFFFF ∧ (w 0x140 all s).pfRaw 0x140 = 0xFFFFFFFFFFFF ∧
    (w (partReg 31 0x10) all s).pfBits (partReg 31 0x10) 0 48 = 2 ^ 48 - 1 ∧ (w (partReg 31 0x40) all s).pfBits (partReg 31 0x40) 0 6 = 63 ∧
    (w (vfReg 511 0x18) all s).pfRaw (vfReg 511 0x18) = all ∧ (w (vfReg 511 0x28) all s).pfBits (vfReg 511 0x28) 0 16 = 0xFFFF ∧
    (w (vfReg 511 0x70) all s).pfBits (vfReg 511 0x70) 0 48 = 2 ^ 48 - 1 ∧ (w 0x100 0x105 (w 0x40 0x8000000000000000 s)).tst.commit = true ∧ (w 0x40 0x8000000000000000 s).locked = true ∧
    (w 0x20 2 (s.setPf 0 7)).pfRaw 0x20 = 2 ∧ (w 0x20 2 ((s.setPf 0 7).setPf 0x40 0x8000000000000000)).pfRaw 0x20 = 0 := by decide +kernel

/-! ### The step -/

/-- Core 0 with words at its program counter, its agenda naming CTL. -/
def coded (ws : List Nat) (f : Core → Core) : State := { (State.placeCode (armed []) ws).upd f with agenda := [.ctl 0, .ctl 1] }

noncomputable def stepped (s : State) : State :=
  match step s with
  | .next t => t
  | _ => s

noncomputable def fetched (s : State) : Option Nat :=
  match s.fetchAt s.core.pl s.core.pc with
  | .ok w => some w
  | .error _ => none

/-- R9, R43 to R45: one word, a long form, a reserved word, a length field of none, a split at a loop's end, a fetch that fails,
a second word that fails. -/
theorem witness_StepRunsDecoded_1 :
    (fetched (coded [0x00860010] id) == some 0x00860010) = true ∧ (stepped (coded [0x00860010] id)).rd 3 = 0x10 ∧ (stepped (coded [0x00860010] id)).core.pc = 0x1000000004 ∧
    (stepped (coded [0x10863000, 0x12345] id)).rd 3 = 0x12345 ∧ (stepped (coded [0x10863000, 0x12345] id)).core.pc = 0x1000000008 ∧
    (fault1 (stepped (coded [0xFFFFFFFF] id))).1 = 1 ∧ (fault1 (stepped (coded [0x10863000, 0x12345] (fun c => { c with lc0 := lv 2 1 0x1000000000 })))).1 = 1 ∧
    fault1 (stepped (coded [] (fun c => { c with pc := 0x5000000000 }))) = (4, 0x5000000000, 0x5000000000) ∧
    (stepped (coded [0x00860010] id)).agenda = [.ctl 1] := by decide +kernel

theorem witness_StepRunsDecoded_2 :
    let s := coded [0x00860010] id
    let held : State := s.updEng .vx (fun x => { x with held := some ⟨⟨.illegalInstruction, 0⟩, 3, 0⟩ })
    s.core.pl = 0 ∧ s.runs = true ∧ s.takeable = [] ∧ s.core.wait = none ∧ s.cur = 0 ∧ held.takeable.isEmpty = false ∧ held.core.outst = none ∧
    (stepped held).core.pc = 0x2000000000 ∧ (stepped (s.upd (fun c => { c with wait := some .wfe, ev := true }))).core.wait = none ∧
    (stepped (s.upd (fun c => { c with run := .halted }))).rd 3 = 0 ∧
    (stepped { queued (.vxFadd (vx 0 1 2 3 0 0 0)) s with agenda := [.engine 0 .vx] }).core.vx.pend.length = 1 ∧ (stepped { s with agenda := [.engine 0 .vx] }).core.vx.pend = [] ∧
    (stepped { s with agenda := [.tick 0] }).core.sfc = s.core.sfc + 1 ∧ (stepped { s.upd (fun c => { c with l1 := [5] }) with agenda := [.on 0 (.l1LineExpiry 5)] }).core.l1 = [] ∧
    (stepped { s with agenda := [.on 0 (.addi 3 0 9)] }).rd 3 = 0 ∧ (s.placeEp 0x10000000).epNextInstr = some .epEnd := by decide +kernel

/-! ### Round trips, the invariant, words that are refused -/

theorem witness_ControlRoundTrip : Instr.wf (.addi 3 0 0x10) = true ∧ encode (.addi 3 0 0x10) = some [0x00860010] := by decide +kernel

theorem witness_EngineRoundTrip :
    Instr.wf (.mxGo go8) = true ∧ Instr.engine (.mxGo go8) = some .mx ∧ (encodeImage (.mxGo go8)).isSome = true ∧ Instr.wf .epEnd = true ∧
    encodeEp .epEnd = some 0x10000000 := by decide +kernel

theorem witness_StepKeepsMemoryForm :
    State.reset.Inv ∧ (∃ t, step (coded [0x00860010] id) = .next t) ∧ Memory.wf (coded [0x00860010] id).mem = true := by
  refine ⟨rfl, ?_, by decide +kernel⟩
  have h : (match step (coded [0x00860010] id) with
    | .next _ => true
    | _ => false) = true := by decide +kernel
  split at h
  · exact ⟨_, ‹_›⟩
  · simp at h

/-- R44 to R53: all ones, two opcodes that the table leaves out, a width code of none, a tid of none, a size of none, a long form
without its second word. -/
theorem test_refused_words :
    [[0xFFFFFFFF], [0x03400000], [0x07C00000], [0x004A619E], [0x0A006000], [0x080A4E20], [0x10863000]].all (fun ws => (decode ws).toOption.isNone) = true := by
  decide +kernel

/-- A word of the opcode table's numbering decodes, and is what the next step runs. -/
theorem test_table_words :
    decodeTableWord 32 0x00860010 = some (.addi 3 0 0x10) ∧ decodeTableWord 64 0x0001234510863000 = some (.addiX 3 3 0x12345) ∧
    decodeTableWord 32 0x10000000 = some .epEnd ∧ (stepped (State.reset.withFetchWord 32 0x00860010)).rd 3 = 0x10 ∧
    (stepped (State.reset.withFetchWord 64 0x0001234510863000)).rd 3 = 0x12345 := by decide +kernel

/-! ### What every step waits for -/

/-- Tensor 1 over frame 17, which holds the leaf of its own second stage: a store at 0x90 of it changes the entry of frame 18. -/
def leafStore (n : Nat) : State :=
  let s := ((armed [0x1000000090]).store8 0x440088 0x8000000000000011).store8 0x481000 0x8000000000000011
  { s with scrubq := List.replicate n 0 }

/-- R384: a leaf write that finds 256 frames waiting stays before its instruction; with room it pushes the frame. -/
theorem witness_ScrubWait :
    let full := leafStore 256
    let l : Loc := ⟨0x440090, .hbm, false, true, some 17, 0x1000000090⟩
    okAnd (full.ctlPlace 0x1000000090 8) (fun p => p == .here l) = true ∧ full.poisonUnits 0x440090 8 = [] ∧ (full.judge full.judged true l 0x1000000090 8).2 = none ∧
    full.scrubFull l 8 0 = true ∧ (leafStore 255).scrubFull l 8 0 = false ∧ (leafStore 192).ScrubRoom ∧ (after (.st 0 1 .d 0) full).core.pc = 0x1000000000 ∧
    (after (.st 0 1 .d 0) full).load8 0x440090 = 0x8000000000000012 ∧ (after (.st 0 1 .d 0) (leafStore 0)).scrubq = [18] ∧
    (after (.st 0 1 .d 0) (leafStore 0)).load8 0x440090 = 0 := by decide +kernel

/-- The states on which the statements about accesses, engines and transfers are witnessed: no frame waits to be scrubbed, no scan
has stopped the tile, the queues run, the package has not stopped. -/
theorem witness_Running :
    [armed [], barrier 2 2 1, counter [10, 5, 2, 4] [], owned 0 true [1], spawning, mxStarted, tiled, oneTile 0, storing .none .none (.qu 2) (armed []), framed,
      resident 0, copying, reducing 0 0xC].all (fun s => s.scrubq.isEmpty && s.linkq.isEmpty && !s.frozen && !s.core.scanned && !s.core.qstop && s.boot.power != .stopped && s.pfUp) = true := by
  decide +kernel

/-- R348: an engine's act at a frozen tile does nothing. -/
theorem witness_Frozen :
    let s : State := (queued (.vxFadd (vx 0 1 2 3 0 0 0)) (coded [0x00860010] id)).upd (fun c => { c with run := .scanStopped 1 })
    s.frozen = true ∧ (stepped { s with agenda := [.engine 0 .vx] }).core.vx.pend = [] ∧ (after (.entryComplete .vx) (finished .vx (Image.of [1, 0x4100, 5, 0x0101]) s)).core.tokCount 2 0 = 0 := by
  decide +kernel

/-- R289, R304, R373: a ring cycle; an error that ECC corrects in a scratchpad and in a stack, and one that it cannot correct. -/
theorem test_ring_cycle_and_ecc :
    let s := coded [0x00860010] id
    let e (a : Nat) (f : Bool) : State := stepped { s with agenda := [.ecc a f] }
    (stepped { s with agenda := [.rc] }).rc = s.rc + 1 ∧ (e (spadPa 0 0x40) false).pfRaw (partReg 0 0x70) = 1 ∧ (e 0x4C0000 false).corrected.toList = [1, 0, 0, 0, 0, 0, 0, 0] ∧
    (e (spadPa 0 0x40) true).poisoned (spadPa 0 0x7F) = true ∧ (e 0x4C0000 true).poisoned 0x4C0000 = true := by decide +kernel

/-- R392: a flit that crosses from sector 0 to sector 1 is launched, and after 12 rc its answer waits. -/
theorem test_sector_link :
    let s : State := { ((armed []).setPf 0x28100 0).setPf 0x28108 0 with linkq := [⟨0, 1, 0, true, none⟩] }
    let run (n : Nat) (s : State) : State := (List.range n).foldl (fun t _ => t.rcTick) s
    ((run 1 s).linkq.map (fun f => (f.src, f.sent)), (run 12 s).linkq.map (fun f => f.src), (run 13 s).linkq.map (fun f => (f.src, f.back)), (run 25 s).linkq) =
      ([(0, some (1, false))], [0], [(1, false)], []) := by decide +kernel

/-! ### Accesses of engines that are parked -/

/-- Core 0 with an FE.LD, or a DE.ST, at byte 0x100 of logical core 1's scratchpad, where core 1 is in `run` with VF 1 resident. -/
noncomputable def toward (e : Eng) (run : Run) (imgs : List SavedImage) : State :=
  let a := fd 2 0 1 1 0x100 0 0 0 0xE01 0
  let s := if e = .fe then fdState .fe 1 a 1 5 [] (armed []) else fdState .de 1 a 4 5 [lanes0 2 0] (armed [])
  let t := s.updAt 1 (fun c => { c with resident := if imgs.isEmpty then some 1 else none, run := run })
  { t with images := imgs }

def parkImage : SavedImage := ⟨9, false, 1, 0, 1, 1, 0x800000, Core.reset, [], [], [], [], [], [], [], true, true, false, false⟩

/-- R350, R355: a load and a store of an engine to a halted core, and to one whose context is in an image, are parked and do not
start; the resumed context's core is where they then go. -/
theorem witness_EngineParking :
    let a := fd 2 0 1 1 0x100 0 0 0 0xE01 0
    let s := toward .fe .halted []
    let d := toward .de .halted []
    let i := toward .fe .idle [parkImage]
    let t := after (.feLd a) s
    s.scrubq = [] ∧ s.core.sent = [] ∧ startsB .fe s = true ∧ startsB .de d = true ∧
    okAnd (s.entryRuns .fe .engine a 1 64 0 (fun v => v * 0)) (fun rs => decide (rs.flatten = [(0xE01000000100, 64, .remote 1 0x100)])) = true ∧
    okAnd (d.entryRuns .de .engine a 1 64 0 (fun v => v * 0)) (fun rs => decide (rs.flatten = [(0xE01000000100, 64, .remote 1 0x100)])) = true ∧
    (s.reach 1 s.vf, i.reach 1 i.vf, parkImage.hasRoom) = (.atStop, .inImage 9, true) ∧
    ((t.coreAt 1).parked, t.core.sent, headPhase .fe t) = ([.run 0 1 1 0x100], [⟨1, 1, 0x100, none⟩], some .queued) ∧
    (after (.deSt a) d).core.sent = [⟨5, 1, 0x100, none⟩] ∧
    ((after (.feLd a) i).images.map (·.parked)) = [[.run 0 1 1 0x100]] ∧
    (t.applyParked 1 [.run 0 1 1 0x100]).resolve .fe (.remote 1 0x100) = .remote 1 0x100 ∧
    (t.applyParked 7 [.run 0 1 1 0x100]).resolve .fe (.remote 1 0x100) = .remote 7 0x100 := by decide +kernel

/-- R355: the load that was parked at a halted core is made once the core runs. -/
theorem test_parked_load :
    let a := fd 2 0 1 1 0x100 0 0 0 0xE01 0
    let t := after (.feLd a) (toward .fe .halted [])
    let u := ((t.updAt 1 (fun c => { c with run := .running })).putBytes (spadPa 1 0x100) [0x80]).applyParked 1 [.run 0 1 1 0x100]
    ((fed (.feLd a) u).map (fun v => lane v 0), (after (.feLd a) u).core.sent) = ([0xFFFFFF80], []) := by decide +kernel

/-! ### Device memory -/

/-- Where an access of 4 bytes goes, as the address, or its cause and EVAL. -/
noncomputable def goes (s : State) (ag : Agent) (ga n : Nat) : Nat × Nat :=
  match s.place ag ga n with
  | .ok (.here l) => (0, l.pa)
  | .ok (.remote _ _) => (99, 0)
  | .error t => (t.cause.code, t.val.toNat)

/-- Tensor 2 of `counter` with its descriptor's double 1 and its first tile entry as given. -/
def tensor2 (d1 e : W64) : State := ((counter [] []).store8 0x480088 d1).store8 0x481000 e

/-- R296: each step that can fail, in order, with its cause and EVAL; a tensor that is right leads to the frame of its tile. -/
theorem witness_TensorTranslation_1 :
    let s := counter [] []
    let e := (s.load8 0x481000).toNat
    (e / 2 ^ 63, e % 2 ^ 62) = (1, 19) ∧ goes s .engine 0x2000000100 4 = (0, 0x4C0100) ∧
    goes (s.setPf (vfReg 1 0x30) 0x700000) .engine 0x2000000100 4 = (Cause.translation.code, 0xC000000000480080) ∧
    goes (s.setPoison 0x480080) .engine 0x2000000100 4 = (Cause.memPoison.code, 0x2000000100) ∧
    goes s .engine 0x3000000100 4 = (Cause.translation.code, 0x3000000100) ∧
    goes s .engine 0x2000040000 4 = (Cause.translation.code, 0x2000040000) ∧
    goes (tensor2 0xD2010000 (BitVec.ofNat 64 e)) .engine 0x2000000100 3 = (Cause.illegalInstruction.code, 0x2000000100) ∧
    goes (tensor2 0xD2010000 (BitVec.ofNat 64 e)) .pack 0x2000000100 3 = (0, 0x4C0100) ∧
    goes (s.setPoison 0x481000) .engine 0x2000000100 4 = (Cause.memPoison.code, 0x2000000100) ∧
    goes (s.store8 0x480080 0x4000000) .engine 0x2000000100 4 = (Cause.translation.code, 0xC000000004000000) ∧
    goes (tensor2 0x12010000 19) .engine 0x2000000100 4 = (Cause.translation.code, 0x2000000100) := by decide +kernel

theorem witness_TensorTranslation_2 :
    let s := counter [] []
    let v := 2 ^ 63
    goes (tensor2 0x12010000 (BitVec.ofNat 64 (v + 2 ^ 62 + 19))) .engine 0x2000000100 4 = (Cause.migrateFault.code, 0x2000000100) ∧
    goes (tensor2 0x12000000 (BitVec.ofNat 64 (v + 19))) .engine 0x2000000100 4 = (Cause.ownership.code, 0x2000000100) ∧
    goes (tensor2 0x12008000 (BitVec.ofNat 64 (v + 19))) .engine 0x2000000100 4 = (0, 0x4C0100) ∧
    goes (tensor2 0x12010000 (BitVec.ofNat 64 (v + 100))) .engine 0x2000000100 4 = (Cause.translation.code, 0x8000002000000100) ∧
    goes (tensor2 0x12010000 (BitVec.ofNat 64 (v + 2 ^ 56 + 19))) .engine 0x2000000100 4 = (Cause.translation.code, 0x2000000100) ∧
    goes (tensor2 0x12010000 (BitVec.ofNat 64 (v + 2 ^ 57 + 19))) .engine 0x2000000100 4 = (Cause.translation.code, 0x2000000100) ∧
    goes ((tensor2 0x12010000 (BitVec.ofNat 64 (v + 19))).setPoison 0x440098) .engine 0x2000000100 4 = (Cause.memPoison.code, 0x2000000100) ∧
    s.self = 0 ∧ s.vf = 1 := by decide +kernel

/-- R296, R337, R361: PL2 reads its own tables with no second stage: a control frame, a frame, a host tile. -/
theorem witness_TensorTranslation_3 :
    let at2 (e : Nat) : State := ((tensor2 0x12010000 (BitVec.ofNat 64 (2 ^ 63 + e))).setPf 0x148 0x480000)
    let ag : Agent := { Agent.ctl 2 with ctl8 := true }
    (match (at2 183041).place ag 0x2000000100 8 with
      | .ok (.here l) => l.dev
      | _ => .spad) = .ctrl 0x40100 ∧
    goes (at2 183041) (.ctl 2) 0x2000000100 4 = (Cause.translation.code, 0x2000000100) ∧
    goes (at2 19) ag 0x2000000100 8 = (0, 0x4C0100) ∧ goes (at2 (2 ^ 62 + 19)) ag 0x2000000100 8 = (0, hostPa 0x4C0100) ∧
    goes (at2 (2 ^ 62 + 19)) (.ctl 2) 0x2000000100 4 = (Cause.migrateFault.code, 0x2000000100) ∧
    goes (at2 (2 ^ 21 + 19)) ag 0x2000000100 8 = (Cause.translation.code, 0x2000000100) ∧
    goes (at2 (2 ^ 18 - 1)) ag 0x2000000100 8 = (Cause.translation.code, 0x8000002000000100) := by decide +kernel

/-- R298 to R300: a line of zeros, one small word, sixteen equal words, a poisoned line; without the feature RAW. -/
theorem witness_LlcEncoding :
    let s := ((armed []).setPf 0x20 1).setPf 0x40 0x8000000000000000
    let eq (s : State) : State := s.putBytes 0x4D0040 (List.replicate 64 7)
    let t := (eq s).putBytes 0x4D0080 [5]
    let p := packLines (t.setPoison 0x4D00C0) 0x4D00
    s.feature 0 = true ∧ (armed []).feature 0 = false ∧
    (p.1, p.2.length) = ([(0, 0), (1, 0), (3, 1), (6, 2)], 32) ∧ lineMode (eq (armed [])) 0x4D0040 = (5, 4) ∧ lineMode (armed []) 0x4D0000 = (0, 0) := by decide +kernel

/-- R301 to R303: a miss in an empty set, a hit, a full set with and without a soft limit passed, a write that grows. -/
theorem witness_LlcWays :
    let s := armed []
    let a := 0x4D0000
    let sb (k g : Nat) (ctx : BitVec 9) : LlcSb := ⟨0, 0x4D00 + 2 ^ 17 * (k + 1), g, none, ctx, false, k + 1, [], []⟩
    let r := s.llcTouch a 0 1 false
    let full (ctx : BitVec 9) : State := { s with llc := (List.range 16).map (fun k => sb k k ctx), llcClock := 20 }
    let raw := (r.putBytes a (List.replicate 8 [1, 2, 3, 4, 5, 6, 7, 0xC8]).flatten).putBytes (a + 64) [9, 1]
    let big := (List.range 3).foldl (fun t k => t.putBytes (a + 64 * k) ((List.range 16).map (fun j => leBytes 4 (0x11111111 * j + 0x70000001 * (j % 2)))).flatten) r
    let u := big.llcTouch a 0 1 true
    isHbm a = true ∧ ownedWays s (dieOf (stackOf a)) 0 = List.range 16 ∧ Machine.setOf (sb 0 0 1).sb = Machine.setOf (a / 256) ∧
    r.llc.map (fun b => (b.sb, b.way, b.ctx)) = [(0x4D00, 0, 1)] ∧ (r.llcTouch a 0 1 false).llc.map (·.age) = [2] ∧
    ((full 2).llcTouch a 0 1 false).llc.map (·.sb) = 0x4D00 :: ((List.range 15).map (fun k => (sb (k + 1) 0 1).sb)) ∧
    ((full 1).setPf (vfReg 1 0x28) 3).pfBits (vfReg 1 0x28) 0 16 = 3 ∧
    llcCounter (((full 1).setPf (vfReg 1 0x28) 3).llcTouch a 0 1 false) 1 12 = 1 ∧ llcCounter ((full 1).llcTouch a 0 1 false) 1 12 = 1 ∧
    (raw.llcTouch a 0 1 true).llc.map (fun b => (b.dirty, b.pair)) = [(true, none)] ∧
    (u.llc.map (fun b => (b.dirty, b.pair)), llcCounter u 1 10, (packLines big 0x4D00).2.length) = ([(true, some 1)], 1, 192) := by decide +kernel

/-- R381, R383: an entry with room, and in a full table. -/
theorem witness_CauseTable :
    let s := ((armed []).setPf 0x110 4095).setPf (partReg 2 0x40) 9
    let full := (s.setPf 0x118 0xFFFFFFFF).setPf 0x120 5
    let t := s.causeEntry 1 0 3 2 0xFF 0 3 77
    let f := full.causeEntry 1 0 3 2 0xFF 0 3 77
    (s.pfBits 0x118 0 32, (4095 + 2 ^ 32 - 0xFFFFFFFF) % 2 ^ 32) = (0, 4096) ∧
    (t.pfRaw 0x1FFF8, t.pfBits 0x110 0 32, t.msix) = (77, 4096, [9]) ∧ t.pfRaw 0x1FFF0 = causeWord 1 0 3 2 0xFF 0 3 ∧
    (causeWord 1 0 3 2 0xFF 0 3).toNat = 2 ^ 62 + 3 * 2 ^ 50 + 2 * 2 ^ 45 + 255 * 2 ^ 37 + 3 ∧ (s.causeEntry 3 0 0 0 0xFF 0 3 0).msix = [0] ∧
    (f.pfRaw 0x1FFF8, f.pfBits 0x110 0 32, f.pfBits 0x120 0 32, f.msix) = (0, 4095, 6, []) := by decide +kernel

/-- R345: a record of a scratchpad unit and of a unit of HBM, and a full log. -/
theorem witness_PoisonLog :
    let s := ((armed []).setPf (partReg 0 0x48) 0x500000).setPf (partReg 0 0x50) 8
    let t := s.poisonLog 1 5 (spadPa 1 0x47) 0 9
    let h := s.poisonLog 0 1 0x4C0100 0x2000000100 9
    let full := ((s.setPf (partReg 0 0x58) 256).setPf (partReg 0 0x68) 2).poisonLog 1 5 (spadPa 1 0x47) 0 9
    isSpad (spadPa 1 0x47) = true ∧ s.logIn 0 1 = 1 ∧ isHbm 0x4C0100 = true ∧ s.self = 0 ∧ s.vf = 1 ∧
    ((t.load8 0x500000).toNat, (t.load8 0x500008).toNat) = (2 ^ 61 + 5 * 2 ^ 58 + 0xE01000000040, 2 ^ 55 + 9) ∧
    (h.load8 0x500000).toNat = 2 ^ 62 + 2 ^ 58 + 0x2000000100 ∧ t.pfBits (partReg 0 0x58) 0 32 = 1 ∧
    (full.pfRaw (partReg 0 0x68), full.load8 0x500000, full.pfBits (partReg 0 0x58) 0 32) = (3, 0, 256) := by decide +kernel

/-! ### System registers, VX's side results, frames -/

/-- R31 to R36: identity, MODE, a level's own bank, a read that a write leaves. -/
theorem witness_SystemRegisterMap :
    let s := (atLevel 1 []).upd (fun c => { c with part := 2, det := true, fce := true, vrb := 7, ctr := { c.ctr with cycle := 99 } })
    let t := s.setCsr 1 0x12 77
    (s.csr 1 0).toNat = 13 ∧ (s.csr 1 1).toNat = 2 ^ 21 + 2 * 2 ^ 16 + 255 * 256 + s.self % 256 ∧ (s.csr 2 1).toNat = 2 ^ 21 + 2 * 2 ^ 16 + s.self % 256 ∧
    (t.csr 1 0x12, t.csr 2 0x12, s.csr 1 0x20, s.csr 1 0x30, s.csr 1 0x3F) = (77, 0, 7, 99, 0) ∧
    (csrLevel 0x23, csrLevel 0x28, csrLevel 0x54, csrWritable 0x24 0, csrWritable 0x24 1, csrWritable 0x39 3) = (none, some 0, none, false, true, false) := by decide +kernel

theorem witness_SystemRegisterReadback :
    let s := atLevel 1 []
    let z := armed []
    let v : W64 := 0xFFFFFFFFFFFFFFFF
    s.core.pl = 1 ∧ z.core.pl = 0 ∧ ((z.setCsr 0 0 v).csr 0 0, (s.setCsr 1 0 v).csr 1 0) = (8, 13) ∧
    ((s.setCsr 1 0x11 v).csr 1 0x11, (s.setCsr 1 0x13 v).csr 1 0x13, (s.setCsr 1 0x25 v).csr 1 0x25) = (0x0000FFFFFFFFFFFE, 31, 0xFE00FFFFFFFFFFFC) ∧
    ((s.setCsr 1 0x50 v).core.tokCount 0 0, (s.setCsr 1 0x50 v).core.tokCount 0 1, (s.setCsr 1 0x51 v).csr 1 0x51) = (0, 15, 0xFFFF0FFFFFFFF0FF) := by decide +kernel

/-- R87, R89, R183: a clamped lane, one that wraps within range and an inactive one; a rounding under SR. -/
theorem witness_VxSides :
    let a := { vx 3 9 1 2 3 1 0 with msel := 3, smen := true, sm := 2 }
    let s := ((vregs [lanes0 0x7FFFFFFF 5, lanes0 1 1] (armed [])).setMask 3 0x3).setMask 2 0xFF
    let t := ran (.vxIadd a) s
    let r := { vx 0 9 1 2 3 0 0 with msel := 3, rnd := 5 }
    let f := vregs [lanes0 0x3F800000 0, lanes0 0x33000000 0] (s.upd (fun c => { c with vx := { c.vx with lfsr := lanesOf (fun _ => 1) } }))
    issuesB (.vxIadd a) (srcs2 a) 9 s = true ∧ (t.maskReg 2, t.maskReg 3) = (1, 3) ∧ lane t.core.vx.lfsr 0 = lane (queued (.vxIadd a) s).vxSlot.core.vx.lfsr 0 ∧
    issuesB (.vxFadd r) (srcs2 r) 9 f = true ∧ vxRnd r = .sr ∧
    (lane (ran (.vxFadd r) f).core.vx.lfsr 1, lane (ran (.vxFadd r) f).core.vx.lfsr 2) = (lfsrStep 1, 1) := by decide +kernel

/-- FR.IN of session 0 under way, its slot loading. -/
noncomputable def loading : State :=
  let s := (queued (.frIn (frArgs 0 0 0 0)) framed).updEng .fr (fun x => { x with q := x.q.map (fun y => { y with phase := .started, prog := 1 }) })
  s.upd (fun c => { c with fr := c.fr.updSlot 0 (fun x => { x with st := .loading }) })

/-- R242, R248 to R250: a block in and out, a generation, an entry of the session table; a pool and a home that are read and written. -/
theorem witness_FrameBytes :
    let a := frArgs 0 0 0 0
    let s := loading
    let o := resident 0
    someAnd s.frStarted (fun x => x.prog != 0 && x.img.opc == 2 && decide (FrArgs.ofImage x.img = a)) = true ∧ s.core.fr.fails = [] ∧ s.scrubq = [] ∧
    s.frSrcHeld 2 a = false ∧ s.core.mxKeeps (s.core.fr.slotBase 0) (s.slotBytes 2 a) = false ∧
    okAnd (s.spanPlace .frame 2 0x10000 4096) (fun p => match p with
      | .here l => decide (l.pa = 0x4D0000) && (s.poisonUnits l.pa 4096).isEmpty && (s.poisonUnits (spadPa 0 0x8000) 4096).isEmpty
      | _ => false) = true ∧
    (o.genUp 0 2 0).loadLE (0x4C0080) 4 = 6 ∧
    ((o.frSess 0 2 0).1.valid, (o.frSess 0 2 0).1.size, (o.frSess 0 2 0).1.gen, (o.frSess 0 2 0).1.home) = (true, 1, 5, 0x2000010000) := by decide +kernel

/-! ### What waits, and what a stopped tile does not do -/

/-- R234: an earlier SX.CARRY that still waits is discarded by the next; one that a scan has used completes with it. -/
theorem witness_CarryCompletion :
    let k : SxCarryArgs := ⟨⟨0, 0, 0⟩, ⟨0, 0, 0, 0⟩, 5, 8, true, false⟩
    let s := ran (.sxCarry k) (armed [])
    let t := ran (.sxCarry { k with slots := 7 }) s
    let y (e : Entry) : Entry := { e with phase := .started, prog := 1 }
    let used := s.updEng .sx (fun x => { x with q := x.q.map y })
    let scan := (queued (.sxScan scanArgs) used).updEng .sx (fun x => { x with q := x.q.map (fun e => if e.img.opc = 2 then { e with phase := .finished } else e) })
    someAnd (s.entryIn .sx .started) (fun x => (s.completionTrap .sx x).isNone) = true ∧ carryMask t.core.sx.staged = 7 ∧
    (t.eng .sx).q.map (fun e => e.phase) = [.started] ∧ scan.frozen = false ∧
    (scan.eng .sx).q.map (fun e => (e.phase, e.img.opc)) = [(.started, 4), (.finished, 2)] ∧
    ((after (.entryComplete .sx) scan).eng .sx).q = [] ∧ ((after (.entryComplete .sx) scan).eng .sx).completed = (scan.eng .sx).completed + 2 := by decide +kernel

/-- R215 to R220, R348: EPARG behind an MX.GO that has not ended, set-up in a stopped tile, the stepwise reads of a tile. -/
theorem witness_MatrixWaits :
    let e := eparg 7 0 0x55 0 0 0 0
    let s := queued (.mxEpargBc e) mxStarted
    let stopped := (queued (.mxNest ⟨⟨0, 0, 0⟩, 5, 9, 1, 2, 3, 4⟩) (armed [])).upd (fun c => { c with run := .scanStopped 1 })
    let r : Reading := ⟨3, 0, [], [], [], none, false⟩
    let reading := mxStarted.upd (fun c => { c with mx := { c.mx with reading := some r }, sb := c.sb.setIfInBounds 0 (some ⟨0, 64, 0⟩) })
    let t := after .mxTileBegin reading
    someAnd (s.ready .mx) (fun x => !s.gosDone x) = true ∧ (after (.mxEpargBc e) s).core.mx.e = s.core.mx.e ∧ stopped.frozen = true ∧
    (after (.mxNest ⟨⟨0, 0, 0⟩, 5, 9, 1, 2, 3, 4⟩) stopped).core.mx.staging = stopped.core.mx.staging ∧
    reading.frozen = false ∧ reading.core.mx.mayStore = false ∧ someAnd (reading.core.mx.goAt 3) (fun g => g.steps != 0 &&
      someAnd (r.next g) (fun k => k.2.any (fun y => reading.sbHit y.1 y.2))) = true ∧
    (t.core.rsbHeld, t.core.mx.reading.map (·.held)) = (true, some true) ∧
    (reading.core.mxKeeps 0x40 4) = false ∧ (mxStarted.upd (fun c => { c with mx := { c.mx with reading := some { r with a := [[]] } } })).core.mxKeeps 0x40 4 = true := by decide +kernel

/-- R238: SCAN32 over two steps; the second state is 4 · 1 + 2. -/
theorem witness_Scan32 :
    let t := ran (.sxScan { scanArgs with long := ⟨0, 0, 0, 1⟩ }) (scanning 1)
    let q := t.scanSet false { scanArgs with long := ⟨0, 0, 0, 1⟩ } 0
    (q.prof, q.h, q.z.nb * q.z.l, q.z.mbase, carryIn q.d, carryOut q.d) = (1, some 0x300, 2, none, false, false) ∧ q.c.isNone = true ∧ q.z.nv ≤ q.z.p ∧
    t.scanStarted.isSome = true ∧ (after .sxScanComplete t).loadLE (spadPa 0 0x300) 8 = 0x40C000003F800000 := by decide +kernel

/-- R395, R436: a spare that fails in use, the second spare, an unused spare; a request that names a carried lane. -/
theorem witness_LaneMaps :
    let w (l : BitVec 5) (f : LPort → LPort) : LPort := east (.laneErrorWindow false l 5) (linked f)
    let q (f : LPort → LPort) : LPort := east (.spareReq false 3) (linked f)
    let m (l : LPort) : List (Nat × BitVec 5 × Option (BitVec 5)) := l.moves.map (fun m => (m.failing, m.lane, m.spare))
    let due (n : Nat) : LPort := ((linked (fun x => { x with txMoves := [⟨3, 3, some 16, n⟩] })).sends false 2).port false
    let came (n : Nat) : LPort := ((linked (fun x => { x with narrow := true, moves := [⟨3, 3, some 16, n⟩] })).receives false).port false
    m (w 16 (fun x => { x with sp16 := 3 })) = [(16, 3, some 17)] ∧ m (w 3 (fun x => { x with sp16 := 1, sp17 := 2 })) = [(3, 3, none)] ∧
    ((w 17 id).bad, (w 17 id).moves) = (0x20000, []) ∧ ((linked (fun x => { x with sp16 := 3 })).port false).spareFree 16 = false ∧
    (q (fun x => { x with txSp16 := 3 })).txMoves = [⟨16, 3, some 17, 31⟩] ∧ (q (fun x => { x with txSp17 := 3 })).txMoves = [⟨17, 3, some 16, 31⟩] ∧
    ((due 2).txMoves, (due 1).txMoves, (due 1).txSp16, (due 1).txBad) = ([⟨3, 3, some 16, 0⟩], [], 3, 8) ∧
    ((came 2).moves, (came 1).moves, (came 1).sp16) = ([⟨3, 3, some 16, 0⟩], [], 3) := by decide +kernel

/-! ### The host, the boot, virtual functions -/

/-- R341, R376: a submission that is refused, a stopped package that resets nothing. -/
theorem witness_HostWork_4 :
    let s := submitting.store8 (guestPa 1 0x20040) 0
    let t := after (.submissionQueueRead 1 1) s
    let p : State := { armed [9] with boot := { (armed []).boot with power := .stopped } }
    (match s.submitted 1 1 0 with
      | .error a => a
      | .ok _ => 0) = 0x20000 ∧ s.replays = [] ∧ t.launches = [] ∧ t.pfBits (vfReg 1 0x108) 0 32 = 1 ∧
    t.pfRaw 0x10008 = 2 ^ 48 + 0x20000 ∧ p.tst.soft = false ∧ (after (.partitionResetRequest 0) p).rd 1 = 9 ∧
    (after .watchdog (((grouped 1).setPf (partReg 0 0x10) 100).upd (fun c => { c with wdog := 101 }))).pfRaw 0x10008 = 1 := by decide +kernel

/-- R407 to R413: stages 3 to 7, each with what goes on and what ends. -/
theorem witness_BootAndPower_3 :
    let i := bootIn true true
    let at_ (k : Nat) (m : Bool) : State := { booting k .booting with boot := { (booting k .booting).boot with minimal := m, harvest0 := 0, harvest1 := 0 } }
    let b (k : Nat) (m : Bool) (x : BootIn) : State := after (.bootStage x) (at_ k m)
    let r (k : Nat) (m : Bool) (x : BootIn) : Nat × Nat × Nat := ((b k m x).boot.lreason, (b k m x).boot.lstage, (b k m x).boot.detail.toNat)
    enabledCores 0 0 = List.range 72 ∧ (b 2 true { i with hbmBad := some 3 }).boot.power = .booting ∧ r 2 false { i with hbmBad := some 3 } = (2, 3, 3) ∧
    r 3 false { i with lpddrBad := some 1 } = (3, 4, 1) ∧ (b 3 false i).boot.power = .booting ∧ (b 4 false i).pfRaw 0x58 = 72 ∧ (b 4 false i).pfBits 0x68 8 8 = 9 ∧
    r 4 false i = (0, 0, 0) ∧ (b 6 true i).pfRaw 0 = 0x10 ∧ (b 6 false i).pfRaw 0 = 0x3F := by decide +kernel

theorem witness_BootAndPower_4 :
    let i := bootIn true true
    let bad (m : Bool) : BootIn × State :=
      (i, { booting 5 .booting with boot := { (booting 5 .booting).boot with minimal := m, harvest0 := 0, harvest1 := 0 } })
    let b (l : List Nat) (m : Bool) : State := after (.bootStage { (bad m).1 with badClusters := l }) (bad m).2
    (b [] false).boot.power = .booting ∧ ((b [4, 2] false).boot.lreason, (b [4, 2] false).boot.detail) = (5, 2) ∧
    ((b [0] true).pfRaw 0x58, (b [0] true).pfBits 0x60 0 8, (b [0] true).pfBits 0x60 32 8) = (4, 4, 0xFF) := by decide +kernel

/-- R378, R380: VF 1 stops with two queued records and a launch; its export block; a resume that imports it, and one record alone. -/
theorem witness_VirtualFunctions_3 :
    let e : Nat := 0x600000
    let s : State := ((((tqueued.setPf (vfReg 1 8) 4).setPf (vfReg 1 0x70) 0x600000).setPf (vfReg 1 0x50) 5).upd (fun c => { c with run := .idle, work := none, resident := none }))
    let s : State := { s with launches := [live 1] }
    let t := after (.vfStopComplete 1) s
    let u := after (.vfResume 1) t
    let one := after (.vfResume 1) (t.store8 e 0x100000000)
    s.vfStopping 1 = true ∧ s.vfCores 1 = [] ∧ s.scrubq = [] ∧ (s.exportRecs 1).map (fun x => x.1) = [2, 1] ∧
    (t.load8 e, t.load8 (e + 8), t.load8 (e + 64 + 16), t.load8 (e + 128 + 16)) = (0x200000001, 5, 0x2000, 0x1000) ∧
    (t.load8 (e + 64 + 128), t.load8 (e + 64 + 128 + 8)) = (0x2000000400, 1) ∧ t.vfStopped 1 = true ∧
    (u.pfBits (vfReg 1 0x50) 0 32, u.launches.map (·.lid), u.tq.map (fun x => (x.prio, x.work.d0))) = (5, [1], [(2, 0x2000), (1, 0x1000)]) ∧
    (one.launches, one.tq.map (fun x => (x.prio, x.work.d0, x.id))) = ([], [(2, 0x2000, t.nextSlot)]) ∧
    ((after (.vfResume 1) (((t.store8 e 1).store8 (e + 64 + 8) 1).store8 (e + 64 + 16) 0)).launches.map (fun l => (l.lid, l.nextIdx))) = [(1, 0)] := by decide +kernel

/-- R38, R347: a body begins with s1, little-endian; a queue with its issued and completed numbers.
-/
theorem test_image_body :
    let c := ((armed []).upd (fun c => { c with s := c.s.setIfInBounds 1 0x1234 })).core
    let e : EngState := { (c.eng.get .fe) with issued := 0x104, completed := 0x102 }
    c.ctlBody.take 9 = [0x34, 0x12, 0, 0, 0, 0, 0, 0, 0] ∧ e.queueBody.take 8 = [4, 1, 0, 0, 2, 1, 0, 0] ∧
    c.sx.body.length = 24 ∧ ((imageBytes (c.eng.get .fe).tmpl[0]).length = 32) := by decide +kernel

/-! ### Edges, records and gangs at their other ends -/

/-- R366 to R370: an edge that ends the table with a valid shadow and with an invalid one, one after a donation, with a reset due, and
one that a running core meets. -/
theorem witness_SlotTable_4 :
    let cyc (f : State → State) : State := f { locked with tst := { locked.tst with sent := 2, ent := 1, commit := true, slen := 1 } }
    let good := after .slotEdge (cyc (fun s => { s.setPf 0x20000 0x5000 with tst := { s.tst with fixed := true } }))
    let bad := after .slotEdge (cyc (fun s => s.setPf 0x20020 0xFFFFFFFFFFFFFFFF))
    let gift := after .slotEdge { locked with tst := { locked.tst with sent := 2, passed := [(0, 3)] }, rc := 10 }
    let due := after .slotEdge ({ locked with tst := { locked.tst with sent := 2 } }.setPf (partReg 0 8) 2)
    let run := after .slotEdge { locked with tst := { locked.tst with sent := 2 } }
    (good.tst.len, good.tst.commit, good.tst.err, good.tst.cycles, good.pfRaw 0x28000) = (1, false, 0, locked.tst.cycles + 1, 0x5000) ∧
    (cyc (fun s => s.setPf 0x20020 0xFFFFFFFFFFFFFFFF)).commitNow = false ∧ (cyc id).lastEntry = true ∧
    (bad.tst.len, bad.tst.commit, bad.pfRaw 0x28410) = (2, false, 1) ∧ bad.tst.err ≠ 0 ∧ gift.pfRaw (partReg 0 0x30) = 7 ∧
    due.pfBits (partReg 0 8) 1 1 = 0 ∧ run.core.run = .scanStopped 0 ∧ (run.scanImage 0).any (fun g => g.straggler) = true := by decide +kernel

/-- R360: a halted core without a record comes back halted when its partition holds it again. -/
theorem witness_SlotTable_5 :
    let g : SavedImage := ⟨9, false, 1, 0, 0, 0, 0x800000, { Core.reset with s := Core.reset.s.setIfInBounds 5 77 }, [], [], [], [], [], [], [], true, true, false, true⟩
    let s : State := ({ armed [] with images := [g], tst := { (armed []).tst with cleaning := [0] } }.upd (fun c => { c with run := .cleaning, work := none, resident := none }))
    let t := after .cleaningComplete s
    someAnd (s.haltedImage 0) (fun x => x.parked.isEmpty && x.core.cp.xfers.isEmpty) = true ∧ (s.scanImage 0).isNone = true ∧
    t.core.run = .halted ∧ t.rd 5 = 77 ∧ t.core.resident = some 1 := by decide +kernel

/-- R29, R309, R347: a first record on a core of no context; a saved one whose image stands in memory, whose image has changed; one
that has to wait. -/
theorem witness_RecordEntry_4 :
    let r : TqEntry := ⟨0, 2, ⟨0x2000, 0x10, 0x20, 0x30, 1, 1, 0, 0, false⟩, 0, none, none, 7⟩
    let q (x : TqEntry) (f : Core → Core) : State := { (tqueued.upd f) with tq := [x] }
    let fresh := q r (fun c => { c with resident := none, s := Vector.replicate 32 9 })
    let t := after .coreTakeRecord fresh
    let h : List W64 := [1, 2, 3, 0, 0, 0, 0, 0, 0, 0, 0, 0]
    let g : SavedImage := ⟨9, false, 1, 0, 0, 0, 0x800000, { Core.reset with s := Core.reset.s.setIfInBounds 5 77, work := some r.work }, [], [], [], h, [1, 2, 3, 4], [], [], true, true, false, false⟩
    let held : State := { q { r with img := some 9 } id with images := [g], archive := [g] }
    let ok : State := (h ++ g.hash).zipIdx.foldl (fun (t : State) x => t.store8 (0x800000 + 8 * x.2) x.1) held
    let u := after .coreTakeRecord ok
    let w := after .coreTakeRecord held
    let late := (q r (fun c => { c with resident := some 2 })).sbAlloc 0 9 ⟨0, 64, 3⟩
    fresh.free? = true ∧ (fresh.savedHere 0 1).isNone = true ∧ fresh.core.landed = true ∧ someAnd fresh.chosen (fun x => !fresh.takesFirst x && x == r) = true ∧
    (t.rd 1, t.rd 3, t.core.pc, t.core.resident) = (0x10, 0, 0x2000, some 1) ∧ ok.imageOk g = true ∧ held.imageOk g = false ∧
    (u.rd 5, u.core.run, u.images.length) = (77, .running, 0) ∧ (w.core.run, w.images.length) = (held.core.run, 0) ∧
    late.settled late.cur 1 none = false ∧ (after .coreTakeRecord late).tq = [r] := by decide +kernel

/-- R323, R324: a unit that another gang reserves; a core that a stop has taken since it answered; one that still receives. -/
theorem witness_GangReservation_4 :
    let s := ganged (gang .waiting 0) true
    let two : State := { s with gangs := [gang .waiting 0, { gang .reserving 0 with id := 6, asked := [0] }] }
    let placed : State := (ganged { gang .placed 0 with grants := [0] } true).upd (fun c => { c with reserved := some 5 })
    let lost := placed.upd (fun c => { c with run := .halted })
    let late := (placed.upd (fun c => { c with resident := some 2 })).sbAlloc 0 9 ⟨0, 64, 3⟩
    two.attempted (gang .waiting 0) 0 = true ∧ (after (.gangAttempt 5) two).gangs.map (fun g => (g.st, g.target)) = [(.waiting, some 0), (.reserving, some 0)] ∧
    placed.gangReady { gang .placed 0 with grants := [0] } = true ∧ lost.gangReady { gang .placed 0 with grants := [0] } = false ∧
    (after (.commit 5) lost).gangs.map (fun g => (g.st, g.denied)) = [(.reserving, true)] ∧ late.settled 0 1 none = false ∧
    late.gangReady { gang .placed 0 with grants := [0] } = true ∧ (after (.commit 5) late).gangs.map (·.st) = [.placed] := by decide +kernel

/-- R348, R358: what a debugger does through JTAG. -/
theorem witness_SaveRestore_5 :
    let s := debugged []
    let h := s.jtag 0 0x20 (some 1)
    s.pfBits 0x150 32 1 = 1 ∧ s.debugOn s.part = true ∧ (s.jtag 0 0x30 (some 0xFFFFFFFFFFFFFFFF)).core.dbg.sel = 0xF0000000003FFFFF ∧
    ((s.jtag 0 0x30 (some 5)).jtag 0 0x30 none).hostRd = 5 ∧ h.core.run = .halted ∧ ((after .quiescent h).jtag 0 0x28 none).hostRd.toNat / 8 % 2 = 1 ∧
    (h.jtag 0 0x20 (some 4)).core.run = .running ∧ (armed []).pfBits 0x150 32 1 = 0 ∧ ((armed []).jtag 0 0x30 (some 5)).core.dbg.sel = 0 := by decide +kernel

/-- R394, R395, R397: a replay of a flit that is no longer kept; a spare that fails unused; a request with both spares used; the moves of
the transmitter counted down. -/
theorem witness_LinkPorts_7 :
    let s := linked id
    let tx (n : Nat) : LPort := ((linked (fun x => { x with txMoves := [⟨3, 3, some 16, n⟩] })).sends false 4).port false
    (east (.replayRequest false 9) s).txSeq = 0 ∧ (east (.laneErrorWindow false 16 5) s).bad = 0x10000 ∧
    (after (.laneErrorWindow false 16 5) s).pfRaw 0x10008 = 5 * 2 ^ 24 + 16 * 2 ^ 8 + 0x1F ∧
    (east (.spareReq false 3) (linked (fun x => { x with txSp16 := 1, txSp17 := 2 }))).txMoves = [⟨3, 3, none, 31⟩] ∧
    (east (.spareReq false 1) (linked (fun x => { x with txSp16 := 1 }))).txMoves = [⟨16, 1, some 17, 31⟩] ∧
    ((tx 31).txMoves, (tx 3).txMoves, (tx 3).txSp16, (tx 3).txBad) = ([⟨3, 3, some 16, 27⟩], [], 3, 8) := by decide +kernel

end Sys2Proof.Tests
end

section
/-!
PROOFS for the family 00_scope. Obligation O59: every step keeps the canonical form of memory (log entry 2).

Each function of the model that answers a state has one lemma here, under the heading of the model's file that defines it.
A function that leaves the memory alone, or only moves it on, has the lemma as an equivalence; one that may write has it as
an implication from the invariant of the state it gets. All are `simp` lemmas, so that the lemma of a function follows from
those of the functions it calls.
-/

namespace Sys2Proof.Machine

section

variable {s : State}

/-! ### What carries the invariant

`State.Inv` stays folded in every hypothesis about a function of the model: unfolded, it compares the memories of two
states field by field, and the kernel then evaluates whole accesses. -/

theorem State.inv_iff_wf : s.Inv ↔ Memory.wf s.mem := .rfl

@[simp] theorem State.wf_mem_iff : Memory.wf s.mem = true ↔ s.Inv := .rfl

/-- Of a state record only the memory matters. -/
@[simp] theorem State.inv_mk {a0 a1 a2 m a4 a5 a6 a7 a8 a9 a10 a11 a12 a13 a14 a15 a16 a17 a18 a19 a20 a21 a22 a23 a24
      a25 a26 a27 a28 a29 a30 a31 a32 a33 a34 a35 a36 a37 a38 a39 a40 a41 a42 a43 a44 a45 a46 a47 a48 a49} :
    (State.mk a0 a1 a2 m a4 a5 a6 a7 a8 a9 a10 a11 a12 a13 a14 a15 a16 a17 a18 a19 a20 a21 a22 a23 a24
      a25 a26 a27 a28 a29 a30 a31 a32 a33 a34 a35 a36 a37 a38 a39 a40 a41 a42 a43 a44 a45 a46 a47 a48 a49).Inv ↔ Memory.wf m := .rfl

@[simp] theorem State.inv_ite (c : Prop) [Decidable c] (s t : State) :
    (if c then s else t).Inv ↔ if c then s.Inv else t.Inv := by
  split <;> rfl

theorem State.Inv.ite {c : Prop} [Decidable c] {t u : State} (ht : t.Inv) (hu : u.Inv) : (if c then t else u).Inv := by
  split <;> assumption

@[simp] theorem foldl_inv_iff {α : Type} (l : List α) {f : State → α → State} (hf : ∀ t x, (f t x).Inv ↔ t.Inv) :
    (l.foldl f s).Inv ↔ s.Inv := by
  induction l generalizing s with
  | nil => rfl
  | cons x r ih => rw [List.foldl_cons, ih, hf]

theorem foldl_inv {α : Type} (l : List α) {f : State → α → State} (hf : ∀ t x, t.Inv → (f t x).Inv) (h : s.Inv) :
    (l.foldl f s).Inv :=
  List.foldlRecOn l f h (fun _ v x _ => hf _ x v)

theorem foldl_snd_inv {α β : Type} (l : List α) {f : β × State → α → β × State} (hf : ∀ r x, r.2.Inv → (f r x).2.Inv)
    {r : β × State} (h : r.2.Inv) : (l.foldl f r).2.Inv :=
  List.foldlRecOn (motive := fun r : β × State => r.2.Inv) l f h (fun _ v x _ => hf _ x v)

theorem foldl_fst_inv {α β : Type} (l : List α) {f : State × β → α → State × β} (hf : ∀ r x, r.1.Inv → (f r x).1.Inv)
    {r : State × β} (h : r.1.Inv) : (l.foldl f r).1.Inv :=
  List.foldlRecOn (motive := fun r : State × β => r.1.Inv) l f h (fun _ v x _ => hf _ x v)

/-- The state that an engine entry starts with, where it starts. -/
def OptionInv (o : Option State) : Prop := ∀ t ∈ o, t.Inv

@[simp] theorem optionInv_none : OptionInv none := by simp [OptionInv]

@[simp] theorem optionInv_some (t : State) : OptionInv (some t) ↔ t.Inv := by simp [OptionInv]

theorem OptionInv.ite {c : Prop} [Decidable c] {o p : Option State} (ho : OptionInv o) (hp : OptionInv p) :
    OptionInv (if c then o else p) := by
  split <;> assumption

theorem OptionInv.getD {o : Option State} (ho : OptionInv o) (h : s.Inv) : (o.getD s).Inv := by
  cases o with
  | none => exact h
  | some t => exact ho t rfl

theorem OptionInv.map {o : Option State} {f : State → State} (ho : OptionInv o) (hf : ∀ t, t.Inv → (f t).Inv) :
    OptionInv (o.map f) := by
  cases o with
  | none => exact optionInv_none
  | some t => exact (optionInv_some _).mpr (hf t (ho t rfl))

/-- The state after a read that answers a value or a trap. -/
def ExceptInv {α : Type} (r : Except Trap (α × State)) : Prop := ∀ x t, r = .ok (x, t) → t.Inv

@[simp] theorem exceptInv_error {α : Type} (e : Trap) : ExceptInv (.error e : Except Trap (α × State)) := by simp [ExceptInv]

@[simp] theorem exceptInv_ok {α : Type} (p : α × State) : ExceptInv (.ok p) ↔ p.2.Inv := by
  constructor
  · intro h; exact h p.1 p.2 rfl
  · rintro h x t ⟨⟩; exact h

theorem ExceptInv.bind {α β : Type} {r : Except Trap (α × State)} {f : α × State → Except Trap (β × State)} (hr : ExceptInv r)
    (hf : ∀ p, p.2.Inv → ExceptInv (f p)) : ExceptInv (r >>= f) := by
  cases r with
  | error e => exact exceptInv_error e
  | ok p => exact hf p ((exceptInv_ok p).mp hr)

theorem exceptInv_bind {α β : Type} {r : Except Trap α} {f : α → Except Trap (β × State)} (hf : ∀ x, ExceptInv (f x)) :
    ExceptInv (r >>= f) := by
  cases r with
  | error e => exact exceptInv_error e
  | ok x => exact hf x

/-- The state of a step that may be held back, with the cause it leaves for the boundary. -/
def StepInv (o : Option (State × Option Trap)) : Prop := ∀ t e, o = some (t, e) → t.Inv

@[simp] theorem stepInv_none : StepInv none := by simp [StepInv]

@[simp] theorem stepInv_some (p : State × Option Trap) : StepInv (some p) ↔ p.1.Inv := by
  constructor
  · intro h; exact h p.1 p.2 rfl
  · rintro h t e ⟨⟩; exact h

/-- The state that an instruction leads to. -/
def OutInv (o : Out) : Prop := ∀ t, o = .next t → t.Inv

@[simp] theorem outInv_next (t : State) : OutInv (.next t) ↔ t.Inv := by simp [OutInv]

/-! ### Mem -/

@[simp] theorem State.setByte_inv (h : s.Inv) (a : Nat) (v : Byte) : (s.setByte a v).Inv := State.setByte_wf a v h

@[simp] theorem State.storeLE_inv (h : s.Inv) (a n v : Nat) : (s.storeLE a n v).Inv := State.storeLE_wf a n v h

@[simp] theorem State.store8_inv (h : s.Inv) (a : Nat) (v : W64) : (s.store8 a v).Inv := State.storeLE_wf _ _ _ h

@[simp] theorem State.unpoison_inv (a : Nat) : (s.unpoison a).Inv ↔ s.Inv := .rfl

@[simp] theorem State.setPoison_inv (a : Nat) : (s.setPoison a).Inv ↔ s.Inv := by simp [State.setPoison]

@[simp] theorem State.writeBytes_inv (h : s.Inv) (a : Nat) (l : List Byte) : (s.writeBytes a l).Inv := State.writeBytes_wf a l h

@[simp] theorem State.zeroUnit_inv (h : s.Inv) (u : Nat) : (s.zeroUnit u).Inv := State.zeroUnit_wf u h

theorem Memory.wfFrom_append {m n : List Host.Cell} {lo b : Nat} (hm : Memory.wfFrom lo m) (hn : Memory.wfFrom b n)
    (hb : ∀ c ∈ m, c.1 < b) (h : lo ≤ b) : Memory.wfFrom lo (m ++ n) := by
  induction m generalizing lo with
  | nil => exact Memory.wfFrom_mono h hn
  | cons c r ih =>
    simp only [Memory.wfFrom, List.cons_append, Bool.and_eq_true, decide_eq_true_eq] at hm ⊢
    exact ⟨hm.1, ih hm.2 (fun d hd => hb d (by simp [hd])) (hb c (by simp))⟩

theorem cellsOf_wfFrom (a : Nat) (l : List Byte) : Memory.wfFrom a (cellsOf a l) := by
  induction l generalizing a with
  | nil => rfl
  | cons b r ih =>
    rw [cellsOf, nat_beq_decide, Bool.cond_decide]
    split
    · exact Memory.wfFrom_mono (Nat.le_succ a) (ih _)
    · simp_all [Memory.wfFrom, BitVec.toNat_eq]

theorem cellsOf_lt (a : Nat) (l : List Byte) : ∀ c ∈ cellsOf a l, c.1 < a + l.length := by
  induction l generalizing a with
  | nil => simp [cellsOf]
  | cons b r ih =>
    intro c hc
    rw [cellsOf, nat_beq_decide, Bool.cond_decide] at hc
    split at hc
    · have := ih _ c hc; simp only [List.length_cons]; omega
    · obtain rfl | hc := List.mem_cons.mp hc
      · simp
      · have := ih _ c hc; simp only [List.length_cons]; omega

theorem Memory.wfFrom_filter_ge {m : List Host.Cell} {lo : Nat} (w : Memory.wfFrom lo m) (b : Nat) :
    Memory.wfFrom b (m.filter (fun c => decide (b ≤ c.1))) := by
  induction m generalizing lo with
  | nil => rfl
  | cons c r ih =>
    simp only [Memory.wfFrom, Bool.and_eq_true, decide_eq_true_eq] at w
    rw [List.filter_cons]
    split
    · simp only [Memory.wfFrom, Bool.and_eq_true]
      exact ⟨⟨by assumption, w.1.2⟩, Memory.wfFrom_filter _ w.2⟩
    · exact ih w.2

theorem Memory.wf_putBlock {m : List Host.Cell} (w : Memory.wf m) (a : Nat) (l : List Byte) : Memory.wf (Memory.putBlock m a l) := by
  refine Memory.wfFrom_append (b := a + l.length) (Memory.wfFrom_append (b := a) (Memory.wf_filter _ w) (cellsOf_wfFrom a l) ?_ (Nat.zero_le a))
    (Memory.wfFrom_filter_ge w _) ?_ (Nat.zero_le _)
  · intro c hc; simpa using (List.mem_filter.mp hc).2
  · intro c hc
    obtain hc | hc := List.mem_append.mp hc
    · have : c.1 < a := by simpa using (List.mem_filter.mp hc).2
      omega
    · exact cellsOf_lt a l c hc

@[simp] theorem State.putBlock_inv (h : s.Inv) (a : Nat) (l : List Byte) : (s.putBlock a l).Inv := Memory.wf_putBlock h a l

@[simp] theorem State.setPf_inv (off : Nat) (v : W64) : (s.setPf off v).Inv ↔ s.Inv := .rfl

@[simp] theorem State.setPfBits_inv (off lo n v : Nat) : (s.setPfBits off lo n v).Inv ↔ s.Inv := .rfl

@[simp] theorem State.addPf_inv (off k : Nat) : (s.addPf off k).Inv ↔ s.Inv := .rfl

@[simp] theorem State.setCoreAt_inv (p : Nat) (c : Core) : (s.setCoreAt p c).Inv ↔ s.Inv := by simp [State.setCoreAt]

@[simp] theorem State.focus_inv (p : Nat) : (s.focus p).Inv ↔ s.Inv := by simp [State.focus]

@[simp] theorem State.upd_inv (f : Core → Core) : (s.upd f).Inv ↔ s.Inv := .rfl

@[simp] theorem State.updAt_inv (p : Nat) (f : Core → Core) : (s.updAt p f).Inv ↔ s.Inv := by
  simp [State.updAt]

theorem State.withCore_inv {f : State → State} (hf : ∀ t, t.Inv → (f t).Inv) (h : s.Inv) (p : Nat) : (s.withCore p f).Inv := by
  simp [State.withCore, hf, h]

@[simp] theorem State.setEvent_inv (p : Nat) : (s.setEvent p).Inv ↔ s.Inv := by simp [State.setEvent]

@[simp] theorem State.draw_inv (h : s.Inv) : s.draw.2.Inv := by simp [State.draw, h]

/-! ### Llc -/

@[simp] theorem State.llcTouch_inv (a q : Nat) (ctx : BitVec 9) (write : Bool) : (s.llcTouch a q ctx write).Inv ↔ s.Inv := by
  simp [State.llcTouch]

@[simp] theorem State.llcTouchAll_inv (a n q : Nat) (ctx : BitVec 9) (write : Bool) : (s.llcTouchAll a n q ctx write).Inv ↔ s.Inv := by
  simp [State.llcTouchAll]

@[simp] theorem State.causeEntry_inv (kind eng vf part core code sub : Nat) (detail : W64) :
    (s.causeEntry kind eng vf part core code sub detail).Inv ↔ s.Inv := by
  simp [State.causeEntry]

@[simp] theorem State.llcWrites_inv (a n q : Nat) (ctx : BitVec 9) : (s.llcWrites a n q ctx).Inv ↔ s.Inv := by simp [State.llcWrites]

@[simp] theorem State.hwAfter_inv (s t : State) (a n q : Nat) (ctx : BitVec 9) : (s.hwAfter t a n q ctx).Inv ↔ t.Inv := by
  simp [State.hwAfter]

@[simp] theorem State.hwWriteFor_inv (h : s.Inv) (q : Nat) (ctx : BitVec 9) (a : Nat) (l : List Byte) :
    (s.hwWriteFor q ctx a l).Inv := by
  rw [State.inv_iff_wf, State.hwWriteFor_mem]; exact State.putBytes_wf a l h

@[simp] theorem State.hwBlock_inv (h : s.Inv) (q : Nat) (ctx : BitVec 9) (a : Nat) (l : List Byte) : (s.hwBlock q ctx a l).Inv := by
  simp [State.hwBlock, h]

@[simp] theorem State.devWrite_inv (h : s.Inv) (a q : Nat) (ctx : BitVec 9) (l : List Byte) : (s.devWrite a q ctx l).Inv :=
  State.devWrite_wf a q ctx l h

@[simp] theorem State.hwStore8_inv (h : s.Inv) (a : Nat) (v : W64) : (s.hwStore8 a v).Inv := State.hwWrite_wf _ _ h

@[simp] theorem State.scrubGuard_inv {t : State} (h : s.Inv) (v : t.Inv) : (s.scrubGuard t).Inv := by
  unfold State.scrubGuard; split <;> assumption

@[simp] theorem State.poisonLog_inv (h : s.Inv) (kind eng a ga : Nat) (seq : W32) : (s.poisonLog kind eng a ga seq).Inv :=
  State.poisonLog_wf kind eng a ga seq h

/-! ### Reset -/

@[simp] theorem State.clearSpad_inv (h : s.Inv) (p : Nat) : (s.clearSpad p).Inv := Memory.wf_clear _ _ h

@[simp] theorem State.coreReset_inv (h : s.Inv) (p q : Nat) : (s.coreReset p q).Inv := by simp [State.coreReset, h]

@[simp] theorem State.replay_inv (q : Nat) : (s.replay q).Inv ↔ s.Inv := .rfl

@[simp] theorem State.dropFlits_inv (q : Nat) : (s.dropFlits q).Inv ↔ s.Inv := by simp [State.dropFlits]

@[simp] theorem State.partitionReset_inv (h : s.Inv) (q code core vf lid : Nat) :
    (s.partitionReset q code core vf lid).Inv := by
  unfold State.partitionReset
  split
  · exact h
  · simp only [State.replay_inv, State.inv_mk, State.wf_mem_iff, State.dropFlits_inv]
    exact foldl_inv _ (fun t p v => by simp [v]) (by simp [h])

@[simp] theorem State.packageStop_inv (code : Nat) (v : W64) : (s.packageStop code v).Inv ↔ s.Inv := by simp [State.packageStop]

/-! ### Ops -/

@[simp] theorem State.wr_inv (r : Reg) (v : W64) : (s.wr r v).Inv ↔ s.Inv := by simp [State.wr]

@[simp] theorem State.setBank_inv (n : Nat) (b : Bank) : (s.setBank n b).Inv ↔ s.Inv := .rfl

@[simp] theorem State.retireTo_inv (n : Addr) : (s.retireTo n).Inv ↔ s.Inv := .rfl

@[simp] theorem State.retire_inv (n : Nat) : (s.retire n).Inv ↔ s.Inv := .rfl

@[simp] theorem State.jump_inv (a : Addr) : (s.jump a).Inv ↔ s.Inv := .rfl

@[simp] theorem State.enter_inv (h g c2 code : Nat) (v : W64) (seq : W32) (epc : Addr) (arv : Bool) :
    (s.enter h g c2 code v seq epc arv).Inv ↔ s.Inv := .rfl

@[simp] theorem State.raise_inv (h : s.Inv) (g : Nat) (t : Trap) (seq : W32) (epc : Addr) : (s.raise g t seq epc).Inv := by
  simp [State.raise, h]

@[simp] theorem State.trap_inv (h : s.Inv) (t : Trap) : (s.trap t).Inv := by simp [State.trap, h]

@[simp] theorem State.trapWith_inv (h : s.Inv) (c : Cause) (v : W64) : (s.trapWith c v).Inv := by simp [State.trapWith, h]

@[simp] theorem State.illegal_inv (h : s.Inv) : s.illegal.Inv := by simp [State.illegal, h]

@[simp] theorem State.privilege_inv (h : s.Inv) : s.privilege.Inv := by simp [State.privilege, h]

@[simp] theorem State.updEng_inv (e : Eng) (f : EngState → EngState) : (s.updEng e f).Inv ↔ s.Inv := .rfl

@[simp] theorem State.engineFault_inv (e : Eng) (t : Trap) (seq : W32) : (s.engineFault e t seq).Inv ↔ s.Inv := .rfl

@[simp] theorem State.takeHeld_inv (h : s.Inv) : s.takeHeld.Inv := by unfold State.takeHeld; split <;> simp [h]

@[simp] theorem State.resumeQueues_inv : s.resumeQueues.Inv ↔ s.Inv := .rfl

@[simp] theorem State.returnFrom_inv (n p : Nat) : (s.returnFrom n p).Inv ↔ s.Inv := by simp [State.returnFrom]

@[simp] theorem State.waitIn_inv (w : Wait) : (s.waitIn w).Inv ↔ s.Inv := .rfl

@[simp] theorem State.whenUp_inv {t : State} (h : s.Inv) (v : t.Inv) : (s.whenUp t).Inv := by
  unfold State.whenUp; split <;> assumption

/-! ### Access -/

@[simp] theorem State.lineRead_inv (x : Nat) : (s.lineRead x).Inv ↔ s.Inv := by simp [State.lineRead]

@[simp] theorem State.touchRead_inv (eng : Nat) (l : Loc) (n : Nat) : (s.touchRead eng l n).Inv ↔ s.Inv := by
  unfold State.touchRead; split <;> simp

@[simp] theorem State.acquire_inv (wide : Bool) : (s.acquire wide).Inv ↔ s.Inv := by simp [State.acquire]

@[simp] theorem State.readZ_inv (h : s.Inv) (eng : Nat) (seq : W32) (l : Loc) (n : Nat) : (s.readZ eng seq l n).2.Inv := by
  simp only [State.readZ, State.touchRead_inv]
  exact foldl_inv _ (fun t u v => State.poisonLog_inv v ..) h

@[simp] theorem State.dirtied_inv (h : s.Inv) (l : Loc) : (s.dirtied l).Inv := State.dirtied_wf l h

@[simp] theorem State.writeZ_inv (h : s.Inv) (eng : Nat) (seq : W32) (l : Loc) (data : List Byte) : (s.writeZ eng seq l data).Inv := by
  have v {l' : List Nat} {f g : Nat → Nat} : ((l'.foldl (fun s u => (s.poisonLog 1 eng (f u) (g u) seq).zeroUnit u) s).dirtied l).Inv :=
    State.dirtied_inv (foldl_inv _ (fun _ u v => State.zeroUnit_inv (State.poisonLog_inv v ..) u) h) l
  unfold State.writeZ
  split
  · exact State.devWrite_inv v ..
  · exact State.writeBytes_inv v ..

@[simp] theorem State.sbAlloc_inv (p i : Nat) (e : SbEntry) : (s.sbAlloc p i e).Inv ↔ s.Inv := by simp [State.sbAlloc]

@[simp] theorem State.sbRetire_inv (p i : Nat) : (s.sbRetire p i).Inv ↔ s.Inv := by simp [State.sbRetire]

@[simp] theorem State.rsbStall_inv : s.rsbStall.Inv ↔ s.Inv := .rfl

@[simp] theorem State.sieveNote_inv (store : Bool) (a n : Nat) : (s.sieveNote store a n).Inv ↔ s.Inv := by simp [State.sieveNote]

@[simp] theorem State.sieveClear_inv (q : Nat) : (s.sieveClear q).Inv ↔ s.Inv := .rfl

@[simp] theorem State.judge_inv (h : s.Inv) (det store : Bool) (l : Loc) (ga n : Nat) : (s.judge det store l ga n).1.Inv := by
  unfold State.judge
  repeat' split
  all_goals simp [h]

@[simp] theorem State.countParked_inv (h : s.Inv) (id : Nat) : (s.countParked id).Inv := by
  unfold State.countParked; split <;> simp [h]

@[simp] theorem State.writeParked_inv (h : s.Inv) (i : SavedImage) (k : Nat) : (s.writeParked i k).Inv := by
  simp [State.writeParked, h]

@[simp] theorem State.parkInImage_inv (h : s.Inv) (id : Nat) (x : Parked) : (s.parkInImage id x).Inv := by
  simp only [State.parkInImage]
  split <;> simp [h]

@[simp] theorem State.parkAt_inv (h : s.Inv) (p : Nat) (r : Reach) (x : Parked) : (s.parkAt p r x).Inv := by
  unfold State.parkAt; split <;> simp [h]

@[simp] theorem State.parkRun_inv (h : s.Inv) (e : Eng) (pl : Place) : (s.parkRun e pl).Inv := by
  unfold State.parkRun; split <;> simp [h]

@[simp] theorem State.parkRuns_inv (h : s.Inv) (e : Eng) (l : List (Nat × Nat × Place)) : (s.parkRuns e l).Inv :=
  foldl_inv _ (fun _ _ v => State.parkRun_inv v ..) h

@[simp] theorem State.sentTurns_inv (p src eng dst off : Nat) : (s.sentTurns p src eng dst off).Inv ↔ s.Inv := by
  simp [State.sentTurns]

@[simp] theorem State.runsMade_inv (e : Eng) (l : List (Nat × Nat × Place)) : (s.runsMade e l).Inv ↔ s.Inv := .rfl

@[simp] theorem State.atomic_inv {f : State → State} (hf : ∀ t, t.Inv → (f t).Inv) (h : s.Inv) (eng : Nat) (seq : W32) (l : Loc) :
    (s.atomic eng seq l f).Inv := by
  have v := State.dirtied_inv (State.zeroUnit_inv (State.poisonLog_inv h 1 eng l.pa (l.unitGa (l.pa / 64)) seq) (l.pa / 64)) l
  simp only [State.atomic]
  repeat' split
  all_goals simp [hf, h, v]

@[simp] theorem State.wakeArrived_inv (a q : Nat) : (s.wakeArrived a q).Inv ↔ s.Inv := by simp [State.wakeArrived]

@[simp] theorem State.arrive_inv (h : s.Inv) (a q c : Nat) (marked : Bool) : (s.arrive a q c marked).Inv := by
  have v {t : State} (ht : t.Inv) (x y : Nat) : (((t.storeLE (a + 4) 4 x).storeLE a 4 y).storeLE (a + 32) 32 0).Inv :=
    State.storeLE_inv (State.storeLE_inv (State.storeLE_inv ht ..) ..) ..
  simp only [State.arrive]
  split
  · exact h
  · split <;> split
    · split <;> simp [h, v]
    · exact State.storeLE_inv (State.setByte_inv h ..) ..
    · split <;> simp [h, v]
    · exact State.storeLE_inv h ..

/-! ### Flags -/

@[simp] theorem State.setCsr_inv (pl n : Nat) (v : W64) : (s.setCsr pl n v).Inv ↔ s.Inv := by unfold State.setCsr; split <;> simp

/-! ### CtlAlu -/

@[simp] theorem State.result_inv (sd : Reg) (v : W64) (n : Nat) : (s.result sd v n).Inv ↔ s.Inv := by simp [State.result]

@[simp] theorem execNop_inv (h : s.Inv) : OutInv (execNop s) := by simp [execNop, h]

/-! ### CtlBranch -/

@[simp] theorem State.branch_inv (taken : Bool) (target : Addr) (n : Nat) : (s.branch taken target n).Inv ↔ s.Inv := by
  simp [State.branch]

@[simp] theorem State.jumpReg_inv (h : s.Inv) (target : Addr) (lnk : Option Reg) (n : Nat) : (s.jumpReg target lnk n).Inv := by
  unfold State.jumpReg
  repeat' split
  all_goals simp [h]

@[simp] theorem execJ_inv (h : s.Inv) (off : BitVec 22) : OutInv (execJ off s) := by simp [execJ, h]

@[simp] theorem execJX_inv (h : s.Inv) (lit : W32) : OutInv (execJX lit s) := by simp [execJX, h]

@[simp] theorem execJal_inv (h : s.Inv) (sd : Reg) (off : BitVec 12) : OutInv (execJal sd off s) := by simp [execJal, h]

@[simp] theorem execJalX_inv (h : s.Inv) (sd : Reg) (lit : W32) : OutInv (execJalX sd lit s) := by simp [execJalX, h]

@[simp] theorem State.openLoop_inv (h : s.Inv) (n : W32) (lvl : Bool) (lenm1 : BitVec 6) (k : Nat) : (s.openLoop n lvl lenm1 k).Inv := by
  simp [State.openLoop, h]

@[simp] theorem State.rotate_inv (amt : BitVec 5) : (s.rotate amt).Inv ↔ s.Inv := .rfl

@[simp] theorem execBrot_inv (h : s.Inv) (sa : Reg) (rot : BitVec 5) (off : BitVec 12) : OutInv (execBrot sa rot off s) := by
  simp [execBrot, h]

@[simp] theorem execRot_inv (h : s.Inv) (amt : BitVec 5) : OutInv (execRot amt s) := by simp [execRot, h]

@[simp] theorem execSetvrb_inv (h : s.Inv) (sa : Reg) (imm : BitVec 12) : OutInv (execSetvrb sa imm s) := by simp [execSetvrb, h]

/-! ### Queue -/

@[simp] theorem State.whenLive_inv {t : State} (h : s.Inv) (v : t.Inv) : (s.whenLive t).Inv := by
  unfold State.whenLive; split <;> assumption

@[simp] theorem State.updEntry_inv (e : Eng) (seq : W32) (f : Entry → Entry) : (s.updEntry e seq f).Inv ↔ s.Inv := .rfl

@[simp] theorem State.pinSlots_inv (mask : Nat) (f : Nat → Nat) : (s.pinSlots mask f).Inv ↔ s.Inv := by
  simp [State.pinSlots]

@[simp] theorem State.append_inv (e : Eng) (m : Image) : (s.append e m).Inv ↔ s.Inv := by simp [State.append]

@[simp] theorem State.issue_inv (h : s.Inv) (e : Eng) (m : Image) (n : Nat) : (s.issue e m n).Inv := by simp [State.issue, h]

@[simp] theorem State.setTemplate_inv (e : Eng) (t : BitVec 6) (m : Image) : (s.setTemplate e t m).Inv ↔ s.Inv := .rfl

@[simp] theorem execEngineDispatch_inv (h : s.Inv) (e : Eng) (sz : ImgSize) (img : Image) : OutInv (execEngineDispatch e sz img s) := by
  simp [execEngineDispatch, h]

@[simp] theorem execTemplateStore_inv (h : s.Inv) (e : Eng) (sz : ImgSize) (tix : BitVec 6) (img : Image) :
    OutInv (execTemplateStore e sz tix img s) := by
  simp [execTemplateStore, h]

@[simp] theorem execPatch_inv (h : s.Inv) (e : Eng) (tix : BitVec 6) (fsel : BitVec 4) (val : H16) :
    OutInv (execPatch e tix fsel val s) := by
  simp [execPatch, h]

@[simp] theorem execPatchS_inv (h : s.Inv) (e : Eng) (tix : BitVec 6) (fsel : BitVec 4) (val : H16) :
    OutInv (execPatchS e tix fsel val s) := by
  simp [execPatchS, h]

@[simp] theorem execPatchSN_inv (h : s.Inv) (e : Eng) (tix : BitVec 6) (fsel : BitVec 4) (val : H16) :
    OutInv (execPatchSN e tix fsel val s) := by
  simp [execPatchSN, h]

@[simp] theorem execQueueSpaceAppend_inv (h : s.Inv) : OutInv (execQueueSpaceAppend s) := by
  unfold execQueueSpaceAppend; split <;> simp [h]

@[simp] theorem execTwait_inv (h : s.Inv) (mask : Byte) : OutInv (execTwait mask s) := by simp [execTwait, h]

@[simp] theorem execTwaitComplete_inv (h : s.Inv) : OutInv (execTwaitComplete s) := by unfold execTwaitComplete; split <;> simp [h]

@[simp] theorem execTsig_inv (h : s.Inv) (mask : Byte) : OutInv (execTsig mask s) := by simp [execTsig, h]

@[simp] theorem State.nowIdle_inv : s.nowIdle.Inv ↔ s.Inv := .rfl

@[simp] theorem State.start_inv (e : Eng) (x : Entry) (p : Phase) : (s.start e x p).Inv ↔ s.Inv := .rfl

@[simp] theorem State.startDone_inv (e : Eng) (x : Entry) (t : Option Trap) : (s.startDone e x t).Inv ↔ s.Inv := .rfl

@[simp] theorem State.finish_inv (e : Eng) (seq : W32) (t : Option Trap) : (s.finish e seq t).Inv ↔ s.Inv := .rfl

@[simp] theorem State.completeEntry_inv (e : Eng) (x : Entry) : (s.completeEntry e x).Inv ↔ s.Inv := by
  unfold State.completeEntry; split <;> simp

@[simp] theorem State.completeNow_inv (e : Eng) (y : Entry) : (s.completeNow e y).Inv ↔ s.Inv := by simp [State.completeNow]

@[simp] theorem execEntryComplete_inv (h : s.Inv) (e : Eng) : OutInv (execEntryComplete e s) := by
  simp only [execEntryComplete]
  repeat' split
  all_goals simp [h]

@[simp] theorem execEngineFaultTaken_inv (h : s.Inv) : OutInv (execEngineFaultTaken s) := by simp [execEngineFaultTaken, h]

@[simp] theorem State.starting_inv {f : State → Entry → Option State} (hf : ∀ x, OptionInv (f s x)) (h : s.Inv) (e : Eng) :
    (s.starting e f).Inv := by
  unfold State.starting
  repeat' split
  · exact h
  · refine State.scrubGuard_inv h ?_
    exact OptionInv.getD (hf _) h
  · exact h

/-! ### Remote -/

@[simp] theorem State.amoAt_inv (h : s.Inv) (a fn : Nat) (dbl : Bool) (v new : W64) : (s.amoAt a fn dbl v new).1.Inv := by
  simp only [State.amoAt]
  split <;> simp [h]

@[simp] theorem State.barInitAt_inv (h : s.Inv) (a count : Nat) : (s.barInitAt a count).Inv := by
  simp only [State.barInitAt, State.inv_mk, State.wf_mem_iff]
  exact State.storeLE_inv (State.storeLE_inv (State.storeLE_inv h ..) ..) ..

@[simp] theorem State.ctlArrive_inv (h : s.Inv) (a q c : Nat) (det : Bool) : (s.ctlArrive a q c det).Inv := by
  simp [State.ctlArrive, h]

@[simp] theorem State.post_inv (src dst : Nat) (part : BitVec 5) (m : FlitMsg) : (s.post src dst part m).Inv ↔ s.Inv := .rfl

@[simp] theorem State.performRemote_inv (h : s.Inv) (p : Nat) (r : Remote) : (s.performRemote p r).1.Inv := by
  simp only [State.performRemote]
  repeat' split
  all_goals simp [h]

@[simp] theorem State.treatRemote_inv (h : s.Inv) (p : Nat) (r : Remote) : (s.treatRemote p r).1.Inv := by
  unfold State.treatRemote; split <;> simp [h]

@[simp] theorem State.sendReply_inv (p : Nat) (r : Remote) (a : Reply) : (s.sendReply p r a).Inv ↔ s.Inv := .rfl

@[simp] theorem State.sendRemote_inv (p : Nat) (r : Remote) : (s.sendRemote p r).Inv ↔ s.Inv := .rfl

@[simp] theorem State.remoteTrap_inv (h : s.Inv) (t : Trap) : (s.remoteTrap t).Inv := by simp [State.remoteTrap, h]

@[simp] theorem State.remoteDone_inv (words : Nat) : (s.remoteDone words).Inv ↔ s.Inv := by simp [State.remoteDone]

@[simp] theorem State.leaveRemote_inv (p : Nat) : (s.leaveRemote p).Inv ↔ s.Inv := by
  unfold State.leaveRemote
  repeat' split
  all_goals simp [State.withCore]

@[simp] theorem State.completeRemote_inv (h : s.Inv) (p : Nat) (r : Remote) (a : Reply) : (s.completeRemote p r a).Inv := by
  unfold State.completeRemote
  repeat' split
  all_goals simp [h]

@[simp] theorem State.remote_inv (h : s.Inv) (p : Nat) (r : Remote) : (s.remote p r).Inv := by
  simp only [State.remote]
  repeat' split
  all_goals simp [h]

@[simp] theorem State.updXfer_inv (p xid : Nat) (f : Xfer → Xfer) : (s.updXfer p xid f).Inv ↔ s.Inv := by
  simp [State.updXfer]

@[simp] theorem State.beginRecv_inv (x : Xfer) (j : Nat) (r : Recv) : (s.beginRecv x j r).Inv ↔ s.Inv := by
  unfold State.beginRecv
  repeat' split
  all_goals simp

@[simp] theorem State.landBytes_inv (h : s.Inv) (p o : Nat) (d : List Byte) (src : Nat) (seq : W32) : (s.landBytes p o d src seq).Inv :=
  State.withCore_inv (fun _ v => State.writeZ_inv v ..) h _

@[simp] theorem State.applyParked_inv (h : s.Inv) (p : Nat) (l : List Parked) : (s.applyParked p l).Inv := by
  induction l generalizing s with
  | nil => exact h
  | cons x r ih =>
    cases x with
    | signal o q l marked =>
      simp only [State.applyParked]
      refine ih ?_
      rw [State.setEvent_inv]
      split <;> simp [h]
    | _ => exact ih (by simp [h])

/-! ### Save -/

@[simp] theorem State.logicalStop_inv (p : Nat) (donate : Bool) : (s.logicalStop p donate).Inv ↔ s.Inv := by simp [State.logicalStop]

@[simp] theorem State.placeSpad_inv (h : s.Inv) (p : Nat) (i : SavedImage) : (s.placeSpad p i).Inv :=
  foldl_inv (s := s.clearSpad p) i.spad (fun _ _ v => State.setByte_inv v ..) (State.clearSpad_inv h p)

@[simp] theorem State.storeDoubles_inv (h : s.Inv) (q : Nat) (ctx : BitVec 9) (a : Nat) (l : List W64) : (s.storeDoubles q ctx a l).Inv :=
  State.hwWriteFor_inv h ..

@[simp] theorem State.writeParkedList_inv (h : s.Inv) (i : SavedImage) : (s.writeParkedList i).Inv :=
  foldl_inv _ (fun _ _ v => State.writeParked_inv v ..) h

@[simp] theorem State.addImage_inv (i : SavedImage) : (s.addImage i).Inv ↔ s.Inv := .rfl

@[simp] theorem State.freeArea_inv : s.freeArea.Inv ↔ s.Inv := .rfl

@[simp] theorem State.writeImage_inv (h : s.Inv) (halted : Bool) : (s.writeImage halted).Inv := by simp [State.writeImage, h]

@[simp] theorem State.requeue_inv (e : TqEntry) : (s.requeue e).Inv ↔ s.Inv := by simp [State.requeue]

@[simp] theorem State.saveCore_inv (h : s.Inv) (halted : Bool) : (s.saveCore halted).Inv := by
  unfold State.saveCore; split <;> simp [h]

@[simp] theorem State.dropImage_inv (id : Nat) : (s.dropImage id).Inv ↔ s.Inv := .rfl

@[simp] theorem State.rebindXfer_inv (x : Xfer) : (s.rebindXfer x).Inv ↔ s.Inv := by simp [State.rebindXfer]

@[simp] theorem State.loadImage_inv (h : s.Inv) (i : SavedImage) (run : Run) : (s.loadImage i run).Inv := by simp [State.loadImage, h]

@[simp] theorem State.shareImage_inv (h : s.Inv) (i : SavedImage) : (s.shareImage i).Inv := by simp [State.shareImage, h]

@[simp] theorem State.resumeIfFree_inv : s.resumeIfFree.Inv ↔ s.Inv := by simp [State.resumeIfFree]

@[simp] theorem State.leaveContext_inv (h : s.Inv) : s.leaveContext.Inv := by unfold State.leaveContext; split <;> simp [h]

@[simp] theorem State.switchContext_inv (h : s.Inv) (vf : BitVec 9) : (s.switchContext vf).Inv := by
  have v := State.coreReset_inv (State.leaveContext_inv h) s.cur s.part
  simp only [State.switchContext]
  repeat' split
  all_goals simp [h, v]

@[simp] theorem State.scanStop_inv (p reason : Nat) (a : Addr) (halted : Bool) : (s.scanStop p reason a halted).Inv ↔ s.Inv := by
  simp [State.scanStop]

@[simp] theorem State.updImage_inv (id : Nat) (f : SavedImage → SavedImage) : (s.updImage id f).Inv ↔ s.Inv := .rfl

/-! ### Sched -/

theorem State.readDouble_inv (h : s.Inv) (ag : Agent) (ga : Nat) : ExceptInv (s.readDouble ag ga) := by
  refine exceptInv_bind fun p => ?_
  cases p with
  | here l => simp only; split <;> [exact exceptInv_error _; exact (exceptInv_ok _).mpr (State.readZ_inv h ..)]
  | remote p o => exact exceptInv_error _

theorem State.readDoubles_inv (h : s.Inv) (ag : Agent) (ga n : Nat) : ExceptInv (s.readDoubles ag ga n) := by
  induction n generalizing s ga with
  | zero => exact (exceptInv_ok _).mpr h
  | succ k ih =>
    exact (State.readDouble_inv h ag ga).bind fun p v => (ih v _).bind fun q w => (exceptInv_ok _).mpr w

@[simp] theorem State.enqueueAt_inv (part : BitVec 5) (prio : Nat) (r : Rec) (gang img : Option Nat) :
    (s.enqueueAt part prio r gang img).Inv ↔ s.Inv := .rfl

@[simp] theorem State.enqueue_inv (part : BitVec 5) (r : Rec) : (s.enqueue part r).Inv ↔ s.Inv := .rfl

@[simp] theorem State.spawnOr_inv (d : List W64) (prio : BitVec 2) : (s.spawnOr d prio).Inv ↔ s.Inv := by simp [State.spawnOr]

@[simp] theorem execSpawn_inv (h : s.Inv) (sa : Reg) (prio : BitVec 2) : OutInv (execSpawn sa prio s) := by
  have v := State.readDoubles_inv h (.ctl s.core.pl) (s.addr sa).toNat 4
  simp only [execSpawn, outInv_next]
  repeat' split
  · simp [h]
  · simp [h]
  · next heq => simp [v _ _ heq]

@[simp] theorem execSpawnAppend_inv (h : s.Inv) : OutInv (execSpawnAppend s) := by unfold execSpawnAppend; split <;> simp [h]

theorem State.continuation_inv (h : s.Inv) (cont : Nat) : ExceptInv (s.continuation cont) := by
  have v := State.readDoubles_inv h (.ctl s.core.pl) cont 4
  unfold State.continuation
  repeat' split
  · exact exceptInv_error _
  · exact exceptInv_error _
  · next heq => exact heq ▸ v

@[simp] theorem State.joinAt_inv (h : s.Inv) (l : Loc) : (s.joinAt l).Inv := by
  have v : ((s.atomic 0 0 l (fun x => x.store8 l.pa (x.load8 l.pa - 1))).acquire true).Inv :=
    (State.acquire_inv _).mpr (State.atomic_inv (fun _ w => State.store8_inv w ..) h ..)
  simp only [State.joinAt]
  generalize (s.atomic 0 0 l _).acquire true = t at v ⊢
  repeat' split
  · simp [v]
  · next heq => simp [State.continuation_inv v _ _ _ heq]
  · simp [v]

@[simp] theorem execJoin_inv (h : s.Inv) (sa : Reg) : OutInv (execJoin sa s) := by
  simp only [execJoin]
  repeat' split
  all_goals simp [h]

theorem State.preloads_inv (h : s.Inv) (ag : Agent) (ga n : Nat) : ExceptInv (s.preloads ag ga n) := by
  induction n generalizing s ga with
  | zero => exact (exceptInv_ok _).mpr h
  | succ k ih =>
    exact (State.readDoubles_inv h ag ga 5).bind fun p v => (ih v _).bind fun q w => (exceptInv_ok _).mpr w

theorem State.schedHeader_inv (h : s.Inv) (ag : Agent) (l : Launch) : ExceptInv (s.schedHeader ag l) := by
  unfold State.schedHeader
  repeat' split
  · exact (exceptInv_ok _).mpr h
  · exact exceptInv_error _
  · next heq => exact (exceptInv_ok _).mpr (State.readDoubles_inv h _ _ _ _ _ heq)

theorem State.launchTables_inv (h : s.Inv) (ag : Agent) (l : Launch) (n tpre : Nat) : ExceptInv (s.launchTables ag l n tpre) :=
  (State.preloads_inv h ag tpre n).bind fun _ v => (State.schedHeader_inv v ag l).bind fun _ w => (exceptInv_ok _).mpr w

@[simp] theorem State.accept_inv (l : Launch) (lid : W32) : (s.accept l lid).Inv ↔ s.Inv := .rfl

@[simp] theorem State.takeLid_inv (h : s.Inv) (vf : BitVec 9) : (s.takeLid vf).2.Inv := by simp [State.takeLid, h]

@[simp] theorem execLaunch_inv (h : s.Inv) (sd sa : Reg) : OutInv (execLaunch sd sa s) := by
  have v := State.readDoubles_inv h (.ctl s.core.pl) (s.addr sa).toNat 16
  simp only [execLaunch, outInv_next]
  split
  · simp [h]
  · split
    · simp [h]
    · next d s1 heq =>
      have v1 := v _ _ heq
      split
      · simp [v1]
      · next l n tpre _ =>
        have w := State.launchTables_inv v1 (.ctl s.core.pl) l n tpre
        split
        · simp [h]
        · next heq2 => simp [w _ _ heq2]
        · next heq2 => split <;> simp [w _ _ heq2]

@[simp] theorem State.updLaunch_inv (vf : BitVec 9) (lid : W32) (f : Launch → Launch) : (s.updLaunch vf lid f).Inv ↔ s.Inv := .rfl

@[simp] theorem State.bindBlocks_inv (h : s.Inv) (r : Rec) (p : Nat) : (s.bindBlocks r p).Inv := by
  unfold State.bindBlocks
  repeat' split
  · exact h
  · exact h
  · exact foldl_inv _ (fun _ _ v => by split <;> exact v) h

@[simp] theorem State.sweepBindings_inv (l : Launch) : (s.sweepBindings l).Inv ↔ s.Inv := .rfl

@[simp] theorem State.enterRecord_inv (h : s.Inv) (r : Rec) (n : Nat) : (s.enterRecord r n).Inv := by simp [State.enterRecord, h]

@[simp] theorem State.beginRecord_inv (h : s.Inv) (r : Rec) (n : Nat) : (s.beginRecord r n).Inv := by simp [State.beginRecord, h]

@[simp] theorem State.takeEntry_inv (x : TqEntry) : (s.takeEntry x).Inv ↔ s.Inv := .rfl

@[simp] theorem State.resumeImage_inv (h : s.Inv) (id : Nat) : (s.resumeImage id).Inv := by
  unfold State.resumeImage; split <;> simp [h]

@[simp] theorem State.runEntry_inv (h : s.Inv) (x : TqEntry) : (s.runEntry x).Inv := by unfold State.runEntry; split <;> simp [h]

@[simp] theorem execCoreTakeRecord_inv (h : s.Inv) : OutInv (execCoreTakeRecord s) := by
  unfold execCoreTakeRecord
  repeat' split
  all_goals simp [h]

@[simp] theorem execTrig_inv (h : s.Inv) : OutInv (execTrig s) := by simp [execTrig, h]

@[simp] theorem State.triggerGroup_inv (r : Rec) : (s.triggerGroup r).Inv ↔ s.Inv := by simp [State.triggerGroup]

@[simp] theorem execTrigComplete_inv (h : s.Inv) : OutInv (execTrigComplete s) := by unfold execTrigComplete; split <;> simp [h]

@[simp] theorem execTend_inv (h : s.Inv) : OutInv (execTend s) := by simp [execTend, h]

@[simp] theorem State.writeFence_inv (h : s.Inv) (l : Launch) : (s.writeFence l).Inv := by
  simp only [State.writeFence, State.inv_mk, State.wf_mem_iff, foldl_inv_iff, State.setPf_inv, iff_self, implies_true]
  refine State.storeDoubles_inv ?_ ..
  refine foldl_snd_inv _ (fun _ _ v => ?_) h
  exact State.draw_inv v

@[simp] theorem State.writeDone_inv (h : s.Inv) (l : Launch) : (s.writeDone l).Inv := by
  simp only [State.writeDone]
  repeat' split
  all_goals simp [h]

@[simp] theorem State.completeLaunch_inv (h : s.Inv) (l : Launch) : (s.completeLaunch l).Inv := by
  simp only [State.completeLaunch]
  split <;> simp [h]

@[simp] theorem State.retireGroup_inv (h : s.Inv) (r : Rec) : (s.retireGroup r).Inv := by
  simp only [State.retireGroup]
  repeat' split
  all_goals simp [h]

@[simp] theorem execRecordRetire_inv (h : s.Inv) : OutInv (execRecordRetire s) := by
  rw [execRecordRetire, outInv_next]
  refine State.whenLive_inv h (State.scrubGuard_inv h ?_)
  repeat' split
  all_goals simp [h]

@[simp] theorem State.enqueueGang_inv (l : Launch) (k first prio : Nat) : (s.enqueueGang l k first prio).Inv ↔ s.Inv := .rfl

@[simp] theorem State.enqueueGroups_inv (h : s.Inv) (l : Launch) (next k : Nat) : (s.enqueueGroups l next k).1.Inv := by
  induction k generalizing s next with
  | zero => exact h
  | succ k ih =>
    unfold State.enqueueGroups
    repeat' split
    · exact ih (by simp [h]) _
    · exact ih (by simp [h]) _
    · exact h

@[simp] theorem State.refuseBegin_inv (l : Launch) : (s.refuseBegin l).Inv ↔ s.Inv := by simp [State.refuseBegin]

@[simp] theorem State.beginLaunch_inv (h : s.Inv) (l : Launch) : (s.beginLaunch l).Inv := by
  unfold State.beginLaunch
  repeat' split
  all_goals simp [h]

@[simp] theorem execLaunchBegin_inv (h : s.Inv) (vf : BitVec 9) (lid : W32) : OutInv (execLaunchBegin vf lid s) := by
  unfold execLaunchBegin
  repeat' split
  all_goals simp [h]

@[simp] theorem execDetLaunchStart_inv (h : s.Inv) (part : BitVec 5) : OutInv (execDetLaunchStart part s) := by
  unfold execDetLaunchStart; split <;> simp [h]

@[simp] theorem execFrameMarkerEmit_inv (h : s.Inv) (part : BitVec 5) : OutInv (execFrameMarkerEmit part s) := by
  unfold execFrameMarkerEmit; split <;> simp [h]

@[simp] theorem State.stampOverrun_inv (e : Eng) (x : Entry) : (s.stampOverrun e x).Inv ↔ s.Inv := by simp [State.stampOverrun]

@[simp] theorem State.markerAt_inv (h : s.Inv) : s.markerAt.Inv := by
  refine State.whenLive_inv h ((State.upd_inv _).mpr ?_)
  exact foldl_inv _ (fun _ _ v => by split <;> simp [v]) h

@[simp] theorem execFrameMarkerDelivery_inv (h : s.Inv) (part : BitVec 5) : OutInv (execFrameMarkerDelivery part s) := by
  have v {t : State} (ht : t.Inv) (p : Nat) : (t.withCore p State.markerAt).Inv :=
    State.withCore_inv (fun _ => State.markerAt_inv) ht p
  simp only [execFrameMarkerDelivery, outInv_next]
  split
  · exact h
  · split
    · exact h
    · split
      · split
        · exact h
        · rw [State.updLaunch_inv]
          refine foldl_inv _ (fun _ _ w => ?_) h
          split
          · exact State.withCore_inv (fun _ u => by simp [u]) w _
          · exact v w _
      · exact foldl_inv _ (fun _ _ w => v w _) h

@[simp] theorem State.updGang_inv (id : Nat) (f : Gang → Gang) : (s.updGang id f).Inv ↔ s.Inv := .rfl

@[simp] theorem State.attempt_inv (g : Gang) : (s.attempt g).Inv ↔ s.Inv := by
  simp only [State.attempt]
  split <;> simp

@[simp] theorem execGangAttempt_inv (h : s.Inv) (g : Nat) : OutInv (execGangAttempt g s) := by
  unfold execGangAttempt; split <;> simp [h]

@[simp] theorem State.reserveFor_inv (g p : Nat) : (s.reserveFor g p).Inv ↔ s.Inv := by simp [State.reserveFor]

@[simp] theorem execReserve_inv (h : s.Inv) (g p : Nat) : OutInv (execReserve g p s) := by unfold execReserve; split <;> simp [h]

@[simp] theorem execGangReplies_inv (h : s.Inv) (g : Nat) : OutInv (execGangReplies g s) := by
  unfold execGangReplies; split <;> simp [h]

@[simp] theorem execRelease_inv (h : s.Inv) (g p : Nat) : OutInv (execRelease g p s) := by unfold execRelease; split <;> simp [h]

@[simp] theorem execGangBackoffExpiry_inv (h : s.Inv) (g : Nat) : OutInv (execGangBackoffExpiry g s) := by
  unfold execGangBackoffExpiry; split <;> simp [h]

@[simp] theorem execGangHoldComplete_inv (h : s.Inv) (g : Nat) : OutInv (execGangHoldComplete g s) := by
  unfold execGangHoldComplete; split <;> simp [h]

@[simp] theorem execCommit_inv (h : s.Inv) (g : Nat) : OutInv (execCommit g s) := by
  simp only [execCommit, outInv_next]
  repeat' split
  · simp [h]
  · exact h
  · exact foldl_inv _ (fun _ _ w => State.withCore_inv (fun _ u => by simp [u]) w _) h
  all_goals exact h

@[simp] theorem execWatchdog_inv (h : s.Inv) : OutInv (execWatchdog s) := by simp [execWatchdog, h]

@[simp] theorem execPartitionResetRequest_inv (h : s.Inv) (part : BitVec 5) : OutInv (execPartitionResetRequest part s) := by
  simp [execPartitionResetRequest, h]

@[simp] theorem execDoorbell_inv (h : s.Inv) (vf : BitVec 9) (q : BitVec 4) (t : W32) : OutInv (execDoorbell vf q t s) := by
  simp [execDoorbell, h]

@[simp] theorem execSubmissionQueueRead_inv (h : s.Inv) (vf : BitVec 9) (q : BitVec 4) : OutInv (execSubmissionQueueRead vf q s) := by
  simp only [execSubmissionQueueRead]
  repeat' split
  all_goals simp [h]

@[simp] theorem execSelfLaunchId_inv (h : s.Inv) (sd : Reg) : OutInv (execSelfLaunchId sd s) := by simp [execSelfLaunchId, h]

@[simp] theorem execSelfIndex_inv (h : s.Inv) (sd : Reg) : OutInv (execSelfIndex sd s) := by simp [execSelfIndex, h]

@[simp] theorem execSelfGroups_inv (h : s.Inv) (sd : Reg) : OutInv (execSelfGroups sd s) := by
  unfold execSelfGroups; split <;> simp [h]

@[simp] theorem execSelfCores_inv (h : s.Inv) (sd : Reg) : OutInv (execSelfCores sd s) := by simp [execSelfCores, h]

/-! ### CtlSystem -/

@[simp] theorem execTrap_inv (h : s.Inv) (code : BitVec 12) : OutInv (execTrap code s) := by simp [execTrap, h]

@[simp] theorem execEret_inv (h : s.Inv) : OutInv (execEret s) := by simp [execEret, h]

@[simp] theorem State.withCsr_inv {f : State → State} (hf : (f s).Inv) (h : s.Inv) (n : Nat) (write : Bool) : (s.withCsr n write f).Inv := by
  unfold State.withCsr
  split <;> simp [h, hf]

@[simp] theorem execCsrr_inv (h : s.Inv) (sd : Reg) (csr : BitVec 12) : OutInv (execCsrr sd csr s) := by simp [execCsrr, h]

@[simp] theorem execCsrw_inv (h : s.Inv) (sd sa : Reg) (csr : BitVec 12) : OutInv (execCsrw sd sa csr s) := by simp [execCsrw, h]

@[simp] theorem execCsrs_inv (h : s.Inv) (sd sa : Reg) (csr : BitVec 12) : OutInv (execCsrs sd sa csr s) := by simp [execCsrs, h]

@[simp] theorem execCsrc_inv (h : s.Inv) (sd sa : Reg) (csr : BitVec 12) : OutInv (execCsrc sd sa csr s) := by simp [execCsrc, h]

@[simp] theorem execWfe_inv (h : s.Inv) : OutInv (execWfe s) := by simp [execWfe, h]

@[simp] theorem execWfeComplete_inv (h : s.Inv) : OutInv (execWfeComplete s) := by simp [execWfeComplete, h]

@[simp] theorem State.haltLogical_inv : s.haltLogical.Inv ↔ s.Inv := by simp [State.haltLogical]

@[simp] theorem execDbrk_inv (h : s.Inv) (code : BitVec 12) : OutInv (execDbrk code s) := by simp [execDbrk, h]

@[simp] theorem execIllegalCtlWord_inv (h : s.Inv) (w : W32) : OutInv (execIllegalCtlWord w s) := by simp [execIllegalCtlWord, h]

@[simp] theorem execYield_inv (h : s.Inv) : OutInv (execYield s) := by simp [execYield, h]

@[simp] theorem State.softStopCore_inv (p : Nat) : (s.softStopCore p).Inv ↔ s.Inv := by
  simp only [State.softStopCore]
  split <;> simp

@[simp] theorem execYieldDonate_inv (h : s.Inv) : OutInv (execYieldDonate s) := by simp [execYieldDonate, h]

/-! ### Stops -/

@[simp] theorem execScanReqGo_inv (h : s.Inv) (img : Addr) : OutInv (execScanReqGo img s) := by simp [execScanReqGo, h]

@[simp] theorem execScanStreamComplete_inv (h : s.Inv) : OutInv (execScanStreamComplete s) := by
  simp only [execScanStreamComplete, outInv_next]
  split
  · exact h
  · split
    · exact h
    · have v := State.hwBlock_inv h
      refine State.scrubGuard_inv h ?_
      split
      · rw [State.updImage_inv]; exact State.writeParkedList_inv (v ..) _
      · rw [State.upd_inv]
        refine State.coreReset_inv ((State.updImage_inv ..).mpr (State.writeParkedList_inv (v ..) _)) ..

@[simp] theorem execScanImageSeal_inv (h : s.Inv) : OutInv (execScanImageSeal s) := by
  unfold execScanImageSeal
  repeat' split
  all_goals simp [h]

@[simp] theorem State.beginRestore_inv (img : Addr) : (s.beginRestore img).Inv ↔ s.Inv := by simp [State.beginRestore]

@[simp] theorem execRestoreReqGo_inv (h : s.Inv) (img : Addr) : OutInv (execRestoreReqGo img s) := by simp [execRestoreReqGo, h]

@[simp] theorem State.overrunStamps_inv (h : s.Inv) : s.overrunStamps.Inv :=
  foldl_inv _ (fun _ _ v => by split <;> simp [v]) h

@[simp] theorem execScanRestoreComplete_inv (h : s.Inv) : OutInv (execScanRestoreComplete s) := by
  simp only [execScanRestoreComplete]
  repeat' split
  all_goals simp [h]

@[simp] theorem execPowerGate_inv (h : s.Inv) : OutInv (execPowerGate s) := by simp [execPowerGate, h]

@[simp] theorem execCoreWake_inv (h : s.Inv) : OutInv (execCoreWake s) := by unfold execCoreWake; split <;> simp [h]

@[simp] theorem State.viaJtag_inv {t : State} (h : s.Inv) (v : t.Inv) : (s.viaJtag t).Inv := by
  unfold State.viaJtag; split <;> assumption

@[simp] theorem State.dbgHalt_inv : s.dbgHalt.Inv ↔ s.Inv := by simp [State.dbgHalt]

@[simp] theorem execDbgHaltLogical_inv (h : s.Inv) : OutInv (execDbgHaltLogical s) := by simp [execDbgHaltLogical, h]

@[simp] theorem State.dbgScanHalt_inv : s.dbgScanHalt.Inv ↔ s.Inv := by simp [State.dbgScanHalt]

@[simp] theorem execDbgHaltScan_inv (h : s.Inv) : OutInv (execDbgHaltScan s) := by simp [execDbgHaltScan, h]

@[simp] theorem State.dbgResume_inv (h : s.Inv) : s.dbgResume.Inv := by
  unfold State.dbgResume
  repeat' split
  all_goals simp [h]

@[simp] theorem execDbgResume_inv (h : s.Inv) : OutInv (execDbgResume s) := by simp [execDbgResume, h]

@[simp] theorem execQuiescent_inv (h : s.Inv) : OutInv (execQuiescent s) := by simp [execQuiescent, h]

@[simp] theorem execDbgDataRead_inv (h : s.Inv) : OutInv (execDbgDataRead s) := by simp [execDbgDataRead, h]

@[simp] theorem State.dbgWrite_inv (h : s.Inv) (v : W64) : (s.dbgWrite v).Inv := by
  unfold State.dbgWrite
  repeat' split
  all_goals simp [h]

@[simp] theorem execDbgDataWrite_inv (h : s.Inv) (v : W64) : OutInv (execDbgDataWrite v s) := by simp [execDbgDataWrite, h]

/-! ### Tst -/

@[simp] theorem execTstCommit_inv (h : s.Inv) (slen : BitVec 6) : OutInv (execTstCommit slen s) := by simp [execTstCommit, h]

@[simp] theorem execTstCommitCancel_inv (h : s.Inv) : OutInv (execTstCommitCancel s) := by simp [execTstCommitCancel, h]

@[simp] theorem execSoftStopEmit_inv (h : s.Inv) : OutInv (execSoftStopEmit s) := by simp [execSoftStopEmit, h]

@[simp] theorem execSoftStop_inv (h : s.Inv) : OutInv (execSoftStop s) := by simp [execSoftStop, h]

@[simp] theorem execSlotEdgeEmit_inv (h : s.Inv) : OutInv (execSlotEdgeEmit s) := by simp [execSlotEdgeEmit, h]

@[simp] theorem State.straggler_inv (p q : Nat) : (s.straggler p q).Inv ↔ s.Inv := by simp [State.straggler]

@[simp] theorem State.markCleaning_inv (p : Nat) : (s.markCleaning p).Inv ↔ s.Inv := by simp [State.markCleaning]

@[simp] theorem State.beginCleaning_inv (h : s.Inv) (p own : Nat) : (s.beginCleaning p own).Inv := by simp [State.beginCleaning, h]

@[simp] theorem State.coreLeaves_inv (h : s.Inv) (p q : Nat) (next : Option Nat) : (s.coreLeaves p q next).Inv := by
  have v : (s.withCore p State.leaveContext).Inv := State.withCore_inv (fun _ => State.leaveContext_inv) h p
  simp only [State.coreLeaves]
  repeat' split
  all_goals simp [h, v]

@[simp] theorem State.coreJoins_inv (h : s.Inv) (p own : Nat) : (s.coreJoins p own).Inv := by
  unfold State.coreJoins; split <;> simp [h]

@[simp] theorem State.cleanWays_inv (d g : Nat) : (s.cleanWays d g).Inv ↔ s.Inv := .rfl

@[simp] theorem State.dropGrants_inv (ps : List Nat) : (s.dropGrants ps).Inv ↔ s.Inv := .rfl

@[simp] theorem State.regrant_inv {t : State} (h : t.Inv) : (s.regrant t).Inv := by
  simp only [State.regrant, State.inv_mk, State.wf_mem_iff, State.dropGrants_inv, foldl_inv_iff, State.sieveClear_inv, State.cleanWays_inv, iff_self, implies_true]
  refine foldl_inv _ (fun _ _ v => ?_) h
  split
  · exact State.coreLeaves_inv v ..
  · exact State.coreJoins_inv v ..

@[simp] theorem State.dueCores_inv (h : s.Inv) (kept : List Nat) : (s.dueCores kept).Inv :=
  foldl_inv _ (fun _ _ v => by split <;> simp [v]) h

@[simp] theorem State.haltAgain_inv (h : s.Inv) (p : Nat) : (s.haltAgain p).Inv := by
  unfold State.haltAgain
  repeat' split
  · exact State.withCore_inv (fun _ v => State.loadImage_inv v ..) h p
  · exact h
  · exact h

@[simp] theorem State.activate_inv : s.activate.Inv ↔ s.Inv := .rfl

@[simp] theorem execSlotEdge_inv (h : s.Inv) : OutInv (execSlotEdge s) := by
  simp only [execSlotEdge, outInv_next]
  split
  · exact h
  · refine foldl_inv _ (fun _ _ v => by simp [v]) ?_
    refine foldl_inv _ (fun _ _ v => by simp [v]) ?_
    refine foldl_inv _ (fun _ _ v => by simp [v]) ?_
    refine State.dueCores_inv (State.regrant_inv ?_) _
    refine foldl_inv _ (fun _ _ v => by simp [v]) ?_
    rw [State.inv_mk, State.wf_mem_iff]
    split <;> simp [h]

@[simp] theorem execCleaningComplete_inv (h : s.Inv) : OutInv (execCleaningComplete s) := by
  simp only [execCleaningComplete]
  repeat' split
  all_goals simp [h]

@[simp] theorem execPhaseDrainComplete_inv (h : s.Inv) : OutInv (execPhaseDrainComplete s) := by simp [execPhaseDrainComplete, h]

@[simp] theorem State.passGrants_inv (h : s.Inv) (q : BitVec 5) : (s.passGrants q).Inv := by simp [State.passGrants, h]

@[simp] theorem execLogicalSaveComplete_inv (h : s.Inv) : OutInv (execLogicalSaveComplete s) := by
  rw [execLogicalSaveComplete, outInv_next]
  repeat' split
  · refine State.scrubGuard_inv h (State.passGrants_inv (State.saveCore_inv h _) _)
  all_goals exact h

@[simp] theorem State.linkLaunch_inv (i j : Nat) : (s.linkLaunch i j).Inv ↔ s.Inv := by unfold State.linkLaunch; split <;> simp

@[simp] theorem State.linkStep_inv : s.linkStep.Inv ↔ s.Inv := by simp [State.linkStep]

@[simp] theorem State.rcTick_inv : s.rcTick.Inv ↔ s.Inv := by simp [State.rcTick]

/-! ### Vf -/

@[simp] theorem State.stopCores_inv (h : s.Inv) (v : BitVec 9) : (s.stopCores v).Inv :=
  foldl_inv _ (fun _ _ w => by split <;> simp [w]) h

@[simp] theorem State.stopVf_inv (h : s.Inv) (v : BitVec 9) : (s.stopVf v).Inv := by
  unfold State.stopVf
  split <;> simp [h]

@[simp] theorem State.swapDirty_inv (v : Nat) : (s.swapDirty v).Inv ↔ s.Inv := .rfl

@[simp] theorem State.exportVf_inv (h : s.Inv) (v : BitVec 9) : (s.exportVf v).Inv := by simp [State.exportVf, h]

@[simp] theorem execVfStop_inv (h : s.Inv) (vf : BitVec 9) : OutInv (execVfStop vf s) := by simp [execVfStop, h]

@[simp] theorem execVfStopComplete_inv (h : s.Inv) (vf : BitVec 9) : OutInv (execVfStopComplete vf s) := by
  simp [execVfStopComplete, h]

@[simp] theorem State.importRec_inv (v : BitVec 9) (d : List W64) : (s.importRec v d).Inv ↔ s.Inv := by
  simp only [State.importRec]
  repeat' split
  all_goals simp

@[simp] theorem State.importVf_inv (h : s.Inv) (v : BitVec 9) : (s.importVf v).Inv := by simp [State.importVf, h]

@[simp] theorem execVfResume_inv (h : s.Inv) (vf : BitVec 9) : OutInv (execVfResume vf s) := by simp [execVfResume, h]

@[simp] theorem execVfFlr_inv (h : s.Inv) (vf : BitVec 9) : OutInv (execVfFlr vf s) := by simp [execVfFlr, h]

@[simp] theorem execDirtySwap_inv (h : s.Inv) (vf : BitVec 9) : OutInv (execDirtySwap vf s) := by simp [execDirtySwap, h]

@[simp] theorem State.setTdi_inv (v : BitVec 9) (t : Tdi) : (s.setTdi v t).Inv ↔ s.Inv := .rfl

@[simp] theorem execTdiError_inv (h : s.Inv) (vf : BitVec 9) : OutInv (execTdiError vf s) := by simp [execTdiError, h]

@[simp] theorem State.pushScrub_inv (w : W64) : (s.pushScrub w).Inv ↔ s.Inv := by simp [State.pushScrub]

@[simp] theorem execScrubPush_inv (h : s.Inv) (w : W64) : OutInv (execScrubPush w s) := by simp [execScrubPush, h]

@[simp] theorem State.dropL1_inv (a n : Nat) : (s.dropL1 a n).Inv ↔ s.Inv := .rfl

@[simp] theorem execScrubComplete_inv (h : s.Inv) : OutInv (execScrubComplete s) := by
  rw [execScrubComplete, outInv_next]
  split
  · exact h
  · simp [Memory.wf_clear _ _ h]

/-! ### Bringup -/

@[simp] theorem State.restart_inv (h : s.Inv) (keep : Nat → Bool) (p : Power) : (s.restart keep p).Inv := Memory.wf_filter _ h

@[simp] theorem execPfReset_inv (h : s.Inv) : OutInv (execPfReset s) := by simp [execPfReset, h]

@[simp] theorem execPowerOn_inv (h : s.Inv) : OutInv (execPowerOn s) := by simp [execPowerOn, h]

@[simp] theorem execPowerLoss_inv (h : s.Inv) : OutInv (execPowerLoss s) := by simp [execPowerLoss, h]

@[simp] theorem State.sample_inv (t0 t1 : H16) : (s.sample t0 t1).Inv ↔ s.Inv := .rfl

@[simp] theorem execThermalCut_inv (h : s.Inv) (t0 t1 : H16) : OutInv (execThermalCut t0 t1 s) := by simp [execThermalCut, h]

@[simp] theorem State.bootFail_inv (reason detail : Nat) : (s.bootFail reason detail).Inv ↔ s.Inv := .rfl

@[simp] theorem State.setL2p_inv (l : List Nat) : (s.setL2p l).Inv ↔ s.Inv := by simp [State.setL2p]

@[simp] theorem State.bootFuses_inv (i : BootIn) : (s.bootFuses i).Inv ↔ s.Inv := by simp [State.bootFuses]

@[simp] theorem State.bootTest_inv (i : BootIn) : (s.bootTest i).Inv ↔ s.Inv := by
  simp only [State.bootTest]
  repeat' split
  all_goals simp

@[simp] theorem State.bootWork_inv (stage : Nat) (i : BootIn) : (s.bootWork stage i).Inv ↔ s.Inv := by
  unfold State.bootWork
  repeat' split
  all_goals simp

@[simp] theorem execBootStage_inv (h : s.Inv) (inp : BootIn) : OutInv (execBootStage inp s) := by simp [execBootStage, h]

@[simp] theorem execBootTempSample_inv (h : s.Inv) (t0 t1 : H16) : OutInv (execBootTempSample t0 t1 s) := by
  simp [execBootTempSample, h]

@[simp] theorem execBootStageTimeout_inv (h : s.Inv) : OutInv (execBootStageTimeout s) := by simp [execBootStageTimeout, h]

@[simp] theorem execFeatureLock_inv (h : s.Inv) : OutInv (execFeatureLock s) := by simp [execFeatureLock, h]

@[simp] theorem State.telemetry_inv (t0 t1 : H16) (pwr : W32) : (s.telemetry t0 t1 pwr).Inv ↔ s.Inv := .rfl

@[simp] theorem State.throttledNow_inv : s.throttledNow.Inv ↔ s.Inv := .rfl

@[simp] theorem execThrottleOnset_inv (h : s.Inv) (t0 t1 : H16) (pwr : W32) : OutInv (execThrottleOnset t0 t1 pwr s) := by
  simp [execThrottleOnset, h]

@[simp] theorem execThrottleEnd_inv (h : s.Inv) (t0 t1 : H16) (pwr : W32) : OutInv (execThrottleEnd t0 t1 pwr s) := by
  simp [execThrottleEnd, h]

@[simp] theorem execSpdmRequest_inv (h : s.Inv) (index : Nat) : OutInv (execSpdmRequest index s) := by simp [execSpdmRequest, h]

@[simp] theorem execTdispRequest_inv (h : s.Inv) (vf : BitVec 9) (msg : BitVec 2) : OutInv (execTdispRequest vf msg s) := by
  unfold execTdispRequest; split <;> simp [h]

/-! ### Ports -/

@[simp] theorem State.updPort_inv (p : Bool) (f : LPort → LPort) : (s.updPort p f).Inv ↔ s.Inv := .rfl

@[simp] theorem State.laneSpare_inv (event : Nat) (p : Bool) (lane spare : Nat) : (s.laneSpare event p lane spare).Inv ↔ s.Inv := by
  simp [State.laneSpare]

@[simp] theorem State.poisonRange_inv (a n : Nat) : (s.poisonRange a n).Inv ↔ s.Inv := by simp [State.poisonRange]

@[simp] theorem State.breakCollsOf_inv (p : Nat) (f : Coll → Bool) : (s.breakCollsOf p f).Inv ↔ s.Inv := by
  simp [State.breakCollsOf]

@[simp] theorem State.breakColls_inv (f : Coll → Bool) : (s.breakColls f).Inv ↔ s.Inv := by
  simp [State.breakColls]

@[simp] theorem State.portDown_inv (p : Bool) : (s.portDown p).Inv ↔ s.Inv := by simp [State.portDown]

@[simp] theorem execPortDown_inv (h : s.Inv) (port : Bool) : OutInv (execPortDown port s) := by simp [execPortDown, h]

@[simp] theorem State.checkPort_inv (p : Bool) : (s.checkPort p).Inv ↔ s.Inv := by simp [State.checkPort]

@[simp] theorem execLorcyTraining_inv (h : s.Inv) (port : Bool) (peerPos peerN : Nat) : OutInv (execLorcyTraining port peerPos peerN s) := by
  simp [execLorcyTraining, h]

@[simp] theorem State.rxSwitch_inv (p : Bool) (m : LaneMove) : (s.rxSwitch p m).Inv ↔ s.Inv := by unfold State.rxSwitch; split <;> simp

@[simp] theorem State.sends_inv (p : Bool) (n : Nat) : (s.sends p n).Inv ↔ s.Inv := .rfl

@[simp] theorem State.receives_inv (p : Bool) : (s.receives p).Inv ↔ s.Inv := by simp [State.receives]

@[simp] theorem execLinkFlitReceive_inv (h : s.Inv) (port crcOk : Bool) (seq : H16) (drained : Nat) :
    OutInv (execLinkFlitReceive port crcOk seq drained s) := by
  simp [execLinkFlitReceive, h]

@[simp] theorem execReplayRequest_inv (h : s.Inv) (port : Bool) (seq : H16) : OutInv (execReplayRequest port seq s) := by
  simp [execReplayRequest, h]

@[simp] theorem State.moveLane_inv (p : Bool) (lane failing : Nat) : (s.moveLane p lane failing).Inv ↔ s.Inv := by
  simp [State.moveLane]

@[simp] theorem State.spareRetired_inv (p : Bool) (k : Nat) : (s.spareRetired p k).Inv ↔ s.Inv := by simp [State.spareRetired]

@[simp] theorem execLaneErrorWindow_inv (h : s.Inv) (port : Bool) (lane : BitVec 5) (errs : W32) :
    OutInv (execLaneErrorWindow port lane errs s) := by
  simp only [execLaneErrorWindow]
  repeat' split
  all_goals simp [h]

@[simp] theorem State.announce_inv (p : Bool) (lane failing : Nat) : (s.announce p lane failing).Inv ↔ s.Inv := .rfl

@[simp] theorem execSpareReq_inv (h : s.Inv) (port : Bool) (lane : BitVec 5) : OutInv (execSpareReq port lane s) := by
  simp [execSpareReq, h]

@[simp] theorem execLaneMapSwitch_inv (h : s.Inv) (port : Bool) : OutInv (execLaneMapSwitch port s) := by
  simp only [execLaneMapSwitch]
  split <;> simp [h]

@[simp] theorem State.retrain_inv (p : Bool) : (s.retrain p).Inv ↔ s.Inv := by simp [State.retrain]

@[simp] theorem execRetrain_inv (h : s.Inv) (port : Bool) : OutInv (execRetrain port s) := by simp [execRetrain, h]

@[simp] theorem State.asVf_inv {f : State → State} (hf : ∀ t, t.Inv → (f t).Inv) (h : s.Inv) (v : BitVec 9) : (s.asVf v f).Inv := by
  simp [State.asVf, hf, h]

theorem State.portRead_inv (h : s.Inv) (v : BitVec 9) (ga n : Nat) : ExceptInv (s.portRead v ga n) := by
  refine exceptInv_bind fun l => ?_
  have w : (s.asVf v (fun s => (s.readZ 0 0 l n).2)).Inv := State.asVf_inv (fun _ w => State.readZ_inv w ..) h v
  split
  · exact exceptInv_error _
  · exact (exceptInv_ok _).mpr w

@[simp] theorem State.portWrite_inv (h : s.Inv) (v : BitVec 9) (l : Loc) (d : List Byte) : (s.portWrite v l d).Inv :=
  State.asVf_inv (fun _ w => State.writeZ_inv w ..) h v

@[simp] theorem State.ethLoad_inv (port a : Nat) : (s.ethLoad port a).Inv ↔ s.Inv := .rfl

@[simp] theorem execEthTabLoad_inv (h : s.Inv) (port : BitVec 2) (addr : Addr) : OutInv (execEthTabLoad port addr s) := by
  simp [execEthTabLoad, h]

@[simp] theorem State.ethCount_inv (h : s.Inv) (port e k : Nat) : (s.ethCount port e k).Inv := by simp [State.ethCount, h]

@[simp] theorem State.ethCause_inv (port e : Nat) (v : BitVec 9) (t : Trap) (ga : Nat) : (s.ethCause port e v t ga).Inv ↔ s.Inv := by
  simp [State.ethCause]

@[simp] theorem execEthRxFrame_inv (h : s.Inv) (port : BitVec 2) (f : EthFrame) : OutInv (execEthRxFrame port f s) := by
  have fails {t : State} (ht : t.Inv) (p e n : Nat) (v : BitVec 9) (c : Trap) (ga : Nat) :
      ((t.ethCount p e n).ethCause p e v c ga).Inv := by simp [ht]
  have count {t : State} (ht : t.Inv) (p e n : Nat) : (t.ethCount p e n).Inv := by simp [ht]
  simp only [execEthRxFrame, outInv_next]
  refine State.scrubGuard_inv h ?_
  split
  · exact h
  · split
    · exact h
    · split
      · exact count h ..
      · split
        · exact fails h ..
        · next w s1 hw =>
          have h1 := State.portRead_inv h _ _ _ _ _ hw
          split
          · exact fails h1 ..
          · next r s2 hr =>
            have h2 := State.portRead_inv h1 _ _ _ _ _ hr
            split
            · exact count h2 ..
            · split
              · exact fails h2 ..
              · exact fails h2 ..
              · split
                · exact fails h2 ..
                · exact count (State.portWrite_inv (State.portWrite_inv h2 ..) ..) ..

@[simp] theorem execEthTxSlot_inv (h : s.Inv) (port : BitVec 2) (entry : BitVec 6) : OutInv (execEthTxSlot port entry s) := by
  have fails {t : State} (ht : t.Inv) (p e n : Nat) (v : BitVec 9) (c : Trap) (ga : Nat) :
      ((t.ethCount p e n).ethCause p e v c ga).Inv := by simp [ht]
  have count {t : State} (ht : t.Inv) (p e n : Nat) : (t.ethCount p e n).Inv := by simp [ht]
  simp only [execEthTxSlot, outInv_next]
  refine State.scrubGuard_inv h ?_
  split
  · exact h
  · split
    · exact fails h ..
    · next w s1 hw =>
      have h1 := State.portRead_inv h _ _ _ _ _ hw
      split
      · exact fails h1 ..
      · exact fails h1 ..
      · next r s2 rl hr _ =>
        have h2 := State.portRead_inv h1 _ _ _ _ _ hr
        split
        · exact h2
        · split
          · exact fails (State.portWrite_inv h2 ..) ..
          · next hdr s3 hh =>
            have h3 := State.portRead_inv h2 _ _ _ _ _ hh
            split
            · exact count (State.portWrite_inv h3 ..) ..
            · split
              · exact fails (State.portWrite_inv h3 ..) ..
              · next hx =>
                have h4 := State.portRead_inv h3 _ _ _ _ _ hx
                exact count (State.portWrite_inv (by exact h4) ..) ..

@[simp] theorem execL1LineExpiry_inv (h : s.Inv) (line : Nat) : OutInv (execL1LineExpiry line s) := by simp [execL1LineExpiry, h]

/-! ### Pf -/

@[simp] theorem State.field_inv (off lo n : Nat) (v : W64) : (s.field off lo n v).Inv ↔ s.Inv := .rfl

@[simp] theorem State.w1c_inv (off lo n : Nat) (v : W64) : (s.w1c off lo n v).Inv ↔ s.Inv := .rfl

@[simp] theorem State.writePart_inv (v : Nat) (x : W64) : (s.writePart v x).Inv ↔ s.Inv := by simp [State.writePart]

@[simp] theorem State.vfWrite_inv (h : s.Inv) (v r : Nat) (x : W64) : (s.vfWrite v r x).Inv := by simp [State.vfWrite, h]

@[simp] theorem State.partWrite_inv (h : s.Inv) (q r : Nat) (x : W64) : (s.partWrite q r x).Inv := by simp [State.partWrite, h]

theorem OutInv.getD {o : Out} (ho : OutInv o) (h : s.Inv) : (match o with
    | .next t => t
    | _ => s).Inv := by
  cases o with
  | next t => exact ho t rfl
  | _ => exact h

@[simp] theorem State.coreWrite_inv (h : s.Inv) (p r : Nat) (x : W64) : (s.coreWrite p r x).Inv := by
  refine State.withCore_inv (fun t v => ?_) h p
  repeat' split
  · exact (execScanReqGo_inv v _).getD v
  · simp [v]
  · exact (execRestoreReqGo_inv v _).getD v
  all_goals simp [v]

@[simp] theorem State.jtag_inv (h : s.Inv) (p r : Nat) (v : Option W64) : (s.jtag p r v).Inv := by
  unfold State.jtag
  repeat' split
  all_goals simp [h]

@[simp] theorem State.portRegWrite_inv (p : Bool) (r : Nat) (x : W64) : (s.portRegWrite p r x).Inv ↔ s.Inv := by
  simp [State.portRegWrite]

@[simp] theorem State.writeFacc_inv (off : Nat) (x : W64) : (s.writeFacc off x).Inv ↔ s.Inv := by simp [State.writeFacc]

theorem State.tstCtlWrite_inv (h : s.Inv) (x : W64) : (match (if bit x.toNat 8 then execTstCommit (x.setWidth 6) s else execTstCommitCancel s) with
    | .next t => if bit x.toNat 8 || s.tst.commit || !s.locked then t else { t with tst := { t.tst with slen := x.toNat % 64 } }
    | _ => s).Inv := by
  have v : OutInv (if bit x.toNat 8 then execTstCommit (x.setWidth 6) s else execTstCommitCancel s) := by
    split
    · exact execTstCommit_inv h _
    · exact execTstCommitCancel_inv h
  split
  · next heq =>
    have w := v _ heq
    split <;> exact w
  · exact h

@[simp] theorem State.pfWrite_inv (h : s.Inv) (lvl off : Nat) (x : W64) : (s.pfWrite lvl off x).Inv := by
  have a := (execFeatureLock_inv h).getD h
  have b := State.tstCtlWrite_inv h x
  simp only [State.pfWrite]
  repeat' with_reducible apply State.Inv.ite
  -- the two fields whose write carries out an instruction of its own: the feature lock and the TST's commit
  on_goal 6 => exact b
  on_goal 2 => exact a
  all_goals simp [h]

@[simp] theorem execRegisterWrite_inv (h : s.Inv) (off : BitVec 24) (val : W64) : OutInv (execRegisterWrite off val s) := by
  simp [execRegisterWrite, h]

/-! ### CtlMem -/

@[simp] theorem State.access_inv {ctrl : Nat → State} {here : Loc → State} (hc : ∀ o, (ctrl o).Inv) (hl : ∀ l, (here l).Inv)
    (h : s.Inv) (ea : Addr) (n words : Nat) (op : RemoteOp) (acq : Bool) : (s.access ea n words op acq ctrl here).Inv := by
  unfold State.access
  repeat' split
  all_goals simp [hc, hl, h]

@[simp] theorem State.noCtrl_inv (h : s.Inv) (ea : Addr) (o : Nat) : (s.noCtrl ea o).Inv := State.trap_inv h _

@[simp] theorem State.load_inv (h : s.Inv) (ea : Addr) (n : Nat) (signed : Bool) (sd : Reg) (words : Nat) (plain acq : Bool) :
    (s.load ea n signed sd words plain acq).Inv := by
  refine State.access_inv (fun o => ?_) (fun l => ?_) h ..
  · split <;> simp [h]
  · have v := (State.judge_inv h (plain && s.judged) false l ea.toNat n)
    split
    · simp [h]
    · split
      · next heq => rw [heq] at v; simp [v]
      · next heq => rw [heq] at v; dsimp only; split <;> simp [h, v]

@[simp] theorem State.store_inv (h : s.Inv) (ea : Addr) (n : Nat) (v : W64) (words : Nat) (plain : Bool) :
    (s.store ea n v words plain).Inv := by
  refine State.access_inv (fun o => ?_) (fun l => ?_) h ..
  · split <;> simp [h]
  · have v := (State.judge_inv h (plain && s.judged) true l ea.toNat n)
    split
    · simp [h]
    · split
      · next heq => rw [heq] at v; simp [v]
      · next heq => rw [heq] at v; split <;> simp [h, v]

@[simp] theorem State.amo_inv (h : s.Inv) (fn : Nat) (sd sa : Reg) (ord : Order) (dbl : Bool) (sc : Scope) :
    (s.amo fn sd sa ord dbl sc).Inv := by
  have v (l : Loc) : (s.atomic 0 0 l (fun t => t)).Inv := State.atomic_inv (fun _ w => w) h ..
  have w (l : Loc) (n x : Nat) : (s.atomic 0 0 l (fun t => t.storeLE l.pa n x)).Inv := State.atomic_inv (fun _ w => State.storeLE_inv w ..) h ..
  refine State.access_inv (fun o => State.noCtrl_inv h ..) (fun l => ?_) h ..
  split
  · exact State.trap_inv h _
  · refine State.scrubGuard_inv h ?_
    rw [State.retire_inv, State.acquire_inv, State.wr_inv]
    split
    · exact w ..
    · split
      · exact v l
      · simp [h]

@[simp] theorem execFenceAcq_inv (h : s.Inv) (sc : Scope) : OutInv (execFenceAcq sc s) := by simp [execFenceAcq, h]

@[simp] theorem execFenceRel_inv (h : s.Inv) (_sc : Scope) : OutInv (execFenceRel _sc s) := by simp [execFenceRel, h]

@[simp] theorem execFenceFull_inv (h : s.Inv) (sc : Scope) : OutInv (execFenceFull sc s) := by simp [execFenceFull, h]

@[simp] theorem State.prefetch_inv (llc : Bool) (ea : Addr) : (s.prefetch llc ea).Inv ↔ s.Inv := by
  unfold State.prefetch; split <;> simp

@[simp] theorem execPrefL1_inv (h : s.Inv) (base : Reg) (imm : BitVec 9) : OutInv (execPrefL1 base imm s) := by simp [execPrefL1, h]

@[simp] theorem execPrefLlc_inv (h : s.Inv) (base : Reg) (imm : BitVec 9) : OutInv (execPrefLlc base imm s) := by simp [execPrefLlc, h]

@[simp] theorem execPrefX_inv (h : s.Inv) (llc : Bool) (base : Reg) (lit : W32) : OutInv (execPrefX llc base lit s) := by
  simp [execPrefX, h]

@[simp] theorem State.setOwner_inv (h : s.Inv) (a owner : Nat) (taken : Bool) : (s.setOwner a owner taken).Inv := by
  simp [State.setOwner, h]

@[simp] theorem execGive_inv (h : s.Inv) (sa : Reg) (tid : BitVec 12) : OutInv (execGive sa tid s) := by
  unfold execGive; split <;> simp [h]

@[simp] theorem execGiveComplete_inv (h : s.Inv) : OutInv (execGiveComplete s) := by
  rw [execGiveComplete, outInv_next]
  refine State.whenLive_inv h ?_
  repeat' split
  all_goals simp [h]

@[simp] theorem execTake_inv (h : s.Inv) (tid : BitVec 12) : OutInv (execTake tid s) := by unfold execTake; split <;> simp [h]

@[simp] theorem execTakeComplete_inv (h : s.Inv) : OutInv (execTakeComplete s) := by
  rw [execTakeComplete, outInv_next]
  refine State.whenLive_inv h ?_
  repeat' split
  all_goals simp [h]

@[simp] theorem execOwnq_inv (h : s.Inv) (sd : Reg) (tid : BitVec 12) : OutInv (execOwnq sd tid s) := by
  unfold execOwnq; split <;> simp [h]

@[simp] theorem State.barrier_inv {here : Loc → State} (hl : ∀ l, (here l).Inv) (h : s.Inv) (ea : Addr) (op : RemoteOp) (acq : Bool)
    (poison : Loc → Option Cause) : (s.barrier ea op acq poison here).Inv := by
  refine State.access_inv (fun _ => State.noCtrl_inv h ..) (fun l => ?_) h ..
  split <;> simp [hl, h]

@[simp] theorem State.barTestBit_inv (h : s.Inv) (l : Loc) (ea : Addr) (acq : Bool) : (s.barTestBit l ea acq).Inv := by
  simp [State.barTestBit, h]

@[simp] theorem State.barWaitAt_inv (h : s.Inv) (ea : Addr) (acq : Bool) : (s.barWaitAt ea acq).Inv := by simp [State.barWaitAt, h]

@[simp] theorem State.barArriveWait_inv (h : s.Inv) (ea : Addr) (det acq : Bool) : (s.barArriveWait ea det acq).Inv := by
  unfold State.barArriveWait
  split
  · simp [h]
  · refine State.barrier_inv (fun l => State.barTestBit_inv ?_ ..) h ..
    exact (State.upd_inv _).mpr (State.atomic_inv (fun _ v => State.ctlArrive_inv v ..) h ..)

@[simp] theorem execBarInit_inv (h : s.Inv) (sd sa : Reg) (sc : Scope) : OutInv (execBarInit sd sa sc s) := by
  refine (outInv_next _).mpr (State.barrier_inv (fun l => ?_) h ..)
  rw [State.retire_inv]
  exact State.atomic_inv (fun _ v => State.barInitAt_inv v ..) h ..

@[simp] theorem execBarArv_inv (h : s.Inv) (sa : Reg) (sc : Scope) : OutInv (execBarArv sa sc s) := by
  refine (outInv_next _).mpr (State.barrier_inv (fun l => ?_) h ..)
  rw [State.retire_inv]
  exact State.atomic_inv (fun _ v => State.ctlArrive_inv v ..) h ..

@[simp] theorem execBarWait_inv (h : s.Inv) (sa : Reg) (sc : Scope) : OutInv (execBarWait sa sc s) := by simp [execBarWait, h]

@[simp] theorem execBarTest_inv (h : s.Inv) (sd sa : Reg) (sc : Scope) : OutInv (execBarTest sd sa sc s) := by simp [execBarTest, h]

@[simp] theorem execBarWaitComplete_inv (h : s.Inv) : OutInv (execBarWaitComplete s) := by
  unfold execBarWaitComplete; split <;> simp [h]

@[simp] theorem State.chunkStep_inv {f : Loc → State} (hf : ∀ l, (f l).Inv) (h : s.Inv) (sa : Reg) : (s.chunkStep sa f).Inv := by
  simp only [State.chunkStep]
  repeat' split
  all_goals simp [hf, h]

@[simp] theorem execChunk_inv (h : s.Inv) (sd sa : Reg) : OutInv (execChunk sd sa s) := by
  rw [execChunk, outInv_next]
  refine State.chunkStep_inv (fun l => State.scrubGuard_inv h ?_) h sa
  simp only [State.retire_inv, State.acquire_inv, State.wr_inv]
  exact State.atomic_inv (fun _ v => State.storeLE_inv (State.storeLE_inv v ..) ..) h ..

@[simp] theorem execChinit_inv (h : s.Inv) (sd sa sb : Reg) : OutInv (execChinit sd sa sb s) := by
  rw [execChinit, outInv_next]
  refine State.chunkStep_inv (fun l => State.scrubGuard_inv h ?_) h sa
  rw [State.retire_inv]
  exact State.atomic_inv (fun _ v => State.storeLE_inv (State.storeLE_inv (State.storeLE_inv (State.storeLE_inv (State.storeLE_inv v ..) ..) ..) ..) ..) h ..

/-! ### Fabric -/

@[simp] theorem State.updFlit_inv (fid : Nat) (g : Flit → Flit) : (s.updFlit fid g).Inv ↔ s.Inv := .rfl

@[simp] theorem State.moveFlit_inv (fid : Nat) (g : Flit → Flit) : (s.moveFlit fid g).Inv ↔ s.Inv := .rfl

@[simp] theorem State.dropFlit_inv (fid : Nat) : (s.dropFlit fid).Inv ↔ s.Inv := .rfl

@[simp] theorem State.orbitUp_inv (p : Nat) : (s.orbitUp p).Inv ↔ s.Inv := by simp [State.orbitUp]

@[simp] theorem State.orbitDown_inv (p : Nat) : (s.orbitDown p).Inv ↔ s.Inv := by simp [State.orbitDown]

@[simp] theorem State.noteLaunch_inv (f : Flit) : (s.noteLaunch f).Inv ↔ s.Inv := by unfold State.noteLaunch; split <;> simp

@[simp] theorem execRingFlitLaunch_inv (h : s.Inv) (fid slot : Nat) : OutInv (execRingFlitLaunch fid slot s) := by
  unfold execRingFlitLaunch; split <;> simp [h]

@[simp] theorem execNackRelaunch_inv (h : s.Inv) (fid slot : Nat) : OutInv (execNackRelaunch fid slot s) := by
  unfold execNackRelaunch; split <;> simp [h]

@[simp] theorem State.flitArrives_inv (fid : Nat) (f : Flit) : (s.flitArrives fid f).Inv ↔ s.Inv := by simp [State.flitArrives]

@[simp] theorem execRemoteAccessApply_inv (h : s.Inv) : OutInv (execRemoteAccessApply s) := by
  simp only [execRemoteAccessApply]
  repeat' split
  all_goals simp [h]

@[simp] theorem State.answered_inv (h : s.Inv) (r : Remote) (a : Reply) : (s.answered r a).Inv := by simp [State.answered, h]

@[simp] theorem State.takeReply_inv (h : s.Inv) (fid : Nat) (r : Remote) (a : Reply) : (s.takeReply fid r a).Inv := by
  have v (p : Nat) : ((s.dropFlit fid).withCore p (fun t => t.answered r a)).Inv :=
    State.withCore_inv (fun _ v => State.answered_inv v ..) (by simp [h]) p
  unfold State.takeReply
  repeat' split
  all_goals simp [h, v]

@[simp] theorem execRemoteReply_inv (h : s.Inv) : OutInv (execRemoteReply s) := by
  unfold execRemoteReply
  repeat' split
  all_goals simp [h]

@[simp] theorem State.updRecvOf_inv (xid j : Nat) (f : Recv → Recv) : (s.updRecvOf xid j f).Inv ↔ s.Inv := by
  simp only [State.updRecvOf, State.inv_mk, State.wf_mem_iff]
  split <;> simp

@[simp] theorem execTransferHeaderAccept_inv (h : s.Inv) (xid : Nat) : OutInv (execTransferHeaderAccept xid s) := by
  unfold execTransferHeaderAccept
  repeat' split
  all_goals simp [h]

/-! ### Copy -/

@[simp] theorem State.readSpan_inv (h : s.Inv) (eng : Nat) (seq : W32) (det pois : Bool) (ga n : Nat) (pl : Place) :
    (s.readSpan eng seq det pois ga n pl).st.Inv := by
  unfold State.readSpan; split <;> simp [h]

@[simp] theorem State.writeSpan_inv (h : s.Inv) (eng : Nat) (seq : W32) (det trap pois : Bool) (ga : Nat) (data : List Byte) (pl : Place) :
    (s.writeSpan eng seq det trap pois ga data pl).1.Inv := by
  unfold State.writeSpan; split <;> simp [h]

@[simp] theorem State.readRuns_inv (h : s.Inv) (eng : Nat) (seq : W32) (det pois : Bool) (l : List (Nat × Nat × Place)) :
    (s.readRuns eng seq det pois l).st.Inv := by
  induction l generalizing s with
  | nil => exact h
  | cons x r ih => exact ih (State.readSpan_inv h ..)

@[simp] theorem State.storeRuns_inv (h : s.Inv) (eng : Nat) (seq : W32) (det trap pois : Bool) (data : List Byte)
    (l : List (Nat × Nat × Place)) : (s.storeRuns eng seq det trap pois data l).1.Inv := by
  induction l generalizing s data with
  | nil => exact h
  | cons x r ih => exact ih (State.writeSpan_inv h ..) _

@[simp] theorem State.writeRuns_inv (h : s.Inv) (eng : Nat) (seq : W32) (det : Bool) (data : List Byte) (l : List (Nat × Nat × Place)) :
    (s.writeRuns eng seq det data l).1.Inv := by
  simp [State.writeRuns, h]

@[simp] theorem State.landRuns_inv (h : s.Inv) (seq : W32) (det : Bool) (data : List Byte) (l : List (Nat × Nat × Place)) :
    (s.landRuns seq det data l).1.Inv := by
  induction l generalizing s data with
  | nil => exact h
  | cons x r ih =>
    refine ih ?_ _
    split <;> simp [h]

@[simp] theorem State.poisonRuns_inv (h : s.Inv) (l : List (Nat × Nat × Place)) : (s.poisonRuns l).Inv :=
  foldl_inv _ (fun _ _ v => by split <;> simp [v]) h

@[simp] theorem State.beginXfer_inv (x : Xfer) : (s.beginXfer x).Inv ↔ s.Inv := by simp [State.beginXfer]

@[simp] theorem State.beginXfers_inv : s.beginXfers.Inv ↔ s.Inv := by simp [State.beginXfers]

@[simp] theorem State.addXfer_inv (x : Xfer) : (s.addXfer x).Inv ↔ s.Inv := .rfl

@[simp] theorem State.refuse_inv (e : Eng) (x : Entry) (t : Trap) : (s.refuse e x t).Inv ↔ s.Inv := by simp [State.refuse]

@[simp] theorem State.startXfer_inv (h : s.Inv) (x : Entry) (y : Xfer) : OptionInv (s.startXfer x y) := by
  unfold State.startXfer; split <;> simp [h]

@[simp] theorem State.startCopy_inv (h : s.Inv) (a : CpArgs) (k : XferKind) (x : Entry) : OptionInv (s.startCopy a k x) := by
  simp only [State.startCopy]
  split <;> simp [h]

@[simp] theorem State.startMcast_inv (h : s.Inv) (a : CpArgs) (x : Entry) : OptionInv (s.startMcast a x) := by
  simp only [State.startMcast]
  repeat' split
  all_goals simp [h]

@[simp] theorem State.copyArrive_inv (h : s.Inv) (seq : W32) (ga : Nat) (marked : Bool) : StepInv (s.copyArrive seq ga marked) := by
  have v (l : Loc) : (s.atomic Eng.cp.num seq l (fun t => t.arrive l.pa t.part t.self marked)).Inv :=
    State.atomic_inv (fun _ v => State.arrive_inv v ..) h ..
  simp only [State.copyArrive]
  repeat' split
  all_goals simp [h, v]

@[simp] theorem State.retireRecv_inv (r : Recv) : (s.retireRecv r).Inv ↔ s.Inv := by unfold State.retireRecv; split <;> simp

@[simp] theorem State.pendXfer_inv (x : Xfer) (t : Option Trap) : (s.pendXfer x t).Inv ↔ s.Inv := by simp [State.pendXfer]

@[simp] theorem State.setRecv_inv (x : Xfer) (j : Nat) (f : Recv → Recv) : (s.setRecv x j f).Inv ↔ s.Inv := by
  simp [State.setRecv]

@[simp] theorem State.ackRecv_inv (h : s.Inv) (x : Xfer) (j : Nat) (r : Recv) : (s.ackRecv x j r).Inv := by
  have v : ((s.setRecv x j (fun r => { r with acked := true, sb := none })).retireRecv r).Inv := by simp [h]
  simp only [State.ackRecv]
  split
  · split
    · next heq => simp [State.copyArrive_inv v _ _ _ _ _ heq]
    · exact v
  · exact v

@[simp] theorem State.unitOk_inv (h : s.Inv) (x : Xfer) (j u : Nat) (r : Recv) : (s.unitOk x j u r).Inv := by simp [State.unitOk, h]

@[simp] theorem State.freeBytes_inv (h : s.Inv) (n : Nat) : (s.freeBytes n).2.Inv := by simp [State.freeBytes, h]

@[simp] theorem State.unitFails_inv (h : s.Inv) (x : Xfer) (j u : Nat) (r : Recv) (d : List (Nat × Nat × Place)) (n : Nat) :
    (s.unitFails x j u r d n).Inv := by
  have v := State.writeRuns_inv (State.freeBytes_inv h n) Eng.cp.num x.seq false (s.freeBytes n).1 d
  simp only [State.unitFails]
  split
  · simp [v]
  · rw [State.pendXfer_inv, State.retireRecv_inv, State.setRecv_inv]
    exact State.poisonRuns_inv ((State.setRecv_inv ..).mpr v) _

@[simp] theorem State.unitRefused_inv (h : s.Inv) (x : Xfer) (j u : Nat) (r : Recv) (t : Trap) : (s.unitRefused x j u r t).Inv := by
  simp [State.unitRefused, h]

@[simp] theorem State.verifyUnit_inv (h : s.Inv) (x : Xfer) (j u : Nat) (r : Recv) (ok : Bool) : (s.verifyUnit x j u r ok).Inv := by
  have v (a d : List (Nat × Nat × Place)) (l : List Byte) : ((s.readRuns Eng.cp.num x.seq x.det x.pois a).st.landRuns x.seq x.det l d).1.Inv :=
    State.landRuns_inv (State.readRuns_inv h ..) ..
  simp only [State.verifyUnit]
  repeat' with_reducible apply State.Inv.ite
  · exact h
  · exact h
  · split
    all_goals repeat' with_reducible apply State.Inv.ite
    all_goals simp [h, v]

@[simp] theorem execMcastSenderArrival_inv (h : s.Inv) (xid : Nat) : OutInv (execMcastSenderArrival xid s) := by
  rw [execMcastSenderArrival, outInv_next]
  split
  · refine State.scrubGuard_inv h (State.withCore_inv (fun t v => ?_) h _)
    repeat' split
    · next heq => simp [State.copyArrive_inv v _ _ _ _ _ heq]
    all_goals exact v
  · exact h

@[simp] theorem State.endXfer_inv (x : Xfer) : (s.endXfer x).Inv ↔ s.Inv := by simp [State.endXfer]

@[simp] theorem execTransferComplete_inv (h : s.Inv) (xid : Nat) : OutInv (execTransferComplete xid s) := by
  rw [execTransferComplete, outInv_next]
  split
  · exact State.withCore_inv (fun t v => by split <;> simp [v]) h _
  · exact h

@[simp] theorem State.startDrain_inv (h : s.Inv) (_a : CpArgs) (x : Entry) : OptionInv (s.startDrain _a x) := by
  simp [State.startDrain, h]

@[simp] theorem State.startSig_inv (h : s.Inv) (a : CpArgs) (x : Entry) : OptionInv (s.startSig a x) := by
  simp only [State.startSig]
  repeat' split
  all_goals simp [h]

@[simp] theorem execCpDrainComplete_inv (h : s.Inv) : OutInv (execCpDrainComplete s) := by
  unfold execCpDrainComplete; split <;> simp [h]

theorem State.Inv.elim_entry {o : Option Entry} {f : Entry → State} (hf : ∀ x, (f x).Inv) (h : s.Inv) :
    (match o with
    | some x => f x
    | none => s).Inv := by
  cases o with
  | none => exact h
  | some x => exact hf x

@[simp] theorem execCpSigArrival_inv (h : s.Inv) : OutInv (execCpSigArrival s) := by
  rw [execCpSigArrival, outInv_next]
  generalize List.find? _ (s.waitingCp 6) = o
  refine State.Inv.elim_entry (o := o) (fun x => ?_) h
  have v := State.copyArrive_inv h x.seq (sigBarrier (CpArgs.ofImage x.img)) true
  generalize s.copyArrive _ _ _ = y at v ⊢
  rcases y with _ | ⟨t, e⟩
  · exact h
  · exact State.scrubGuard_inv h ((State.finish_inv ..).mpr (v t e rfl))

theorem State.stageEntries_inv (h : s.Inv) (x : Entry) (ga n stage : Nat) : ExceptInv (s.stageEntries x ga n stage) := by
  induction n generalizing s ga with
  | zero => exact (exceptInv_ok _).mpr h
  | succ k ih =>
    unfold State.stageEntries
    split
    · exact exceptInv_error _
    · next heq =>
      have v := State.readDoubles_inv h _ _ _ _ _ heq
      split
      · exact exceptInv_error _
      · next heq2 => exact (exceptInv_ok _).mpr (ih v _ _ _ heq2)

theorem State.stageRelease_inv (h : s.Inv) (x : Entry) : ExceptInv (s.stageRelease x) := by
  have v := State.readDouble_inv h
  unfold State.stageRelease
  extract_lets sched
  split
  · exact (exceptInv_ok _).mpr h
  · split
    · exact exceptInv_error _
    · next heq => exact State.stageEntries_inv (v _ _ _ _ heq) _ _ _ _

@[simp] theorem State.startStage_inv (h : s.Inv) (a : CpArgs) (x : Entry) : OptionInv (s.startStage a x) := by
  unfold State.startStage
  split
  · simp [h]
  · next heq =>
    have v := State.stageRelease_inv h _ _ _ heq
    split <;> simp [v]

@[simp] theorem execCpStageComplete_inv (h : s.Inv) : OutInv (execCpStageComplete s) := by
  unfold execCpStageComplete; split <;> simp [h]

/-! ### Collective -/

@[simp] theorem State.sendEast_inv (m : CollMsg) : (s.sendEast m).Inv ↔ s.Inv := by simp [State.sendEast]

@[simp] theorem State.breakRing_inv (id : H16) : (s.breakRing id).Inv ↔ s.Inv := by unfold State.breakRing; split <;> simp

@[simp] theorem State.breakArrives_inv (m : CollMsg) : (s.breakArrives m).Inv ↔ s.Inv := by simp [State.breakArrives]

@[simp] theorem State.updColl_inv (collid : H16) (f : Coll → Coll) : (s.updColl collid f).Inv ↔ s.Inv := .rfl

@[simp] theorem State.collResult_inv (x : Coll) (v : List W32) : (s.collResult x v).Inv ↔ s.Inv := by simp [State.collResult]

@[simp] theorem State.collRead_inv (h : s.Inv) (x : Coll) : (s.collRead x).2.Inv := by unfold State.collRead; split <;> simp [h]

@[simp] theorem State.reduceAll_inv_iff (x : Coll) (l : List (List W32)) : (s.reduceAll x l).2.Inv ↔ s.Inv := by
  simp only [State.reduceAll]
  repeat' split
  all_goals simp

@[simp] theorem State.rootForm_inv (x : Coll) : (s.rootForm x).Inv ↔ s.Inv := by
  unfold State.rootForm
  split
  · rfl
  · exact (State.collResult_inv ..).trans (State.reduceAll_inv_iff ..)

@[simp] theorem State.collFirst_inv (x : Coll) : (s.collFirst x).Inv ↔ s.Inv := by simp [State.collFirst]

@[simp] theorem State.sendContrib_inv (x : Coll) : (s.sendContrib x).Inv ↔ s.Inv := by simp [State.sendContrib]

@[simp] theorem State.startColl_inv (h : s.Inv) (a : CpArgs) (kind : Nat) (x : Entry) : OptionInv (s.startColl a kind x) := by
  simp only [State.startColl]
  repeat' split
  all_goals simp [h]

@[simp] theorem State.rootStep_inv (x : Coll) (m : CollMsg) : (s.rootStep x m).Inv ↔ s.Inv := by simp [State.rootStep]

@[simp] theorem State.ringStep_inv (x : Coll) (m : CollMsg) : (s.ringStep x m).Inv ↔ s.Inv := by simp [State.ringStep]

@[simp] theorem State.westStop_inv {f : Coll → State} (hf : ∀ x, (f x).Inv) (h : s.Inv) (m : CollMsg) : (s.westStop m f).Inv := by
  simp only [State.westStop]
  repeat' with_reducible apply State.Inv.ite
  case hu => split <;> simp [h, hf]
  all_goals simp [h]

@[simp] theorem execCollectiveReduceStep_inv (h : s.Inv) (m : CollMsg) : OutInv (execCollectiveReduceStep m s) := by
  refine (outInv_next _).mpr (State.westStop_inv (fun x => ?_) h m)
  repeat' split
  all_goals simp [h]

@[simp] theorem State.collWrite_inv (h : s.Inv) (x : Coll) (v : List W32) : (s.collWrite x v).Inv := by simp [State.collWrite, h]

@[simp] theorem execCollectiveResultWrite_inv (h : s.Inv) (m : CollMsg) : OutInv (execCollectiveResultWrite m s) := by
  refine (outInv_next _).mpr (State.westStop_inv (fun x => ?_) h m)
  repeat' split
  all_goals simp [h]

@[simp] theorem execCollectiveComplete_inv (h : s.Inv) (collid : H16) : OutInv (execCollectiveComplete collid s) := by
  unfold execCollectiveComplete
  repeat' split
  all_goals simp [h]

@[simp] theorem State.contribTaken_inv (id : H16) : (s.contribTaken id).Inv ↔ s.Inv := by
  unfold State.contribTaken
  split <;> simp

@[simp] theorem State.contribArrives_inv (fid src : Nat) (id : H16) : (s.contribArrives fid src id).Inv ↔ s.Inv := by
  simp only [State.contribArrives]
  repeat' split
  all_goals simp [State.withCore, State.onImage]

@[simp] theorem execRingFlitArrival_inv (h : s.Inv) (fid : Nat) : OutInv (execRingFlitArrival fid s) := by
  simp only [execRingFlitArrival]
  repeat' split
  all_goals simp [h]

/-! ### Frames -/

@[simp] theorem State.frPend_inv (seq : W32) (t : Option Trap) : (s.frPend seq t).Inv ↔ s.Inv := by unfold State.frPend; split <;> simp

@[simp] theorem State.frRead_inv (h : s.Inv) (seq : W32) (tid off n : Nat) : (s.frRead seq tid off n).2.Inv := by
  unfold State.frRead; split <;> simp [h]

@[simp] theorem State.frWrite_inv (h : s.Inv) (seq : W32) (tid off : Nat) (d : List Byte) : (s.frWrite seq tid off d).Inv := by
  unfold State.frWrite; split <;> simp [h]

@[simp] theorem State.frLoad_inv (h : s.Inv) (seq : W32) (tid off n : Nat) : (s.frLoad seq tid off n).2.Inv := by
  simp [State.frLoad, h]

@[simp] theorem State.frStore_inv (h : s.Inv) (seq : W32) (tid off n v : Nat) : (s.frStore seq tid off n v).Inv := by
  simp [State.frStore, h]

@[simp] theorem State.slotRead_inv (h : s.Inv) (seq : W32) (slot k : Nat) : (s.slotRead seq slot k).2.Inv := by
  simp [State.slotRead, h]

@[simp] theorem State.slotWrite_inv (h : s.Inv) (seq : W32) (slot k : Nat) (d : List Byte) : (s.slotWrite seq slot k d).Inv := by
  simp [State.slotWrite, h]

@[simp] theorem State.blockWrite_inv (h : s.Inv) (seq : W32) (k tid off : Nat) (d : List Byte) : (s.blockWrite seq k tid off d).Inv := by
  unfold State.blockWrite
  repeat' split
  all_goals simp [h]

@[simp] theorem State.frSess_inv (h : s.Inv) (seq : W32) (tab i : Nat) : (s.frSess seq tab i).2.Inv := by simp [State.frSess, h]

@[simp] theorem State.genUp_inv (h : s.Inv) (seq : W32) (tab i : Nat) : (s.genUp seq tab i).Inv := by simp [State.genUp, h]

@[simp] theorem State.blockIn_inv (h : s.Inv) (seq : W32) (slot home k : Nat) : (s.blockIn seq slot home k).Inv := by
  simp [State.blockIn, h]

@[simp] theorem State.blockOut_inv (h : s.Inv) (seq : W32) (slot home k : Nat) : (s.blockOut seq slot home k).Inv := by
  simp [State.blockOut, h]

@[simp] theorem State.setSlot_inv (i : Nat) (f : Slot → Slot) : (s.setSlot i f).Inv ↔ s.Inv := .rfl

theorem State.threeLoads_inv (h : s.Inv) (seq : W32) (tid o k l n : Nat) (f : Nat → Nat → Nat → Pool) :
    (let a := s.frLoad seq tid o n
     let b := a.2.frLoad seq tid k n
     let c := b.2.frLoad seq tid l n
     (f a.1 b.1 c.1, c.2)).2.Inv :=
  State.frLoad_inv (State.frLoad_inv (State.frLoad_inv h ..) ..) ..

@[simp] theorem State.poolOf_inv (h : s.Inv) (seq : W32) (tab : Nat) : (s.poolOf seq tab).2.Inv :=
  State.threeLoads_inv h seq tab 0 8 16 8 (fun a b c => ⟨tab, a % 2 ^ 12, b % 2 ^ 32, c⟩)

@[simp] theorem State.poolCount_inv (h : s.Inv) (seq : W32) (p : Pool) (k : Nat) (f : Nat → Nat) : (s.poolCount seq p k f).Inv :=
  State.frStore_inv (State.frLoad_inv h ..) ..

@[simp] theorem State.releaseWords_inv (h : s.Inv) (seq : W32) (p : Pool) (l : List Nat) : (s.releaseWords seq p l).Inv :=
  foldl_inv _ (fun _ _ v => by split <;> simp [v]) h

@[simp] theorem State.mapWords_inv (h : s.Inv) (seq : W32) (p : Pool) (n i size : Nat) : (s.mapWords seq p n i size).2.Inv := by
  simp [State.mapWords, h]

@[simp] theorem State.freeBlockFrom_inv (h : s.Inv) (seq : W32) (p : Pool) (j rows : Nat) : (s.freeBlockFrom seq p j rows).2.Inv := by
  induction rows generalizing s j with
  | zero => exact h
  | succ n ih =>
    have v := State.frRead_inv h seq p.tid (p.countOff (32 * j)) (2 * min 32 (p.nblk - 32 * j))
    simp only [State.freeBlockFrom]
    split
    · exact v
    · exact ih v _

@[simp] theorem State.freeBlock_inv (h : s.Inv) (seq : W32) (p : Pool) : (s.freeBlock seq p).2.Inv := by simp [State.freeBlock, h]

@[simp] theorem State.sameBlock_inv (h : s.Inv) (seq : W32) (p : Pool) (maps : List (List Nat)) (k : Nat) (d : List Byte) :
    (s.sameBlock seq p maps k d).2.Inv := by
  refine foldl_snd_inv _ (fun r x v => ?_) h
  have w := State.frRead_inv v seq p.tid (4096 * x.getD k 0) 4096
  split
  · exact v
  · simp only
    generalize State.frRead _ _ _ _ 4096 = y at w ⊢
    split
    · exact v
    · split <;> exact w

@[simp] theorem State.snapBlocks_inv (h : s.Inv) (seq : W32) (p : Pool) (slot : Nat) (maps : List (List Nat)) (m : List Nat) (n : Nat) :
    (s.snapBlocks seq p slot maps m n).2.2.Inv := by
  induction n generalizing s m with
  | zero => exact h
  | succ r ih =>
    have v := State.slotRead_inv h seq slot m.length
    have w := State.sameBlock_inv v seq p maps m.length (s.slotRead seq slot m.length).1
    simp only [State.snapBlocks]
    split
    · exact ih v _
    · split
      · next heq => rw [heq] at w; exact ih (State.poolCount_inv w ..) _
      · next heq =>
        rw [heq] at w
        have u := State.freeBlock_inv w seq p
        split
        · next heq2 => rw [heq2] at u; exact u
        · next heq2 => rw [heq2] at u; exact ih (State.blockWrite_inv (State.poolCount_inv u ..) ..) _

theorem State.snapMaps_inv (h : s.Inv) (seq : W32) (p : Pool) (n : Nat) (x : Sess) (l : List Nat) (r : List (List Nat)) :
    (l.foldl (fun (r : List (List Nat) × State) j =>
      if bit x.tv j then (r.1 ++ [(r.2.mapWords seq p n j x.size).1], (r.2.mapWords seq p n j x.size).2) else r) (r, s)).2.Inv := by
  refine foldl_snd_inv _ (fun r j v => ?_) h
  split
  · exact State.mapWords_inv v ..
  · exact v

@[simp] theorem State.snap_inv (h : s.Inv) (seq : W32) (tab slot n v : Nat) : (s.snap seq tab slot n v).1.Inv := by
  have hp := State.poolOf_inv h seq tab
  simp only [State.snap]
  generalize s.poolOf seq tab = a at hp ⊢
  have hs := State.frSess_inv hp seq tab n
  generalize a.2.frSess seq tab n = b at hs ⊢
  have hm := State.snapMaps_inv hs seq a.1 n b.1 (List.range 4) []
  generalize List.foldl _ ([], b.2) (List.range 4) = m at hm ⊢
  have hb := State.snapBlocks_inv hm seq a.1 slot m.1 [] b.1.size
  split
  · next heq =>
    rw [heq] at hb
    exact State.releaseWords_inv hb ..
  · next heq =>
    rw [heq] at hb
    refine State.frStore_inv (State.frStore_inv (State.frWrite_inv ?_ ..) ..) ..
    split
    · exact State.releaseWords_inv (State.mapWords_inv hb ..) ..
    · exact hb

@[simp] theorem State.roll_inv (h : s.Inv) (seq : W32) (tab slot n i : Nat) : (s.roll seq tab slot n i).Inv := by
  have v := State.frSess_inv (State.poolOf_inv h seq tab) seq tab n
  refine State.genUp_inv (foldl_inv _ (fun t w u => ?_) (State.mapWords_inv v ..)) ..
  split
  · exact State.slotWrite_inv u ..
  · exact State.slotWrite_inv (State.frRead_inv u ..) ..

@[simp] theorem State.dropTags_inv (h : s.Inv) (seq : W32) (tab n mask : Nat) : (s.dropTags seq tab n mask).Inv := by
  have v := State.frSess_inv (State.poolOf_inv h seq tab) seq tab n
  refine State.frStore_inv (foldl_inv _ (fun t i u => ?_) v) ..
  split
  · exact State.releaseWords_inv (State.mapWords_inv u ..) ..
  · exact u

theorem State.eachBlock_inv {f : State → Nat → State} (hf : ∀ t k, t.Inv → (f t k).Inv) (h : s.Inv) (n : Nat) : (s.eachBlock n f).Inv :=
  foldl_inv _ hf h

@[simp] theorem State.frDo_inv (h : s.Inv) (seq : W32) (op : Nat) (a : FrArgs) : (s.frDo seq op a).1.Inv := by
  have sess (n : Nat) := State.frSess_inv h seq a.tab.toNat n
  have blocksIn {t : State} (ht : t.Inv) (slot home n : Nat) : (t.eachBlock n (fun u k => u.blockIn seq slot home k)).Inv :=
    State.eachBlock_inv (fun _ _ v => State.blockIn_inv v ..) ht n
  have blocksOut {t : State} (ht : t.Inv) (slot home n : Nat) : (t.eachBlock n (fun u k => u.blockOut seq slot home k)).Inv :=
    State.eachBlock_inv (fun _ _ v => State.blockOut_inv v ..) ht n
  simp only [State.frDo]
  split
  · exact (State.setSlot_inv ..).mpr (blocksIn (sess _) ..)
  · exact (State.setSlot_inv ..).mpr (State.genUp_inv (blocksOut (sess _) ..) ..)
  · refine (State.setSlot_inv ..).mpr (State.genUp_inv (State.eachBlock_inv (fun t k v => ?_) (State.frSess_inv (sess _) ..) _) ..)
    repeat' split
    · exact State.blockIn_inv (State.blockOut_inv v ..) ..
    · exact State.blockIn_inv v ..
    · exact State.blockOut_inv v ..
    · exact v
  · exact State.snap_inv h ..
  · exact (State.setSlot_inv ..).mpr (State.roll_inv (sess _) ..)
  · refine foldl_inv _ (fun _ _ v => State.frStore_inv v ..) ?_
    exact State.frStore_inv (State.frStore_inv (State.frStore_inv (blocksOut (sess _) ..) ..) ..) ..
  · split
    · exact (State.setSlot_inv ..).mpr (State.frStore_inv (State.frLoad_inv (State.dropTags_inv h ..) ..) ..)
    · exact State.dropTags_inv (sess _) ..
  · refine State.frStore_inv (State.frStore_inv (State.frLoad_inv (State.eachBlock_inv (fun t k v => ?_) (sess _) _) ..) ..) ..
    exact State.blockWrite_inv (State.frRead_inv v ..) ..
  · exact h

@[simp] theorem State.frBegin_inv (x : Entry) (op : Nat) (a : FrArgs) : (s.frBegin x op a).Inv ↔ s.Inv := by
  unfold State.frBegin; split <;> simp

@[simp] theorem State.frEnd_inv (x : Entry) (a : FrArgs) (res : Nat) : (s.frEnd x a res).Inv ↔ s.Inv := .rfl

@[simp] theorem State.startFrame_inv (h : s.Inv) (op : Nat) (a : FrArgs) (x : Entry) : OptionInv (s.startFrame op a x) := by
  simp only [State.startFrame]
  repeat' split
  all_goals simp [h]

@[simp] theorem State.startSlots_inv (h : s.Inv) (a : FrArgs) (x : Entry) : OptionInv (s.startSlots a x) := by
  unfold State.startSlots
  repeat' split
  all_goals simp [h]

@[simp] theorem State.startStat_inv (h : s.Inv) (a : FrArgs) (x : Entry) : OptionInv (s.startStat a x) := by
  simp only [State.startStat]
  repeat' split
  all_goals simp [h]

@[simp] theorem execFrPinReleaseProceed_inv (h : s.Inv) : OutInv (execFrPinReleaseProceed s) := by
  unfold execFrPinReleaseProceed; split <;> simp [h]

@[simp] theorem State.frRetire_inv (slot : Nat) : (s.frRetire slot).Inv ↔ s.Inv := .rfl

@[simp] theorem State.frFinish_inv (h : s.Inv) (x : Entry) : (s.frFinish x).Inv := by simp [State.frFinish, h]

@[simp] theorem execFrTransferComplete_inv (h : s.Inv) : OutInv (execFrTransferComplete s) := by
  unfold execFrTransferComplete; split <;> simp [h]

@[simp] theorem execUnitVerify_inv (h : s.Inv) (xid recv unit : Nat) (ok : Bool) : OutInv (execUnitVerify xid recv unit ok s) := by
  rw [execUnitVerify, outInv_next]
  split
  · refine State.scrubGuard_inv h (State.withCore_inv (fun t v => ?_) h _)
    split <;> simp [v]
  · split
    · exact State.withCore_inv (fun t v => by split <;> simp [v]) h _
    · exact h

@[simp] theorem execUnitResend_inv (h : s.Inv) (xid recv unit : Nat) : OutInv (execUnitResend xid recv unit s) := by
  rw [execUnitResend, outInv_next]
  split
  · refine State.withCore_inv (fun t v => ?_) h _
    repeat' split
    all_goals simp [v]
  · split <;> simp [h]

/-! ### Scan -/

@[simp] theorem State.startSxCfg_inv (h : s.Inv) (a : SxCfgArgs) (x : Entry) : OptionInv (s.startSxCfg a x) := by
  unfold State.startSxCfg; split <;> simp [h]

@[simp] theorem State.startSxReset_inv (h : s.Inv) (a : SxResetArgs) (x : Entry) : OptionInv (s.startSxReset a x) := by
  unfold State.startSxReset
  repeat' split
  all_goals simp [h]

@[simp] theorem State.startSxCarry_inv (h : s.Inv) (a : SxCarryArgs) (x : Entry) : OptionInv (s.startSxCarry a x) := by
  unfold State.startSxCarry
  repeat' split
  all_goals simp [h]

@[simp] theorem State.startSxFadeq_inv (h : s.Inv) (a : SxFadeqArgs) (x : Entry) : OptionInv (s.startSxFadeq a x) := by
  simp only [State.startSxFadeq]
  repeat' split
  all_goals simp [h]

@[simp] theorem State.startScan_inv (h : s.Inv) (contr : Bool) (a : SxScanArgs) (x : Entry) : OptionInv (s.startScan contr a x) := by
  unfold State.startScan
  repeat' split
  all_goals simp [h]

def ScanRun.Inv (r : ScanRun) : Prop := r.s.Inv

theorem ScanRun.inv_mk {ops : List ((Nat × Nat × Nat) × StepOp)} {hin : List ((Nat × Nat) × List Num)} {hs : List ((Nat × Nat × Nat) × List Num)}
    {cs : List ((Nat × Nat) × List (List Num))} {bad : Option Nat} : (ScanRun.mk s ops hin hs cs bad).Inv ↔ s.Inv := .rfl

theorem ScanRun.foldl_inv {α : Type} {f : ScanRun → α → ScanRun} (hf : ∀ r x, r.Inv → (f r x).Inv) {l : List α} {r : ScanRun} (h : r.Inv) :
    (l.foldl f r).Inv :=
  List.foldlRecOn l f h (fun _ v x _ => hf _ x v)

theorem ScanRun.read_inv {r : ScanRun} (h : r.Inv) (seq : W32) (o n : Nat) : (r.read seq o n).2.Inv := State.readZ_inv h ..

theorem ScanRun.carryRead_inv {r : ScanRun} (h : r.Inv) (q : ScanSet) (seq : W32) (b : Nat) : (r.carryRead q seq b).Inv := by
  refine ScanRun.foldl_inv (fun r n v => ?_) h
  split
  · exact ScanRun.inv_mk.mpr (ScanRun.read_inv v ..)
  · exact ScanRun.inv_mk.mpr v

theorem ScanRun.flag_inv {r : ScanRun} (h : r.Inv) (q : ScanSet) (seq : W32) (b t : Nat) : (r.flag q seq b t).2.Inv := by
  unfold ScanRun.flag
  split
  · exact h
  · exact ScanRun.read_inv h ..

theorem ScanRun.stepRead_inv {r : ScanRun} (h : r.Inv) (q : ScanSet) (seq : W32) (b g t : Nat) : (r.stepRead q seq b g t).Inv :=
  ScanRun.foldl_inv (fun _ _ v => ScanRun.inv_mk.mpr (ScanRun.read_inv (ScanRun.read_inv v ..) ..)) (ScanRun.flag_inv h ..)

theorem ScanRun.contrRead_inv {r : ScanRun} (h : r.Inv) (q : ScanSet) (seq : W32) (b t : Nat) : (r.contrRead q seq b t).Inv := by
  unfold ScanRun.contrRead
  split
  · exact h
  · exact ScanRun.inv_mk.mpr (ScanRun.read_inv h ..)

@[simp] theorem State.countFades_inv (fce : Bool) (lane k : Nat) : (s.countFades fce lane k).Inv ↔ s.Inv := by simp [State.countFades]

theorem ScanRun.write_inv {r : ScanRun} (h : r.Inv) (seq : W32) (o : Nat) (v : List Num) : (r.write seq o v).Inv := State.writeZ_inv h ..

theorem ScanRun.deliver_inv {r : ScanRun} (h : r.Inv) (q : ScanSet) (x : Entry) (free b g t : Nat) : (r.deliver q x free b g t).Inv := by
  refine ScanRun.foldl_inv (fun r j v => ?_) h
  have w (lane k : Nat) (hs : List ((Nat × Nat × Nat) × List Num)) : ({ r with s := r.s.countFades x.fce lane k, hs := hs } : ScanRun).Inv :=
    ScanRun.inv_mk.mpr ((State.countFades_inv ..).mpr v)
  simp only
  split
  · exact ScanRun.write_inv (w ..) ..
  · exact w ..

theorem ScanRun.contrWrite_inv {r : ScanRun} (h : r.Inv) (q : ScanSet) (seq : W32) (free b t : Nat) : (r.contrWrite q seq free b t).Inv := by
  unfold ScanRun.contrWrite
  split
  · exact h
  · exact ScanRun.foldl_inv (fun _ _ v => ScanRun.write_inv v ..) h

theorem ScanRun.carryWrite_inv {r : ScanRun} (h : r.Inv) (q : ScanSet) (seq : W32) (b : Nat) : (r.carryWrite q seq b).Inv := by
  unfold ScanRun.carryWrite
  split
  · exact h
  · exact ScanRun.foldl_inv (fun _ _ v => ScanRun.write_inv v ..) h

theorem ScanRun.Inv.ite {c : Prop} [Decidable c] {r u : ScanRun} (hr : r.Inv) (hu : u.Inv) : (if c then r else u).Inv := by
  split <;> assumption

theorem ScanRun.cycle_inv {r : ScanRun} (h : r.Inv) (q : ScanSet) (x : Entry) (free c : Nat) : (r.cycle q x free c).Inv := by
  unfold ScanRun.cycle
  extract_lets z w total r1 r2 r3 r4 r5
  have v1 : r1.Inv := ScanRun.Inv.ite (ScanRun.carryRead_inv h ..) h
  have v2 : r2.Inv := ScanRun.stepRead_inv v1 ..
  have v3 : r3.Inv := ScanRun.Inv.ite (ScanRun.Inv.ite (ScanRun.contrRead_inv v2 ..) v2) h
  have v4 : r4.Inv := ScanRun.Inv.ite (ScanRun.deliver_inv v3 ..) v3
  have v5 : r5.Inv := ScanRun.Inv.ite (ScanRun.contrWrite_inv v4 ..) v4
  exact ScanRun.Inv.ite (ScanRun.carryWrite_inv v5 ..) v5

theorem State.runScan_inv (h : s.Inv) (q : ScanSet) (x : Entry) : (s.runScan q x).Inv :=
  ScanRun.foldl_inv (fun _ _ v => ScanRun.cycle_inv v ..) (ScanRun.inv_mk.mpr (State.inv_mk.mpr h))

@[simp] theorem State.scanFinish_inv (h : s.Inv) (x : Entry) : (s.scanFinish x).Inv := by
  simp only [State.scanFinish]
  split
  · simp [h]
  · exact (State.finish_inv ..).mpr (State.runScan_inv h ..)

@[simp] theorem execSxScanComplete_inv (h : s.Inv) : OutInv (execSxScanComplete s) := by unfold execSxScanComplete; split <;> simp [h]

/-! ### Feed -/

def SpanInv (r : Except Trap Span) : Prop := ∀ d, r = .ok d → d.st.Inv

theorem State.listRead_inv (h : s.Inv) (eng : Nat) (seq : W32) (pois : Bool) (o n : Nat) : SpanInv (s.listRead eng seq pois o n) := by
  unfold State.listRead
  split
  · rintro d ⟨⟩
  · rintro d ⟨⟩
    exact State.readSpan_inv h ..

@[simp] theorem State.updQ_inv (n : Nat) (f : OpQueue → OpQueue) : (s.updQ n f).Inv ↔ s.Inv := .rfl

@[simp] theorem State.pushQ_inv (n : Nat) (v : Lanes) : (s.pushQ n v).Inv ↔ s.Inv := .rfl

def Fed.Inv (r : Fed) : Prop := r.s.Inv

theorem Fed.inv_mk {l : List Lanes} {t : Option Trap} : (Fed.mk l s t).Inv ↔ s.Inv := .rfl

theorem Fed.foldl_inv {α : Type} {f : Fed → α → Fed} (hf : ∀ r x, r.Inv → (f r x).Inv) {l : List α} {r : Fed} (h : r.Inv) :
    (l.foldl f r).Inv :=
  List.foldlRecOn l f h (fun _ v x _ => hf _ x v)

theorem State.feedRuns_inv (h : s.Inv) (a : FdArgs) (x : Entry) (f : List Byte → Lanes) (l : List (List (Nat × Nat × Place))) :
    (s.feedRuns a x f l).Inv :=
  Fed.foldl_inv (fun _ _ v => Fed.inv_mk.mpr (State.readRuns_inv v ..)) (Fed.inv_mk.mpr h)

def FeedInv (go : Except Trap (List (List (Nat × Nat × Place)) × (State → Fed))) : Prop :=
  ∀ l f, go = .ok (l, f) → ∀ t, t.Inv → (f t).Inv

theorem FeedInv.ok {l : List (List (Nat × Nat × Place))} {f : State → Fed} (hf : ∀ t, t.Inv → (f t).Inv) : FeedInv (.ok (l, f)) := by
  rintro l f ⟨⟩; exact hf

theorem FeedInv.map {α : Type} {r : Except Trap α} {l : α → List (List (Nat × Nat × Place))} {f : α → State → Fed}
    (hf : ∀ a t, t.Inv → (f a t).Inv) : FeedInv (r.map (fun a => (l a, f a))) := by
  cases r with
  | error e => rintro _ _ ⟨⟩
  | ok a => exact FeedInv.ok (hf a)

theorem State.startFeed_inv {go : Except Trap (List (List (Nat × Nat × Place)) × (State → Fed))} (hg : FeedInv go) (h : s.Inv)
    (a : FdArgs) (x : Entry) : OptionInv (s.startFeed a x go) := by
  simp only [State.startFeed]
  split
  · simp
  · split
    · simp [h]
    · split
      · simp [h]
      · next l f =>
        have v : (f s).s.Inv := hg _ _ rfl s h
        repeat' split
        all_goals simp [h, v]

@[simp] theorem State.startLd_inv (h : s.Inv) (a : FdArgs) (x : Entry) : OptionInv (s.startLd a x) :=
  State.startFeed_inv (FeedInv.map (fun _ _ v => State.feedRuns_inv v ..)) h a x

@[simp] theorem State.startUnpk_inv (h : s.Inv) (a : FdArgs) (x : Entry) : OptionInv (s.startUnpk a x) :=
  State.startFeed_inv (FeedInv.map (fun _ _ v => State.feedRuns_inv v ..)) h a x

@[simp] theorem State.startBcst_inv (h : s.Inv) (a : FdArgs) (x : Entry) : OptionInv (s.startBcst a x) := by
  simp only [State.startBcst]
  split
  · exact State.startFeed_inv (FeedInv.ok (fun _ v => Fed.inv_mk.mpr v)) h a x
  · exact State.startFeed_inv (FeedInv.map (fun _ _ v => State.feedRuns_inv v ..)) h a x

@[simp] theorem State.startFeAgen_inv (h : s.Inv) (a : FdArgs) (x : Entry) : OptionInv (s.startFeAgen a x) :=
  State.startFeed_inv (FeedInv.ok (fun _ v => Fed.inv_mk.mpr v)) h a x

@[simp] theorem State.startIdx_inv (h : s.Inv) (a : FdArgs) (x : Entry) : OptionInv (s.startIdx a x) := by
  refine State.startFeed_inv ?_ h a x
  split
  · rintro _ _ ⟨⟩
  · exact FeedInv.ok (fun _ v => Fed.inv_mk.mpr (State.readRuns_inv v ..))

theorem State.coordRead_inv (h : s.Inv) (a : FdArgs) (x : Entry) (t : TDesc) (l : List (Option (Nat × Nat × Place))) :
    (s.coordRead a x t l).Inv := by
  refine Fed.inv_mk.mpr (List.foldlRecOn (motive := fun r : List (List Byte) × State × Option Trap => r.2.1.Inv) l _ h (fun r v e _ => ?_))
  split
  · exact v
  · exact State.readRuns_inv v ..

@[simp] theorem State.startLdg_inv (h : s.Inv) (a : FdArgs) (x : Entry) : OptionInv (s.startLdg a x) := by
  refine State.startFeed_inv ?_ h a x
  split
  · rintro _ _ ⟨⟩
  · split
    · rintro _ _ ⟨⟩
    · exact FeedInv.ok (fun t v => Fed.foldl_inv (fun _ _ w => Fed.inv_mk.mpr (State.coordRead_inv w ..)) (Fed.inv_mk.mpr v))

@[simp] theorem State.startGath_inv (h : s.Inv) (a : FdArgs) (x : Entry) : OptionInv (s.startGath a x) := by
  unfold State.startGath
  repeat' split
  all_goals simp [h]

theorem State.gathIndex_inv (h : s.Inv) (a : FdArgs) (x : Entry) (k : Nat) : ExceptInv (s.gathIndex a x k) := by
  simp only [State.gathIndex]
  split
  · exact exceptInv_error _
  · split
    · exact exceptInv_error _
    · next heq =>
      have v := State.listRead_inv h _ _ _ _ _ _ heq
      split
      · exact exceptInv_error _
      · exact (exceptInv_ok _).mpr v

theorem State.gathDisp_inv (h : s.Inv) (a : FdArgs) (x : Entry) : ExceptInv (s.gathDisp a x) := by
  simp only [State.gathDisp]
  split
  · exact (exceptInv_ok _).mpr h
  · split
    · exact exceptInv_error _
    · next heq => exact (exceptInv_ok _).mpr (State.gathIndex_inv h _ _ _ _ _ heq)

@[simp] theorem State.deliver_inv (h : s.Inv) (a : FdArgs) (x : Entry) : (s.deliver a x).Inv := by
  simp only [State.deliver]
  split
  · simp [h]
  · split
    · exact h
    · split
      · simp [h]
      · split
        · simp [h]
        · next heq =>
          have v := State.gathDisp_inv h _ _ _ _ heq
          split
          · simp [h]
          · have w := State.readRuns_inv v
            repeat' split
            all_goals simp [h, w]

@[simp] theorem execFeElementDelivery_inv (h : s.Inv) : OutInv (execFeElementDelivery s) := by
  unfold execFeElementDelivery
  repeat' split
  all_goals simp [h]

/-! ### Drain -/

@[simp] theorem State.popQ_inv (n : Nat) : (s.popQ n).2.Inv ↔ s.Inv := by
  simp [State.popQ]

@[simp] theorem State.drainRuns_inv (h : s.Inv) (a : FdArgs) (x : Entry) (d : List Byte) (l : List (Nat × Nat × Place)) :
    (s.drainRuns a x d l).1.Inv := State.storeRuns_inv h ..

def RunsInv (go : Except Trap (List (List (Nat × Nat × Place)) × State × Option Trap)) : Prop :=
  ∀ l t e, go = .ok (l, t, e) → t.Inv

theorem State.startDrainE_inv {go : Except Trap (List (List (Nat × Nat × Place)) × State × Option Trap)}
    {put : State → Lanes → List (Nat × Nat × Place) → State × Option Trap} (hg : RunsInv go) (hp : ∀ t v l, t.Inv → (put t v l).1.Inv)
    (h : s.Inv) (a : FdArgs) (x : Entry) (useQ : Bool) : OptionInv (s.startDrainE a x useQ go put) := by
  simp only [State.startDrainE]
  split
  · simp
  · split
    · simp [h]
    · split
      · simp [h]
      · next l t e =>
        repeat' split
        · simp
        · simp [h]
        · simp [h]
        all_goals
          simp only [optionInv_some, State.startDone_inv, State.runsMade_inv]
          refine foldl_fst_inv _ (fun r l v => ?_) ?_
          · exact hp _ _ _ (by simpa using v)
          · exact hg _ _ _ rfl

theorem State.stridedRuns_inv (h : s.Inv) (ag : Agent) (a : FdArgs) (u n : Nat) (stride : Int) (disp : Nat → Int) :
    RunsInv (s.stridedRuns ag a u n stride disp) := by
  unfold State.stridedRuns
  cases s.entryRuns .de ag a u n stride disp with
  | error e => rintro _ _ _ ⟨⟩
  | ok l => rintro _ _ _ ⟨⟩; exact h

@[simp] theorem State.startSt_inv (h : s.Inv) (a : FdArgs) (x : Entry) : OptionInv (s.startSt a x) :=
  State.startDrainE_inv (State.stridedRuns_inv h _ _ _ _ _ _) (fun _ _ _ v => State.drainRuns_inv v ..) h a x true

@[simp] theorem State.startPack_inv (h : s.Inv) (a : FdArgs) (x : Entry) : OptionInv (s.startPack a x) :=
  State.startDrainE_inv (State.stridedRuns_inv h _ _ _ _ _ _) (fun _ _ _ v => State.drainRuns_inv v ..) h a x true

theorem State.indexedRuns_inv (h : s.Inv) (a : FdArgs) (x : Entry) : RunsInv (s.indexedRuns a x) := by
  simp only [State.indexedRuns]
  split
  · rintro _ _ _ ⟨⟩
  · split
    · rintro _ _ _ ⟨⟩
    · next heq =>
      have v := State.listRead_inv h _ _ _ _ _ _ heq
      split
      · rintro _ _ _ ⟨⟩
      · rintro _ _ _ ⟨⟩; exact v

@[simp] theorem State.startScat_inv (h : s.Inv) (a : FdArgs) (x : Entry) : OptionInv (s.startScat a x) :=
  State.startDrainE_inv (State.indexedRuns_inv h a x) (fun _ _ _ v => State.drainRuns_inv v ..) h a x true

@[simp] theorem State.addEntry_inv (h : s.Inv) (a : FdArgs) (x : Entry) (v : Lanes) (l : List (Nat × Nat × Place)) :
    (s.addEntry a x v l).1.Inv := State.drainRuns_inv (State.readRuns_inv h ..) ..

@[simp] theorem State.startAddst_inv (h : s.Inv) (a : FdArgs) (x : Entry) : OptionInv (s.startAddst a x) := by
  refine State.startDrainE_inv ?_ (fun _ _ _ v => State.addEntry_inv v ..) h a x true
  split
  · exact State.indexedRuns_inv h a x
  · exact State.stridedRuns_inv h _ _ _ _ _ _

@[simp] theorem State.coordPut_inv (h : s.Inv) (a : FdArgs) (x : Entry) (t : TDesc) (v : Lanes) (l : List (Option (Nat × Nat × Place))) :
    (s.coordPut a x t v l).1.Inv := by
  refine foldl_fst_inv _ (fun r e w => ?_) h
  split
  · exact w
  · exact State.drainRuns_inv w ..

@[simp] theorem State.startStg_inv (h : s.Inv) (a : FdArgs) (x : Entry) : OptionInv (s.startStg a x) := by
  simp only [State.startStg]
  refine OptionInv.ite optionInv_none (OptionInv.ite (by simp [h]) ?_)
  split
  · simp [h]
  · split
    · simp [h]
    · refine OptionInv.ite optionInv_none ?_
      rw [optionInv_some, State.startDone_inv]
      refine foldl_fst_inv _ (fun r l v => ?_) ?_
      · exact State.coordPut_inv ((State.popQ_inv _).mpr v) ..
      · exact h

@[simp] theorem State.startDeAgen_inv (h : s.Inv) (a : FdArgs) (x : Entry) : OptionInv (s.startDeAgen a x) := by
  simp only [State.startDeAgen]
  split
  · exact OptionInv.ite (by simp [h]) optionInv_none
  · refine OptionInv.ite optionInv_none (OptionInv.ite (by simp [h]) (OptionInv.ite (by simp [h]) ?_))
    rw [optionInv_some, State.startDone_inv, State.runsMade_inv]
    refine foldl_fst_inv _ (fun _ _ v => ?_) ?_
    · exact State.drainRuns_inv v ..
    · exact h

/-! ### Vector -/

@[simp] theorem State.setMask_inv (n : Nat) (v : W64) : (s.setMask n v).Inv ↔ s.Inv := .rfl

@[simp] theorem State.writeY_inv (p : VxPend) : (s.writeY p).Inv ↔ s.Inv := by unfold State.writeY; split <;> simp

@[simp] theorem State.visible_inv (p : VxPend) : (s.visible p).Inv ↔ s.Inv := by unfold State.visible; split <;> simp

@[simp] theorem State.vxSlot_inv : s.vxSlot.Inv ↔ s.Inv := by simp [State.vxSlot]

@[simp] theorem State.popSrcs_inv (srcs : List Nat) : (s.popSrcs srcs).Inv ↔ s.Inv :=
  foldl_inv_iff _ (fun _ _ => by split <;> simp [State.popQ_inv])

theorem State.vxIssue_inv {spad : State → VxCheck} {body : State → State} (hb : ∀ t, t.Inv → (body t).Inv) (h : s.Inv) (x : Entry)
    (srcs : List Nat) (dq : Option Nat) : OptionInv (s.vxIssue x srcs dq spad body) := by
  have v : (body ((s.vxSlot.start .vx x .started).popSrcs srcs)).Inv := hb _ (by simp [h])
  simp only [State.vxIssue]
  split
  · simp [h]
  · simp
  · simp [h]
  · simp [v]

@[simp] theorem State.vxSide_inv (a : VxArgs) (o : VxOut) : (s.vxSide a o).Inv ↔ s.Inv := by simp [State.vxSide]

@[simp] theorem State.vxPend_inv (a : VxArgs) (x : Entry) (n : Nat) (y : Option Nat) (o : VxOut) : (s.vxPend a x n y o).Inv ↔ s.Inv := by
  simp [State.vxPend]

@[simp] theorem State.vxDone_inv (x : Entry) : (s.vxDone x).Inv ↔ s.Inv := .rfl

theorem State.vxOp_inv (h : s.Inv) (a : VxArgs) (x : Entry) (srcs : List Nat) (n : Nat) (y : Option Nat) (f : State → List Lanes → VxOut) :
    OptionInv (s.vxOp a x srcs n y f) :=
  State.vxIssue_inv (fun _ v => (State.vxPend_inv ..).mpr v) h x srcs _

@[simp] theorem execVxResultVisible_inv (h : s.Inv) : OutInv (execVxResultVisible s) := by simp [execVxResultVisible, h]

/-! ### VectorOps -/

theorem State.runVx_inv {f : State → Entry → Option State} (hf : ∀ x, OptionInv (f s x)) (h : s.Inv) : OutInv (s.runVx f) :=
  (outInv_next _).mpr (State.starting_inv hf h _)

theorem State.vxFloat_inv (h : s.Inv) (a : VxArgs) (x : Entry) (srcs : List Nat) (n : Nat) (y : Option Nat) (rc : Rnd)
    (op : List Num → Num) : OptionInv (s.vxFloat a x srcs n y rc op) := State.vxOp_inv h a x srcs n y _

@[simp] theorem State.writeMask_inv (a : VxArgs) (f : Nat → Bool) : (s.writeMask a f).Inv ↔ s.Inv := .rfl

theorem State.vxCompare_inv (h : s.Inv) (a : VxArgs) (x : Entry) (f : List Lanes → Nat → Bool) : OptionInv (s.vxCompare a x f) :=
  State.vxIssue_inv (fun _ v => (State.vxDone_inv ..).mpr ((State.writeMask_inv ..).mpr v)) h x _ _

theorem State.vxInt_inv (h : s.Inv) (a : VxArgs) (x : Entry) (srcs : List Nat) (n : Nat) (y : Option Nat)
    (op : List Nat → Nat × Bool) : OptionInv (s.vxInt a x srcs n y op) := State.vxOp_inv h a x srcs n y _

theorem State.vxBits_inv (h : s.Inv) (a : VxArgs) (x : Entry) (f : W32 → W32 → W32) : OptionInv (s.vxBits a x f) := State.vxOp_inv h a x _ _ _ _

theorem State.vxComplex_inv (h : s.Inv) (a : VxArgs) (x : Entry) (srcs : List Nat) (re : List Cx → Num) (im : Option (List Cx → Num)) :
    OptionInv (s.vxComplex a x srcs re im) := State.vxOp_inv h a x srcs _ _ _

theorem State.vxSfu_inv (h : s.Inv) (a : VxArgs) (x : Entry) (f : Num → Num) : OptionInv (s.vxSfu a x f) := State.vxFloat_inv h a x _ _ _ _ _

theorem State.vxMove_inv (h : s.Inv) (a : VxArgs) (x : Entry) (srcs : List Nat) (n : Nat) (y : Option Nat)
    (f : State → List Lanes → Nat → W32) : OptionInv (s.vxMove a x srcs n y f) := State.vxOp_inv h a x srcs n y _

@[simp] theorem execVxMovLds_inv (h : s.Inv) (a : VxArgs) : OutInv (execVxMovLds a s) := by
  refine State.runVx_inv (fun x => State.vxIssue_inv (fun t v => ?_) h x _ _) h
  rw [State.vxPend_inv]
  exact foldl_inv _ (fun _ _ w => State.poisonLog_inv w ..) v

@[simp] theorem execVxMovSts_inv (h : s.Inv) (a : VxArgs) : OutInv (execVxMovSts a s) := by
  refine State.runVx_inv (fun x => State.vxIssue_inv (fun t v => ?_) h x _ _) h
  rw [State.vxDone_inv]
  refine foldl_inv _ (fun _ _ w => State.writeBytes_inv w ..) ?_
  exact foldl_inv _ (fun _ _ w => State.zeroUnit_inv (State.poisonLog_inv w ..) _) v

theorem State.vxEffect_inv {f : State → List Lanes → State} (hf : ∀ t l, t.Inv → (f t l).Inv) (h : s.Inv) (a : VxArgs) (x : Entry)
    (srcs : List Nat) : OptionInv (s.vxEffect a x srcs f) :=
  State.vxIssue_inv (fun _ v => (State.vxDone_inv ..).mpr (hf _ _ v)) h x _ _

@[simp] theorem State.setK_inv (n : Nat) (w : W32) : (s.setK n w).Inv ↔ s.Inv := .rfl

@[simp] theorem execVxKset_inv (h : s.Inv) (a : VxArgs) : OutInv (execVxKset a s) :=
  State.runVx_inv (fun x => State.vxEffect_inv (fun _ _ v => (State.setK_inv ..).mpr v) h a x _) h

@[simp] theorem execVxKsetLane_inv (h : s.Inv) (a : VxArgs) : OutInv (execVxKsetLane a s) :=
  State.runVx_inv (fun x => State.vxEffect_inv (fun _ _ v => (State.setK_inv ..).mpr v) h a x _) h

theorem State.vxMop_inv (h : s.Inv) (a : VxArgs) (x : Entry) (f : W64 → W64 → W64) : OptionInv (s.vxMop a x f) :=
  State.vxEffect_inv (fun _ _ v => (State.setMask_inv ..).mpr v) h a x _

@[simp] theorem execVxMopFromv_inv (h : s.Inv) (a : VxArgs) : OutInv (execVxMopFromv a s) :=
  State.runVx_inv (fun x => State.vxEffect_inv (fun _ _ v => (State.setMask_inv ..).mpr v) h a x _) h

@[simp] theorem execVxQcfg_inv (h : s.Inv) (a : VxArgs) : OutInv (execVxQcfg a s) := by
  refine State.runVx_inv (fun x => ?_) h
  split
  · exact optionInv_none
  · exact State.vxEffect_inv (fun _ _ v => (State.updQ_inv ..).mpr v) h a x _

@[simp] theorem State.setLfsrs_inv (a : VxArgs) (f : Nat → W32 → W32) : (s.setLfsrs a f).Inv ↔ s.Inv := .rfl

@[simp] theorem execVxLfsrSeedv_inv (h : s.Inv) (a : VxArgs) : OutInv (execVxLfsrSeedv a s) :=
  State.runVx_inv (fun x => State.vxEffect_inv (fun _ _ v => (State.setLfsrs_inv ..).mpr v) h a x _) h

@[simp] theorem execVxLfsrSeedi_inv (h : s.Inv) (a : VxArgs) : OutInv (execVxLfsrSeedi a s) :=
  State.runVx_inv (fun x => State.vxEffect_inv (fun _ _ v => (State.setLfsrs_inv ..).mpr v) h a x _) h

@[simp] theorem execVxLfsrStep_inv (h : s.Inv) (a : VxArgs) : OutInv (execVxLfsrStep a s) :=
  State.runVx_inv (fun x => State.vxEffect_inv (fun _ _ v => (State.setLfsrs_inv ..).mpr v) h a x _) h

theorem State.vxReduce_inv (h : s.Inv) (a : VxArgs) (x : Entry) (f : State → List Lanes → Nat → W32) : OptionInv (s.vxReduce a x f) :=
  State.vxMove_inv h a x _ _ _ _

@[simp] theorem execVxRsum_inv (h : s.Inv) (a : VxArgs) : OutInv (execVxRsum a s) := by
  refine State.runVx_inv (fun x => OptionInv.map (State.vxReduce_inv h a x _) (fun t v => ?_)) h
  split <;> exact v

/-! ### Matrix -/

@[simp] theorem State.updMx_inv (f : Mx → Mx) : (s.updMx f).Inv ↔ s.Inv := .rfl

@[simp] theorem execMxNest_inv (h : s.Inv) (a : NestArgs) : OutInv (execMxNest a s) := by simp [execMxNest, h]

@[simp] theorem execMxOpnd_inv (h : s.Inv) (a : OpndArgs) : OutInv (execMxOpnd a s) := by simp [execMxOpnd, h]

@[simp] theorem execMxAcc_inv (h : s.Inv) (a : AccArgs) : OutInv (execMxAcc a s) :=
  (outInv_next _).mpr (State.starting_inv (fun x => by simp [h]) h _)

@[simp] theorem State.startGo_inv (h : s.Inv) (a : GoArgs) (x : Entry) : OptionInv (s.startGo a x) := by
  simp only [State.startGo]
  repeat' split
  all_goals simp [h]

@[simp] theorem State.tileRead_inv (h : s.Inv) (g : Go) (l : List (Nat × Nat)) : (s.tileRead g l).st.Inv := by simp [State.tileRead, h]

def TileData.Inv (r : TileData) : Prop := r.s.Inv

theorem TileData.inv_mk {l a b : List (List Byte)} {t : Option Trap} : (TileData.mk l a b s t).Inv ↔ s.Inv := .rfl

theorem TileData.foldl_inv {α : Type} {f : TileData → α → TileData} (hf : ∀ r x, r.Inv → (f r x).Inv) {l : List α} {r : TileData} (h : r.Inv) :
    (l.foldl f r).Inv :=
  List.foldlRecOn l f h (fun _ v x _ => hf _ x v)

theorem State.tileData_inv (h : s.Inv) (g : Go) (t : Nat) : (s.tileData g t).Inv := by
  refine TileData.foldl_inv (fun _ _ v => TileData.inv_mk.mpr (State.tileRead_inv (State.tileRead_inv v ..) ..)) ?_
  exact TileData.foldl_inv (fun _ _ v => TileData.inv_mk.mpr (State.tileRead_inv v ..)) (TileData.inv_mk.mpr h)

@[simp] theorem State.updGo_inv (seq : W32) (f : Go → Go) : (s.updGo seq f).Inv ↔ s.Inv := .rfl

theorem State.tileDone_inv {d : TileData} (h : d.Inv) (g : Go) (b : Nat) : (s.tileDone g b d).Inv := by
  have v : d.s.Inv := h
  simp only [State.tileDone]
  split <;> simp [v]

@[simp] theorem State.tileBegin_inv (h : s.Inv) (g : Go) : (s.tileBegin g).Inv := State.tileDone_inv (State.tileData_inv h ..) ..

@[simp] theorem State.readBegin_inv (g : Go) : (s.readBegin g).Inv ↔ s.Inv := .rfl

@[simp] theorem State.readNext_inv (h : s.Inv) (g : Go) (r : Reading) : (s.readNext g r).1.Inv := by
  unfold State.readNext; split <;> simp [h]

theorem State.readOn_inv (h : s.Inv) (g : Go) (r : Reading) (upto : Option Nat) (fuel : Nat) : OptionInv (s.readOn g r upto fuel) := by
  have v {t : State} (ht : t.Inv) (q : Reading) : (t.tileDone g q.begins ⟨q.load, q.a, q.b, t, q.trap⟩).Inv :=
    State.tileDone_inv (TileData.inv_mk.mpr ht) ..
  induction fuel generalizing s r with
  | zero =>
    unfold State.readOn
    split
    · exact (optionInv_some _).mpr (v h r)
    · simp [h]
  | succ n ih =>
    have w := State.readNext_inv h g r
    unfold State.readOn
    split
    · exact (optionInv_some _).mpr (v h r)
    · exact OptionInv.ite (by simp [h]) (OptionInv.ite optionInv_none (ih w _))

theorem State.readDue_inv (h : s.Inv) (upto : Option Nat) : OptionInv (s.readDue upto) := by
  unfold State.readDue
  repeat' split
  · simp [h]
  · exact State.readOn_inv h _ _ _ _
  · simp [h]

theorem State.mxReach_inv (h : s.Inv) (c : Nat) : OptionInv (s.mxReach c) := by
  refine State.readDue_inv ?_ _
  repeat' split
  all_goals simp [h]

@[simp] theorem State.readStall_inv : s.readStall.Inv ↔ s.Inv := .rfl

@[simp] theorem execMxTileBegin_inv (h : s.Inv) : OutInv (execMxTileBegin s) := by
  have v : ((s.readDue none).getD s.readStall).Inv := (State.readDue_inv h none).getD (by simp [h])
  simp only [execMxTileBegin, outInv_next]
  repeat' split
  all_goals simp [h, v]

@[simp] theorem execMxTileRelease_inv (h : s.Inv) : OutInv (execMxTileRelease s) := by
  simp only [execMxTileRelease]
  repeat' split
  all_goals simp [h]

@[simp] theorem execMxTileDrain_inv (h : s.Inv) : OutInv (execMxTileDrain s) := by
  simp only [execMxTileDrain]
  repeat' split
  all_goals simp [h]

@[simp] theorem State.startAccst_inv (h : s.Inv) (a : AccstArgs) (x : Entry) : OptionInv (s.startAccst a x) := by
  simp only [State.startAccst]
  repeat' split
  all_goals simp [h]

theorem State.startWords_inv {go : State → List Nat → State} (hg : ∀ t l, t.Inv → (go t l).Inv) (h : s.Inv) (x : Entry) (tid off n : Nat) :
    OptionInv (s.startWords x tid off n go) := by
  simp only [State.startWords]
  repeat' split
  · simp
  · simp [h]
  · simp [h]
  · simp [h]
  · simp [h]
  · simp [h]
  · exact (optionInv_some _).mpr (hg _ _ (by simp [h]))

@[simp] theorem State.startEpld_inv (h : s.Inv) (a : EpldArgs) (x : Entry) : OptionInv (s.startEpld a x) := by
  refine State.startWords_inv (fun t l v => ?_) h x _ _ _
  split <;> simp [v]

theorem State.startEparg_inv (h : s.Inv) (x : Entry) (f : Mx → Mx) : OptionInv (s.startEparg x f) := by
  unfold State.startEparg
  split <;> simp [h]

@[simp] theorem execMxEpargLd_inv (h : s.Inv) (a : EpargArgs) : OutInv (execMxEpargLd a s) :=
  (outInv_next _).mpr (State.starting_inv (fun x => State.startWords_inv (fun _ _ v => (State.startDone_inv ..).mpr ((State.updMx_inv _).mpr v)) h x _ _ _) h _)

@[simp] theorem execMxEpargSp_inv (h : s.Inv) (a : EpargArgs) : OutInv (execMxEpargSp a s) :=
  (outInv_next _).mpr (State.starting_inv (fun x => State.startEparg_inv h x _) h _)

/-! ### Epilogue -/

@[simp] theorem State.epNext_inv (t : Tile) (d : Drain) (n : Nat) : (s.epNext t d n).Inv ↔ s.Inv := .rfl

theorem State.runEp_inv {f : State → Tile → Drain → State} (hf : ∀ t d, (f s t d).Inv) (h : s.Inv) : OutInv (s.runEp f) := by
  rw [State.runEp, outInv_next]
  repeat' split
  · exact h
  · exact h
  · exact hf _ _

@[simp] theorem State.epLanes_inv (d : Nat) (f : Nat → W32 → W32 × W32) : (s.epLanes d f).Inv ↔ s.Inv := .rfl

theorem State.epWrite_inv (h : s.Inv) (d : Nat) (f : Tile → Drain → Nat → W32 → W32 × W32) : OutInv (s.epWrite d f) :=
  State.runEp_inv (fun t d => by simp [h]) h

@[simp] theorem execEpLda_inv (h : s.Inv) (d : BitVec 3) (comp : Bool) : OutInv (execEpLda d comp s) := State.epWrite_inv h _ _

theorem State.epArith_inv (h : s.Inv) (x : EpArgs) (f : Num → Num → Num → Num) (i : Int → Int → Int → Int) : OutInv (s.epArith x f i) :=
  State.epWrite_inv h _ _

@[simp] theorem execEpAdd_inv (h : s.Inv) (x : EpArgs) : OutInv (execEpAdd x s) := State.epArith_inv h _ _ _

@[simp] theorem execEpMul_inv (h : s.Inv) (x : EpArgs) : OutInv (execEpMul x s) := State.epArith_inv h _ _ _

@[simp] theorem execEpFma_inv (h : s.Inv) (x : EpArgs) : OutInv (execEpFma x s) := State.epArith_inv h _ _ _

@[simp] theorem execEpMax_inv (h : s.Inv) (x : EpArgs) : OutInv (execEpMax x s) := State.epArith_inv h _ _ _

@[simp] theorem execEpMin_inv (h : s.Inv) (x : EpArgs) : OutInv (execEpMin x s) := State.epArith_inv h _ _ _

@[simp] theorem execEpBias_inv (h : s.Inv) (x : EpArgs) : OutInv (execEpBias x s) := State.epArith_inv h _ _ _

@[simp] theorem execEpScale_inv (h : s.Inv) (x : EpArgs) : OutInv (execEpScale x s) := State.epArith_inv h _ _ _

theorem State.epAct_inv (h : s.Inv) (x : EpActArgs) (f : Num → Num) : OutInv (s.epAct x f) := State.epWrite_inv h _ _

@[simp] theorem execEpActRelu_inv (h : s.Inv) (x : EpActArgs) : OutInv (execEpActRelu x s) := State.epWrite_inv h _ _

@[simp] theorem execEpActSigm_inv (h : s.Inv) (x : EpActArgs) : OutInv (execEpActSigm x s) := State.epAct_inv h _ _

@[simp] theorem execEpActSilu_inv (h : s.Inv) (x : EpActArgs) : OutInv (execEpActSilu x s) := State.epAct_inv h _ _

@[simp] theorem execEpActSoftp_inv (h : s.Inv) (x : EpActArgs) : OutInv (execEpActSoftp x s) := State.epAct_inv h _ _

@[simp] theorem execEpActTanh_inv (h : s.Inv) (x : EpActArgs) : OutInv (execEpActTanh x s) := State.epAct_inv h _ _

@[simp] theorem execEpCvt_inv (h : s.Inv) (x : EpCvtArgs) : OutInv (execEpCvt x s) := State.epWrite_inv h _ _

@[simp] theorem execEpPack_inv (h : s.Inv) (x : EpPackArgs) : OutInv (execEpPack x s) :=
  State.runEp_inv (fun t d => by simp [h]) h

theorem State.epRed_inv (h : s.Inv) (d a : BitVec 3) (t : Bool) (f : List Num → Num) (i : List Int → Int) : OutInv (s.epRed d a t f i) :=
  State.runEp_inv (fun t d => by simp [h]) h

@[simp] theorem execEpRedSum_inv (h : s.Inv) (d a : BitVec 3) (t : Bool) : OutInv (execEpRedSum d a t s) := State.epRed_inv h _ _ _ _ _

@[simp] theorem execEpRedMax_inv (h : s.Inv) (d a : BitVec 3) (t : Bool) : OutInv (execEpRedMax d a t s) := State.epRed_inv h _ _ _ _ _

@[simp] theorem execEpRedMin_inv (h : s.Inv) (d a : BitVec 3) (t : Bool) : OutInv (execEpRedMin d a t s) := State.epRed_inv h _ _ _ _ _

@[simp] theorem State.epFault_inv (t : Tile) (c : Trap) : (s.epFault t c).Inv ↔ s.Inv := by simp [State.epFault]

@[simp] theorem State.epStore_inv (h : s.Inv) (t : Tile) (det pois : Bool) (ga : Nat) (data : List Byte) (pl : Place) :
    (s.epStore t det pois ga data pl).Inv := by
  simp [State.epStore, h]

@[simp] theorem State.epStSp_inv (h : s.Inv) (t : Tile) (dr : Drain) (v : Lanes) (pois : Bool) (esz cb bytes base pitch : Nat) :
    (s.epStSp t dr v pois esz cb bytes base pitch).Inv := by
  simp only [State.epStSp]
  repeat' split
  all_goals simp [h]

@[simp] theorem State.epPush_inv (t : Tile) (dr : Drain) (v : Lanes) (q : Nat) : (s.epPush t dr v q).Inv ↔ s.Inv := by
  simp [State.epPush]

theorem State.epStores_inv {f : State → State} (hf : ∀ t, t.Inv → (f t).Inv) (h : s.Inv) (d : Drain) : (s.epStores d f).Inv := by
  unfold State.epStores
  split
  · next heq => 
    have v := State.mxReach_inv h _ _ heq
    exact State.scrubGuard_inv h (hf _ v)
  · simp [h]

@[simp] theorem execEpSt_inv (h : s.Inv) (a : BitVec 3) (sd : BitVec 2) : OutInv (execEpSt a sd s) := by
  refine State.runEp_inv (fun t d => ?_) h
  split
  · exact State.epStores_inv (fun _ v => State.epStSp_inv v ..) h d
  · simp [h]
  · simp [h]

@[simp] theorem execEpQueuePushResume_inv (h : s.Inv) : OutInv (execEpQueuePushResume s) := by
  refine State.runEp_inv (fun t d => ?_) h
  simp only
  repeat' split
  all_goals simp [h]

@[simp] theorem execEpStg_inv (h : s.Inv) (a : BitVec 3) (sd : BitVec 2) : OutInv (execEpStg a sd s) := by
  refine State.runEp_inv (fun t d => ?_) h
  split
  · refine State.epStores_inv (fun u v => ?_) h d
    split
    · simp [v]
    · simp only
      split
      · simp [v]
      · exact (State.epNext_inv ..).mpr (foldl_inv _ (fun _ _ w => State.epStore_inv w ..) v)
  · simp [h]

@[simp] theorem execEpSkip_inv (h : s.Inv) (cond : BitVec 2) (n : BitVec 6) : OutInv (execEpSkip cond n s) :=
  State.runEp_inv (fun t d => by simp [h]) h

@[simp] theorem execEpEnd_inv (h : s.Inv) : OutInv (execEpEnd s) :=
  State.runEp_inv (fun t d => by simp [h]) h

/-! ### Stamped -/

@[simp] theorem State.startLong_inv (h : s.Inv) (e : Eng) (x : Entry) : OptionInv (s.startLong e x) := by
  simp only [State.startLong]
  repeat' split
  all_goals simp [h]

@[simp] theorem State.stampTest_inv (h : s.Inv) (e : Eng) : (s.stampTest e).Inv := by
  unfold State.stampTest
  split
  · exact h
  · split
    · next x _ _ _ _ =>
      have v := State.startLong_inv h e x
      split
      · split
        · next heq =>
          have w := v _ heq
          split <;> simp [h, w]
        · simp [h]
      · simp [h]
    · simp [h]

@[simp] theorem execStampedEntryStart_inv (h : s.Inv) (e : Eng) : OutInv (execStampedEntryStart e s) := by
  simp [execStampedEntryStart, h]

@[simp] theorem State.tick_inv (h : s.Inv) : s.tick.Inv := by
  simp only [State.tick]
  split
  · exact h
  · exact (State.upd_inv _).mpr (foldl_inv _ (fun _ _ v => State.stampTest_inv v _) h)

/-! ### Fetch -/

@[simp] theorem State.ctlNext_inv (h : s.Inv) : s.ctlNext.1.Inv := by
  unfold State.ctlNext
  repeat' split
  all_goals simp [h]

@[simp] theorem State.eccError_inv (a : Nat) (fatal : Bool) : (s.eccError a fatal).Inv ↔ s.Inv := by
  unfold State.eccError
  repeat' split
  all_goals simp

@[simp] theorem State.select_inv (h : s.Inv) (a : Act) : (s.select a).1.Inv := by
  unfold State.select
  split <;> simp [h]

@[simp] theorem State.nextAct_inv : s.nextAct.2.Inv ↔ s.Inv := by
  unfold State.nextAct
  split <;> simp

@[simp] theorem State.selected_inv (h : s.Inv) : s.selected.1.Inv := State.select_inv (State.nextAct_inv.mpr h) _

/-! ### The step -/

theorem exec_inv (h : s.Inv) (i : Instr) : OutInv (exec i s) := by
  cases i with
  | add | sub | and | or | xor | andn | shl | shr | sar | rol | ror | min | max | minu | maxu | slt | sltu
  | seq | sne | mul | mulh | mulhu | div | divu | rem | remu | clz | ctz | popc | brev | sext | zext | addi
  | addiX | andi | andiX | ori | oriX | xori | xoriX | slti | sltiX | sltiu | sltiuX | shli | shri | sari
  | muli | muliX | idx | idxX =>
    exact (outInv_next _).mpr ((State.result_inv ..).mpr h)
  | beq | beqX | bne | bneX | blt | bltX | bge | bgeX | bltu | bltuX | bgeu | bgeuX =>
    exact (outInv_next _).mpr ((State.branch_inv ..).mpr h)
  | jr | jrX | jalr | jalrX =>
    exact (outInv_next _).mpr (State.jumpReg_inv h ..)
  | loop | loopi | loopiX =>
    exact (outInv_next _).mpr (State.openLoop_inv h ..)
  | ld | ldX | lda =>
    exact (outInv_next _).mpr (State.load_inv h ..)
  | st | stX | stl =>
    exact (outInv_next _).mpr (State.store_inv h ..)
  | amoAdd | amoAnd | amoOr | amoXor | amoMin | amoMax | amoMinu | amoMaxu | amoSwap | amoCas =>
    exact (outInv_next _).mpr (State.amo_inv h ..)
  | barArvw | barDbar =>
    exact (outInv_next _).mpr (State.barArriveWait_inv h ..)
  | feLd =>
    exact (outInv_next _).mpr (State.starting_inv (fun x => State.startLd_inv h _ x) h _)
  | feLdg =>
    exact (outInv_next _).mpr (State.starting_inv (fun x => State.startLdg_inv h _ x) h _)
  | feGath | feGathq | feStrm =>
    exact (outInv_next _).mpr (State.starting_inv (fun x => State.startGath_inv h _ x) h _)
  | feUnpk =>
    exact (outInv_next _).mpr (State.starting_inv (fun x => State.startUnpk_inv h _ x) h _)
  | feBcst =>
    exact (outInv_next _).mpr (State.starting_inv (fun x => State.startBcst_inv h _ x) h _)
  | feAgen =>
    exact (outInv_next _).mpr (State.starting_inv (fun x => State.startFeAgen_inv h _ x) h _)
  | feIdx =>
    exact (outInv_next _).mpr (State.starting_inv (fun x => State.startIdx_inv h _ x) h _)
  | deSt =>
    exact (outInv_next _).mpr (State.starting_inv (fun x => State.startSt_inv h _ x) h _)
  | deStg =>
    exact (outInv_next _).mpr (State.starting_inv (fun x => State.startStg_inv h _ x) h _)
  | deScat =>
    exact (outInv_next _).mpr (State.starting_inv (fun x => State.startScat_inv h _ x) h _)
  | deAddst =>
    exact (outInv_next _).mpr (State.starting_inv (fun x => State.startAddst_inv h _ x) h _)
  | dePack =>
    exact (outInv_next _).mpr (State.starting_inv (fun x => State.startPack_inv h _ x) h _)
  | deAgen =>
    exact (outInv_next _).mpr (State.starting_inv (fun x => State.startDeAgen_inv h _ x) h _)
  | vxFadd | vxFsub | vxFmul | vxFma | vxFms | vxFmin | vxFmax | vxFabs | vxFneg =>
    exact State.runVx_inv (fun x => State.vxFloat_inv h _ x _ _ _ _ _) h
  | vxFcmp | vxIcmp =>
    exact State.runVx_inv (fun x => State.vxCompare_inv h _ x _) h
  | vxFclass | vxFrnd | vxCvt | vxQnt =>
    exact State.runVx_inv (fun x => State.vxOp_inv h _ x _ _ _ _) h
  | vxIadd | vxIsub | vxImul | vxImulh | vxImad | vxImin | vxImax | vxShl | vxShr | vxSar =>
    exact State.runVx_inv (fun x => State.vxInt_inv h _ x _ _ _ _) h
  | vxAnd | vxOr | vxXor | vxAndn =>
    exact State.runVx_inv (fun x => State.vxBits_inv h _ x _) h
  | vxCadd | vxCsub | vxCmul | vxCmac | vxCmulj | vxCabs2 =>
    exact State.runVx_inv (fun x => State.vxComplex_inv h _ x _ _ _) h
  | vxExp2 | vxLog2 | vxRcp | vxRsq | vxSqrt | vxSigm | vxTanh | vxSilu | vxSoftp =>
    exact State.runVx_inv (fun x => State.vxSfu_inv h _ x _) h
  | vxMov | vxSel | vxShuf | vxLrot | vxMopTov | vxLfsrRead | vxFirst =>
    exact State.runVx_inv (fun x => State.vxMove_inv h _ x _ _ _ _) h
  | vxMopAnd | vxMopOr | vxMopXor | vxMopAndn | vxMopNot | vxMopSet | vxMopClr =>
    exact State.runVx_inv (fun x => State.vxMop_inv h _ x _) h
  | vxRmax | vxRmin | vxRamax | vxPsum =>
    exact State.runVx_inv (fun x => State.vxReduce_inv h _ x _) h
  | mxGo =>
    exact (outInv_next _).mpr (State.starting_inv (fun x => State.startGo_inv h _ x) h _)
  | mxAccst =>
    exact (outInv_next _).mpr (State.starting_inv (fun x => State.startAccst_inv h _ x) h _)
  | mxEpld =>
    exact (outInv_next _).mpr (State.starting_inv (fun x => State.startEpld_inv h _ x) h _)
  | mxEpargBc | mxEpargTg | mxEpargQu =>
    exact (outInv_next _).mpr (State.starting_inv (fun x => State.startEparg_inv h x _) h _)
  | sxCfg =>
    exact (outInv_next _).mpr (State.starting_inv (fun x => State.startSxCfg_inv h _ x) h _)
  | sxScan | sxContr =>
    exact (outInv_next _).mpr (State.starting_inv (fun x => State.startScan_inv h _ _ x) h _)
  | sxReset =>
    exact (outInv_next _).mpr (State.starting_inv (fun x => State.startSxReset_inv h _ x) h _)
  | sxCarry =>
    exact (outInv_next _).mpr (State.starting_inv (fun x => State.startSxCarry_inv h _ x) h _)
  | sxFadeq =>
    exact (outInv_next _).mpr (State.starting_inv (fun x => State.startSxFadeq_inv h _ x) h _)
  | frSlots =>
    exact (outInv_next _).mpr (State.starting_inv (fun x => State.startSlots_inv h _ x) h _)
  | frIn | frOut | frSwap | frSnap | frRoll | frFork | frDrop | frDropAll | frCold =>
    exact (outInv_next _).mpr (State.starting_inv (fun x => State.startFrame_inv h _ _ x) h _)
  | frStat =>
    exact (outInv_next _).mpr (State.starting_inv (fun x => State.startStat_inv h _ x) h _)
  | cpCopy | cpFill =>
    exact (outInv_next _).mpr (State.starting_inv (fun x => State.startCopy_inv h _ _ x) h _)
  | cpMcast =>
    exact (outInv_next _).mpr (State.starting_inv (fun x => State.startMcast_inv h _ x) h _)
  | cpStage =>
    exact (outInv_next _).mpr (State.starting_inv (fun x => State.startStage_inv h _ x) h _)
  | cpDrain =>
    exact (outInv_next _).mpr (State.starting_inv (fun x => State.startDrain_inv h _ x) h _)
  | cpSig =>
    exact (outInv_next _).mpr (State.starting_inv (fun x => State.startSig_inv h _ x) h _)
  | cpAllred | cpAllgath | cpRedsc | cpBcast =>
    exact (outInv_next _).mpr (State.starting_inv (fun x => State.startColl_inv h _ _ x) h _)
  | nop => exact execNop_inv h
  | j off => exact execJ_inv h off
  | jX lit => exact execJX_inv h lit
  | jal sd off => exact execJal_inv h sd off
  | jalX sd lit => exact execJalX_inv h sd lit
  | brot sa rot off => exact execBrot_inv h sa rot off
  | rot amt => exact execRot_inv h amt
  | setvrb sa imm => exact execSetvrb_inv h sa imm
  | fenceAcq sc => exact execFenceAcq_inv h sc
  | fenceRel sc => exact execFenceRel_inv h sc
  | fenceFull sc => exact execFenceFull_inv h sc
  | prefL1 base imm => exact execPrefL1_inv h base imm
  | prefLlc base imm => exact execPrefLlc_inv h base imm
  | prefX llc base lit => exact execPrefX_inv h llc base lit
  | give sa tid => exact execGive_inv h sa tid
  | giveComplete => exact execGiveComplete_inv h
  | take tid => exact execTake_inv h tid
  | takeComplete => exact execTakeComplete_inv h
  | ownq sd tid => exact execOwnq_inv h sd tid
  | barInit sd sa sc => exact execBarInit_inv h sd sa sc
  | barArv sa sc => exact execBarArv_inv h sa sc
  | barWait sa sc => exact execBarWait_inv h sa sc
  | barTest sd sa sc => exact execBarTest_inv h sd sa sc
  | barWaitComplete => exact execBarWaitComplete_inv h
  | twait mask => exact execTwait_inv h mask
  | twaitComplete => exact execTwaitComplete_inv h
  | tsig mask => exact execTsig_inv h mask
  | chunk sd sa => exact execChunk_inv h sd sa
  | chinit sd sa sb => exact execChinit_inv h sd sa sb
  | spawn sa prio => exact execSpawn_inv h sa prio
  | spawnAppend => exact execSpawnAppend_inv h
  | join sa => exact execJoin_inv h sa
  | tend => exact execTend_inv h
  | recordRetire => exact execRecordRetire_inv h
  | trig => exact execTrig_inv h
  | trigComplete => exact execTrigComplete_inv h
  | launch sd sa => exact execLaunch_inv h sd sa
  | yield => exact execYield_inv h
  | yieldDonate => exact execYieldDonate_inv h
  | selfLaunchId sd => exact execSelfLaunchId_inv h sd
  | selfIndex sd => exact execSelfIndex_inv h sd
  | selfGroups sd => exact execSelfGroups_inv h sd
  | selfCores sd => exact execSelfCores_inv h sd
  | dbrk code => exact execDbrk_inv h code
  | trap code => exact execTrap_inv h code
  | eret => exact execEret_inv h
  | csrr sd csr => exact execCsrr_inv h sd csr
  | csrw sd sa csr => exact execCsrw_inv h sd sa csr
  | csrs sd sa csr => exact execCsrs_inv h sd sa csr
  | csrc sd sa csr => exact execCsrc_inv h sd sa csr
  | wfe => exact execWfe_inv h
  | wfeComplete => exact execWfeComplete_inv h
  | engineDispatch e sz img => exact execEngineDispatch_inv h e sz img
  | queueSpaceAppend => exact execQueueSpaceAppend_inv h
  | templateStore e sz tix img => exact execTemplateStore_inv h e sz tix img
  | patch e tix fsel val => exact execPatch_inv h e tix fsel val
  | patchS e tix fsel val => exact execPatchS_inv h e tix fsel val
  | patchSN e tix fsel val => exact execPatchSN_inv h e tix fsel val
  | entryComplete e => exact execEntryComplete_inv h e
  | engineFaultTaken => exact execEngineFaultTaken_inv h
  | feElementDelivery => exact execFeElementDelivery_inv h
  | vxResultVisible => exact execVxResultVisible_inv h
  | vxMovLds a => exact execVxMovLds_inv h a
  | vxMovSts a => exact execVxMovSts_inv h a
  | vxKset a => exact execVxKset_inv h a
  | vxKsetLane a => exact execVxKsetLane_inv h a
  | vxMopFromv a => exact execVxMopFromv_inv h a
  | vxQcfg a => exact execVxQcfg_inv h a
  | vxLfsrSeedv a => exact execVxLfsrSeedv_inv h a
  | vxLfsrSeedi a => exact execVxLfsrSeedi_inv h a
  | vxLfsrStep a => exact execVxLfsrStep_inv h a
  | vxRsum a => exact execVxRsum_inv h a
  | mxNest a => exact execMxNest_inv h a
  | mxOpnd a => exact execMxOpnd_inv h a
  | mxAcc a => exact execMxAcc_inv h a
  | mxTileBegin => exact execMxTileBegin_inv h
  | mxTileDrain => exact execMxTileDrain_inv h
  | mxTileRelease => exact execMxTileRelease_inv h
  | epQueuePushResume => exact execEpQueuePushResume_inv h
  | mxEpargLd a => exact execMxEpargLd_inv h a
  | mxEpargSp a => exact execMxEpargSp_inv h a
  | epLda d comp => exact execEpLda_inv h d comp
  | epAdd x => exact execEpAdd_inv h x
  | epMul x => exact execEpMul_inv h x
  | epFma x => exact execEpFma_inv h x
  | epMax x => exact execEpMax_inv h x
  | epMin x => exact execEpMin_inv h x
  | epBias x => exact execEpBias_inv h x
  | epScale x => exact execEpScale_inv h x
  | epActRelu x => exact execEpActRelu_inv h x
  | epActSigm x => exact execEpActSigm_inv h x
  | epActSilu x => exact execEpActSilu_inv h x
  | epActSoftp x => exact execEpActSoftp_inv h x
  | epActTanh x => exact execEpActTanh_inv h x
  | epCvt x => exact execEpCvt_inv h x
  | epRedSum d a t => exact execEpRedSum_inv h d a t
  | epRedMax d a t => exact execEpRedMax_inv h d a t
  | epRedMin d a t => exact execEpRedMin_inv h d a t
  | epPack x => exact execEpPack_inv h x
  | epSt a sd => exact execEpSt_inv h a sd
  | epStg a sd => exact execEpStg_inv h a sd
  | epSkip cond n => exact execEpSkip_inv h cond n
  | epEnd => exact execEpEnd_inv h
  | sxScanComplete => exact execSxScanComplete_inv h
  | frPinReleaseProceed => exact execFrPinReleaseProceed_inv h
  | frTransferComplete => exact execFrTransferComplete_inv h
  | cpDrainComplete => exact execCpDrainComplete_inv h
  | cpSigArrival => exact execCpSigArrival_inv h
  | cpStageComplete => exact execCpStageComplete_inv h
  | unitVerify xid recv unit ok => exact execUnitVerify_inv h xid recv unit ok
  | unitResend xid recv unit => exact execUnitResend_inv h xid recv unit
  | mcastSenderArrival xid => exact execMcastSenderArrival_inv h xid
  | transferComplete xid => exact execTransferComplete_inv h xid
  | collectiveReduceStep m => exact execCollectiveReduceStep_inv h m
  | collectiveResultWrite m => exact execCollectiveResultWrite_inv h m
  | collectiveComplete collid => exact execCollectiveComplete_inv h collid
  | remoteAccessApply => exact execRemoteAccessApply_inv h
  | remoteReply => exact execRemoteReply_inv h
  | transferHeaderAccept xid => exact execTransferHeaderAccept_inv h xid
  | ringFlitLaunch fid slot => exact execRingFlitLaunch_inv h fid slot
  | ringFlitArrival fid => exact execRingFlitArrival_inv h fid
  | nackRelaunch fid slot => exact execNackRelaunch_inv h fid slot
  | frameMarkerEmit part => exact execFrameMarkerEmit_inv h part
  | frameMarkerDelivery part => exact execFrameMarkerDelivery_inv h part
  | stampedEntryStart e => exact execStampedEntryStart_inv h e
  | detLaunchStart part => exact execDetLaunchStart_inv h part
  | coreTakeRecord => exact execCoreTakeRecord_inv h
  | launchBegin vf lid => exact execLaunchBegin_inv h vf lid
  | gangAttempt g => exact execGangAttempt_inv h g
  | reserve g p => exact execReserve_inv h g p
  | gangReplies g => exact execGangReplies_inv h g
  | commit g => exact execCommit_inv h g
  | release g p => exact execRelease_inv h g p
  | gangBackoffExpiry g => exact execGangBackoffExpiry_inv h g
  | gangHoldComplete g => exact execGangHoldComplete_inv h g
  | watchdog => exact execWatchdog_inv h
  | partitionResetRequest part => exact execPartitionResetRequest_inv h part
  | submissionQueueRead vf q => exact execSubmissionQueueRead_inv h vf q
  | doorbell vf q t => exact execDoorbell_inv h vf q t
  | logicalSaveComplete => exact execLogicalSaveComplete_inv h
  | scanStreamComplete => exact execScanStreamComplete_inv h
  | scanImageSeal => exact execScanImageSeal_inv h
  | scanReqGo img => exact execScanReqGo_inv h img
  | restoreReqGo img => exact execRestoreReqGo_inv h img
  | scanRestoreComplete => exact execScanRestoreComplete_inv h
  | powerGate => exact execPowerGate_inv h
  | coreWake => exact execCoreWake_inv h
  | dbgHaltLogical => exact execDbgHaltLogical_inv h
  | dbgHaltScan => exact execDbgHaltScan_inv h
  | dbgResume => exact execDbgResume_inv h
  | quiescent => exact execQuiescent_inv h
  | dbgDataRead => exact execDbgDataRead_inv h
  | dbgDataWrite v => exact execDbgDataWrite_inv h v
  | tstCommit slen => exact execTstCommit_inv h slen
  | tstCommitCancel => exact execTstCommitCancel_inv h
  | softStopEmit => exact execSoftStopEmit_inv h
  | softStop => exact execSoftStop_inv h
  | slotEdgeEmit => exact execSlotEdgeEmit_inv h
  | slotEdge => exact execSlotEdge_inv h
  | cleaningComplete => exact execCleaningComplete_inv h
  | phaseDrainComplete => exact execPhaseDrainComplete_inv h
  | throttleOnset t0 t1 pwr => exact execThrottleOnset_inv h t0 t1 pwr
  | throttleEnd t0 t1 pwr => exact execThrottleEnd_inv h t0 t1 pwr
  | thermalCut t0 t1 => exact execThermalCut_inv h t0 t1
  | pfReset => exact execPfReset_inv h
  | bootStage inp => exact execBootStage_inv h inp
  | bootTempSample t0 t1 => exact execBootTempSample_inv h t0 t1
  | featureLock => exact execFeatureLock_inv h
  | vfStop vf => exact execVfStop_inv h vf
  | vfStopComplete vf => exact execVfStopComplete_inv h vf
  | vfResume vf => exact execVfResume_inv h vf
  | vfFlr vf => exact execVfFlr_inv h vf
  | tdiError vf => exact execTdiError_inv h vf
  | dirtySwap vf => exact execDirtySwap_inv h vf
  | scrubPush w => exact execScrubPush_inv h w
  | scrubComplete => exact execScrubComplete_inv h
  | ethTabLoad port addr => exact execEthTabLoad_inv h port addr
  | ethRxFrame port f => exact execEthRxFrame_inv h port f
  | ethTxSlot port entry => exact execEthTxSlot_inv h port entry
  | lorcyTraining port peerPos peerN => exact execLorcyTraining_inv h port peerPos peerN
  | linkFlitReceive port crcOk seq drained => exact execLinkFlitReceive_inv h port crcOk seq drained
  | replayRequest port seq => exact execReplayRequest_inv h port seq
  | laneErrorWindow port lane errs => exact execLaneErrorWindow_inv h port lane errs
  | spareReq port lane => exact execSpareReq_inv h port lane
  | laneMapSwitch port => exact execLaneMapSwitch_inv h port
  | portDown port => exact execPortDown_inv h port
  | retrain port => exact execRetrain_inv h port
  | l1LineExpiry line => exact execL1LineExpiry_inv h line
  | registerWrite off val => exact execRegisterWrite_inv h off val
  | illegalCtlWord w => exact execIllegalCtlWord_inv h w
  | powerOn => exact execPowerOn_inv h
  | powerLoss => exact execPowerLoss_inv h
  | bootStageTimeout => exact execBootStageTimeout_inv h
  | spdmRequest index => exact execSpdmRequest_inv h index
  | tdispRequest vf msg => exact execTdispRequest_inv h vf msg

theorem step_inv (h : s.Inv) : OutInv (step s) := by
  have v := State.selected_inv h
  unfold step
  split
  · split
    · next heq =>
      rw [heq] at v
      exact exec_inv v _
    · next heq =>
      rw [heq] at v
      exact (outInv_next _).mpr v
  · rintro t ⟨⟩

end

/-- Settles O59: the instruction that a step selects, and the selection itself, keep the canonical form
(`State.selected_inv`, `exec_inv`). -/
theorem stepKeepsMemoryForm : Obligations.StepKeepsMemoryForm := by
  unfold Obligations.StepKeepsMemoryForm
  intro s t h heq
  exact step_inv h t heq

end Sys2Proof.Machine
end

section
/-!
Where an address leads (R42, R142, R291 to R296, R400): each read of a walk as the obligation O8 names its outcomes, the descriptor
of seven such reads, the tile entry check by check, and the two ways of CTL. Settles O8.
-/

namespace Sys2Proof.Machine

section Walk
variable (s : State)

/-! ### The second stage (R295) -/

/-- The double at an address, as a number. -/
def State.tableWord (a : Nat) : Nat := (s.load8 a).toNat

/-- Where the second stage's root entry of a guest frame stands (R295). -/
def State.rootAt (gfn : Nat) : Nat := s.pfBits (vfReg s.vf.toNat 0x30) 0 48 + 8 * (gfn / 2 ^ 14 % 2 ^ 16)

/-- Where its leaf entry stands. -/
def State.leafAt (gfn : Nat) : Nat := s.tableWord (s.rootAt gfn) % 2 ^ 48 + 8 * (gfn % 2 ^ 14)

/-- The root entry is valid and not poisoned. -/
def State.Rooted (gfn : Nat) : Prop := s.poisoned (s.rootAt gfn) = false ∧ s.tableWord (s.rootAt gfn) / 2 ^ 63 = 1

/-- The second stage leads the guest frame to a frame of a kind. -/
def State.Mapped (gfn kind dfn : Nat) : Prop :=
  s.Rooted gfn ∧ s.poisoned (s.leafAt gfn) = false ∧ s.tableWord (s.leafAt gfn) / 2 ^ 63 = 1 ∧
    kind = s.tableWord (s.leafAt gfn) / 2 ^ 62 % 2 ∧ dfn = s.tableWord (s.leafAt gfn) % 2 ^ 21 ∧ s.frameOk kind dfn = true

/-- The walk ends at an entry that is not valid, or at a frame that translation may not name. -/
def State.Unmapped (gfn : Nat) : Prop :=
  (s.poisoned (s.rootAt gfn) = false ∧ s.tableWord (s.rootAt gfn) / 2 ^ 63 = 0) ∨
    (s.Rooted gfn ∧ s.poisoned (s.leafAt gfn) = false ∧
      (s.tableWord (s.leafAt gfn) / 2 ^ 63 = 0 ∨
        s.frameOk (s.tableWord (s.leafAt gfn) / 2 ^ 62 % 2) (s.tableWord (s.leafAt gfn) % 2 ^ 21) = false))

/-- The walk reads a poisoned line. -/
def State.Dirty (gfn : Nat) : Prop :=
  s.poisoned (s.rootAt gfn) = true ∨ (s.Rooted gfn ∧ s.poisoned (s.leafAt gfn) = true)

/-- Where a table's guest-physical address leads at a level: through the second stage at PL0 and PL1. -/
def State.Found (pl gpa pa : Nat) : Prop :=
  (pl ≤ 1 ∧ ∃ dfn, s.Mapped (gpa / 2 ^ 18) 0 dfn ∧ pa = devPa 0 dfn (gpa % 2 ^ 18)) ∨ (¬ pl ≤ 1 ∧ pa = gpa)

/-- A walk's read at a guest-physical address gives x. -/
def State.Reads (pl gpa x : Nat) : Prop := ∃ pa, s.Found pl gpa pa ∧ s.poisoned pa = false ∧ x = s.tableWord pa

/-- A walk's read meets a poisoned line. -/
def State.Spoilt (pl gpa : Nat) : Prop :=
  (pl ≤ 1 ∧ s.Dirty (gpa / 2 ^ 18)) ∨ ∃ pa, s.Found pl gpa pa ∧ s.poisoned pa = true

/-- A walk's read finds no HBM frame behind its address. -/
def State.Lost (pl gpa : Nat) : Prop := pl ≤ 1 ∧ (s.Unmapped (gpa / 2 ^ 18) ∨ ∃ dfn, s.Mapped (gpa / 2 ^ 18) 1 dfn)

variable {s}

theorem bits_zero (x n : Nat) : bits x 0 n = x % 2 ^ n := by simp [bits]

theorem b2n_bit (x i : Nat) : b2n (bit x i) = x / 2 ^ i % 2 := by
  unfold b2n bit
  obtain h | h := Nat.mod_two_eq_zero_or_one (x / 2 ^ i) <;> simp [h]

theorem bit_top {x : Nat} (h : x < 2 ^ 64) : bit x 63 = decide (x / 2 ^ 63 = 1) := by
  have : x / 2 ^ 63 < 2 := by omega
  rw [bit, Nat.mod_eq_of_lt this]
  rfl

theorem State.tableWord_lt (a : Nat) : s.tableWord a < 2 ^ 64 := (s.load8 a).isLt

theorem State.stage2_eq (gfn : Nat) : s.stage2 s.vf gfn =
    if s.poisoned (s.rootAt gfn) then .error ()
    else if s.tableWord (s.rootAt gfn) / 2 ^ 63 = 1 then
      if s.poisoned (s.leafAt gfn) then .error ()
      else if s.tableWord (s.leafAt gfn) / 2 ^ 63 = 1 then
        if s.frameOk (s.tableWord (s.leafAt gfn) / 2 ^ 62 % 2) (s.tableWord (s.leafAt gfn) % 2 ^ 21) then
          .ok (some (s.tableWord (s.leafAt gfn) / 2 ^ 62 % 2, s.tableWord (s.leafAt gfn) % 2 ^ 21))
        else .ok none
      else .ok none
    else .ok none := by
  have hr : bit (s.load8 (s.rootAt gfn)).toNat 63 = decide (s.tableWord (s.rootAt gfn) / 2 ^ 63 = 1) := bit_top (s.tableWord_lt _)
  have hl : bit (s.load8 (s.leafAt gfn)).toNat 63 = decide (s.tableWord (s.leafAt gfn) / 2 ^ 63 = 1) := bit_top (s.tableWord_lt _)
  unfold State.stage2
  simp only [bits_zero, b2n_bit]
  change (if s.poisoned (s.rootAt gfn) then Except.error () else if !bit (s.load8 (s.rootAt gfn)).toNat 63 then .ok none else
    if s.poisoned (s.leafAt gfn) then Except.error () else if !bit (s.load8 (s.leafAt gfn)).toNat 63 then .ok none else
    if s.frameOk (s.tableWord (s.leafAt gfn) / 2 ^ 62 % 2) (s.tableWord (s.leafAt gfn) % 2 ^ 21) then
      Except.ok (some (s.tableWord (s.leafAt gfn) / 2 ^ 62 % 2, s.tableWord (s.leafAt gfn) % 2 ^ 21)) else .ok none) = _
  rw [hr, hl]
  simp only [Bool.not_eq_true', decide_eq_false_iff_not, ite_not]

theorem State.stage2_of_mapped {gfn kind dfn : Nat} (h : s.Mapped gfn kind dfn) : s.stage2 s.vf gfn = .ok (some (kind, dfn)) := by
  obtain ⟨⟨hr, hrv⟩, hl, hlv, rfl, rfl, hf⟩ := h
  simp [-Nat.reducePow, State.stage2_eq, hr, hrv, hl, hlv, hf]

theorem State.stage2_of_unmapped {gfn : Nat} (h : s.Unmapped gfn) : s.stage2 s.vf gfn = .ok none := by
  rw [State.stage2_eq]
  obtain ⟨hr, hrv⟩ | ⟨⟨hr, hrv⟩, hl, hlv | hf⟩ := h
  · simp [-Nat.reducePow, hr, hrv]
  · simp [-Nat.reducePow, hr, hrv, hl, hlv]
  · simp [-Nat.reducePow, hr, hrv, hl, hf]

theorem State.stage2_of_dirty {gfn : Nat} (h : s.Dirty gfn) : s.stage2 s.vf gfn = .error () := by
  rw [State.stage2_eq]
  obtain hr | ⟨⟨hr, hrv⟩, hl⟩ := h
  · simp [hr]
  · simp [-Nat.reducePow, hr, hrv, hl]

/-! ### The reads of a walk (R296, R337) -/

theorem State.regime_s2 (pl : Nat) : (s.regime pl).s2 = if pl ≤ 1 then some s.vf else none := by
  match pl with
  | 0 | 1 | 2 => rfl
  | n + 3 => rfl

theorem State.two_le_regime_pl (pl : Nat) : 2 ≤ (s.regime pl).pl ↔ ¬ pl ≤ 1 := by
  match pl with
  | 0 | 1 | 2 => simp [State.regime]
  | n + 3 => simp [State.regime]

theorem State.reads_lt {pl gpa x : Nat} (h : s.Reads pl gpa x) : x < 2 ^ 64 := by
  obtain ⟨pa, -, -, rfl⟩ := h
  exact State.tableWord_lt pa

theorem State.walkRead_of_reads {pl gpa x : Nat} (h : s.Reads pl gpa x) (ga : Nat) :
    s.walkRead (s.regime pl) ga gpa = .ok (BitVec.ofNat 64 x) := by
  obtain ⟨pa, ⟨hl, dfn, hm, rfl⟩ | ⟨hl, rfl⟩, hp, rfl⟩ := h
  · simp [-Nat.reducePow, State.walkRead, State.regime_s2, hl, State.stage2_of_mapped hm, hp, State.tableWord]
  · simp [-Nat.reducePow, State.walkRead, State.regime_s2, hl, hp, State.tableWord]

theorem State.walkRead_of_spoilt {pl gpa : Nat} (h : s.Spoilt pl gpa) (ga : Nat) :
    s.walkRead (s.regime pl) ga gpa = .error (trAt .memPoison false ga) := by
  obtain ⟨hl, hd⟩ | ⟨pa, ⟨hl, dfn, hm, rfl⟩ | ⟨hl, rfl⟩, hp⟩ := h
  · simp [-Nat.reducePow, State.walkRead, State.regime_s2, hl, State.stage2_of_dirty hd]
  · simp [-Nat.reducePow, State.walkRead, State.regime_s2, hl, State.stage2_of_mapped hm, hp]
  · simp [-Nat.reducePow, State.walkRead, State.regime_s2, hl, hp]

theorem State.walkRead_of_lost {pl gpa : Nat} (h : s.Lost pl gpa) (ga : Nat) :
    s.walkRead (s.regime pl) ga gpa = .error ⟨.translation, BitVec.ofNat 64 (2 ^ 63 + 2 ^ 62 + gpa % 2 ^ 48)⟩ := by
  obtain ⟨hl, hu | ⟨dfn, hm⟩⟩ := h
  · simp [-Nat.reducePow, State.walkRead, State.regime_s2, hl, State.stage2_of_unmapped hu]
  · simp [-Nat.reducePow, State.walkRead, State.regime_s2, hl, State.stage2_of_mapped hm]

/-! ### The descriptor (R292) -/

theorem mapM_of_ok {ε α β : Type} {f : α → Except ε β} {g : α → β} {l : List α} (h : ∀ x ∈ l, f x = .ok (g x)) :
    l.mapM f = .ok (l.map g) := by
  induction l with
  | nil => rfl
  | cons x l ih =>
    rw [List.mapM_cons, h x (by simp), ih (fun y hy => h y (by simp [hy]))]
    rfl

theorem mapM_of_first_error {ε α β : Type} {f : α → Except ε β} {l r : List α} {x : α} {e : ε}
    (h : ∀ y ∈ l, ∃ d, f y = .ok d) (hx : f x = .error e) : (l ++ x :: r).mapM f = .error e := by
  induction l with
  | nil =>
    rw [List.nil_append, List.mapM_cons, hx]
    rfl
  | cons y l ih =>
    obtain ⟨d, hd⟩ := h y (by simp)
    rw [List.cons_append, List.mapM_cons, hd, ih (fun z hz => h z (by simp [hz]))]
    rfl

theorem State.descriptor_eq (r : Regime) (ga tid : Nat) : s.descriptor r ga tid =
    (List.range 7).mapM (fun k => s.walkRead r ga (r.table + 64 * tid + 8 * k)) >>= fun d =>
      if (TDesc.of (d.map BitVec.toNat)).valid then .ok (TDesc.of (d.map BitVec.toNat)) else .error (trAt .translation false ga) := by
  simp [State.descriptor, List.range_succ, List.mapM_cons]

theorem State.descriptor_error {r : Regime} {ga tid : Nat} {e : Trap} {k : Nat} (hk : k < 7)
    (hr : ∀ j, j < k → ∃ d, s.walkRead r ga (r.table + 64 * tid + 8 * j) = .ok d)
    (he : s.walkRead r ga (r.table + 64 * tid + 8 * k) = .error e) : s.descriptor r ga tid = .error e := by
  have hl : List.range 7 = List.range k ++ k :: List.range' (k + 1) (6 - k) := by
    interval_cases k <;> rfl
  rw [State.descriptor_eq, hl, mapM_of_first_error (fun j hj => hr j (List.mem_range.mp hj)) he]
  rfl

theorem State.descriptor_of_reads {pl ga tid : Nat} {x : Nat → Nat}
    (h : ∀ k, k < 7 → s.Reads pl ((s.regime pl).table + 64 * tid + 8 * k) (x k)) :
    s.descriptor (s.regime pl) ga tid =
      if (TDesc.of ((List.range 7).map x)).valid then .ok (TDesc.of ((List.range 7).map x)) else .error (trAt .translation false ga) := by
  have hx : ((List.range 7).map fun k => BitVec.ofNat 64 (x k)).map BitVec.toNat = (List.range 7).map x := by
    rw [List.map_map]
    refine List.map_congr_left fun k hk => ?_
    exact Nat.mod_eq_of_lt (State.reads_lt (h k (List.mem_range.mp hk)))
  rw [State.descriptor_eq, mapM_of_ok fun k hk => State.walkRead_of_reads (h k (List.mem_range.mp hk)) ga, ← hx]
  rfl

end Walk


section Entry
variable {s : State} {r : Regime} {ag : Agent} {t : TDesc} {ga l w x home kind dfn : Nat} {g : Option Nat}

/-! ### The tile entry (R293, R296)

`State.tileLoc` in the parts that its checks cut it into: the frame it ends at, the two ways to it, and the entry itself. -/

/-- A tile entry that is valid and well formed (R293): a size class, a home stack, no cold tile of more than one frame. -/
def Listed (x : Nat) : Prop :=
  x / 2 ^ 63 = 1 ∧ x / 2 ^ 60 % 4 ≠ 3 ∧ x / 2 ^ 57 % 8 < 6 ∧ (x / 2 ^ 56 % 2 = 1 → x / 2 ^ 60 % 4 = 0)

/-- The ownership check (R151) lets the access of core `self` pass. -/
def Agent.Passes (ag : Agent) (t : TDesc) (self : Nat) : Prop :=
  ag.own = false ∨ (t.kind ≠ 3 ∧ (t.kind = 0 → t.owner = self ∧ t.taken = true))

/-- The place in a frame of the device, after the checks of the home stack and of the cold store. -/
def frameLoc (ag : Agent) (t : TDesc) (ga l home kind dfn w : Nat) (g : Option Nat) : Except Trap Place :=
  if kind == 0 && home != dfn / 2 ^ 18 then .error (trAt .translation false ga)
  else if kind == 1 && !ag.cold then .error (trAt .translation false ga)
  else .ok (.here ⟨devPa kind dfn w, if kind = 0 then .hbm else .cold, t.zero, t.kind == 1, g, l⟩)

/-- The place of an entry on the host. -/
def State.hostLoc (s : State) (r : Regime) (ag : Agent) (t : TDesc) (ga l w gfn : Nat) : Except Trap Place :=
  if ag.ctl8 && 2 ≤ r.pl then
    if ag.own && !t.ownedBy s.self then .error (trAt .ownership false ga)
    else .ok (.here ⟨hostPa (gfn * 2 ^ 18 + w), .host, t.zero, false, none, l⟩)
  else .error (trAt .migrateFault false ga)

/-- The place of an entry that names a frame of the device itself (PL2 and PL3). -/
def State.directLoc (s : State) (ag : Agent) (t : TDesc) (ga l w home kind gfn : Nat) : Except Trap Place :=
  if gfn / 2 ^ 21 != 0 then .error (trAt .translation false ga)
  else if isControl kind (gfn % 2 ^ 21) then
    if ag.ctl8 && home == 0 then .ok (.here ⟨0, .ctrl ((gfn % 2 ^ 21 - 183040) * 2 ^ 18 + w), false, false, none, 0⟩)
    else .error (trAt .translation false ga)
  else if !dfnInRange kind (gfn % 2 ^ 21) || s.scrubbing kind (gfn % 2 ^ 21) then .error (trAt .translation true ga)
  else frameLoc ag t ga l home kind (gfn % 2 ^ 21) w none

/-- The place of an entry that names a guest frame (PL0 and PL1). -/
def State.guestLoc (s : State) (v : BitVec 9) (ag : Agent) (t : TDesc) (ga l w home cold gfn : Nat) : Except Trap Place :=
  match s.stage2 v gfn with
  | .error () => .error (trAt .memPoison false ga)
  | .ok none => .error (trAt .translation true ga)
  | .ok (some (kind, dfn)) =>
    if cold != kind then .error (trAt .translation false ga)
    else frameLoc ag t ga l home kind dfn w (some gfn)

/-- The place of the tile entry x. -/
def State.entryLoc (s : State) (r : Regime) (ag : Agent) (t : TDesc) (ga l w x : Nat) : Except Trap Place :=
  if !bit x 63 || bits x 60 2 == 3 || 6 ≤ bits x 57 3 || (bit x 56 && bits x 60 2 != 0) then .error (trAt .translation false ga)
  else if bit x 62 then s.hostLoc r ag t ga l w (bits x 0 30)
  else if ag.own && !t.ownedBy s.self then .error (trAt .ownership false ga)
  else match r.s2 with
    | none => s.directLoc ag t ga l w (bits x 57 3) (b2n (bit x 56)) (bits x 0 30)
    | some v => s.guestLoc v ag t ga l w (bits x 57 3) (b2n (bit x 56)) (bits x 0 30)

theorem State.tileLoc_of_read {tn : Nat} {d : W64} (h : s.walkRead r ga (t.ttp + 8 * tn) = .ok d) :
    s.tileLoc r ag t ga tn w = s.entryLoc r ag t ga (ga / 2 ^ 36 * 2 ^ 36 + tn * 2 ^ 18 + w) w d.toNat := by
  rw [State.tileLoc, h]
  rfl

theorem State.tileLoc_of_error {tn : Nat} {e : Trap} (h : s.walkRead r ga (t.ttp + 8 * tn) = .error e) :
    s.tileLoc r ag t ga tn w = .error e := by
  rw [State.tileLoc, h]
  rfl

/-! #### The fields of an entry -/

theorem entry_unlisted (hx : x < 2 ^ 64) :
    (!bit x 63 || bits x 60 2 == 3 || 6 ≤ bits x 57 3 || (bit x 56 && bits x 60 2 != 0)) = true ↔ ¬ Listed x := by
  rw [bit_top hx]
  simp only [Listed, bits, bit, Bool.or_eq_true, Bool.and_eq_true, Bool.not_eq_true', decide_eq_true_iff, decide_eq_false_iff_not,
    beq_iff_eq, bne_iff_ne, ← not_lt]
  tauto

theorem entry_host : bit x 62 = true ↔ x / 2 ^ 62 % 2 = 1 := by
  rw [bit, beq_iff_eq]

theorem Agent.refused_iff {self : Nat} : (ag.own && !t.ownedBy self) = true ↔ ¬ ag.Passes t self := by
  simp only [Agent.Passes, TDesc.ownedBy, Bool.and_eq_true, Bool.not_eq_true', Bool.or_eq_true,
    bne_iff_ne, beq_iff_eq, ← Bool.not_eq_true]
  tauto

/-! #### The frame -/

theorem frameLoc_refused (h : (kind = 0 ∧ home ≠ dfn / 2 ^ 18) ∨ (kind = 1 ∧ ag.cold = false)) :
    frameLoc ag t ga l home kind dfn w g = .error (trAt .translation false ga) := by
  obtain ⟨rfl, hh⟩ | ⟨rfl, hc⟩ := h
  · simp [-Nat.reducePow, frameLoc, hh]
  · simp [-Nat.reducePow, frameLoc, hc]

theorem frameLoc_goes (h0 : kind = 0 → home = dfn / 2 ^ 18) (h1 : kind = 1 → ag.cold = true) :
    frameLoc ag t ga l home kind dfn w g =
      .ok (.here ⟨devPa kind dfn w, if kind = 0 then .hbm else .cold, t.zero, t.kind == 1, g, l⟩) := by
  have hh : (kind == 0 && home != dfn / 2 ^ 18) = false := by simpa [-Nat.reducePow] using h0
  have hc : (kind == 1 && !ag.cold) = false := by simpa using h1
  simp only [frameLoc, hh, hc, Bool.false_eq_true, if_false]

theorem State.entryLoc_of_unlisted (hx : x < 2 ^ 64) (h : ¬ Listed x) :
    s.entryLoc r ag t ga l w x = .error (trAt .translation false ga) := by
  rw [State.entryLoc, if_pos ((entry_unlisted hx).mpr h)]

theorem State.entryLoc_of_host (hx : x < 2 ^ 64) (h : Listed x) (hh : x / 2 ^ 62 % 2 = 1) :
    s.entryLoc r ag t ga l w x = s.hostLoc r ag t ga l w (x % 2 ^ 30) := by
  rw [State.entryLoc, if_neg (mt (entry_unlisted hx).mp (not_not.mpr h)), if_pos (entry_host.mpr hh), bits_zero]

theorem State.entryLoc_of_foreign (hx : x < 2 ^ 64) (h : Listed x) (hh : ¬ x / 2 ^ 62 % 2 = 1) (ho : ¬ ag.Passes t s.self) :
    s.entryLoc r ag t ga l w x = .error (trAt .ownership false ga) := by
  rw [State.entryLoc, if_neg (mt (entry_unlisted hx).mp (not_not.mpr h)), if_neg (mt entry_host.mp hh), if_pos (Agent.refused_iff.mpr ho)]

theorem State.entryLoc_of_frame (hx : x < 2 ^ 64) (h : Listed x) (hh : ¬ x / 2 ^ 62 % 2 = 1) (ho : ag.Passes t s.self) :
    s.entryLoc (s.regime ag.pl) ag t ga l w x =
      if ag.pl ≤ 1 then s.guestLoc s.vf ag t ga l w (x / 2 ^ 57 % 8) (x / 2 ^ 56 % 2) (x % 2 ^ 30)
      else s.directLoc ag t ga l w (x / 2 ^ 57 % 8) (x / 2 ^ 56 % 2) (x % 2 ^ 30) := by
  rw [State.entryLoc, if_neg (mt (entry_unlisted hx).mp (not_not.mpr h)), if_neg (mt entry_host.mp hh),
    if_neg (mt Agent.refused_iff.mp (not_not.mpr ho)), State.regime_s2, bits_zero, b2n_bit]
  split_ifs <;> rfl

/-! #### The host -/

theorem State.hostLoc_refused {gfn : Nat} (h : ag.pl ≤ 1 ∨ ag.ctl8 = false) :
    s.hostLoc (s.regime ag.pl) ag t ga l w gfn = .error (trAt .migrateFault false ga) := by
  have hc : (ag.ctl8 && decide (2 ≤ (s.regime ag.pl).pl)) = false := by
    simpa [State.two_le_regime_pl, or_iff_not_imp_left, ← or_iff_not_imp_right] using h.symm
  rw [State.hostLoc, hc]
  rfl

theorem State.hostLoc_goes {gfn : Nat} (hl : ¬ ag.pl ≤ 1) (hc : ag.ctl8 = true) (ho : ag.Passes t s.self) :
    s.hostLoc (s.regime ag.pl) ag t ga l w gfn = .ok (.here ⟨hostPa (gfn * 2 ^ 18 + w), .host, t.zero, false, none, l⟩) := by
  have hc : (ag.ctl8 && decide (2 ≤ (s.regime ag.pl).pl)) = true := by simp [State.two_le_regime_pl, hl, hc]
  rw [State.hostLoc, if_pos hc, if_neg (mt Agent.refused_iff.mp (not_not.mpr ho))]

/-! #### A guest frame -/

variable {gfn cold : Nat}

theorem State.guestLoc_of_dirty (h : s.Dirty gfn) :
    s.guestLoc s.vf ag t ga l w home cold gfn = .error (trAt .memPoison false ga) := by
  rw [State.guestLoc, State.stage2_of_dirty h]

theorem State.guestLoc_of_unmapped (h : s.Unmapped gfn) :
    s.guestLoc s.vf ag t ga l w home cold gfn = .error (trAt .translation true ga) := by
  rw [State.guestLoc, State.stage2_of_unmapped h]

theorem State.guestLoc_of_mapped (h : s.Mapped gfn kind dfn) :
    s.guestLoc s.vf ag t ga l w home cold gfn =
      if cold != kind then .error (trAt .translation false ga) else frameLoc ag t ga l home kind dfn w (some gfn) := by
  rw [State.guestLoc, State.stage2_of_mapped h]

theorem State.guestLoc_refused (h : s.Mapped gfn kind dfn)
    (hr : cold ≠ kind ∨ (kind = 0 ∧ home ≠ dfn / 2 ^ 18) ∨ (kind = 1 ∧ ag.cold = false)) :
    s.guestLoc s.vf ag t ga l w home cold gfn = .error (trAt .translation false ga) := by
  rw [State.guestLoc_of_mapped h]
  split
  · rfl
  · next hc => exact frameLoc_refused (hr.resolve_left (by simpa using hc))

theorem State.guestLoc_goes (h : s.Mapped gfn kind dfn) (hc : cold = kind) (h0 : kind = 0 → home = dfn / 2 ^ 18)
    (h1 : kind = 1 → ag.cold = true) :
    s.guestLoc s.vf ag t ga l w home cold gfn =
      .ok (.here ⟨devPa kind dfn w, if kind = 0 then .hbm else .cold, t.zero, t.kind == 1, some gfn, l⟩) := by
  rw [State.guestLoc_of_mapped h, if_neg (by simpa using hc), frameLoc_goes h0 h1]

/-! #### A frame of the device -/

theorem State.directLoc_of_outside (h : 2 ^ 21 ≤ gfn) :
    s.directLoc ag t ga l w home kind gfn = .error (trAt .translation false ga) := by
  have hg : (gfn / 2 ^ 21 != 0) = true := by
    rw [bne_iff_ne]
    omega
  rw [State.directLoc, if_pos hg]

theorem State.directLoc_of_inside (h : gfn < 2 ^ 21) : s.directLoc ag t ga l w home kind gfn =
    if isControl kind gfn then
      if ag.ctl8 && home == 0 then .ok (.here ⟨0, .ctrl ((gfn - 183040) * 2 ^ 18 + w), false, false, none, 0⟩)
      else .error (trAt .translation false ga)
    else if !dfnInRange kind gfn || s.scrubbing kind gfn then .error (trAt .translation true ga)
    else frameLoc ag t ga l home kind gfn w none := by
  have hg : ¬ (gfn / 2 ^ 21 != 0) = true := by
    rw [bne_iff_ne, Nat.div_eq_of_lt h]
    simp
  rw [State.directLoc, if_neg hg, Nat.mod_eq_of_lt h]

theorem State.directLoc_control (h : gfn < 2 ^ 21) (hc : isControl kind gfn = true) (h8 : ag.ctl8 = true) (hh : home = 0) :
    s.directLoc ag t ga l w home kind gfn = .ok (.here ⟨0, .ctrl ((gfn - 183040) * 2 ^ 18 + w), false, false, none, 0⟩) := by
  rw [State.directLoc_of_inside h, if_pos hc, if_pos (by simp [h8, hh])]

theorem State.directLoc_control_refused (h : gfn < 2 ^ 21) (hc : isControl kind gfn = true) (hr : ag.ctl8 = false ∨ home ≠ 0) :
    s.directLoc ag t ga l w home kind gfn = .error (trAt .translation false ga) := by
  rw [State.directLoc_of_inside h, if_pos hc, if_neg (by simpa [imp_iff_not_or] using hr)]

theorem State.directLoc_absent (h : gfn < 2 ^ 21) (hc : isControl kind gfn = false)
    (hr : dfnInRange kind gfn = false ∨ s.scrubbing kind gfn = true) :
    s.directLoc ag t ga l w home kind gfn = .error (trAt .translation true ga) := by
  rw [State.directLoc_of_inside h, if_neg (by simp [hc]), if_pos (by simpa using hr)]

theorem State.directLoc_of_present (h : gfn < 2 ^ 21) (hc : isControl kind gfn = false) (hr : dfnInRange kind gfn = true)
    (hs : s.scrubbing kind gfn = false) :
    s.directLoc ag t ga l w home kind gfn = frameLoc ag t ga l home kind gfn w none := by
  rw [State.directLoc_of_inside h, if_neg (by simp [hc]), if_neg (by simp [hr, hs])]

end Entry

section Access
variable {s : State} {ag : Agent} {ga n : Nat} {t : TDesc}

/-! ### An access by a tensor address (R296) -/

theorem trAt_eq (c : Cause) (b : Bool) (h : ga < 2 ^ 48) : trAt c b ga = ⟨c, BitVec.ofNat 64 (b2n b * 2 ^ 63 + ga)⟩ := by
  rw [trAt, Nat.mod_eq_of_lt h]

theorem State.place_of_tensor (h0 : 0 < ga / 2 ^ 36) (h1 : ga / 2 ^ 36 ≤ 0xDFF) : s.place ag ga n = s.tensorLoc ag ga n := by
  rw [State.place, if_neg (by omega), if_pos h1]

theorem State.tensorLoc_of_error {e : Trap} (h : s.descriptor (s.regime ag.pl) ga (ga / 2 ^ 36) = .error e) :
    s.tensorLoc ag ga n = .error e := by
  rw [State.tensorLoc, h]
  rfl

theorem State.tensorLoc_of_descriptor (h : s.descriptor (s.regime ag.pl) ga (ga / 2 ^ 36) = .ok t) :
    s.tensorLoc ag ga n =
      if !t.offsetOk (ga % 2 ^ 36) n then .error (trAt .translation false ga)
      else if t.typ == 13 && !ag.ci12p then .error (trAt .illegalInstruction false ga)
      else s.tileLoc (s.regime ag.pl) ag t ga (ga % 2 ^ 36 / 2 ^ 18) (ga % 2 ^ 36 % 2 ^ 18) := by
  rw [State.tensorLoc, h]
  rfl

/-- The place of an access whose descriptor is t, its offset within the tensor and its format allowed. -/
theorem State.place_of_descriptor (h0 : 0 < ga / 2 ^ 36) (h1 : ga / 2 ^ 36 ≤ 0xDFF)
    (h : s.descriptor (s.regime ag.pl) ga (ga / 2 ^ 36) = .ok t) (ho : t.offsetOk (ga % 2 ^ 36) n = true)
    (ht : t.typ ≠ 13 ∨ ag.ci12p = true) :
    s.place ag ga n = s.tileLoc (s.regime ag.pl) ag t ga (ga % 2 ^ 36 / 2 ^ 18) (ga % 2 ^ 36 % 2 ^ 18) := by
  have hc : ¬ (t.typ == 13 && !ag.ci12p) = true := by simpa [imp_iff_not_or] using ht
  rw [State.place_of_tensor h0 h1, State.tensorLoc_of_descriptor h, if_neg (by rw [ho]; simp), if_neg hc]

theorem State.place_of_entry (h0 : 0 < ga / 2 ^ 36) (h1 : ga / 2 ^ 36 ≤ 0xDFF)
    (h : s.descriptor (s.regime ag.pl) ga (ga / 2 ^ 36) = .ok t) (ho : t.offsetOk (ga % 2 ^ 36) n = true)
    (ht : t.typ ≠ 13 ∨ ag.ci12p = true) {x : Nat} (hx : s.Reads ag.pl (t.ttp + 8 * (ga % 2 ^ 36 / 2 ^ 18)) x) :
    s.place ag ga n = s.entryLoc (s.regime ag.pl) ag t ga ga (ga % 2 ^ 36 % 2 ^ 18) x := by
  have hga : ga / 2 ^ 36 * 2 ^ 36 + ga % 2 ^ 36 / 2 ^ 18 * 2 ^ 18 + ga % 2 ^ 36 % 2 ^ 18 = ga := by omega
  rw [State.place_of_descriptor h0 h1 h ho ht, State.tileLoc_of_read (State.walkRead_of_reads hx ga), hga, BitVec.toNat_ofNat,
    Nat.mod_eq_of_lt (State.reads_lt hx)]

theorem State.place_of_offset (h0 : 0 < ga / 2 ^ 36) (h1 : ga / 2 ^ 36 ≤ 0xDFF)
    (h : s.descriptor (s.regime ag.pl) ga (ga / 2 ^ 36) = if t.valid then .ok t else .error (trAt .translation false ga))
    (ho : t.valid = false ∨ t.offsetOk (ga % 2 ^ 36) n = false) : s.place ag ga n = .error (trAt .translation false ga) := by
  rw [State.place_of_tensor h0 h1]
  cases hv : t.valid
  case false => exact State.tensorLoc_of_error (by rw [h, hv]; rfl)
  case true =>
    have ho : t.offsetOk (ga % 2 ^ 36) n = false := by simpa [hv] using ho
    rw [State.tensorLoc_of_descriptor (t := t) (by rw [h, hv]; rfl), ho]
    rfl

theorem State.place_of_packed (h0 : 0 < ga / 2 ^ 36) (h1 : ga / 2 ^ 36 ≤ 0xDFF)
    (h : s.descriptor (s.regime ag.pl) ga (ga / 2 ^ 36) = .ok t) (ho : t.offsetOk (ga % 2 ^ 36) n = true) (ht : t.typ = 13)
    (hc : ag.ci12p = false) : s.place ag ga n = .error (trAt .illegalInstruction false ga) := by
  rw [State.place_of_tensor h0 h1, State.tensorLoc_of_descriptor h, if_neg (by rw [ho]; simp), if_pos (by simp [ht, hc])]

/-! ### An access by CTL (R42, R142) -/

theorem State.ctlPlace_of_misaligned {ea : Addr} (h : ea.toNat % n ≠ 0) : s.ctlPlace ea n = .error (trAt .align false ea.toNat) := by
  rw [State.ctlPlace, if_pos h]

theorem State.ctlPlace_of_aligned {ea : Addr} (h : ea.toNat % n = 0) :
    s.ctlPlace ea n = s.place { Agent.ctl s.core.pl with ctl8 := n == 8 } ea.toNat n := by
  rw [State.ctlPlace, if_neg (by simp [h])]

theorem trAt_addr (c : Cause) (ea : Addr) : trAt c false ea.toNat = ⟨c, ea.setWidth 64⟩ := by
  rw [trAt_eq c false ea.isLt]
  congr 1
  exact BitVec.eq_of_toNat_eq (by simp [b2n])

/-- An aligned access that begins within the scratchpad ends within it. -/
theorem aligned_end {a : Nat} (hn : n = 1 ∨ n = 2 ∨ n = 4 ∨ n = 8) (ha : a % n = 0) :
    a % 2 ^ 36 + n ≤ Config.spadBytes ↔ a % 2 ^ 36 < 2 ^ 22 := by
  rw [Config.spadBytes]
  obtain rfl | rfl | rfl | rfl := hn <;> omega

theorem State.place_of_spad (hn : n = 1 ∨ n = 2 ∨ n = 4 ∨ n = 8) (ha : ga % n = 0) (ht : ga / 2 ^ 36 = 0) :
    s.place ag ga n = if ga % 2 ^ 36 < 2 ^ 22 then .ok (.here ⟨spadPa s.cur (ga % 2 ^ 36), .spad, false, false, none, 0⟩)
      else .error (trAt .translation false ga) := by
  rw [State.place, if_pos ht]
  simp only [aligned_end hn ha]

theorem State.place_of_ring (hn : n = 1 ∨ n = 2 ∨ n = 4 ∨ n = 8) (ha : ga % n = 0) (ht : 0xE00 ≤ ga / 2 ^ 36)
    (ht' : ga / 2 ^ 36 < 0xF00) (hp : ga / 2 ^ 36 - 0xE00 < s.ncore s.part) (ho : ga % 2 ^ 36 < 2 ^ 22) :
    s.place ag ga n = .ok (.remote ((s.partCores s.part).getD (ga / 2 ^ 36 - 0xE00) 0) (ga % 2 ^ 36)) := by
  rw [State.place, if_neg (by omega), if_neg (by omega), if_pos (by omega), if_pos (by simp [-Nat.reducePow, aligned_end hn ha, hp, ho])]

theorem State.place_of_nowhere (hn : n = 1 ∨ n = 2 ∨ n = 4 ∨ n = 8) (ha : ga % n = 0) (ht : 0xE00 ≤ ga / 2 ^ 36)
    (h : 0xF00 ≤ ga / 2 ^ 36 ∨ s.ncore s.part ≤ ga / 2 ^ 36 - 0xE00 ∨ 2 ^ 22 ≤ ga % 2 ^ 36) :
    s.place ag ga n = .error (trAt .translation false ga) := by
  have hout : ga / 2 ^ 36 ≤ 0xEFF →
      ¬ (ga % 2 ^ 36 + n ≤ Config.spadBytes && decide (ga / 2 ^ 36 - 0xE00 < s.ncore s.part)) = true := by
    intro hle
    rw [Bool.and_eq_true, decide_eq_true_iff, decide_eq_true_iff, aligned_end hn ha]
    omega
  rw [State.place, if_neg (by omega), if_neg (by omega)]
  split
  · next hle => rw [if_neg (hout hle)]
  · rfl

/-! ### The three parts of the obligation -/

theorem State.storeLE_frame (s : State) (a n v x : Nat) :
    (s.storeLE a n v).loadLE a n = v % 256 ^ n ∧ (x < a ∨ a + n ≤ x → (s.storeLE a n v).byte x = s.byte x) ∧
    (s.storeLE a n v).poison = s.poison ∧ (s.storeLE a n v).core = s.core ∧ (s.storeLE a n v).pf = s.pf :=
  ⟨s.loadLE_storeLE_self a n v, s.storeLE_byte_out a n v x, s.storeLE_poison a n v, s.storeLE_core a n v, s.storeLE_pf a n v⟩

/-- A refusal of R296 as the obligation writes its EVAL. -/
theorem refusal_eval {res : Except Trap Place} {c : Cause} (b : Bool) (hga : ga < 2 ^ 48) (h : res = .error (trAt c b ga)) :
    res = .error ⟨c, BitVec.ofNat 64 (b2n b * 2 ^ 63 + ga)⟩ := by
  rw [h, trAt_eq c b hga]

theorem State.place_of_descriptor_walk (h0 : 0 < ga / 2 ^ 36) (h1 : ga / 2 ^ 36 ≤ 0xDFF) {gpa k : Nat} (hk : k < 7)
    (hgpa : gpa = (s.regime ag.pl).table + 64 * (ga / 2 ^ 36) + 8 * k)
    (hr : ∀ j, j < k → ∃ x, s.Reads ag.pl ((s.regime ag.pl).table + 64 * (ga / 2 ^ 36) + 8 * j) x) :
    (s.Lost ag.pl gpa → s.place ag ga n = .error ⟨.translation, BitVec.ofNat 64 (2 ^ 63 + 2 ^ 62 + gpa % 2 ^ 48)⟩) ∧
    (s.Spoilt ag.pl gpa → s.place ag ga n = .error (trAt .memPoison false ga)) := by
  have hw : ∀ e, s.walkRead (s.regime ag.pl) ga gpa = .error e → s.place ag ga n = .error e := by
    intro e he
    rw [State.place_of_tensor h0 h1]
    refine State.tensorLoc_of_error (State.descriptor_error hk (fun j hj => ?_) (hgpa ▸ he))
    obtain ⟨x, hx⟩ := hr j hj
    exact ⟨_, State.walkRead_of_reads hx ga⟩
  exact ⟨fun h => hw _ (State.walkRead_of_lost h ga), fun h => hw _ (State.walkRead_of_spoilt h ga)⟩

end Access

/-- Settles O8: the store-load law, then CTL's regions, then the seven-step walk check by check. -/
theorem readAfterWrite : Obligations.ReadAfterWrite := by
  unfold Obligations.ReadAfterWrite
  refine ⟨State.storeLE_frame, ?_, ?_⟩
  · intro s ea n hn tid o bad
    have hbad : ∀ {c}, s.ctlPlace ea n = .error (trAt c false ea.toNat) → s.ctlPlace ea n = bad c := by
      intro c h
      rw [h, trAt_addr]
    refine ⟨fun ha => hbad (State.ctlPlace_of_misaligned ha), fun ha ht ho => ?_, fun ha ht ho => hbad ?_, fun ha ht ht' hp ho => ?_,
      fun ha ht h => hbad ?_⟩ <;> rw [State.ctlPlace_of_aligned ha]
    · rw [State.place_of_spad hn ha ht, if_pos ho]
    · rw [State.place_of_spad hn ha ht, if_neg (Nat.not_lt.mpr ho)]
    · exact State.place_of_ring hn ha ht ht' hp ho
    · exact State.place_of_nowhere hn ha ht h
  · intro s ag ga n hga h0 h1 o w res fails low word ra la rooted mapped unmapped dirty found reads spoilt lost walkFails da
    have hfails : ∀ {c}, res = .error (trAt c false ga) → fails c 0 := refusal_eval false hga
    have hflag : ∀ {c}, res = .error (trAt c true ga) → fails c 1 := refusal_eval true hga
    refine ⟨fun k hk hr => ?_, ?_, fun ha => ?_⟩
    · obtain ⟨hl, hs⟩ := State.place_of_descriptor_walk (n := n) h0 h1 hk rfl hr
      exact ⟨hl, fun h => hfails (hs h)⟩
    · intro d0 d1 d2 d3 d4 d5 d6 r0 r1 r2 r3 r4 r5 r6 t owned ea
      have hd : s.descriptor (s.regime ag.pl) ga (ga / 2 ^ 36) = if t.valid then .ok t else .error (trAt .translation false ga) := by
        refine State.descriptor_of_reads (x := fun k => [d0, d1, d2, d3, d4, d5, d6].getD k 0) fun k hk => ?_
        interval_cases k
        exacts [r0, r1, r2, r3, r4, r5, r6]
      refine ⟨fun h => hfails (State.place_of_offset h0 h1 hd h), fun hv ho ht hc => ?_, fun hv ho ht => ?_⟩
      · exact hfails (State.place_of_packed h0 h1 (by rw [hd, if_pos hv]) ho ht hc)
      · have hd : s.descriptor (s.regime ag.pl) ga (ga / 2 ^ 36) = .ok t := by rw [hd, if_pos hv]
        have hp : res = s.tileLoc (s.regime ag.pl) ag t ga (o / 2 ^ 18) w := State.place_of_descriptor h0 h1 hd ho ht
        refine ⟨fun h => ?_, fun h => hfails ?_, fun x hx => ?_⟩
        · exact hp.trans (State.tileLoc_of_error (State.walkRead_of_lost h ga))
        · exact hp.trans (State.tileLoc_of_error (State.walkRead_of_spoilt h ga))
        · intro gfn home cold size listed host goes
          have he : res = s.entryLoc (s.regime ag.pl) ag t ga ga w x := State.place_of_entry h0 h1 hd ho ht hx
          have hx : x < 2 ^ 64 := State.reads_lt hx
          refine ⟨fun h => hfails ?_, fun hl hh h => hfails ?_, fun hl hh hn h8 hown => ?_, fun hl hh hown => hfails ?_,
            fun hl hh hown hlow => ?_, fun hl hh hown hlow => ?_⟩
          · exact he.trans (State.entryLoc_of_unlisted hx h)
          · exact he.trans ((State.entryLoc_of_host hx hl hh).trans (State.hostLoc_refused h))
          · exact ⟨_, he.trans ((State.entryLoc_of_host hx hl hh).trans (State.hostLoc_goes hn h8 hown)), rfl, rfl⟩
          · exact he.trans (State.entryLoc_of_foreign hx hl hh hown)
          · have hf : res = s.guestLoc s.vf ag t ga ga w home cold gfn :=
              he.trans ((State.entryLoc_of_frame hx hl hh hown).trans (if_pos hlow))
            refine ⟨fun h => hfails (hf.trans (State.guestLoc_of_dirty h)), fun h => hflag (hf.trans (State.guestLoc_of_unmapped h)),
              fun kind dfn hm => ⟨fun h => hfails (hf.trans (State.guestLoc_refused hm h)), fun hc hk hk' => ?_⟩⟩
            exact ⟨_, hf.trans (State.guestLoc_goes hm hc hk hk'), rfl, rfl, rfl, rfl, rfl, rfl⟩
          · have hf : res = s.directLoc ag t ga ga w home cold gfn :=
              he.trans ((State.entryLoc_of_frame hx hl hh hown).trans (if_neg hlow))
            refine ⟨fun h => hfails (hf.trans (State.directLoc_of_outside h)), fun hg hc => ⟨fun h8 hh0 => ?_, fun h => hfails ?_⟩,
              fun hg hc h => hflag (hf.trans (State.directLoc_absent hg hc h)), fun hg hc hr hs => ?_⟩
            · exact ⟨_, hf.trans (State.directLoc_control hg hc h8 hh0), rfl⟩
            · exact hf.trans (State.directLoc_control_refused hg hc h)
            · have hf := hf.trans (State.directLoc_of_present hg hc hr hs)
              refine ⟨fun h => hfails (hf.trans (frameLoc_refused h)), fun hk hk' => ?_⟩
              exact ⟨_, hf.trans (frameLoc_goes hk hk'), rfl, rfl, rfl, rfl, rfl, rfl⟩
    · rw [State.ctlPlace_of_aligned] <;> rw [BitVec.toNat_ofNat, Nat.mod_eq_of_lt hga]
      exact ha

end Sys2Proof.Machine
end

section
/-!
The scalar instructions of CTL: the values of the ALU group (R109), the loop levels (R116 to R118), and the word that no decoder
accepts (R44). Settles O57, O1 and O4.
-/

namespace Sys2Proof.Machine

/-! ### The all-ones word (R44) -/

/-- Refutes O57: the sticky patch without issue of template 63 of FR, halfword 15, value 0xFFFF is the word 0xFFFF_FFFF, which R44
refuses whatever its fields would mean. -/
theorem not_controlRoundTrip : ¬ Obligations.ControlRoundTrip := by
  unfold Obligations.ControlRoundTrip
  intro h
  have hd : decode [0xFFFFFFFF] = .ok (.patchSN .fr 63 15 0xFFFF) := h _ _ rfl rfl
  have ha : decode [0xFFFFFFFF] = .error .allOnes := rfl
  rw [ha] at hd
  contradiction

/-! ### Bits, and the values of the ALU group (R109) -/

theorem bit_eq_testBit (x i : Nat) : bit x i = x.testBit i := by
  rw [bit, Nat.testBit_eq_decide_div_mod_eq, Bool.eq_iff_iff]; simp

theorem bit_toNat {w : Nat} (a : BitVec w) (k : Nat) : bit a.toNat k = a.getLsbD k := bit_eq_testBit ..

theorem flag_slt (a b : W64) : flag (a.slt b) = if a.toInt < b.toInt then 1 else 0 := by
  simp [flag, BitVec.slt_iff_toInt_lt]

theorem flag_ult (a b : W64) : flag (a.ult b) = if a.toNat < b.toNat then 1 else 0 := by simp [flag, BitVec.ult]

theorem sshiftRight_eq_ofInt_div (a : W64) (n : Nat) : a.sshiftRight n = BitVec.ofInt 64 (a.toInt / 2 ^ n) := by
  rw [BitVec.sshiftRight, Int.shiftRight_eq_div_pow]; norm_cast

theorem ite_slt_eq_min (a b : W64) : (if a.slt b then a else b) = BitVec.ofInt 64 (min a.toInt b.toInt) := by
  by_cases h : a.toInt < b.toInt
  · rw [if_pos (BitVec.slt_iff_toInt_lt.mpr h), min_eq_left h.le, BitVec.ofInt_toInt]
  · rw [if_neg (h ∘ BitVec.slt_iff_toInt_lt.mp), min_eq_right (not_lt.mp h), BitVec.ofInt_toInt]

theorem ite_slt_eq_max (a b : W64) : (if a.slt b then b else a) = BitVec.ofInt 64 (max a.toInt b.toInt) := by
  by_cases h : a.toInt < b.toInt
  · rw [if_pos (BitVec.slt_iff_toInt_lt.mpr h), max_eq_right h.le, BitVec.ofInt_toInt]
  · rw [if_neg (h ∘ BitVec.slt_iff_toInt_lt.mp), max_eq_left (not_lt.mp h), BitVec.ofInt_toInt]

theorem ite_ult_eq_min (a b : W64) : (if a.ult b then a else b) = BitVec.ofNat 64 (min a.toNat b.toNat) := by
  by_cases h : a.toNat < b.toNat
  · rw [if_pos (by simpa [BitVec.ult] using h), min_eq_left h.le, BitVec.ofNat_toNat, BitVec.setWidth_eq]
  · rw [if_neg (by simpa [BitVec.ult] using h), min_eq_right (not_lt.mp h), BitVec.ofNat_toNat, BitVec.setWidth_eq]

theorem ite_ult_eq_max (a b : W64) : (if a.ult b then b else a) = BitVec.ofNat 64 (max a.toNat b.toNat) := by
  by_cases h : a.toNat < b.toNat
  · rw [if_pos (by simpa [BitVec.ult] using h), max_eq_right h.le, BitVec.ofNat_toNat, BitVec.setWidth_eq]
  · rw [if_neg (by simpa [BitVec.ult] using h), max_eq_left (not_lt.mp h), BitVec.ofNat_toNat, BitVec.setWidth_eq]

theorem mul_eq_ofInt (a b : W64) : a * b = BitVec.ofInt 64 (a.toInt * b.toInt) := by
  rw [BitVec.ofInt_mul, BitVec.ofInt_toInt, BitVec.ofInt_toInt]

/-- The first element of a range that p refuses. -/
theorem length_takeWhile_range {p : Nat → Bool} {n k : Nat} (hk : k ≤ n) (hp : ∀ i < k, p i) (hn : k < n → p k = false) :
    ((List.range n).takeWhile p).length = k := by
  obtain ⟨m, rfl⟩ := Nat.exists_eq_add_of_le hk
  rw [List.range_add, List.takeWhile_append_of_pos (by simpa using hp)]
  cases m with
  | zero => simp
  | succ m => simp [List.range_succ_eq_map, hn]

theorem clz64_eq (a : W64) :
    clz64 a = BitVec.ofNat 64 ((List.range 64).takeWhile (fun k => !a.getLsbD (63 - k))).length := by
  unfold clz64
  split
  case isTrue h =>
    have ha : a = 0 := BitVec.eq_of_toNat_eq h
    rw [length_takeWhile_range le_rfl (by simp [ha]) (by simp)]; rfl
  case isFalse h =>
    have hl : a.toNat.log2 < 64 := (Nat.log2_lt h).mpr a.isLt
    rw [length_takeWhile_range (k := 63 - a.toNat.log2) (by omega)]
    · intro i hi
      have : a.toNat < 2 ^ (63 - i) := (Nat.log2_lt h).mp (by omega)
      simpa [BitVec.getLsbD] using Nat.testBit_lt_two_pow this
    · intro _
      have : 63 - (63 - a.toNat.log2) = a.toNat.log2 := by omega
      simpa [this, BitVec.getLsbD] using Nat.testBit_log2 h

theorem ctz64_eq (a : W64) : ctz64 a = BitVec.ofNat 64 ((List.range 64).takeWhile (fun k => !a.getLsbD k)).length := by
  unfold ctz64
  simp only [bit_toNat]
  cases h : (List.range 64).find? a.getLsbD with
  | none =>
    rw [length_takeWhile_range le_rfl (by simpa using h) (by simp)]; rfl
  | some k =>
    obtain ⟨hk, hlt, hlow⟩ := List.find?_range_eq_some.mp h
    rw [length_takeWhile_range (List.mem_range.mp hlt).le (by simpa using hlow) (by simp [hk]), Option.getD_some]

theorem popc64_eq (a : W64) : popc64 a = BitVec.ofNat 64 ((List.range 64).countP a.getLsbD) := by
  simp only [popc64, bit_toNat, List.countP_eq_length_filter]

/-- Adding a power of two whose bit is clear sets that bit. -/
theorem testBit_add_two_pow {x k : Nat} (h : x.testBit k = false) (i : Nat) :
    (x + 2 ^ k).testBit i = (x.testBit i || decide (k = i)) := by
  have hbit : x / 2 ^ k % 2 = 0 := by simpa [Nat.testBit_eq_decide_div_mod_eq] using h
  have hlow : x % 2 ^ (k + 1) = x % 2 ^ k := by rw [Nat.mod_pow_succ, hbit, Nat.mul_zero, Nat.add_zero]
  have hx : x = 2 ^ (k + 1) * (x / 2 ^ (k + 1)) + x % 2 ^ k := by rw [← hlow, Nat.div_add_mod]
  have hlt : x % 2 ^ k < 2 ^ k := Nat.mod_lt _ (Nat.two_pow_pos k)
  have hsum : x + 2 ^ k = 2 ^ (k + 1) * (x / 2 ^ (k + 1)) + (x % 2 ^ k ||| 2 ^ k) := by
    rw [Nat.or_two_pow_eq_add_of_lt hlt, ← Nat.add_assoc, ← hx]
  have hpow : 2 ^ k < 2 ^ (k + 1) := Nat.pow_lt_pow_succ one_lt_two
  conv_rhs => rw [hx]
  rw [hsum, Nat.testBit_two_pow_mul_add _ (Nat.or_lt_two_pow (hlt.trans hpow) hpow),
    Nat.testBit_two_pow_mul_add _ (hlt.trans hpow)]
  split
  · simp [Nat.testBit_or, Nat.testBit_two_pow]
  · simp; omega

/-- The bits of a sum of the powers that a fold adds from the top down. -/
theorem testBit_foldl_reverse (a : W64) {n : Nat} (hn : n ≤ 64) (i : Nat) :
    ((List.range n).foldl (fun x k => if a.getLsbD k then x + 2 ^ (63 - k) else x) 0).testBit i =
      (decide (64 - n ≤ i ∧ i < 64) && a.getLsbD (63 - i)) := by
  induction n generalizing i with
  | zero => simp
  | succ n ih =>
    have ih := ih (by omega)
    rw [List.range_succ, List.foldl_append, List.foldl_cons, List.foldl_nil]
    generalize (List.range n).foldl _ 0 = x at ih ⊢
    have hstep : (if a.getLsbD n then x + 2 ^ (63 - n) else x).testBit i = (x.testBit i || (a.getLsbD n && decide (63 - n = i))) := by
      split
      case isTrue h => rw [testBit_add_two_pow (by rw [ih]; simp; omega), h, Bool.true_and]
      case isFalse h => simp [h]
    rw [hstep, ih]
    by_cases hi : 63 - n = i
    · subst hi
      rw [show 63 - (63 - n) = n by omega]
      cases a.getLsbD n <;> simp; omega
    · simp [hi, show 64 ≤ i + n ↔ 63 ≤ i + n by omega]

theorem brev64_eq (a : W64) : brev64 a = a.reverse := by
  apply BitVec.eq_of_getLsbD_eq
  intro i hi
  rw [brev64, BitVec.getLsbD_ofNat, BitVec.getLsbD_reverse, BitVec.getMsbD]
  simp only [bit_toNat, testBit_foldl_reverse a le_rfl]
  simp [hi]

theorem zext64_eq (a : W64) (w : Nat) : zext64 a w = (a.setWidth w).setWidth 64 := by
  apply BitVec.eq_of_toNat_eq; simp [zext64]

theorem sint_toNat (a : W64) {w : Nat} (hw : 0 < w) : sint a.toNat w = (a.setWidth w).toInt := by
  simp only [sint, BitVec.toInt, BitVec.toNat_setWidth]
  have := Nat.two_pow_pred_add_two_pow_pred hw
  congr 1; simp; omega
theorem sext64_eq (a : W64) {w : Nat} (hw : 0 < w) : sext64 a w = (a.setWidth w).signExtend 64 := by
  rw [sext64, sint_toNat a hw]; rfl

/-! ### The write of a result (R108) -/

theorem State.put_wr (s : State) (sd : Reg) (v : W64) : s.Put (s.wr sd v) sd v := by
  refine ⟨fun h => by simp [State.wr, h], fun h => ⟨?_, s.rd_wr_self v h, fun r hr => s.rd_wr_ne v hr⟩⟩
  simp [State.wr, h, State.upd]

theorem wrote_of_result {i : Instr} {s : State} {sd : Reg} {v w : W64} {n : Nat} (h : exec i s = .next (s.result sd w n))
    (hw : w = v) : Wrote i s sd v n := ⟨s.wr sd v, s.put_wr sd v, by rw [h, hw]; rfl⟩

/-- Settles O1: every arm writes its value by `State.result`; the values are those of R109. -/
theorem aluGroupResult : Obligations.AluGroupResult := by
  unfold Obligations.AluGroupResult
  intro sd sa sb w s a b n
  have hn : n % 64 = n := Nat.mod_mod _ _
  have hw : 0 < extBits w := by cases w <;> decide
  refine ⟨wrote_of_result rfl rfl, wrote_of_result rfl rfl, wrote_of_result rfl rfl, wrote_of_result rfl rfl,
    wrote_of_result rfl rfl, wrote_of_result rfl rfl, wrote_of_result rfl rfl, wrote_of_result rfl rfl,
    wrote_of_result rfl (sshiftRight_eq_ofInt_div a n), wrote_of_result rfl ?rol, wrote_of_result rfl ?ror,
    wrote_of_result rfl (ite_slt_eq_min a b), wrote_of_result rfl (ite_slt_eq_max a b),
    wrote_of_result rfl (ite_ult_eq_min a b), wrote_of_result rfl (ite_ult_eq_max a b),
    wrote_of_result rfl (flag_slt a b), wrote_of_result rfl (flag_ult a b),
    wrote_of_result rfl ?seq, wrote_of_result rfl ?sne,
    wrote_of_result rfl (mul_eq_ofInt a b), wrote_of_result rfl rfl, wrote_of_result rfl rfl,
    wrote_of_result rfl (clz64_eq a), wrote_of_result rfl (ctz64_eq a), wrote_of_result rfl (popc64_eq a),
    wrote_of_result rfl (brev64_eq a), wrote_of_result rfl (sext64_eq a hw), wrote_of_result rfl (zext64_eq a (extBits w))⟩
  case rol => rw [BitVec.rotateLeft, BitVec.rotateLeftAux, hn]
  case ror => rw [BitVec.rotateRight, BitVec.rotateRightAux, hn]
  case seq => simp [flag, a, b]
  case sne => by_cases h : s.rd sa = s.rd sb <;> simp [flag, a, b, h]

/-! ### The loop levels (R116 to R118) -/

/-- R117 opens a level at PL0, where level 0 is off, where level 1 is off if that is the one, and inside level 1 otherwise. -/
theorem State.loopRefused_eq_false_iff (s : State) (lvl : Bool) (b e : Addr) : s.loopRefused lvl b e = false ↔
    s.core.pl = 0 ∧ s.core.lc0.act = false ∧ (lvl = true → s.core.lc1.act = false) ∧
      (lvl = false → s.core.lc1.act = true →
        b.toNat ≥ s.core.lc1.start.toNat ∧ e.toNat ≤ s.core.lc1.start.toNat + 4 * (s.core.lc1.lenm1.toNat + 1)) := by
  simp only [State.loopRefused]
  generalize s.core.lc0.act = a0
  generalize s.core.lc1.act = a1
  cases lvl <;> cases a0 <;> cases a1 <;> simp

theorem State.openLoop_of_refused {s : State} {n : W32} {lvl : Bool} {len : BitVec 6} {k : Nat}
    (h : s.loopRefused lvl (s.core.pc + BitVec.ofNat 48 (4 * k))
      (s.core.pc + BitVec.ofNat 48 (4 * k) + BitVec.ofNat 48 (4 * (len.toNat + 1))) = true) :
    s.openLoop n lvl len k = s.illegal := if_pos h

theorem State.openLoop_of_opened {s : State} {n : W32} {lvl : Bool} {len : BitVec 6} {k : Nat}
    (h : s.loopRefused lvl (s.core.pc + BitVec.ofNat 48 (4 * k))
      (s.core.pc + BitVec.ofNat 48 (4 * k) + BitVec.ofNat 48 (4 * (len.toNat + 1))) = false) :
    s.openLoop n lvl len k =
      if n = 0 then s.retireTo (s.core.pc + BitVec.ofNat 48 (4 * k) + BitVec.ofNat 48 (4 * (len.toNat + 1)))
      else (s.upd (fun c => if lvl then { c with lc1 := ⟨n, s.core.pc + BitVec.ofNat 48 (4 * k), len, true⟩ }
        else { c with lc0 := ⟨n, s.core.pc + BitVec.ofNat 48 (4 * k), len, true⟩ })).retireTo (s.core.pc + BitVec.ofNat 48 (4 * k)) := by
  simp [State.openLoop, h]

/-- Where level 0 returns, level 1 is not looked at. -/
theorem loopEnd_of_back {l0 l0' l1 : Loop} {n a : Addr} (h : l0.atEnd n = (l0', some a)) : loopEnd 0 l0 l1 n = (l0', l1, a) := by
  simp [loopEnd, h]

/-- Where level 0 does not return, level 1 decides. -/
theorem loopEnd_of_through {l0 l0' : Loop} {n : Addr} (l1 : Loop) (h : l0.atEnd n = (l0', none)) :
    loopEnd 0 l0 l1 n = (l0', (l1.atEnd n).1, (l1.atEnd n).2.getD n) := by
  unfold loopEnd
  rw [if_neg (by decide), h]
  rcases l1.atEnd n with ⟨l1', _ | a⟩ <;> rfl

/-- Level 0 does not return unless its body ends at n with a count above 1. -/
theorem Loop.atEnd_snd_eq_none (l : Loop) {n : Addr}
    (h : l.act = true ∧ n = l.start + BitVec.ofNat 48 (4 * (l.lenm1.toNat + 1)) → l.count.toNat ≤ 1) : (l.atEnd n).2 = none := by
  by_cases he : l.act = true ∧ n = l.start + BitVec.ofNat 48 (4 * (l.lenm1.toNat + 1))
  · rw [l.atEnd_through he.1 he.2 (h he)]
  · rw [l.atEnd_off he]

/-- Level 0 ends as it does whatever level 1 does. -/
theorem loopEnd_fst (l0 l1 : Loop) (n : Addr) : (loopEnd 0 l0 l1 n).1 = (l0.atEnd n).1 := by
  obtain h | ⟨a, h⟩ : (l0.atEnd n).2 = none ∨ ∃ a, (l0.atEnd n).2 = some a := by cases (l0.atEnd n).2 <;> simp
  · rw [loopEnd_of_through l1 (Prod.ext rfl h)]
  · rw [loopEnd_of_back (Prod.ext rfl h)]

theorem loopEnd_snd {l0 : Loop} {n : Addr} (l1 : Loop)
    (h : l0.act = true ∧ n = l0.start + BitVec.ofNat 48 (4 * (l0.lenm1.toNat + 1)) → l0.count.toNat ≤ 1) :
    (loopEnd 0 l0 l1 n).2 = ((l1.atEnd n).1, (l1.atEnd n).2.getD n) := by
  rw [loopEnd_of_through l1 (Prod.ext rfl (l0.atEnd_snd_eq_none h))]

/-- Settles O4: the checks of R117, then the loop-end procedure by the two levels. -/
theorem loopLevels : Obligations.LoopLevels := by
  unfold Obligations.LoopLevels
  refine ⟨?_, ?_⟩
  · intro sa count lit lvl len s c opens
    have opened {i : Instr} {n k : Nat} (hn : n < 2 ^ 32) (hi : exec i s = .next (s.openLoop (BitVec.ofNat 32 n) lvl len k)) :
        opens i n k := by
      have hz : BitVec.ofNat 32 n = 0 ↔ n = 0 := by
        rw [← BitVec.toNat_inj, BitVec.toNat_ofNat, Nat.mod_eq_of_lt hn]; rfl
      have hl := s.loopRefused_eq_false_iff lvl (c.pc + BitVec.ofNat 48 (4 * k))
        (c.pc + BitVec.ofNat 48 (4 * k) + BitVec.ofNat 48 (4 * (len.toNat + 1)))
      refine ⟨fun h => ?_, fun h h0 => ?_, fun h h0 hv => ?_, fun h h0 hv => ?_⟩
      · rw [hi, State.openLoop_of_refused (Bool.not_eq_false _ |>.mp (h ∘ hl.mp))]
      · rw [hi, State.openLoop_of_opened (hl.mpr h), if_pos (hz.mpr h0)]
      · rw [hi, State.openLoop_of_opened (hl.mpr h), if_neg (h0 ∘ hz.mp), hv]; rfl
      · rw [hi, State.openLoop_of_opened (hl.mpr h), if_neg (h0 ∘ hz.mp), hv]; rfl
    refine ⟨opened (Nat.mod_lt _ (by decide)) (congrArg (fun v => Host.Outcome.next (s.openLoop v lvl len 1)) ?_),
      opened (by omega) (congrArg (fun v => Host.Outcome.next (s.openLoop v lvl len 1)) (BitVec.ofNat_toNat ..).symm),
      opened (by omega) (congrArg (fun v => Host.Outcome.next (s.openLoop v lvl len 2)) ?_)⟩
    · apply BitVec.eq_of_toNat_eq; simp
    · simp
  · intro s n c t N ends
    have ht {pl : Nat} (hpl : c.pl = pl) : t.core.lc0 = (loopEnd pl c.lc0 c.lc1 N).1 ∧ t.core.lc1 = (loopEnd pl c.lc0 c.lc1 N).2.1 ∧
        t.core.pc = (loopEnd pl c.lc0 c.lc1 N).2.2 := by subst hpl; exact ⟨rfl, rfl, rfl⟩
    refine ⟨rfl, rfl, ?_, fun hp he hc => ?_, fun hp he hc => ?_, fun hp he => ?_, fun hp h0 he hc => ?_, fun hp h0 he hc => ?_,
      fun hp h0 he => ?_⟩
    · rintro (hp | ⟨h0, h1⟩)
      · obtain ⟨e0, e1, ep⟩ := ht rfl
        rw [loopEnd_above hp] at e0 e1 ep
        exact ⟨ep, e0, e1⟩
      · by_cases hp : c.pl = 0
        · obtain ⟨e0, e1, ep⟩ := ht hp
          rw [loopEnd_of_through c.lc1 (c.lc0.atEnd_off h0), c.lc1.atEnd_off h1] at e0 e1 ep
          exact ⟨ep, e0, e1⟩
        · obtain ⟨e0, e1, ep⟩ := ht rfl
          rw [loopEnd_above hp] at e0 e1 ep
          exact ⟨ep, e0, e1⟩
    · obtain ⟨e0, e1, ep⟩ := ht hp
      rw [loopEnd_of_back (c.lc0.atEnd_back he.1 he.2 hc)] at e0 e1 ep
      exact ⟨ep, e0, e1⟩
    · rw [(ht hp).1, loopEnd_fst, c.lc0.atEnd_through he.1 he.2 hc]
    · rw [(ht hp).1, loopEnd_fst, c.lc0.atEnd_off he]
    · obtain ⟨-, e1, ep⟩ := ht hp
      rw [loopEnd_snd c.lc1 h0, c.lc1.atEnd_back he.1 he.2 hc] at e1 ep
      exact ⟨ep, e1⟩
    · obtain ⟨-, e1, ep⟩ := ht hp
      rw [loopEnd_snd c.lc1 h0, c.lc1.atEnd_through he.1 he.2 hc] at e1 ep
      exact ⟨ep, e1⟩
    · obtain ⟨-, e1, ep⟩ := ht hp
      rw [loopEnd_snd c.lc1 h0, c.lc1.atEnd_off he] at e1 ep
      exact ⟨ep, e1⟩

end Sys2Proof.Machine
end

section
/-!
What a step of the agenda runs (R9, R43 to R45, R53), and the state after reset (R17, R361 to R366). Settles O55 and O60.
-/

namespace Sys2Proof.Machine

/-! ### One step (R9, R43 to R45, R53, R348) -/

/-- The act at the head of the agenda is taken from it and selects. -/
theorem State.selected_of_agenda {s : State} {a : Act} {rest : List Act} (h : s.agenda = a :: rest) :
    s.nextAct.1 = a ∧ s.selected = ({ s with agenda := rest } : State).select a := by
  have hn : s.nextAct = (a, { s with agenda := rest }) := by simp [State.nextAct, h]
  simp [State.selected, hn]

theorem step_of_select_some {s t : State} {a : Act} {rest : List Act} {i : Instr} (h : s.agenda = a :: rest)
    (ha : a.core < Config.cores) (hs : ({ s with agenda := rest } : State).select a = (t, some i)) : step s = exec i t := by
  obtain ⟨hn, hsel⟩ := State.selected_of_agenda h
  simp [step, hn, ha, hsel, hs]

theorem step_of_select_none {s t : State} {a : Act} {rest : List Act} (h : s.agenda = a :: rest)
    (ha : a.core < Config.cores) (hs : ({ s with agenda := rest } : State).select a = (t, none)) : step s = .next t := by
  obtain ⟨hn, hsel⟩ := State.selected_of_agenda h
  simp [step, hn, ha, hsel, hs]

section Fetch
variable {u : State}

/-- CTL fetches where it runs, takes no held fault and waits in nothing. -/
structure State.CtlReady (u : State) : Prop where
  runs : u.runs = true
  untaken : u.takeable = [] ∨ u.core.outst ≠ none
  idle : u.core.wait = none

theorem State.CtlReady.noFault (h : u.CtlReady) : (!u.takeable.isEmpty && u.core.outst.isNone) = false := by
  rcases h.untaken with hf | hf
  · simp [hf]
  · simp [Option.ne_none_iff_isSome.mp hf]

theorem State.ctlNext_of_ok {i : Instr} (h : u.CtlReady) (hf : u.ctlFetch = .ok i) : u.ctlNext = (u, some i) := by
  simp [State.ctlNext, h.runs, h.noFault, h.idle, hf]

theorem State.ctlNext_of_error {t : Trap} (h : u.CtlReady) (hf : u.ctlFetch = .error t) : u.ctlNext = (u.trap t, none) := by
  simp [State.ctlNext, h.runs, h.noFault, h.idle, hf]

/-- No body of an active level ends inside the instruction of n words at PC (R45). -/
def State.Whole (u : State) (n : Nat) : Prop :=
  u.core.pl ≠ 0 ∨ n ≤ 1 ∨ ∀ l, l = u.core.lc0 ∨ l = u.core.lc1 → l.act = true →
    u.core.pc + 4 ≠ l.start + BitVec.ofNat 48 (4 * (l.lenm1.toNat + 1))

/-- The body of an active level ends after the first word of an instruction of n words (R45), as `State.ctlFetch` tests it. -/
def State.Splits (u : State) (n : Nat) (l : Loop) : Bool :=
  l.act && decide (1 < n) && u.core.pc + 4 == l.start + BitVec.ofNat 48 (4 * (l.lenm1.toNat + 1))

theorem State.whole_iff (n : Nat) :
    u.Whole n ↔ (decide (u.core.pl = 0) && (u.Splits n u.core.lc0 || u.Splits n u.core.lc1)) = false := by
  simp only [State.Whole, State.Splits, forall_eq_or_imp, forall_eq, Bool.and_eq_false_iff, Bool.or_eq_false_iff,
    decide_eq_false_iff_not, beq_eq_false_iff_ne, not_lt]
  simp only [imp_iff_not_or, Bool.not_eq_true]
  tauto

section Word
variable {w n : Nat} (hw : u.fetchAt u.core.pl u.core.pc = .ok w) (hn : lengthOf w = .ok n)
include hw hn

/-- Words that are an instruction. -/
theorem State.ctlFetch_of_instr {ws : List Nat} {i : Instr} (hc : u.Whole n)
    (hws : u.fetchWords u.core.pl (u.core.pc + 4) (n - 1) = (ws, none)) (hd : decode (w :: ws) = .ok i) : u.ctlFetch = .ok i := by
  have hs := (u.whole_iff n).mp hc
  simp only [State.Splits] at hs
  simp only [State.ctlFetch, hw, hn, hs, Bool.false_eq_true, if_false, hws, hd]

/-- Words that are none. -/
theorem State.ctlFetch_of_no_instr {ws : List Nat} {d : DecodeError} (hc : u.Whole n)
    (hws : u.fetchWords u.core.pl (u.core.pc + 4) (n - 1) = (ws, none)) (hd : decode (w :: ws) = .error d) :
    u.ctlFetch = .ok (.illegalCtlWord (BitVec.ofNat 32 w)) := by
  have hs := (u.whole_iff n).mp hc
  simp only [State.Splits] at hs
  simp only [State.ctlFetch, hw, hn, hs, Bool.false_eq_true, if_false, hws, hd]

/-- A later word that cannot be fetched. -/
theorem State.ctlFetch_of_late_trap {ws : List Nat} {k : Addr} {t : Trap} (hc : u.Whole n)
    (hws : u.fetchWords u.core.pl (u.core.pc + 4) (n - 1) = (ws, some (k, t))) : u.ctlFetch = .error t := by
  have hs := (u.whole_iff n).mp hc
  simp only [State.Splits] at hs
  simp only [State.ctlFetch, hw, hn, hs, Bool.false_eq_true, if_false, hws]

end Word

/-- A word that is no instruction, or one cut by the end of a body. -/
theorem State.ctlFetch_of_refused {w : Nat} (hw : u.fetchAt u.core.pl u.core.pc = .ok w)
    (h : (∃ d, lengthOf w = .error d) ∨ ∃ n, lengthOf w = .ok n ∧ ¬ u.Whole n) :
    u.ctlFetch = .ok (.illegalCtlWord (BitVec.ofNat 32 w)) := by
  rcases h with ⟨d, hd⟩ | ⟨n, hn, hc⟩
  · simp only [State.ctlFetch, hw, hd]
  · have hs := Bool.not_eq_false _ |>.mp (hc ∘ (u.whole_iff n).mpr)
    simp only [State.Splits] at hs
    simp only [State.ctlFetch, hw, hn, hs, if_true]

theorem State.ctlFetch_of_error {t : Trap} (h : u.fetchAt u.core.pl u.core.pc = .error t) : u.ctlFetch = .error t := by
  simp only [State.ctlFetch, h]

end Fetch

/-- Settles O55: the act selects, and the fetch is that of the words at PC. -/
theorem stepRunsDecoded : Obligations.StepRunsDecoded := by
  unfold Obligations.StepRunsDecoded
  intro p e i rest s hp u pl pc ready whole
  have ctl {t : State} {o : Option Instr} (h : u.ctlNext = (t, o)) : ({ s with agenda := rest } : State).select (.ctl p) = (t, o) := h
  have can (h : ready) : u.CtlReady := ⟨h.2.1, h.2.2.1, h.2.2.2⟩
  refine ⟨fun w n ws h hw hn hc hws => ⟨fun hd => ?_, fun d hd => ?_⟩, fun w h hw hr => ?_, fun w n ws k t h hw hn hc hws => ?_,
    fun t h hw => ?_, fun ha hr hk ho => ?_, fun w ha hr hk hw => ⟨fun hi => ?_, fun hi => ?_⟩, fun ha hr => ?_,
    fun hf => ⟨fun ha => ⟨fun hi => ?_, fun hi => ?_⟩, fun ha => ⟨fun hi => ?_, fun hi => ?_⟩⟩, fun hf ha => ?_,
    fun ha => ⟨fun hi => ?_, fun hi => ?_⟩, fun ha => ?_, fun r v ha => ?_, fun ha => ?_, fun a fatal ha => ?_⟩
  · exact step_of_select_some h.1 hp (ctl (State.ctlNext_of_ok (can h) (State.ctlFetch_of_instr hw hn hc hws hd)))
  · exact step_of_select_some h.1 hp (ctl (State.ctlNext_of_ok (can h) (State.ctlFetch_of_no_instr hw hn hc hws hd)))
  · exact step_of_select_some h.1 hp (ctl (State.ctlNext_of_ok (can h) (State.ctlFetch_of_refused hw hr)))
  · exact step_of_select_none h.1 hp (ctl (State.ctlNext_of_error (can h) (State.ctlFetch_of_late_trap hw hn hc hws)))
  · exact step_of_select_none h.1 hp (ctl (State.ctlNext_of_error (can h) (State.ctlFetch_of_error hw)))
  · exact step_of_select_some ha hp (ctl (by simp [State.ctlNext, hr, hk, ho]))
  · exact step_of_select_some ha hp (ctl (by rcases hk with hk | hk <;> simp [State.ctlNext, hr, hk, hw, hi]))
  · exact step_of_select_none ha hp (ctl (by rcases hk with hk | hk <;> simp [State.ctlNext, hr, hk, hw, hi]))
  · exact step_of_select_none ha hp (ctl (by simp [State.ctlNext, hr]))
  · exact step_of_select_some ha hp (by simp only [State.select]; rw [if_neg (by simpa using hf)]; exact Prod.ext rfl hi)
  · exact step_of_select_none ha hp (by simp only [State.select]; rw [if_neg (by simpa using hf)]; exact Prod.ext rfl hi)
  · exact step_of_select_some ha hp (by simp only [State.select]; rw [if_neg (by simpa using hf)]; exact Prod.ext rfl hi)
  · exact step_of_select_none ha hp (by simp only [State.select]; rw [if_neg (by simpa using hf)]; exact Prod.ext rfl hi)
  · rcases ha with ha | ha
    · exact step_of_select_none ha hp (by simp only [State.select]; rw [if_pos hf])
    · exact step_of_select_none ha hp (by simp only [State.select]; rw [if_pos hf])
  · exact step_of_select_some ha hp (by simp only [State.select]; rw [if_pos hi])
  · exact step_of_select_none ha hp (by simp only [State.select]; rw [if_neg (by simp [hi])])
  · exact step_of_select_none ha hp rfl
  · exact step_of_select_none ha hp rfl
  · exact step_of_select_none ha (show 0 < Config.cores by decide) rfl
  · exact step_of_select_none ha (show 0 < Config.cores by decide) rfl

/-! ### The state after reset (R17, R361, R363, R366) -/

theorem getD_toList_replicate {α : Type} (n : Nat) (d : α) (k : Nat) : (Vector.replicate n d).toList.getD k d = d := by
  rw [Vector.toList_replicate, List.getD_eq_getElem?_getD, List.getElem?_replicate]
  split <;> rfl

theorem State.reset_tstByte (base e off : Nat) :
    State.reset.tstByte base e off = bits (pfDefault (base + 1024 * e + off / 8 * 8)).toNat (8 * (off % 8)) 8 := rfl

/-- Active table and shadow read alike. -/
theorem pfDefault_shadow {k : Nat} (h : k < 1024) : pfDefault (0x20000 + k) = pfDefault (0x28000 + k) := by
  unfold pfDefault
  rw [if_neg (by omega), if_pos (by omega), if_neg (by omega), if_neg (by omega), if_pos (by simp; omega),
    Nat.add_sub_cancel_left, Nat.add_sub_cancel_left]

/-- The double of the active entry at offset k. -/
theorem pfDefault_active {k : Nat} (h : k < 1024) : pfDefault (0x28000 + k) = tstResetDouble k := by
  rw [← pfDefault_shadow h]
  unfold pfDefault
  rw [if_neg (by omega), if_pos (by omega), Nat.add_sub_cancel_left]

theorem State.reset_activeByte {off : Nat} (h : off < 1024) :
    State.reset.tstByte 0x28000 0 off = bits (tstResetDouble (off / 8 * 8)).toNat (8 * (off % 8)) 8 := by
  rw [State.reset_tstByte, Nat.mul_zero, Nat.add_zero, pfDefault_active (by omega)]

theorem State.reset_holder (off : Nat) : State.reset.holder off = ownerOf (State.reset.tstByte 0x28000 0 off) := by
  simp only [State.holder]
  split <;> simp_all [State.reset, Tst.reset]

/-- The grant bytes of the cores, the way groups and so on whose double is 0 name partition 0. -/
theorem State.reset_holder_zero {off : Nat} (h : off < 1024) (hd : tstResetDouble (off / 8 * 8) = 0) :
    State.reset.holder off = some 0 := by
  rw [State.reset_holder, State.reset_activeByte h, hd]
  simp [bits, ownerOf, bit]

theorem tstResetDouble_zero {k : Nat} (h : 16 ≤ k) (h' : k < 128) : tstResetDouble k = 0 := by
  unfold tstResetDouble
  rw [if_neg (by omega), if_neg (by omega), if_neg (by simp; omega), if_neg (by simp; omega), if_neg (by omega)]

/-- Every byte of the phases and channel groups but the first of either direction is shared. -/
theorem tstResetDouble_shared {k r : Nat} (h : 128 ≤ k) (h' : k < 520) (hk : k % 8 = 0) (hr : r < 8) (h0 : (k = 128 ∨ k = 192) → r ≠ 0) :
    bits (tstResetDouble k).toNat (8 * r) 8 = 0x20 := by
  unfold tstResetDouble
  rw [if_neg (by omega), if_neg (by omega)]
  split
  case isTrue hd =>
    have hr1 : 1 ≤ r := Nat.one_le_iff_ne_zero.mpr (h0 (by simpa using hd))
    interval_cases r <;> rfl
  case isFalse hd =>
    rw [if_pos (by simp at hd ⊢; omega)]
    interval_cases r <;> rfl

/-- Settles O60: plain fields by evaluation, the two tables by the doubles of R366. -/
theorem resetState : Obligations.ResetState := by
  unfold Obligations.ResetState
  refine ⟨rfl, rfl, rfl, rfl, rfl, rfl, rfl, rfl, rfl, fun r => ?_, rfl, rfl, rfl, rfl, rfl, rfl, rfl, rfl, rfl, rfl, rfl,
    fun i j hi hj => ?_, fun e => ?_, rfl, rfl, rfl, rfl, rfl, fun p hp => ?_, rfl, rfl, rfl, rfl, rfl, rfl, rfl, rfl, fun o ho => ?_,
    fun k hk => ?_, rfl, rfl, fun k h h' h128 h192 => ?_, rfl, fun k h h' => ?_⟩
  · exact ite_eq_left_iff.mpr fun _ => getD_toList_replicate 32 0 r.val
  · exact congrArg BitVec.toNat (getD_toList_replicate 64 0 (tokIx i j))
  · cases e <;> exact ⟨rfl, rfl⟩
  · have hp : p < 72 := hp
    exact State.reset_holder_zero (by omega) (tstResetDouble_zero (by omega) (by omega))
  · rw [State.reset_tstByte, State.reset_tstByte, Nat.mul_zero, Nat.add_zero, Nat.add_zero, pfDefault_shadow (by omega)]
  · exact State.reset_holder_zero (by omega) (tstResetDouble_zero (by omega) (by omega))
  · rw [State.reset_holder, State.reset_activeByte (by omega), tstResetDouble_shared (by omega) (by omega) (by omega) (by omega) (by omega)]
    rfl
  · rw [State.reset_activeByte (by omega)]
    obtain h8 | h8 : k / 8 = 65 ∨ k / 8 = 66 := by omega
    · have hk : 1 ≤ k % 8 := by omega
      have hlt : k % 8 < 8 := Nat.mod_lt _ (by decide)
      rw [h8]
      generalize k % 8 = r at hk hlt ⊢
      interval_cases r <;> rfl
    · rw [h8]
      simp [tstResetDouble, bits]

end Sys2Proof.Machine
end

section
/-!
The token counts and CTL's own waits (R12 to R14, R35, R137, R138, R158): a push or a pop of a mask, count by count. Settles O18.
-/

namespace Sys2Proof.Machine

/-! ### Tables changed at several places -/

theorem getD_setIfInBounds {α : Type} {n : Nat} (t : Vector α n) (i k : Nat) (x d : α) :
    (t.setIfInBounds i x).toList.getD k d = if i = k ∧ k < n then x else t.toList.getD k d := by
  by_cases hk : k < n <;> by_cases hi : i = k <;> simp_all

/-- A table changed in turn at different places: each place changes once. -/
theorem getD_foldl_set {α ι : Type} {n : Nat} {ix : ι → Nat} (g : α → α) (d : α) {l : List ι} (hl : l.Nodup)
    (hix : ∀ i ∈ l, ∀ j ∈ l, ix i = ix j → i = j) (t : Vector α n) {k : Nat} (hk : k < n) :
    (l.foldl (fun t j => t.setIfInBounds (ix j) (g (t.toList.getD (ix j) d))) t).toList.getD k d =
      if k ∈ l.map ix then g (t.toList.getD k d) else t.toList.getD k d := by
  induction l generalizing t with
  | nil => simp
  | cons j l ih =>
    obtain ⟨hj, hl⟩ := List.nodup_cons.mp hl
    rw [List.foldl_cons, ih hl fun a ha b hb => hix a (List.mem_cons_of_mem _ ha) b (List.mem_cons_of_mem _ hb), getD_setIfInBounds]
    by_cases hjk : ix j = k
    · have hout : k ∉ l.map ix := fun h => by
        obtain ⟨a, ha, hak⟩ := List.mem_map.mp h
        exact hj (hix a (List.mem_cons_of_mem _ ha) j List.mem_cons_self (hak.trans hjk.symm) ▸ ha)
      rw [if_neg hout, if_pos ⟨hjk, hk⟩, if_pos (by simp [hjk]), hjk]
    · simp [hjk, Ne.symm hjk]

/-- The bits of a sum of different powers of two. -/
theorem testBit_foldl_two_pow {l : List Nat} (hl : l.Nodup) {x : Nat} (hx : ∀ i ∈ l, x.testBit i = false) (i : Nat) :
    (l.foldl (fun x j => x + 2 ^ j) x).testBit i = (x.testBit i || decide (i ∈ l)) := by
  induction l generalizing x with
  | nil => simp
  | cons j l ih =>
    obtain ⟨hj, hl⟩ := List.nodup_cons.mp hl
    have hxj := hx j List.mem_cons_self
    rw [List.foldl_cons, ih hl, testBit_add_two_pow hxj]
    · simp [Bool.or_assoc, eq_comm]
    · intro a ha
      rw [testBit_add_two_pow hxj, hx a (List.mem_cons_of_mem _ ha)]
      simpa using fun h : j = a => hj (h ▸ ha)

/-! ### The counts of a mask -/

theorem mem_maskBits {m : Byte} {j : Nat} : j ∈ maskBits m ↔ j < 8 ∧ m.toNat.testBit j = true := by
  simp [maskBits, bit_eq_testBit]

theorem maskBits_nodup (m : Byte) : (maskBits m).Nodup := List.nodup_range.filter _

theorem tokIx_lt {i j : Nat} (hi : i < 8) (hj : j < 8) : tokIx i j < 64 := by unfold tokIx; omega

theorem tokIx_inj {i j a b : Nat} (hj : j < 8) (hb : b < 8) : tokIx i j = tokIx a b ↔ i = a ∧ j = b := by unfold tokIx; omega

theorem Core.tokCount_lt (c : Core) (i j : Nat) : c.tokCount i j < 16 := (c.tok.toList.getD (tokIx i j) 0).isLt

/-- Every queue of a mask holds a token (R12). -/
theorem Core.tokensReady_iff (c : Core) (self : Nat) (m : Byte) :
    c.tokensReady self m = true ↔ ∀ j, j < 8 → m.toNat.testBit j = true → 1 ≤ c.tokCount j self := by
  simp only [Core.tokensReady, List.all_eq_true, mem_maskBits, decide_eq_true_eq, and_imp]

theorem Core.popTokens_tokCount (c : Core) {self a b : Nat} (m : Byte) (hs : self < 8) (ha : a < 8) (hb : b < 8)
    (hr : c.tokensReady self m = true) : (c.popTokens self m).tokCount a b =
      if b = self ∧ m.toNat.testBit a = true then c.tokCount a b - 1 else c.tokCount a b := by
  have hmem : tokIx a b ∈ (maskBits m).map (tokIx · self) ↔ b = self ∧ m.toNat.testBit a = true := by
    simp only [List.mem_map, mem_maskBits, tokIx_inj hs hb]
    constructor
    · rintro ⟨j, ⟨-, hj⟩, rfl, rfl⟩; exact ⟨rfl, hj⟩
    · rintro ⟨rfl, hm⟩; exact ⟨a, ⟨ha, hm⟩, rfl, rfl⟩
  simp only [Core.tokCount, Core.popTokens]
  rw [getD_foldl_set (ix := (tokIx · self)) (fun x => x - 1) 0 (maskBits_nodup m)
    (fun i _ j _ h => ((tokIx_inj hs hs).mp h).1) c.tok (tokIx_lt ha hb)]
  simp only [hmem]
  split
  case isTrue h =>
    obtain ⟨rfl, hm⟩ := h
    have h1 : 1 ≤ c.tokCount a b := (c.tokensReady_iff b m).mp hr a ha hm
    exact BitVec.toNat_sub_of_le (x := c.tok.toList.getD (tokIx a b) 0) (y := 1#4) h1
  case isFalse => rfl

theorem Core.pushTokens_tokCount (c : Core) {self a b : Nat} (m : Byte) (hs : self < 8) (ha : a < 8) (hb : b < 8)
    (hr : ∀ j, j < 8 → m.toNat.testBit j = true → c.tokCount self j < 15) : (c.pushTokens self m).tokCount a b =
      if a = self ∧ m.toNat.testBit b = true then c.tokCount a b + 1 else c.tokCount a b := by
  have hmem : tokIx a b ∈ (maskBits m).map (tokIx self) ↔ a = self ∧ m.toNat.testBit b = true := by
    simp only [List.mem_map, mem_maskBits]
    constructor
    · rintro ⟨j, ⟨hj, hm⟩, h⟩
      obtain ⟨rfl, rfl⟩ := (tokIx_inj hj hb).mp h
      exact ⟨rfl, hm⟩
    · rintro ⟨rfl, hm⟩; exact ⟨b, ⟨hb, hm⟩, rfl⟩
  simp only [Core.tokCount, Core.pushTokens]
  rw [getD_foldl_set (ix := tokIx self) (fun x => x + 1) 0 (maskBits_nodup m)
    (fun i hi j hj h => ((tokIx_inj (mem_maskBits.mp hi).1 (mem_maskBits.mp hj).1).mp h).2) c.tok (tokIx_lt ha hb)]
  simp only [hmem]
  split
  case isTrue h =>
    obtain ⟨rfl, hm⟩ := h
    have h1 : c.tokCount a b < 15 := hr b hb hm
    exact (BitVec.toNat_add _ _).trans (Nat.mod_eq_of_lt (show c.tokCount a b + 1 < 2 ^ 4 by omega))
  case isFalse => rfl

/-- The queues that a push would overflow (R14), bit by bit. -/
theorem Core.overflowMask_testBit (c : Core) (self : Nat) (m : Byte) (j : Nat) : (c.overflowMask self m).testBit j =
    (decide (j < 8) && m.toNat.testBit j && decide (c.tokCount self j = 15)) := by
  rw [Core.overflowMask, testBit_foldl_two_pow ((maskBits_nodup m).filter _) (by simp), Nat.zero_testBit, Bool.false_or,
    Bool.eq_iff_iff]
  simp [List.mem_filter, mem_maskBits, and_assoc]

theorem Core.overflowMask_lt (c : Core) (self : Nat) (m : Byte) : c.overflowMask self m < 256 :=
  Nat.lt_pow_two_of_testBit (n := 8) _ fun i hi => by rw [Core.overflowMask_testBit]; simp [Nat.not_lt.mpr hi]

theorem Core.overflowMask_eq_zero_iff (c : Core) (self : Nat) (m : Byte) :
    c.overflowMask self m = 0 ↔ ∀ j, j < 8 → m.toNat.testBit j = true → c.tokCount self j < 15 := by
  have hlt (j : Nat) : c.tokCount self j ≠ 15 ↔ c.tokCount self j < 15 := by have := c.tokCount_lt self j; omega
  constructor
  · intro h j hj hm
    have hb := c.overflowMask_testBit self m j
    rw [h, Nat.zero_testBit, hm, decide_eq_true hj] at hb
    exact (hlt j).mp (by simpa using hb.symm)
  · intro h
    refine Nat.eq_of_testBit_eq fun j => ?_
    rw [Core.overflowMask_testBit, Nat.zero_testBit]
    by_cases hj : j < 8
    · by_cases hm : m.toNat.testBit j = true
      · simp [(hlt j).mpr (h j hj hm)]
      · simp [hm]
    · simp [hj]

/-! ### Settled -/

theorem State.whenLive_of_live {s : State} (t : State) (h : s.frozen = false) : s.whenLive t = t := by simp [State.whenLive, h]

theorem State.whenLive_of_frozen {s : State} (t : State) (h : s.frozen = true) : s.whenLive t = s := by simp [State.whenLive, h]

/-- A core whose CTL waits in nothing leaves no access behind. -/
theorem State.leaveRemote_of_no_wait {s : State} {p : Nat} (h : (s.coreAt p).wait = none) : s.leaveRemote p = s := by
  unfold State.leaveRemote
  rw [h]
  split <;> simp_all

theorem State.haltLogical_of_no_wait {s : State} (h : s.core.wait = none) : s.haltLogical =
    s.upd (fun c => { c with qstop := true, ev := true, run := .halted, dbg := { c.dbg with quiescent := false } }) := by
  unfold State.haltLogical
  rw [State.leaveRemote_of_no_wait (by rwa [State.coreAt_cur])]
  simp only [State.upd, Core.leaveWait, h]

/-- Settles O18: WFE and DBRK by their cases, TWAIT and TSIG count by count. -/
theorem waitAndTokens : Obligations.WaitAndTokens := by
  unfold Obligations.WaitAndTokens
  refine ⟨fun code s => ?_, fun mask s hpl => ?_⟩
  · intro cleared
    refine ⟨fun h => ?_, fun h => ?_, fun hw hf h => ?_, fun hf => ?_, fun hw hf h => ?_, fun h => ?_, fun h => ?_⟩
    · show execWfe s = _
      rw [execWfe, if_pos h]; rfl
    · show execWfe s = _
      rw [execWfe, if_neg (by simp [h])]; rfl
    · show execWfeComplete s = _
      rw [execWfeComplete, if_neg (by simp [hw, hf]), if_pos h]; rfl
    · show execWfeComplete s = _
      rw [execWfeComplete, if_pos (by simp [hf])]
    · show execWfeComplete s = _ ∨ execWfeComplete s = _
      rw [execWfeComplete, if_neg (by simp [hw, hf]), if_neg (by simp [h])]
      by_cases hb : bit s.draw.1.toNat 0 = true
      · right; rw [if_pos hb]; rfl
      · left; rw [if_neg hb]; rfl
    · show execDbrk code s = _
      rw [execDbrk, if_neg (by simp [h])]
    · show execDbrk code s = _
      rw [execDbrk, if_pos h, State.haltLogical_of_no_wait rfl]; rfl
  · intro named count popped
    have pops (h : ∀ j, j < 8 → named j = true → 1 ≤ count s j 0) {i : Instr}
        (hi : exec i s = .next ((s.upd (fun c => c.popTokens 0 mask)).retire 1)) : popped i :=
      ⟨_, hi, fun a b ha hb => s.core.popTokens_tokCount mask (by decide) ha hb ((s.core.tokensReady_iff 0 mask).mpr h), rfl⟩
    refine ⟨fun h => ⟨pops h ?_, fun hw hf => pops h ?_⟩, fun ⟨j, hj, hm, h0⟩ => ?_, fun h => ?_, fun ⟨j, hj, hm, h15⟩ => ?_⟩
    · show execTwait mask s = _
      rw [execTwait, if_neg (by simp [hpl]), if_pos ((s.core.tokensReady_iff 0 mask).mpr h)]
    · show execTwaitComplete s = _
      rw [execTwaitComplete, State.whenLive_of_live _ hf, hw]
      simp only [(s.core.tokensReady_iff 0 mask).mpr h, if_true]
    · show execTwait mask s = _
      have hr : ¬ s.core.tokensReady 0 mask = true := fun hr => by
        have h1 : 1 ≤ s.core.tokCount j 0 := (s.core.tokensReady_iff 0 mask).mp hr j hj hm
        exact absurd h0 (by show s.core.tokCount j 0 ≠ 0; omega)
      rw [execTwait, if_neg (by simp [hpl]), if_neg hr]; rfl
    · refine ⟨(s.upd (fun c => c.pushTokens 0 mask)).retire 1, ?_,
        fun a b ha hb => s.core.pushTokens_tokCount mask (by decide) ha hb h, ?_, rfl⟩
      · show execTsig mask s = _
        rw [execTsig, if_neg (by simp [hpl])]
        simp only [(s.core.overflowMask_eq_zero_iff 0 mask).mpr h, ne_eq, not_true_eq_false, if_false]
      · show (s.core.ev || bit mask.toNat 0) = true ↔ _
        rw [Bool.or_eq_true, bit_eq_testBit]
    · refine ⟨s.core.overflowMask 0 mask, s.core.overflowMask_lt 0 mask, fun k hk => ?_, ?_⟩
      · rw [Core.overflowMask_testBit, decide_eq_true hk, Bool.true_and]
      · have ho : s.core.overflowMask 0 mask ≠ 0 := fun ho => by
          have hlt : s.core.tokCount 0 j < 15 := (s.core.overflowMask_eq_zero_iff 0 mask).mp ho j hj hm
          exact absurd h15 (by show s.core.tokCount 0 j ≠ 15; omega)
        show execTsig mask s = _
        rw [execTsig, if_neg (by simp [hpl])]
        simp only [ne_eq, ho, not_false_eq_true, if_true]
        rfl

end Sys2Proof.Machine
end

section
/-!
The control and status registers (R30 to R37, R135, R136, R374): the checks of an access, what a number reads, what a write changes.
Settles O17.
-/

namespace Sys2Proof.Machine

/-! ### The checks of R30 -/

theorem csrCheck_unassigned {n : Nat} (h : csrLevel n = none) (pl : Nat) (w : Bool) : csrCheck n pl w = .illegal := by simp [csrCheck, h]

theorem csrCheck_above {n pl m : Nat} (h : csrLevel n = some m) (hp : pl < m) (w : Bool) : csrCheck n pl w = .privilege := by
  simp [csrCheck, h, hp]

theorem csrCheck_ok {n pl m : Nat} (h : csrLevel n = some m) (hp : m ≤ pl) {w : Bool} (hw : w = true → csrWritable n pl = true) :
    csrCheck n pl w = .ok := by
  cases w <;> simp_all [csrCheck, Nat.not_lt.mpr hp]

theorem csrCheck_readOnly {n pl m : Nat} (h : csrLevel n = some m) (hp : m ≤ pl) (hw : csrWritable n pl = false) :
    csrCheck n pl true = .illegal := by
  simp [csrCheck, h, Nat.not_lt.mpr hp, hw]

section Access
variable {s : State} {n : Nat} {w : Bool}

theorem State.withCsr_illegal (h : csrCheck n s.core.pl w = .illegal) (f : State → State) : s.withCsr n w f = s.illegal := by
  simp [State.withCsr, h]

theorem State.withCsr_privilege (h : csrCheck n s.core.pl w = .privilege) (f : State → State) : s.withCsr n w f = s.privilege := by
  simp [State.withCsr, h]

theorem State.withCsr_ok (h : csrCheck n s.core.pl w = .ok) (f : State → State) : s.withCsr n w f = (f s).retire 1 := by
  simp [State.withCsr, h]

end Access

/-! ### The map (R31 to R37) -/

theorem csrLevel_eq_zero_iff (n : Nat) : csrLevel n = some 0 ↔ n ≤ 2 ∨ (0x20 ≤ n ∧ n ≤ 0x22) ∨ (0x24 ≤ n ∧ n ≤ 0x28) ∨
    (0x30 ≤ n ∧ n ≤ 0x4D) ∨ (0x50 ≤ n ∧ n ≤ 0x53) := by
  simp only [csrLevel, Bool.and_eq_true, decide_eq_true_eq]
  split_ifs <;> simp <;> omega

theorem csrLevel_eq_one_iff (n : Nat) : csrLevel n = some 1 ↔ 0x10 ≤ n ∧ n ≤ 0x14 := by
  simp only [csrLevel, Bool.and_eq_true, decide_eq_true_eq]
  split_ifs <;> simp <;> omega

theorem csrLevel_le_one {n m : Nat} (h : csrLevel n = some m) : m ≤ 1 := by
  simp only [csrLevel, Bool.and_eq_true, decide_eq_true_eq] at h
  split_ifs at h <;> simp at h <;> omega

theorem csrWritable_iff (n pl : Nat) : csrWritable n pl = true ↔ n = 0 ∨ (0x10 ≤ n ∧ n ≤ 0x14) ∨ n = 0x20 ∨ n = 0x38 ∨
    1 ≤ pl ∧ ((0x24 ≤ n ∧ n ≤ 0x27) ∨ (0x50 ≤ n ∧ n ≤ 0x53)) := by
  simp [csrWritable, or_assoc]

/-! ### Words made of fields -/

/-- The bits of the word of flags that the scoreboard shows. -/
theorem testBit_foldl_flags {α : Type} (l : List (Option α)) (n x : Nat) (hx : x < 2 ^ n) (i : Nat) :
    ((l.zipIdx n).foldl (fun x e => if e.1.isSome then x + 2 ^ e.2 else x) x).testBit i =
      (x.testBit i || (decide (n ≤ i) && (l.getD (i - n) none).isSome)) := by
  induction l generalizing n x with
  | nil => simp
  | cons o l ih =>
    have hstep (j : Nat) : (if o.isSome then x + 2 ^ n else x).testBit j = (x.testBit j || (o.isSome && decide (n = j))) := by
      split
      case isTrue h => rw [testBit_add_two_pow (Nat.testBit_lt_two_pow hx), h, Bool.true_and]
      case isFalse h => simp [h]
    have hlt : (if o.isSome then x + 2 ^ n else x) < 2 ^ (n + 1) := by split <;> omega
    rw [List.zipIdx_cons, List.foldl_cons, ih (n + 1) _ hlt, hstep]
    rcases lt_trichotomy i n with h | rfl | h
    · simp [Nat.not_le.mpr h, h.ne', show ¬ n + 1 ≤ i by omega]
    · simp
    · obtain ⟨k, rfl⟩ := Nat.exists_eq_add_of_lt h
      have hne : n ≠ n + k + 1 := by omega
      simp [hne, show n ≤ n + k + 1 by omega, show n + k + 1 - (n + 1) = k by omega, show n + k + 1 - n = k + 1 by omega]

/-- A sum of nibbles stays below the next nibble. -/
theorem foldl_nibbles_lt (f : Nat → Nat) (hf : ∀ n, f n < 16) (m : Nat) :
    (List.range m).foldl (fun x n => x + f n * 2 ^ (4 * n)) 0 < 2 ^ (4 * m) := by
  induction m with
  | zero => simp
  | succ m ih =>
    have hm := Nat.mul_le_mul_right (2 ^ (4 * m)) (Nat.le_of_lt_succ (hf m))
    rw [List.range_succ, List.foldl_append, List.foldl_cons, List.foldl_nil, Nat.mul_succ, Nat.pow_add]
    omega

/-- A nibble of a sum of nibbles. -/
theorem bits_foldl_nibbles (f : Nat → Nat) (hf : ∀ n, f n < 16) {m k : Nat} (hk : k < m) :
    bits ((List.range m).foldl (fun x n => x + f n * 2 ^ (4 * n)) 0) (4 * k) 4 = f k := by
  induction m with
  | zero => omega
  | succ m ih =>
    have hlt := foldl_nibbles_lt f hf m
    rw [List.range_succ, List.foldl_append, List.foldl_cons, List.foldl_nil]
    generalize (List.range m).foldl _ 0 = x at ih hlt ⊢
    unfold bits at ih ⊢
    obtain rfl | hk := Nat.eq_or_lt_of_le (Nat.le_of_lt_succ hk)
    · rw [Nat.add_mul_div_right _ _ (Nat.two_pow_pos _), Nat.div_eq_of_lt hlt, Nat.zero_add]
      exact Nat.mod_eq_of_lt (hf k)
    · have hp : f m * 2 ^ (4 * m) = 2 ^ (4 * k) * (16 * (f m * 2 ^ (4 * (m - k - 1)))) := by
        rw [show 4 * m = 4 * k + 4 + 4 * (m - k - 1) by omega, Nat.pow_add, Nat.pow_add]; ring
      rw [hp, Nat.add_mul_div_left _ _ (Nat.two_pow_pos _), show 2 ^ 4 = 16 from rfl, Nat.add_mul_mod_self_left]
      exact ih hk

/-- The double of 16 counts. -/
theorem Core.tokWord_bits (c : Core) (i j : Nat) :
    bits (BitVec.ofNat 64 (c.tokWord ((8 * i + j) / 16))).toNat (4 * ((8 * i + j) % 16)) 4 = c.tokCount i j := by
  have hf (n : Nat) : (c.tok.toList.getD (16 * ((8 * i + j) / 16) + n) 0).toNat < 16 := BitVec.isLt _
  have hlt : c.tokWord ((8 * i + j) / 16) < 2 ^ 64 := foldl_nibbles_lt _ hf 16
  rw [BitVec.toNat_ofNat, Nat.mod_eq_of_lt hlt, Core.tokWord, bits_foldl_nibbles _ hf (Nat.mod_lt _ (by decide)), Nat.div_add_mod]
  rfl

/-- Bits [lo + n − 1 : lo] of a double, in their place, are the double under a mask. -/
theorem ofNat_bits_mul (v : W64) (lo n : Nat) :
    BitVec.ofNat 64 (bits v.toNat lo n * 2 ^ lo) = v &&& BitVec.ofNat 64 ((2 ^ n - 1) * 2 ^ lo) := by
  refine BitVec.eq_of_getLsbD_eq fun i hi => ?_
  simp only [BitVec.getLsbD_and, BitVec.getLsbD_ofNat, hi, decide_true, Bool.true_and, Nat.testBit_mul_two_pow, bits,
    Nat.testBit_mod_two_pow, Nat.testBit_div_two_pow, Nat.testBit_two_pow_sub_one]
  by_cases hl : lo ≤ i
  · simp [hl, BitVec.getLsbD, Bool.and_comm]
  · simp [hl]

theorem setWidth_ofNat_eq_and (v : W64) (n : Nat) :
    (BitVec.ofNat n v.toNat).setWidth 64 = v &&& BitVec.ofNat 64 (2 ^ n - 1) := by
  have hb := ofNat_bits_mul v 0 n
  rw [pow_zero, Nat.mul_one, Nat.mul_one] at hb
  rw [← hb]
  apply BitVec.eq_of_toNat_eq
  simp [bits]

/-- A double under one mask and under another that is disjoint from it add up to it under both. -/
theorem and_add_and_of_disjoint (v : W64) {m k : W64} (h : m &&& k = 0) : (v &&& m) + (v &&& k) = v &&& (m ||| k) := by
  have hd : (v &&& m) &&& (v &&& k) = 0#64 := by
    rw [BitVec.and_comm v k, ← BitVec.and_assoc, BitVec.and_assoc v m k, h]; simp
  rw [BitVec.add_eq_or_of_and_eq_zero _ _ hd, BitVec.and_or_distrib_left]

theorem b2n_bit_eq_bits (x i : Nat) : b2n (bit x i) = bits x i 1 := by rw [b2n_bit, bits, pow_one]

/-- A written body of a level reads back in its fields (R35). -/
theorem Loop.bodyWord_setBody (l : Loop) (v : W64) : BitVec.ofNat 64 (l.setBody v.toNat).bodyWord = v &&& 0xFE00FFFFFFFFFFFC := by
  have h6 : (BitVec.ofNat 6 (bits v.toNat 57 6)).toNat = bits v.toNat 57 6 := by
    rw [BitVec.toNat_ofNat]; exact Nat.mod_mod _ _
  have h48 : (BitVec.ofNat 48 (bits v.toNat 2 46 * 4)).toNat / 4 * 4 = bits v.toNat 2 46 * 2 ^ 2 := by
    rw [BitVec.toNat_ofNat]; unfold bits; omega
  have hmask : (0xFE00FFFFFFFFFFFC : W64) = (BitVec.ofNat 64 ((2 ^ 1 - 1) * 2 ^ 63) ||| BitVec.ofNat 64 ((2 ^ 6 - 1) * 2 ^ 57)) |||
    BitVec.ofNat 64 ((2 ^ 46 - 1) * 2 ^ 2) := by decide
  rw [Loop.bodyWord, Loop.setBody]
  simp only [h6, h48, b2n_bit_eq_bits]
  rw [BitVec.ofNat_add, BitVec.ofNat_add, ofNat_bits_mul, ofNat_bits_mul, ofNat_bits_mul, hmask,
    and_add_and_of_disjoint v (by decide), and_add_and_of_disjoint v (by decide)]

/-- MODE, in its three fields (R32). -/
theorem Core.modeWord_eq (c : Core) : c.modeWord = c.pl + 4 * b2n c.det + 8 * b2n c.fce := by unfold Core.modeWord; omega

/-! ### What a write changes (R135) -/

/-- A write of a double of counts, count by count. -/
theorem Core.setTokWord_getD (c : Core) (w x k : Nat) (hk : k < 64) : (c.setTokWord w x).tok.toList.getD k 0 =
    if 16 * w ≤ k ∧ k < 16 * w + 16 ∧ k / 8 ≠ k % 8 then BitVec.ofNat 4 (bits x (4 * (k - 16 * w)) 4) else c.tok.toList.getD k 0 := by
  have h (m : Nat) : ((List.range m).foldl (fun t n => if (16 * w + n) / 8 = (16 * w + n) % 8 then t
      else t.setIfInBounds (16 * w + n) (BitVec.ofNat 4 (bits x (4 * n) 4))) c.tok).toList.getD k 0 =
      if 16 * w ≤ k ∧ k < 16 * w + m ∧ k / 8 ≠ k % 8 then BitVec.ofNat 4 (bits x (4 * (k - 16 * w)) 4) else c.tok.toList.getD k 0 := by
    induction m with
    | zero => rw [if_neg (by omega)]; rfl
    | succ m ih =>
      rw [List.range_succ, List.foldl_append, List.foldl_cons, List.foldl_nil]
      by_cases hd : (16 * w + m) / 8 = (16 * w + m) % 8
      · rw [if_pos hd, ih]
        exact if_congr (by constructor <;> rintro ⟨h1, h2, h3⟩ <;> refine ⟨h1, ?_, h3⟩ <;> omega) rfl rfl
      · rw [if_neg hd, getD_setIfInBounds, ih]
        by_cases he : 16 * w + m = k
        · subst he
          rw [if_pos ⟨rfl, hk⟩, if_pos ⟨by omega, by omega, hd⟩, Nat.add_sub_cancel_left]
        · rw [if_neg (by tauto)]
          exact if_congr (by constructor <;> rintro ⟨h1, h2, h3⟩ <;> refine ⟨h1, ?_, h3⟩ <;> omega) rfl rfl
  exact h 16

/-- What a write of a CSR may change. -/
theorem State.setCsr_frame (s : State) (pl n : Nat) (v : W64) : let t := s.setCsr pl n v
    t = { s with core := { s.core with fce := t.core.fce, det := t.core.det, banks := t.core.banks, vrb := t.core.vrb, lc0 := t.core.lc0,
                                       lc1 := t.core.lc1, llcwSel := t.core.llcwSel, tok := t.core.tok } } := by
  unfold State.setCsr
  split
  case h_13 => split <;> rfl
  all_goals rfl

/-- A write at a level changes no fault bank but that of the level. -/
theorem State.bank_setCsr_ne (s : State) {pl k : Nat} (n : Nat) (v : W64) (hp : 1 ≤ pl) (hk : 1 ≤ k) (h : k ≠ pl) :
    (s.setCsr pl n v).bank k = s.bank k := by
  unfold State.setCsr
  split
  case h_2 | h_3 | h_4 | h_5 | h_6 => exact s.bank_setBank_ne _ hp hk h
  case h_13 => split <;> rfl
  all_goals rfl

/-- The flags of MODE (R32) under a write of FCE alone. -/
theorem Core.modeWord_fce (c : Core) (v : W64) (h : c.pl = 0) : BitVec.ofNat 64 { c with fce := bit v.toNat 3 }.modeWord =
    (v &&& 8) ||| (BitVec.ofNat 64 c.modeWord &&& ~~~8) := by
  have h8 : v &&& 8 = BitVec.ofNat 64 (b2n (bit v.toNat 3) * 8) := by rw [b2n_bit_eq_bits]; exact (ofNat_bits_mul v 3 1).symm
  have hflags : ∀ b f d : Bool, BitVec.ofNat 64 (0 + 4 * b2n d + 8 * b2n b) =
      BitVec.ofNat 64 (b2n b * 8) ||| (BitVec.ofNat 64 (0 + 4 * b2n d + 8 * b2n f) &&& ~~~8) := by decide
  simpa only [h8, Core.modeWord_eq, h] using hflags (bit v.toNat 3) c.fce c.det

/-- The flags of MODE under a write of FCE and DET. -/
theorem Core.modeWord_fce_det (c : Core) (v : W64) (h1 : 1 ≤ c.pl) (h3 : c.pl ≤ 3) :
    BitVec.ofNat 64 { c with fce := bit v.toNat 3, det := bit v.toNat 2 }.modeWord =
      (v &&& 12) ||| (BitVec.ofNat 64 c.modeWord &&& ~~~12) := by
  have h12 : v &&& 12 = BitVec.ofNat 64 ((b2n (bit v.toNat 2) + 2 * b2n (bit v.toNat 3)) * 4) := by
    have hb : b2n (bit v.toNat 2) + 2 * b2n (bit v.toNat 3) = bits v.toNat 2 2 := by
      rw [b2n_bit_eq_bits, b2n_bit_eq_bits]; unfold bits; omega
    rw [hb]; exact (ofNat_bits_mul v 2 2).symm
  have hflags : ∀ p : Fin 4, ∀ b a f d : Bool, BitVec.ofNat 64 (p.val + 4 * b2n a + 8 * b2n b) =
      BitVec.ofNat 64 ((b2n a + 2 * b2n b) * 4) ||| (BitVec.ofNat 64 (p.val + 4 * b2n d + 8 * b2n f) &&& ~~~12) := by decide
  simpa only [h12, Core.modeWord_eq] using hflags ⟨c.pl, by omega⟩ (bit v.toNat 3) (bit v.toNat 2) c.fce c.det

/-- Settles O17: the checks, the map number by number, and the fields that a write reaches. -/
theorem systemRegisters : Obligations.SystemRegisters := by
  unfold Obligations.SystemRegisters
  refine ⟨fun sd sa csr s => ?_, fun s n pl => ?_, fun s v hpl => ?_⟩
  · intro n pl old illegal denied sets
    have refuses {w : Bool} (h : csrCheck n pl w = .illegal) {f : State → State} {i : Instr}
        (hi : exec i s = .next (s.withCsr n w f)) : illegal i := by
      show exec i s = _
      rw [hi, State.withCsr_illegal h]; rfl
    have denies {w : Bool} (h : csrCheck n pl w = .privilege) {f : State → State} {i : Instr}
        (hi : exec i s = .next (s.withCsr n w f)) : denied i := by
      show exec i s = _
      rw [hi, State.withCsr_privilege h]; rfl
    have does {w : Bool} {u : State} (h : csrCheck n pl w = .ok) {f : State → State} (hf : f s = u.wr sd old) {i : Instr}
        (hi : exec i s = .next (s.withCsr n w f)) : sets i u :=
      ⟨u.wr sd old, u.put_wr sd old, by rw [hi, State.withCsr_ok h, hf]⟩
    refine ⟨fun hn => ?_, fun m hm hp => ?_, fun m hm hp => ⟨?_, fun hw => ?_, fun hw => ?_, fun h0 => ?_, fun h0 hw => ?_, fun h0 hw => ?_⟩⟩
    · have hc := csrCheck_unassigned hn pl
      exact ⟨refuses (hc _) rfl, refuses (hc _) rfl, refuses (hc _) rfl, refuses (hc _) rfl⟩
    · have hc := csrCheck_above hm hp
      exact ⟨denies (hc _) rfl, denies (hc _) rfl, denies (hc _) rfl, denies (hc _) rfl⟩
    · exact does (w := false) (csrCheck_ok hm hp (by simp)) rfl rfl
    · exact does (w := true) (csrCheck_ok hm hp fun _ => hw) rfl rfl
    · exact refuses (csrCheck_readOnly hm hp hw) rfl
    · have hc : csrCheck n pl (sa.val != 0) = .ok := csrCheck_ok hm hp (by simp [h0])
      exact ⟨does hc (by simp only [h0, if_true, old, n, pl]) rfl, does hc (by simp only [h0, if_true, old, n, pl]) rfl⟩
    · have hc : csrCheck n pl (sa.val != 0) = .ok := csrCheck_ok hm hp fun _ => hw
      exact ⟨does hc (by simp only [h0, if_false, old, n, pl]) rfl, does hc (by simp only [h0, if_false, old, n, pl]) rfl⟩
    · have hs : (sa.val != 0) = true := by simp [h0]
      have hc : csrCheck n pl (sa.val != 0) = .illegal := by rw [hs]; exact csrCheck_readOnly hm hp hw
      exact ⟨refuses hc rfl, refuses hc rfl⟩
  · intro c among reads body
    have width {w : Nat} (x : BitVec w) : x.setWidth 64 = BitVec.ofNat 64 x.toNat := (BitVec.ofNat_toNat ..).symm
    refine ⟨csrLevel_eq_zero_iff n, csrLevel_eq_one_iff n, fun m => csrLevel_le_one, csrWritable_iff n pl, ?_, rfl, rfl, rfl,
      width c.vrb, width c.sfc, width c.sflen, width c.lc0.count, rfl, width c.lc1.count, rfl, fun i hi => ?_, rfl,
      width c.llcwSel, rfl, fun hn => ?_, fun e _ => ?_, fun i j hi hj => ?_⟩
    · exact congrArg (BitVec.ofNat 64) c.modeWord_eq
    · show bit (BitVec.ofNat 64 _).toNat i = _
      rw [bit_toNat, BitVec.getLsbD_ofNat, testBit_foldl_flags _ 0 0 (by decide)]
      simp [show i < 64 by omega, c]
    · simp only [List.mem_cons, List.not_mem_nil, or_false] at hn
      rcases hn with rfl | rfl | rfl | rfl | rfl | rfl | rfl | rfl <;> rfl
    · cases e <;> exact ⟨width (s.eng _).issued, width (s.eng _).completed⟩
    · have hk : (8 * i + j) / 16 < 4 := by omega
      have hr : s.csr pl (0x50 + (8 * i + j) / 16) = BitVec.ofNat 64 (c.tokWord ((8 * i + j) / 16)) := by
        generalize (8 * i + j) / 16 = k at hk
        interval_cases k <;> rfl
      rw [hr, Core.tokWord_bits]
  · intro pl back mask
    have all (x : W64) : (v &&& BitVec.allOnes 64) ||| (x &&& ~~~BitVec.allOnes 64) = v := by
      rw [BitVec.and_allOnes, BitVec.not_allOnes]; simp
    refine ⟨fun h0 => ?_, fun h1 => ?_, fun h1 => ?_, setWidth_ofNat_eq_and v 5, setWidth_ofNat_eq_and v 8, setWidth_ofNat_eq_and v 32,
      setWidth_ofNat_eq_and v 32, s.core.lc0.bodyWord_setBody v, s.core.lc1.bodyWord_setBody v, fun i j hi hj => ?_,
      fun n => ⟨s.setCsr_frame pl n v, fun h1 k hk hk3 hne => s.bank_setCsr_ne n v h1 hk hne⟩⟩
    · have hd : (if pl ≥ 1 then bit v.toNat 2 else s.core.det) = s.core.det := if_neg (by omega)
      have hm := s.core.modeWord_fce v h0
      rwa [← hd] at hm
    · have hd : (if pl ≥ 1 then bit v.toNat 2 else s.core.det) = bit v.toNat 2 := if_pos h1
      have hm := s.core.modeWord_fce_det v h1 hpl
      rwa [← hd] at hm
    · have self (b : Bank) : (s.setBank pl b).bank pl = b := s.bank_setBank_self b h1 hpl
      refine ⟨?_, ?_, ?_, ?_, ?_⟩
      · exact (congrArg Bank.ecause (self _)).trans (all _).symm
      · exact (congrArg Bank.epc (self _)).trans (ofNat_bits_mul v 1 47)
      · exact (congrArg Bank.eval (self _)).trans (all _).symm
      · exact (congrArg Bank.epl (self _)).trans (by simpa [bits] using ofNat_bits_mul v 0 5)
      · exact (congrArg Bank.esave (self _)).trans (all _).symm
    · have hk : (8 * i + j) / 16 < 4 := by omega
      have hw : s.setCsr pl (0x50 + (8 * i + j) / 16) v = s.upd (fun c => c.setTokWord ((8 * i + j) / 16) v.toNat) := by
        generalize (8 * i + j) / 16 = k at hk
        interval_cases k <;> rfl
      have ht := s.core.setTokWord_getD ((8 * i + j) / 16) v.toNat (8 * i + j) (by omega)
      have hc : (8 * i + j) / 8 ≠ (8 * i + j) % 8 ↔ ¬ i = j := by omega
      intro k
      show ((s.setCsr pl (0x50 + (8 * i + j) / 16) v).core.tok.toList.getD (8 * i + j) 0).toNat = _
      rw [hw, State.upd_core, ht]
      by_cases hij : i = j
      · rw [if_neg (by tauto), if_pos hij]; rfl
      · rw [if_pos ⟨by omega, by omega, hc.mpr hij⟩, if_neg hij, BitVec.toNat_ofNat, show 8 * i + j - 16 * ((8 * i + j) / 16) =
          (8 * i + j) % 16 by omega]
        exact Nat.mod_mod _ _

end Sys2Proof.Machine
end

section
/-!
The engine queues (R9 to R16, R54 to R61, R234, R339, R340, R348): the state of an engine changed, an image appended, an entry
completed, the earliest held fault. Settles O22 and O23.
-/

namespace Sys2Proof.Machine

/-! ### The engines of a core -/

theorem Engines.set_get (g : Engines) (e : Eng) : g.set e (g.get e) = g := by cases e <;> rfl

section Engine
variable {s : State} {e f : Eng}

/-- A change of an engine's state changes nothing else. -/
theorem State.updEng_frame (s : State) (e : Eng) (g : EngState → EngState) :
    s.updEng e g = { s with core := { s.core with eng := (s.updEng e g).core.eng } } := rfl

theorem State.eng_congr {t : State} (h : t.core.eng = s.core.eng) (e : Eng) : t.eng e = s.eng e := by simp [State.eng, h]

/-- Pins change the frame slots alone. -/
theorem State.pinSlots_frame (s : State) (m : Nat) (f : Nat → Nat) :
    s.pinSlots m f = { s with core := { s.core with fr := (s.pinSlots m f).core.fr } } := by
  unfold State.pinSlots; split <;> rfl

@[simp] theorem State.pinSlots_eng (s : State) (m : Nat) (f : Nat → Nat) (e : Eng) : (s.pinSlots m f).eng e = s.eng e := by
  rw [State.pinSlots_frame]; rfl

/-! ### An image appended (R9, R11) -/

/-- The entry that the dispatch of an image makes. -/
def State.newEntry (s : State) (e : Eng) (m : Image) : Entry :=
  ⟨if e = .vx then renamed (s.bind m) s.core.vrb else s.bind m, (s.eng e).issued + 1, s.core.det, s.core.fce, .queued, 0, none⟩

theorem State.append_eng_self (s : State) (e : Eng) (m : Image) : (s.append e m).eng e =
    { s.eng e with issued := (s.eng e).issued + 1, q := (s.eng e).q ++ [s.newEntry e m] } := by
  simp only [State.append, State.pinSlots_eng, State.updEng_eng_self]; rfl

theorem State.append_eng_ne (m : Image) (h : f ≠ e) : (s.append e m).eng f = s.eng f := by
  simp only [State.append, State.pinSlots_eng, State.updEng_eng_ne _ _ h]

theorem State.append_frame (s : State) (e : Eng) (m : Image) : s.append e m =
    { s with core := { s.core with eng := (s.append e m).core.eng, fr := (s.append e m).core.fr } } := by
  simp only [State.append]; rw [State.pinSlots_frame]; rfl

/-! ### Templates (R16) -/

/-- The templates of an engine replaced. -/
def State.withTmpl (s : State) (e : Eng) (T : Vector Image 64) : State := s.updEng e (fun x => { x with tmpl := T })

theorem State.withTmpl_self (s : State) (e : Eng) : s.withTmpl e (s.eng e).tmpl = s := by
  have h : s.core.eng.set e (s.core.eng.get e) = s.core.eng := Engines.set_get ..
  simp only [State.withTmpl, State.updEng, State.upd, State.eng, h]

theorem State.setTemplate_eq (s : State) (e : Eng) (t : BitVec 6) (m : Image) :
    s.setTemplate e t m = s.withTmpl e ((s.eng e).tmpl.setIfInBounds t.toNat m) := rfl

/-- Every template but the one written is as before. -/
theorem State.template_setTemplate (s : State) (e : Eng) (t k : BitVec 6) (m : Image) :
    (s.setTemplate e t m).template e k = if k = t then m else s.template e k := by
  simp only [State.template, State.setTemplate, State.updEng_eng_self, getD_setIfInBounds, k.isLt, and_true, BitVec.toNat_inj, eq_comm]

end Engine

/-- Settles O22: every dispatching form issues in the state with its templates, and an issue appends or waits. -/
theorem dispatchAppends : Obligations.DispatchAppends := by
  unfold Obligations.DispatchAppends
  intro e sz tix fsel v img n s patched templated appended issues refuses
  have appends {T : Vector Image 64} {m : Image} {k : Nat} {i : Instr}
      (hi : exec i s = .next (((s.withTmpl e T).append e m).retire k)) : appended (s.withTmpl e T) m k i := by
    have hT : (s.withTmpl e T).eng e = { s.eng e with tmpl := T } := s.updEng_eng_self e _
    have he : (((s.withTmpl e T).append e m).retire k).eng e = _ := (s.withTmpl e T).append_eng_self e m
    have hf : (s.withTmpl e T).append e m = _ := (s.withTmpl e T).append_frame e m
    rw [hT] at he
    refine ⟨_, (s.withTmpl e T).newEntry e m, hi, by rw [he], by rw [he], by rw [he, hT], by rw [he], by rw [he], rfl, ?_, rfl, rfl, rfl,
      rfl, rfl, fun f hfe => ?_, ?_, fun r => ?_, ?_, rfl⟩
    · rw [State.newEntry, hT]
    · exact ((s.withTmpl e T).append_eng_ne m hfe).trans (s.updEng_eng_ne _ hfe)
    · rw [hf]; rfl
    · rw [hf]; rfl
    · rw [hf]; rfl
  have issued {T : Vector Image 64} {m : Image} {k : Nat} {i : Instr}
      (hi : exec i s = .next (if s.core.pl ≠ 0 || !imageDefined e m then s.illegal else (s.withTmpl e T).issue e m k)) :
      issues (s.withTmpl e T) m k i ∧ refuses m i := by
    have hT : (s.withTmpl e T).eng e = { s.eng e with tmpl := T } := s.updEng_eng_self e _
    refine ⟨fun hp hd hk => ?_, fun h => ?_⟩
    · have hk : ¬ ((s.withTmpl e T).core.det && profZero e m) = true := by rwa [Bool.and_eq_true]
      rw [if_neg (by simp [hp, hd]), State.issue, if_neg hk, hT] at hi
      refine ⟨fun hl => appends ?_, fun hl => ?_⟩
      · rw [hi, if_neg (Nat.not_le.mpr hl)]
      · rw [hi, if_pos hl]; rfl
    · rw [hi, if_pos (by rcases h with h | h <;> simp [h])]; rfl
  have stored {m : Image} {k : Nat} {i : Instr}
      (hi : exec i s = .next (if s.core.pl ≠ 0 || !imageDefined e m then s.illegal else (s.setTemplate e tix m).retire k)) :
      (s.core.pl = 0 → imageDefined e m = true → exec i s = .next ((templated m).retire k)) ∧ refuses m i := by
    refine ⟨fun hp hd => ?_, fun h => ?_⟩
    · rw [hi, if_neg (by simp [hp, hd])]
    · rw [hi, if_pos (by rcases h with h | h <;> simp [h])]; rfl
  have own : s.withTmpl e (s.eng e).tmpl = s := s.withTmpl_self e
  have dispatch := issued (T := (s.eng e).tmpl) (m := img) (k := 1 + sz.words) (i := .engineDispatch e sz img) (by rw [own]; rfl)
  have patch := issued (T := (s.eng e).tmpl) (m := patched) (k := 1) (i := .patch e tix fsel v) (by rw [own]; rfl)
  have patchS := issued (T := (s.eng e).tmpl.setIfInBounds tix.toNat patched) (m := patched) (k := 1) (i := .patchS e tix fsel v) rfl
  have patchSN := stored (m := patched) (k := 1) (i := .patchSN e tix fsel v) rfl
  have store := stored (m := img) (k := 1 + sz.words) (i := .templateStore e sz tix img) rfl
  rw [own] at dispatch patch
  refine ⟨dispatch.1, dispatch.2, patch.1, patch.2, patchS.1, patchS.2, patchSN.1, patchSN.2, store.1, store.2, ?_, fun k hk => ?_,
    fun hw hf hl => ?_, fun hf => ?_, fun hd hp hi hz => ?_⟩
  · exact (s.template_setTemplate e tix tix img).trans (if_pos rfl)
  · exact (s.template_setTemplate e tix k img).trans (if_neg hk)
  · have happ := appends (T := (s.eng e).tmpl) (m := img) (k := n) (i := .queueSpaceAppend)
    rw [own] at happ
    refine happ ?_
    show execQueueSpaceAppend s = _
    rw [execQueueSpaceAppend, State.whenLive_of_live _ hf, hw]
    exact congrArg _ (if_neg (Nat.not_le.mpr hl))
  · show execQueueSpaceAppend s = _
    rw [execQueueSpaceAppend, State.whenLive_of_frozen _ hf]
  · show execEngineDispatch e sz img s = _
    rw [execEngineDispatch, if_neg (by simp [hp, hi]), State.issue, if_pos (by simp [hd, hz])]; rfl

end Sys2Proof.Machine
end

section
/-!
The end of an engine entry (R10, R12 to R14, R234, R348) and CTL's taking of the earliest held fault (R339, R340). Settles O23.
-/

namespace Sys2Proof.Machine

theorem Eng.num_lt (e : Eng) : e.num < 8 := by cases e <;> decide

theorem Eng.num_ne_zero (e : Eng) : e.num ≠ 0 := by cases e <;> decide

theorem Eng.mem_all (e : Eng) : e ∈ Eng.all := by cases e <;> decide

/-! ### An entry changed -/

section Entry
variable {s : State} {e : Eng} {x : Entry}

theorem State.updEntry_eng_self (s : State) (e : Eng) (seq : W32) (f : Entry → Entry) : (s.updEntry e seq f).eng e =
    { s.eng e with q := (s.eng e).q.map (fun y => if y.seq = seq then f y else y) } := s.updEng_eng_self e _

/-- Only the head bears its number. -/
theorem map_ite_seq_head {x : Entry} {rest : List Entry} (f : Entry → Entry) (h : ∀ y ∈ rest, y.seq ≠ x.seq) :
    (x :: rest).map (fun y => if y.seq = x.seq then f y else y) = f x :: rest := by
  rw [List.map_cons, if_pos rfl]
  exact congrArg _ ((List.map_congr_left (g := id) fun y hy => if_neg (h y hy)).trans (List.map_id _))

/-! ### Completion (R10, R14) -/

/-- A token queue that does not hold 15 has room for one more. -/
theorem Core.tokCount_lt_of_not_full {c : Core} {i m : Nat} (h : ∀ j, j < 8 → ¬(m.testBit j = true ∧ c.tokCount i j = 15)) (j : Nat)
    (hj : j < 8) (hm : m.testBit j = true) : c.tokCount i j < 15 := by
  have hlt := c.tokCount_lt i j
  have hne : c.tokCount i j ≠ 15 := fun h15 => h j hj ⟨hm, h15⟩
  omega

/-- Done entries leave from the head, up to the first that is not done. -/
theorem EngState.sweep_eq {g : EngState} {l rest : List Entry} (hq : g.q = l ++ rest) (hl : ∀ y ∈ l, y.phase = .done)
    (hr : ∀ y, rest.head? = some y → y.phase ≠ .done) :
    g.sweep = { g with q := rest, completed := g.completed + BitVec.ofNat 32 l.length } := by
  have hw : g.q.takeWhile (fun y => y.phase == .done) = l := by
    rw [hq, List.takeWhile_append_of_pos (fun y hy => by simp [hl y hy])]
    cases rest with
    | nil => simp
    | cons y rest => simp [hr y rfl]
  simp only [EngState.sweep, hw]
  rw [hq, List.drop_left]

theorem State.completionTrap_eq_none (hp : x.pend = none)
    (hf : ∀ j, j < 8 → (imgSig x.img).toNat.testBit j = true → s.core.tokCount e.num j < 15) : s.completionTrap e x = none := by
  simp [State.completionTrap, hp, (s.core.overflowMask_eq_zero_iff e.num (imgSig x.img)).mpr hf]

theorem State.completionTrap_overflow (hp : x.pend = none)
    (hf : ∃ j, j < 8 ∧ (imgSig x.img).toNat.testBit j = true ∧ s.core.tokCount e.num j = 15) :
    s.completionTrap e x = some ⟨.tokenOverflow, BitVec.ofNat 64 (s.core.overflowMask e.num (imgSig x.img))⟩ := by
  have ho : s.core.overflowMask e.num (imgSig x.img) ≠ 0 := fun h => by
    obtain ⟨j, hj, hm, h15⟩ := hf
    have := (s.core.overflowMask_eq_zero_iff e.num (imgSig x.img)).mp h j hj hm
    omega
  simp [State.completionTrap, hp, ho]

/-- An entry that completes: its pushes are made, it is done, and the done entries leave. -/
theorem State.completeEntry_eng_self (h : s.completionTrap e x = none) : (s.completeEntry e x).eng e =
    EngState.sweep { s.eng e with
      q := (s.eng e).q.map (fun y => if y.seq = x.seq then { y with phase := .done } else y) } := by
  unfold State.completeEntry
  rw [h]
  simp only [State.pinSlots_eng, State.updEng_eng_self, State.updEntry_eng_self]
  rfl

theorem State.completeEntry_eng_ne (h : s.completionTrap e x = none) {f : Eng} (hf : f ≠ e) : (s.completeEntry e x).eng f = s.eng f := by
  unfold State.completeEntry
  rw [h]
  simp only [State.pinSlots_eng]
  exact (State.updEng_eng_ne _ _ hf).trans (State.updEng_eng_ne _ _ hf)

theorem State.completeEntry_frame (h : s.completionTrap e x = none) : s.completeEntry e x =
    { s with core := { s.core.pushTokens e.num (imgSig x.img) with
      eng := (s.completeEntry e x).core.eng, fr := (s.completeEntry e x).core.fr } } := by
  unfold State.completeEntry
  rw [h]
  simp only []
  rw [State.pinSlots_frame]
  rfl

theorem Core.leaveWait_frame (c : Core) : c.leaveWait = { c with wait := c.leaveWait.wait } := by
  unfold Core.leaveWait
  split
  · split <;> rfl
  · rfl
  · rfl

/-- A fault of an engine is held, stops the queues and lets CTL leave its wait (R339, R343). -/
theorem State.engineFault_core (s : State) (e : Eng) (t : Trap) (seq : W32) :
    (s.engineFault e t seq).core = { s.core with
      wait := (s.engineFault e t seq).core.wait, qstop := true,
      eng := s.core.eng.set e { s.eng e with held := some ⟨t, seq, s.order⟩ } } := by
  simp only [State.engineFault, State.upd, State.updEng]
  rw [Core.leaveWait_frame]
  rfl

theorem State.engineFault_eng_self (s : State) (e : Eng) (t : Trap) (seq : W32) :
    (s.engineFault e t seq).eng e = { s.eng e with held := some ⟨t, seq, s.order⟩ } := by
  rw [State.eng, State.engineFault_core]
  exact Engines.get_set_self _ _ _

/-! ### The SX.CARRY of a scan (R234) -/

theorem State.carryUsed_eq_none {t : State} (h : s.carryUsed = none) (hq : ∀ y ∈ (t.eng .sx).q, y ∈ (s.eng .sx).q) : t.carryUsed = none := by
  simp only [State.carryUsed, List.find?_eq_none] at h ⊢
  exact fun y hy => h y (hq y hy)

end Entry

/-! ### The earliest held fault (R340) -/

theorem State.mem_takeable {s : State} {e : Eng} {h : Held} :
    (e, h) ∈ s.takeable ↔ (s.eng e).held = some h ∧ s.core.pl < h.trap.handling s.core.pl := by
  simp only [State.takeable, List.mem_filterMap, Eng.mem_all, true_and]
  constructor
  · rintro ⟨f, hf⟩
    split at hf
    case h_1 k hk =>
      split at hf
      case isTrue hl => cases hf; exact ⟨hk, hl⟩
      case isFalse => cases hf
    case h_2 => cases hf
  · rintro ⟨hk, hl⟩
    exact ⟨e, by simp [hk, hl]⟩

theorem earliest_concat_none {l : List (Eng × Held)} (x : Eng × Held) (h : earliest l = none) : earliest (l ++ [x]) = some x := by
  unfold earliest at h ⊢
  rw [List.foldl_append, h]; rfl

theorem earliest_concat_some {l : List (Eng × Held)} {b : Eng × Held} (x : Eng × Held) (h : earliest l = some b) :
    earliest (l ++ [x]) = if x.2.order < b.2.order then some x else some b := by
  unfold earliest at h ⊢
  rw [List.foldl_append, h]; rfl

theorem eq_nil_of_earliest {l : List (Eng × Held)} (h : earliest l = none) : l = [] := by
  cases l using List.reverseRecOn with
  | nil => rfl
  | append_singleton l x =>
    cases hl : earliest l with
    | none => rw [earliest_concat_none x hl] at h; cases h
    | some b => rw [earliest_concat_some x hl] at h; split at h <;> cases h

/-- The earliest of a list is in it, and none in it is earlier. -/
theorem earliest_spec {l : List (Eng × Held)} {b : Eng × Held} (h : earliest l = some b) :
    b ∈ l ∧ ∀ x ∈ l, b.2.order ≤ x.2.order := by
  induction l using List.reverseRecOn generalizing b with
  | nil => cases h
  | append_singleton l x ih =>
    simp only [List.mem_append, List.mem_singleton]
    cases hl : earliest l with
    | none =>
      rw [earliest_concat_none x hl, Option.some.injEq] at h
      subst h
      exact ⟨.inr rfl, by simp [eq_nil_of_earliest hl]⟩
    | some a =>
      obtain ⟨ha, hmin⟩ := ih hl
      rw [earliest_concat_some x hl] at h
      split at h
      case isTrue hlt =>
        cases h
        exact ⟨.inr rfl, by rintro y (hy | rfl); exacts [(hlt.trans_le (hmin y hy)).le, le_rfl]⟩
      case isFalse hge =>
        cases h
        exact ⟨.inl ha, by rintro y (hy | rfl); exacts [hmin y hy, Nat.not_lt.mp hge]⟩

/-! ### What an engine's completion does (R10, R14, R234) -/

section Completion
variable {s : State} {e : Eng} {x : Entry}

theorem State.entryIn_head {rest : List Entry} {p : Phase} (hq : (s.eng e).q = x :: rest) (hp : x.phase = p) : s.entryIn e p = some x := by
  simp [State.entryIn, hq, hp]

theorem State.entryIn_second {c : Entry} {rest : List Entry} {p : Phase} (hq : (s.eng e).q = c :: x :: rest) (hc : c.phase ≠ p)
    (hp : x.phase = p) : s.entryIn e p = some x := by
  simp [State.entryIn, hq, hc, hp]

/-- An entry that completes uses up no SX.CARRY unless one has been taken. -/
theorem execEntryComplete_eq (hl : s.frozen = false) (hx : s.entryIn e .finished = some x)
    (hc : e = .sx → s.completionTrap e x = none → (s.completeEntry e x).carryUsed = none) :
    execEntryComplete e s = .next (s.completeEntry e x) := by
  simp only [execEntryComplete, hl, Bool.false_eq_true, if_false, hx]
  split
  case h_1 y hy =>
    split at hy
    case isTrue hs =>
      simp only [Bool.and_eq_true, beq_iff_eq, Option.isNone_iff_eq_none] at hs
      obtain ⟨⟨he, -⟩, ht⟩ := hs
      rw [hc he ht] at hy; cases hy
    case isFalse => cases hy
  case h_2 => rfl

/-- A scan that completes takes the SX.CARRY that it has used with it. -/
theorem execEntryComplete_carry {c : Entry} (hl : s.frozen = false) (hx : s.entryIn .sx .finished = some x)
    (ho : x.img.opc = 2 ∨ x.img.opc = 5) (ht : s.completionTrap .sx x = none)
    (hc : (s.completeEntry .sx x).carryUsed = some c) :
    execEntryComplete .sx s = .next ((s.completeEntry .sx x).completeNow .sx c) := by
  have hs : (Eng.sx == .sx && (x.img.opc == 2 || x.img.opc == 5) && (s.completionTrap .sx x).isNone) = true := by
    simp [ht, ho]
  simp only [execEntryComplete, hl, Bool.false_eq_true, if_false, hx, hs, if_true, hc]

/-- The head, which has every effect, leaves its queue alone. -/
theorem State.completeEntry_head {rest : List Entry} (ht : s.completionTrap e x = none) (hq : (s.eng e).q = x :: rest)
    (hseq : ∀ y ∈ rest, y.seq ≠ x.seq) (hr : ∀ y, rest.head? = some y → y.phase ≠ .done) :
    (s.completeEntry e x).eng e = { s.eng e with q := rest, completed := (s.eng e).completed + 1 } := by
  rw [State.completeEntry_eng_self ht,
    EngState.sweep_eq (l := [{ x with phase := .done }]) (rest := rest) (by rw [hq, map_ite_seq_head _ hseq]; rfl) (by simp) hr]
  rfl

/-- The second entry is done, but stays behind the head that is not. -/
theorem State.completeEntry_second {c : Entry} {rest : List Entry} (ht : s.completionTrap e x = none) (hq : (s.eng e).q = c :: x :: rest)
    (hc : c.seq ≠ x.seq) (hcp : c.phase ≠ .done) (hseq : ∀ y ∈ rest, y.seq ≠ x.seq) :
    (s.completeEntry e x).eng e = { s.eng e with q := c :: { x with phase := .done } :: rest } := by
  rw [State.completeEntry_eng_self ht,
    EngState.sweep_eq (l := []) (rest := c :: { x with phase := .done } :: rest)
      (by rw [hq, List.map_cons, if_neg hc, map_ite_seq_head _ hseq]; rfl) (by simp) (by rintro y ⟨⟩; exact hcp)]
  simp

/-- A head that completes at once takes the done entry behind it along. -/
theorem State.completeNow_pair {c : Entry} {rest : List Entry} (ht : ∀ t : State, t.completionTrap e c = none)
    (hq : (s.eng e).q = c :: x :: rest) (hx : x.phase = .done) (hc : x.seq ≠ c.seq) (hseq : ∀ y ∈ rest, y.seq ≠ c.seq)
    (hr : ∀ y, rest.head? = some y → y.phase ≠ .done) :
    (s.completeNow e c).eng e = { s.eng e with q := rest, completed := (s.eng e).completed + 2 } := by
  have hn : ∀ y ∈ x :: rest, y.seq ≠ c.seq := by simpa [hc] using hseq
  let c' : Entry := { c with phase := .finished, pend := c.pend.or none }
  have hf : (s.finish e c.seq none).eng e = { s.eng e with q := c' :: x :: rest } := by
    rw [State.finish, State.updEntry_eng_self, hq, map_ite_seq_head _ hn]
  rw [State.completeNow, State.completeEntry_eng_self (ht _), hf,
    EngState.sweep_eq (l := [{ c' with phase := .done }, x]) (rest := rest)
      (map_ite_seq_head (x := c') (fun y => { y with phase := .done }) hn) (by simp [hx]) hr]
  rfl

theorem State.completionTrap_of_no_sig (hp : x.pend = none) (hs : imgSig x.img = 0) (t : State) : t.completionTrap e x = none :=
  State.completionTrap_eq_none hp fun j _ h => by simp [hs] at h

end Completion

/-- An engine's cause that its level's entry handles enters that level (R339). -/
theorem State.raise_enters (s : State) {g : Nat} (t : Trap) (seq : W32) (epc : Addr) (hg : g ≠ 0) (h0 : t.handling s.core.pl ≠ 0)
    (ha : t.handling s.core.pl = 1 → s.pfBits (vfReg s.vf.toNat 0x38) 0 48 ≠ 0) :
    s.raise g t seq epc = s.enter (t.handling s.core.pl) g 0 t.cause.code t.val seq epc (s.arvBit epc) := by
  have h2 : ¬(t.handling s.core.pl = 1 ∧ s.pfBits (vfReg s.vf.toNat 0x38) 0 48 = 0) := fun h => ha h.1 h.2
  simp only [State.raise, h0, hg, if_false, decide_false, Bool.false_and, Bool.false_eq_true, Bool.and_eq_true, decide_eq_true_eq, h2]

/-- The bank of the level entered tells the sequencer, the cause and the value (R339). -/
theorem State.bank_enter_self (s : State) {h : Nat} (g c2 code : Nat) (v : W64) (seq : W32) (epc : Addr) (arv : Bool) (h1 : 1 ≤ h) (h3 : h ≤ 3) :
    (s.enter h g c2 code v seq epc arv).bank h = ⟨BitVec.ofNat 64 (c2 * 2 ^ 48 + code * 2 ^ 32 + seq.toNat),
      BitVec.ofNat 64 (epc.toNat / 4 * 4 + b2n arv * 2), v, BitVec.ofNat 64 (g * 4 + s.core.pl), (s.bank h).esave⟩ :=
  s.bank_setBank_self _ h1 h3

/-- Settles O23: an entry's end by its completion trap, with the queue's done head swept; the earliest held fault by the order in which
the faults were raised. -/
theorem entryCompletion : Obligations.EntryCompletion := by
  unfold Obligations.EntryCompletion
  refine ⟨fun e x rest s => ⟨fun hf => ?_, fun hl hq hx hseq hp => ⟨fun hfull hr hc => ?_, fun hfull hh => ?_⟩,
    fun c he hl hq hc hopc hprog hcp hcs hx hxo hxp hcx hseq hr hfull => ?_⟩, fun e f s hruns hout he hh3 ha => ?_⟩
  · change execEntryComplete e s = _
    simp [execEntryComplete, hf]
  · have hroom := Core.tokCount_lt_of_not_full hfull
    have ht : s.completionTrap e x = none := State.completionTrap_eq_none hp hroom
    have hself := State.completeEntry_head ht hq hseq hr
    refine ⟨s.completeEntry e x, execEntryComplete_eq hl (State.entryIn_head hq hx) fun he _ => ?_, ?_, ?_, ?_, ?_, ?_, ?_⟩
    · subst he
      exact State.carryUsed_eq_none (hc rfl) fun y hy => by rw [hself] at hy; rw [hq]; exact .tail _ hy
    · rw [hself]
    · rw [hself]
    · intro i j hi hj
      have hpush := s.core.pushTokens_tokCount (imgSig x.img) (Eng.num_lt e) hi hj
      rw [State.completeEntry_frame ht]
      exact (hpush hroom).trans rfl
    · rw [State.completeEntry_frame ht, ← bit_eq_testBit]
      change (s.core.ev || bit (imgSig x.img).toNat 0) = true ↔ _
      exact Bool.or_eq_true_iff
    · exact fun f hf => State.completeEntry_eng_ne ht hf
    · rw [State.completeEntry_frame ht]
      exact ⟨rfl, rfl, rfl⟩
  · have ht := State.completionTrap_overflow (s := s) hp hfull
    let w : State := s.updEntry e x.seq (fun y => { y with phase := .withheld, pend := none })
    have hw : s.completeEntry e x = w.engineFault e ⟨.tokenOverflow, BitVec.ofNat 64 (s.core.overflowMask e.num (imgSig x.img))⟩ x.seq := by
      simp only [State.completeEntry, ht, hh, Option.isSome_none, Bool.false_eq_true, if_false]
      rfl
    have hwe : w.eng e = { s.eng e with q := { x with phase := .withheld } :: rest } := by
      rw [State.updEntry_eng_self, hq, map_ite_seq_head _ hseq, ← hp]
    refine ⟨s.completeEntry e x, ⟨⟨.tokenOverflow, BitVec.ofNat 64 (s.core.overflowMask e.num (imgSig x.img))⟩, x.seq, s.order⟩,
      execEntryComplete_eq hl (State.entryIn_head hq hx) fun _ h => by simp [ht] at h, ?_⟩
    rw [hw, State.engineFault_eng_self, State.engineFault_core, hwe]
    exact ⟨rfl, rfl, rfl, rfl, rfl, rfl⟩
  · subst he
    have ht : s.completionTrap .sx x = none := State.completionTrap_eq_none hxp (Core.tokCount_lt_of_not_full hfull)
    have hself := State.completeEntry_second ht hq hcx (by simp [hc]) (fun y hy => (hseq y hy).1)
    have hcar : (s.completeEntry .sx x).carryUsed = some c := by
      simp [State.carryUsed, hself, hc, hopc, hprog]
    refine ⟨_, execEntryComplete_carry hl (State.entryIn_second hq (by simp [hc]) hx) hxo ht hcar, ?_⟩
    rw [State.completeNow_pair (x := { x with phase := .done }) (State.completionTrap_of_no_sig hcp hcs) (by rw [hself]) rfl hcx.symm (fun y hy => (hseq y hy).2) hr, hself]
    exact ⟨rfl, rfl⟩
  · obtain ⟨hmem, hmin⟩ := earliest_spec he
    obtain ⟨hheld, hlt⟩ := State.mem_takeable.mp hmem
    let h := f.trap.handling s.core.pl
    let u : State := (s.updEng e (fun x => { x with held := none })).upd
      (fun c => { c with qlevel := if c.qlevel = 0 then h else min c.qlevel h })
    have hu : s.takeHeld = u.enter h e.num 0 f.trap.cause.code f.trap.val f.seq s.core.pc (u.arvBit s.core.pc) := by
      rw [State.takeHeld, he]
      exact u.raise_enters _ _ _ (Eng.num_ne_zero e) (Nat.ne_of_gt (Nat.zero_lt_of_lt hlt)) ha
    have hue : u.core.eng = (s.updEng e (fun x => { x with held := none })).core.eng := rfl
    refine ⟨s.takeHeld, by change execEngineFaultTaken s = _; simp [execEngineFaultTaken, hruns, hout], ?_⟩
    have hbank := u.bank_enter_self e.num 0 f.trap.cause.code f.trap.val f.seq s.core.pc (u.arvBit s.core.pc) (h := h)
      (Nat.one_le_of_lt hlt) hh3
    have heng (g : Eng) : s.takeHeld.eng g = (s.updEng e (fun x => { x with held := none })).eng g := by
      rw [hu, State.enter_eq]; rfl
    refine ⟨by rw [hu]; rfl, by rw [hu]; rfl, ?_, ?_, ?_, ?_, fun g hg => ?_, ?_, by rw [hu]; rfl, fun g x hx => hmin (g, x) hx⟩
    · rw [hu, hbank]; simp
    · rw [hu, hbank]
    · rw [hu, hbank]; rfl
    · rw [heng, State.updEng_eng_self]
    · rw [heng, State.updEng_eng_ne _ _ hg]
    · rw [heng, State.updEng_eng_self]

end Sys2Proof.Machine
end

section
/-!
The start of an engine entry (R10, R12, R165), the operand queues (R23), and what reading leaves unchanged (R26, R290, R335, R355):
the facts that the statements about engines share.
-/

namespace Sys2Proof.Machine

/-! ### An entry that starts (R10, R12) -/

section Start
variable {s u : State} {e : Eng} {x : Entry}

/-- The entry that is ready is one of its engine's queue. -/
theorem State.mem_of_ready (h : s.ready e = some x) : x ∈ (s.eng e).q := by
  unfold State.ready at h
  split at h
  case isTrue => cases h
  case isFalse =>
    split at h
    case h_1 y hy =>
      split at h
      case isTrue => cases h; exact List.mem_of_find?_eq_some hy
      case isFalse => cases h
    case h_2 => cases h

theorem State.starting_eq (h : s.ready e = some x) (hs : x.stamped e = false) (f : State → Entry → Option State) :
    s.starting e f = s.scrubGuard ((f s x).getD s) := by simp [State.starting, h, hs]

/-- A step that lists no more frames for scrubbing waits for no room (R384). -/
theorem State.scrubGuard_of_scrubq (h : u.scrubq = s.scrubq) : s.scrubGuard u = u := by
  simp [State.scrubGuard, State.scrubWaits, h]

theorem State.scrubGuard_of_empty (h : s.scrubq = []) (u : State) : s.scrubGuard u = u := by
  simp [State.scrubGuard, State.scrubWaits, h]

@[simp] theorem State.popTokens_eng (c : Core) (self : Nat) (m : Byte) : (c.popTokens self m).eng = c.eng := rfl

/-- An entry changed, and its tokens popped, change the queue of its engine and the tokens alone. -/
theorem State.start_frame (s : State) (e : Eng) (x : Entry) (p : Phase) : s.start e x p =
    { s with core := { s.core with tok := (s.core.popTokens e.num (imgWait x.img)).tok, eng := (s.start e x p).core.eng } } := rfl

theorem State.startDone_frame (s : State) (e : Eng) (x : Entry) (t : Option Trap) : s.startDone e x t =
    { s with core := { s.core with
      tok := (s.core.popTokens e.num (imgWait x.img)).tok, eng := (s.startDone e x t).core.eng } } := rfl

theorem State.updEntry_eng_ne {f : Eng} (seq : W32) (g : Entry → Entry) (h : f ≠ e) : (s.updEntry e seq g).eng f = s.eng f :=
  State.updEng_eng_ne _ _ h

/-- What the start of an entry leaves, from a state that differs from the one before it in neither tokens, queues, PC nor s registers. -/
theorem State.entryAt_start {p : Phase} (hx : x ∈ (s.eng e).q) (htok : u.core.tok = s.core.tok) (heng : u.core.eng = s.core.eng)
    (hpc : u.core.pc = s.core.pc) (hs : u.core.s = s.core.s) : s.EntryAt (u.start e x p) e x p := by
  have hq : ((u.start e x p).eng e).q = (s.eng e).q.map (fun y => if y.seq = x.seq then { y with phase := p } else y) := by
    rw [State.start, State.updEntry_eng_self]
    exact congrArg (fun g => List.map _ (EngState.q g)) (State.eng_congr (s := s) heng e)
  refine ⟨?_, ⟨{ x with phase := p }, ?_, rfl, rfl⟩, hpc, hs, fun f hf => ?_⟩
  · rw [State.start_frame]; simp only [Core.popTokens, htok]
  · rw [hq]; exact List.mem_map.mpr ⟨x, hx, if_pos rfl⟩
  · rw [State.start, State.updEntry_eng_ne _ _ hf]; exact State.eng_congr heng f

theorem State.entryAt_startDone {t : Option Trap} (hx : x ∈ (s.eng e).q) (htok : u.core.tok = s.core.tok)
    (heng : u.core.eng = s.core.eng) (hpc : u.core.pc = s.core.pc) (hs : u.core.s = s.core.s) :
    s.EntryAt (u.startDone e x t) e x .finished := by
  obtain ⟨ht, ⟨y, hy, hseq, hp⟩, hpc', hs', hne⟩ := State.entryAt_start (p := .finished) hx htok heng hpc hs
  refine ⟨ht, ⟨{ y with pend := t }, ?_, hseq, hp⟩, hpc', hs', fun f hf => ?_⟩
  · rw [State.startDone, State.updEntry_eng_self]
    exact List.mem_map.mpr ⟨y, hy, if_pos hseq⟩
  · rw [State.startDone, State.updEntry_eng_ne _ _ hf]; exact hne f hf

end Start

/-! ### Operand queues (R23) -/

section OperandQueue
variable {s u : State} {n k : Nat}

theorem State.opQ_congr (h : u.core.vx.q = s.core.vx.q) (k : Nat) : u.opQ k = s.opQ k := by simp [State.opQ, h]

theorem State.updQ_frame (s : State) (n : Nat) (f : OpQueue → OpQueue) :
    s.updQ n f = { s with core := { s.core with vx := { s.core.vx with q := (s.updQ n f).core.vx.q } } } := rfl

theorem State.opQ_updQ_self (hn : n < 8) (f : OpQueue → OpQueue) : (s.updQ n f).opQ n = f (s.opQ n) := by
  simp [State.opQ, State.updQ, State.upd, hn]

theorem State.opQ_updQ_ne (h : k ≠ n) (f : OpQueue → OpQueue) : (s.updQ n f).opQ k = s.opQ k :=
  (getD_setIfInBounds _ _ _ _ _).trans (if_neg fun hk => h hk.1.symm)

theorem State.pushes_frame (l : List Lanes) (s : State) (n : Nat) : l.foldl (fun t v => t.pushQ n v) s =
    { s with core := { s.core with vx := { s.core.vx with q := (l.foldl (fun t v => t.pushQ n v) s).core.vx.q } } } := by
  induction l generalizing s with
  | nil => rfl
  | cons v l ih => rw [List.foldl_cons, ih]; rfl

/-- Entries pushed one after another stand behind those of the queue, in order. -/
theorem State.opQ_pushes_self (hn : n < 8) (l : List Lanes) (s : State) :
    ((l.foldl (fun t v => t.pushQ n v) s).opQ n).ents = (s.opQ n).ents ++ l := by
  induction l generalizing s with
  | nil => simp
  | cons v l ih => rw [List.foldl_cons, ih, State.pushQ, State.opQ_updQ_self hn, List.append_assoc]; rfl

theorem State.opQ_pushes_ne (h : k ≠ n) (l : List Lanes) (s : State) : (l.foldl (fun t v => t.pushQ n v) s).opQ k = s.opQ k := by
  induction l generalizing s with
  | nil => rfl
  | cons v l ih => rw [List.foldl_cons, ih, State.pushQ, State.opQ_updQ_ne h]

end OperandQueue

/-! ### What a read leaves unchanged -/

/-- t is s but for what reads note: the sieve and its conflicts, the LLC and what waits for the sector links, the L1. -/
def State.ReadsTo (s t : State) : Prop :=
  t = { s with sieve := t.sieve, conflicts := t.conflicts, llc := t.llc, llcEv := t.llcEv, llcClock := t.llcClock, linkq := t.linkq,
               core := { s.core with l1 := t.core.l1 } }

section Reads
variable {s t u : State}

theorem State.ReadsTo.refl (s : State) : s.ReadsTo s := rfl

theorem State.ReadsTo.trans (h : s.ReadsTo t) (k : t.ReadsTo u) : s.ReadsTo u := by
  unfold State.ReadsTo at h k ⊢
  exact k.trans (by rw [h])

theorem State.readsTo_foldl {α : Type} {f : State → α → State} (h : ∀ (s : State) a, s.ReadsTo (f s a)) (l : List α) (s : State) :
    s.ReadsTo (l.foldl f s) := by
  induction l generalizing s with
  | nil => exact .refl s
  | cons a l ih => exact (h s a).trans (ih _)

theorem State.llcTouch_readsTo (s : State) (a q : Nat) (ctx : BitVec 9) (w : Bool) : s.ReadsTo (s.llcTouch a q ctx w) := by
  unfold State.ReadsTo; rw [State.llcTouch_eq]

theorem State.llcTouchAll_readsTo (s : State) (a n q : Nat) (ctx : BitVec 9) (w : Bool) : s.ReadsTo (s.llcTouchAll a n q ctx w) :=
  State.readsTo_foldl (fun (s : State) _ => s.llcTouch_readsTo _ q ctx w) _ s

theorem State.lineRead_readsTo (s : State) (x : Nat) : s.ReadsTo (s.lineRead x) := by
  unfold State.lineRead
  split
  · exact .refl s
  · dsimp only
    split
    · exact s.llcTouch_readsTo ..
    · exact (s.llcTouch_readsTo ..).trans rfl

theorem State.touchRead_readsTo (s : State) (eng : Nat) (l : Loc) (n : Nat) : s.ReadsTo (s.touchRead eng l n) := by
  unfold State.touchRead
  split
  · split
    · exact State.readsTo_foldl (fun (s : State) _ => s.lineRead_readsTo _) _ s
    · exact s.llcTouchAll_readsTo ..
  · exact .refl s

theorem State.sieveNote_readsTo (s : State) (store : Bool) (a n : Nat) : s.ReadsTo (s.sieveNote store a n) := by
  unfold State.sieveNote
  refine State.readsTo_foldl ?_ _ s
  intro s g
  rfl

theorem State.judge_readsTo (s : State) (det store : Bool) (l : Loc) (ga n : Nat) : s.ReadsTo (s.judge det store l ga n).1 := by
  unfold State.judge
  split
  · split
    · exact (s.sieveNote_readsTo ..).trans rfl
    · exact s.sieveNote_readsTo ..
  · exact .refl s

/-- The cores are those of before but for the L1 of the one in focus. -/
theorem State.ReadsTo.coreAt (h : s.ReadsTo t) (p : Nat) : t.coreAt p = { s.coreAt p with l1 := (t.coreAt p).l1 } := by
  rw [State.ReadsTo] at h
  rw [h]
  unfold State.coreAt
  by_cases hp : p = s.cur
  · simp only [if_pos hp]
  · simp only [if_neg hp]

theorem State.ReadsTo.reach (h : s.ReadsTo t) (p : Nat) (vf : BitVec 9) : t.reach p vf = s.reach p vf := by
  have hc := h.coreAt p
  generalize (t.coreAt p).l1 = l at hc
  have hi : t.images = s.images := by rw [h]
  have hb : t.boot = s.boot := by rw [h]
  simp only [State.reach, hc, hi, hb]

theorem State.ReadsTo.goTo (h : s.ReadsTo t) (pl : Place) : t.goTo pl = s.goTo pl := by
  cases pl with
  | here l => rfl
  | remote p o =>
    have hr := h.reach p s.vf
    have hvf : t.vf = s.vf := by rw [h]; rfl
    have hb : t.passBarred p = s.passBarred p := by rw [h]; rfl
    simp only [State.goTo, hvf, hr, hb]

theorem State.ReadsTo.poisonUnits (h : s.ReadsTo t) (a n : Nat) : t.poisonUnits a n = s.poisonUnits a n := by rw [h]; rfl

theorem State.ReadsTo.bytes (h : s.ReadsTo t) (a n : Nat) : t.bytes a n = s.bytes a n := by rw [h]; rfl

theorem State.ReadsTo.runsHeld (h : s.ReadsTo t) (l : List IoRun) : t.runsHeld l = s.runsHeld l := by rw [h]; rfl

theorem State.ReadsTo.cleanRun (h : s.ReadsTo t) (y : IoRun) : t.CleanRun y ↔ s.CleanRun y := by
  simp only [State.CleanRun, h.goTo, h.poisonUnits, h.runsHeld]

theorem State.ReadsTo.runsData (h : s.ReadsTo t) (r : List IoRun) : t.runsData r = s.runsData r := by
  simp only [State.runsData, h.goTo, h.bytes]

/-! ### Runs of a list -/

theorem State.runsData_cons (s : State) (y : IoRun) (r : List IoRun) : s.runsData (y :: r) = s.runsData [y] ++ s.runsData r := by
  simp [State.runsData]

theorem State.runsData_of_goTo {y : IoRun} {l : Loc} (h : s.goTo y.2.2 = .ok l) : s.runsData [y] = s.bytes l.pa y.2.1 := by
  simp [State.runsData, h]

/-- A run without poison, read at once, gives its bytes. -/
theorem State.readSpan_of_clean {y : IoRun} (h : s.CleanRun y) (eng : Nat) (seq : W32) (det pois : Bool) :
    (s.readSpan eng seq det pois y.1 y.2.1 y.2.2).data = s.runsData [y] ∧
      s.ReadsTo (s.readSpan eng seq det pois y.1 y.2.1 y.2.2).st := by
  obtain ⟨l, hgo, hpois, -⟩ := h
  have hj := s.judge_readsTo det false l y.1 y.2.1
  have hp := (hj.poisonUnits l.pa y.2.1).trans hpois
  simp only [State.readSpan, hgo, State.readZ, hp, State.runsData_of_goTo hgo]
  refine ⟨?_, hj.trans (State.touchRead_readsTo ..)⟩
  simp only [List.contains_nil, Bool.false_eq_true, if_false]
  exact hj.bytes l.pa y.2.1

theorem State.readRuns_of_clean {r : List IoRun} (h : ∀ y ∈ r, s.CleanRun y) (eng : Nat) (seq : W32) (det pois : Bool) :
    (s.readRuns eng seq det pois r).data = s.runsData r ∧ s.ReadsTo (s.readRuns eng seq det pois r).st := by
  induction r generalizing s with
  | nil => exact ⟨rfl, .refl s⟩
  | cons y r ih =>
    obtain ⟨hy, hr⟩ := List.forall_mem_cons.mp h
    obtain ⟨hd, hst⟩ := State.readSpan_of_clean hy eng seq det pois
    obtain ⟨hd', hst'⟩ := ih (s := (s.readSpan eng seq det pois y.1 y.2.1 y.2.2).st) fun z hz => (hst.cleanRun z).mpr (hr z hz)
    rw [State.runsData_cons]
    exact ⟨congrArg₂ _ hd (hd'.trans (hst.runsData r)), hst.trans hst'⟩

theorem State.runHolds_of_clean {r : List IoRun} (h : ∀ y ∈ r, s.CleanRun y) : s.runHolds r = false := by
  simp only [State.runHolds, List.any_eq_false]
  intro y hy
  obtain ⟨l, hgo, -⟩ := h y hy
  simp [hgo]

theorem State.runsHeld_of_clean {r : List IoRun} (h : ∀ y ∈ r, s.CleanRun y) : s.runsHeld r = false := by
  simp only [State.runsHeld, List.any_eq_false]
  intro y hy
  obtain ⟨l, -, -, hh⟩ := h y hy
  simpa [State.runsHeld] using hh

end Reads

end Sys2Proof.Machine
end

section
/-!
FE's limited forms (R165, R167) and the parking of engine accesses (R347, R350, R355). Settles O24.
-/

namespace Sys2Proof.Machine

section Made
variable (s : State) (e : Eng) (x : Entry) (l : List IoRun) (t : Option Trap)

@[simp] theorem State.startDone_mem : (s.startDone e x t).mem = s.mem := rfl
@[simp] theorem State.startDone_scrubq : (s.startDone e x t).scrubq = s.scrubq := rfl
@[simp] theorem State.startDone_vx : (s.startDone e x t).core.vx = s.core.vx := rfl
@[simp] theorem State.startDone_opQ (k : Nat) : (s.startDone e x t).opQ k = s.opQ k := rfl
@[simp] theorem State.runsMade_mem : (s.runsMade e l).mem = s.mem := rfl
@[simp] theorem State.runsMade_scrubq : (s.runsMade e l).scrubq = s.scrubq := rfl
@[simp] theorem State.runsMade_opQ (k : Nat) : (s.runsMade e l).opQ k = s.opQ k := rfl

theorem State.runsMade_core : (s.runsMade e l).core = { s.core with sent := (s.runsMade e l).core.sent } := rfl

end Made

section Feed
variable {s t u : State} {a : FdArgs} {x : Entry}

/-- The room of the FE entry and its binding, which the start asks for (R165). -/
def State.FeedReady (s : State) (a : FdArgs) (x : Entry) : Prop :=
  s.StartsNow .fe x ∧ (s.opQ a.q.toNat).prod = 1 ∧ (s.opQ a.q.toNat).ents.length + a.count.toNat ≤ 4

/-- t is s but for what reads note and for what stands in the operand queues. -/
def State.FeedsTo (s t : State) : Prop :=
  t = { s with sieve := t.sieve, conflicts := t.conflicts, llc := t.llc, llcEv := t.llcEv, llcClock := t.llcClock, linkq := t.linkq,
               core := { s.core with l1 := t.core.l1, vx := { s.core.vx with q := t.core.vx.q } } }

theorem State.ReadsTo.feedsTo_pushes (h : s.ReadsTo t) (n : Nat) (l : List Lanes) :
    s.FeedsTo (l.foldl (fun t v => t.pushQ n v) t) := by
  rw [State.ReadsTo] at h
  rw [State.FeedsTo, State.pushes_frame]
  generalize (l.foldl (fun t v => t.pushQ n v) t).core.vx.q = q
  rw [h]

/-- With its runs reached at once, an FE entry makes every push and has every effect. -/
theorem State.startFeed_of_clean {runs : List (List IoRun)} {f : State → Fed} (h : s.FeedReady a x)
    (hc : ∀ r ∈ runs, ∀ y ∈ r, s.CleanRun y) : s.startFeed a x (.ok (runs, f)) =
      some ((((f s).lanes.foldl (fun t v => t.pushQ a.q.toNat v) (f s).s).runsMade .fe runs.flatten).startDone .fe x (f s).trap) := by
  obtain ⟨⟨-, hhead, -⟩, hprod, hroom⟩ := h
  have hholds : runs.any s.runHolds = false := List.any_eq_false.mpr fun r hr => by simp [State.runHolds_of_clean (hc r hr)]
  have hheld : runs.any s.runsHeld = false := List.any_eq_false.mpr fun r hr => by simp [State.runsHeld_of_clean (hc r hr)]
  have hprod' : ¬ (s.opQ a.q.toNat).prod ≠ Eng.fe.num := by rw [hprod]; decide
  rw [State.startFeed, hhead, if_neg (by decide), if_neg hprod']
  dsimp only
  rw [if_neg (Nat.not_lt.mpr hroom), hholds, if_neg (by decide), hheld, if_neg (by decide)]

/-- The state in which an FE entry has made its pushes is the one that the statement asks for. -/
theorem State.feeds_of_feedsTo {i : Instr} {lanes : List Lanes} {l : List IoRun} {tr : Option Trap} (h : s.StartsNow .fe x)
    (hi : exec i s = .next (s.scrubGuard ((t.runsMade .fe l).startDone .fe x tr))) (ht : s.FeedsTo t)
    (hself : (t.opQ a.q.toNat).ents = (s.opQ a.q.toNat).ents ++ lanes) (hne : ∀ k, k ≠ a.q.toNat → t.opQ k = s.opQ k) :
    s.Feeds i a x lanes := by
  have hsq : t.scrubq = s.scrubq := by rw [ht]
  have hmem : t.mem = s.mem := by rw [ht]
  have hcore : t.core = { s.core with l1 := t.core.l1, vx := { s.core.vx with q := t.core.vx.q } } := by rw [ht]
  have hentry : s.EntryAt ((t.runsMade .fe l).startDone .fe x tr) .fe x .finished := by
    refine State.entryAt_startDone (State.mem_of_ready h.1) ?_ ?_ ?_ ?_
    · rw [State.runsMade_core, hcore]
    · rw [State.runsMade_core, hcore]
    · rw [State.runsMade_core, hcore]
    · rw [State.runsMade_core, hcore]
  rw [State.scrubGuard_of_scrubq (by rw [State.startDone_scrubq, State.runsMade_scrubq, hsq])] at hi
  refine ⟨_, hi, ?_, fun k hk => ?_, ?_, hentry⟩
  · rw [State.startDone_opQ, State.runsMade_opQ, hself]
  · rw [State.startDone_opQ, State.runsMade_opQ, hne k hk]
  · rw [State.startDone_mem, State.runsMade_mem, hmem]

/-- An FE entry that may start, whose runs are reached at once, pushes the lanes that its reads give. -/
theorem State.feeds_of_start {i : Instr} {g : State → Entry → Option State} {runs : List (List IoRun)} {f : State → Fed}
    {lanes : List Lanes} (h : s.FeedReady a x) (hi : exec i s = .next (s.starting .fe g))
    (hg : g s x = s.startFeed a x (.ok (runs, f))) (hc : ∀ r ∈ runs, ∀ y ∈ r, s.CleanRun y) (hst : s.ReadsTo (f s).s)
    (hl : (f s).lanes = lanes) : s.Feeds i a x lanes := by
  obtain ⟨hready, -, hstamp⟩ := h.1
  have hvx : (f s).s.core.vx.q = s.core.vx.q := by rw [hst]
  refine State.feeds_of_feedsTo (l := runs.flatten) (tr := (f s).trap) h.1 ?_ (hst.feedsTo_pushes a.q.toNat (f s).lanes) ?_
    fun k hk => ?_
  · rw [hi, State.starting_eq hready hstamp, hg, State.startFeed_of_clean h hc, Option.getD_some]
  · rw [State.opQ_pushes_self a.q.isLt, hl, State.opQ_congr hvx]
  · rw [State.opQ_pushes_ne hk, State.opQ_congr hvx]

/-- Runs read in order give their lanes one by one. -/
theorem State.feedRuns_of_clean (f : List Byte → Lanes) {rs : List (List IoRun)} (h : ∀ r ∈ rs, ∀ y ∈ r, s.CleanRun y) :
    (s.feedRuns a x f rs).lanes = rs.map (fun r => f (s.runsData r)) ∧ s.ReadsTo (s.feedRuns a x f rs).s := by
  unfold State.feedRuns
  induction rs using List.reverseRecOn with
  | nil => exact ⟨rfl, .refl s⟩
  | append_singleton rs r ih =>
    obtain ⟨hlanes, hst⟩ := ih fun e he => h e (List.mem_append_left _ he)
    rw [List.foldl_append, List.map_append, ← hlanes]
    generalize List.foldl _ _ rs = k at hst
    obtain ⟨hd, hst'⟩ := State.readRuns_of_clean (r := r) (fun y hy => (hst.cleanRun y).mpr (h r (by simp) y hy)) Eng.fe.num x.seq x.det a.pois
    refine ⟨?_, hst.trans hst'⟩
    simp only [List.foldl_cons, List.foldl_nil, hd, hst.runsData]
    rfl

/-! ### The limited forms (R167) -/

/-- A form that reads the runs of its entries in order and forms each by f. -/
theorem State.feeds_of_runs {i : Instr} {g : State → Entry → Option State} {rs : List (List IoRun)} (f : List Byte → Lanes)
    (h : s.FeedReady a x) (hi : exec i s = .next (s.starting .fe g))
    (hg : g s x = s.startFeed a x (.ok (rs, fun s => s.feedRuns a x f rs))) (hc : ∀ r ∈ rs, ∀ y ∈ r, s.CleanRun y) :
    s.Feeds i a x (rs.map (fun r => f (s.runsData r))) := by
  obtain ⟨hl, hst⟩ := State.feedRuns_of_clean (a := a) (x := x) f hc
  exact State.feeds_of_start h hi hg hc hst hl

/-- A form that reads nothing. -/
theorem State.feeds_of_lanes {i : Instr} {g : State → Entry → Option State} (lanes : List Lanes)
    (h : s.FeedReady a x) (hi : exec i s = .next (s.starting .fe g))
    (hg : g s x = s.startFeed a x (.ok ([], fun s => ⟨lanes, s, none⟩))) : s.Feeds i a x lanes :=
  State.feeds_of_start h hi hg (by simp) (.refl s) rfl

theorem State.feLd_feeds (h : s.FeedReady a x) {rs : List (List IoRun)}
    (hrs : s.entryRuns .fe .engine a (typeBytes a.typ.toNat) (fdBytes a) a.b.toInt (fun v => v * a.b.toInt) = .ok rs)
    (hc : ∀ r ∈ rs, ∀ y ∈ r, s.CleanRun y) : s.Feeds (.feLd a) a x (rs.map (fun r => feForm a (s.runsData r))) :=
  State.feeds_of_runs (g := fun s x => s.startLd a x) (feForm a) h rfl (by simp only [State.startLd, hrs]; rfl) hc

theorem State.feUnpk_feeds (h : s.FeedReady a x) {rs : List (List IoRun)}
    (hrs : s.entryRuns .fe .pack a 24 192 a.b.toInt (fun v => v * a.b.toInt) = .ok rs) (hc : ∀ r ∈ rs, ∀ y ∈ r, s.CleanRun y) :
    s.Feeds (.feUnpk a) a x (rs.map (fun r =>
      lanesOf (fun l => unpkElem (a.h13 == 1) (leNat (((s.runsData r).drop (3 * l)).take 3))))) :=
  State.feeds_of_runs (g := fun s x => s.startUnpk a x) _ h rfl (by simp only [State.startUnpk, hrs]; rfl) hc

theorem State.feBcst_imm_feeds (h : s.FeedReady a x) (hm : a.h13 = 1) :
    s.Feeds (.feBcst a) a x (List.replicate a.count.toNat (Vector.replicate 64 a.b)) :=
  State.feeds_of_lanes (g := fun s x => s.startBcst a x) _ h rfl (by simp only [State.startBcst, hm, if_true])

theorem State.feBcst_feeds (h : s.FeedReady a x) {rs : List (List IoRun)} (hm : a.h13 ≠ 1)
    (hrs : s.entryRuns .fe .engine a (typeBytes a.typ.toNat) (typeBytes a.typ.toNat) 0 (fun _ => 0) = .ok rs)
    (hc : ∀ r ∈ rs, ∀ y ∈ r, s.CleanRun y) :
    s.Feeds (.feBcst a) a x (rs.map (fun r => Vector.replicate 64 (widenTo (fdFmt a.typ.toNat) (leNat (s.runsData r))))) :=
  State.feeds_of_runs (g := fun s x => s.startBcst a x) (fun d => Vector.replicate 64 (widenTo (fdFmt a.typ.toNat) (leNat d))) h rfl
    (by simp only [State.startBcst, hm, if_false, hrs]; rfl) hc

theorem State.feAgen_feeds (h : s.FeedReady a x) : s.Feeds (.feAgen a) a x
    ((List.range a.count.toNat).map (fun v => lanesOf (fun l => a.d + BitVec.ofNat 32 l * a.b + BitVec.ofNat 32 v * a.c))) := by
  have hl (v : Nat) : agenLanes a v = lanesOf (fun l => a.d + BitVec.ofNat 32 l * a.b + BitVec.ofNat 32 v * a.c) := by
    unfold agenLanes
    congr 1; funext l
    simp [BitVec.ofNat_add, BitVec.ofNat_mul]
  simp only [← hl]
  exact State.feeds_of_lanes (g := fun s x => s.startFeAgen a x) _ h rfl rfl

theorem State.feIdx_feeds (h : s.FeedReady a x) {r : List IoRun}
    (hr : s.ioPlaces .engine 0 a.a.toNat (ceilDiv a.d.toNat 8) = .ok r) (hc : ∀ y ∈ r, s.CleanRun y) :
    s.Feeds (.feIdx a) a x ((List.range a.count.toNat).map (fun v =>
      lanesOf (fun l => BitVec.ofNat 32 ((setBits (s.runsData r) a.d.toNat).getD (64 * v + l) 0xFFFFFFFF)))) := by
  obtain ⟨hd, hst⟩ := State.readRuns_of_clean hc Eng.fe.num x.seq x.det a.pois
  refine State.feeds_of_start (g := fun s x => s.startIdx a x) (runs := [r]) h rfl (by simp only [State.startIdx, hr]; rfl)
    (by simpa using hc) hst ?_
  simp only [hd]
  congr 1; funext v; congr 1; funext l
  rw [List.getD_eq_getElem?_getD]
  split <;> rename_i hk <;> rw [hk] <;> rfl

/-! ### Coordinate forms (R164, R167) -/

/-- The bytes of an element of a coordinate form: zeros beyond an extent. -/
def State.coordElem (s : State) (d : TDesc) (y : Option IoRun) : List Byte := y.elim (List.replicate d.e 0) (fun q => s.runsData [q])

theorem State.ReadsTo.coordElem (h : s.ReadsTo t) (d : TDesc) (y : Option IoRun) : t.coordElem d y = s.coordElem d y := by
  cases y with
  | none => rfl
  | some q => exact h.runsData [q]

/-- One element of a coordinate form read after others. -/
def coordStep (a : FdArgs) (x : Entry) (d : TDesc) (k : List (List Byte) × State × Option Trap) (y : Option IoRun) :
    List (List Byte) × State × Option Trap :=
  match y with
  | none => (k.1 ++ [List.replicate d.e 0], k.2)
  | some q =>
    let b := k.2.1.readRuns Eng.fe.num x.seq x.det a.pois [q]
    (k.1 ++ [b.data], b.st, k.2.2.or b.trap)

theorem State.coordRead_eq (s : State) (a : FdArgs) (x : Entry) (d : TDesc) (r : List (Option IoRun)) : s.coordRead a x d r =
    ⟨[coordLanes a d (r.foldl (coordStep a x d) ([], s, none)).1], (r.foldl (coordStep a x d) ([], s, none)).2.1,
      (r.foldl (coordStep a x d) ([], s, none)).2.2⟩ := rfl

theorem coordStep_of_clean {d : TDesc} {k : List (List Byte) × State × Option Trap} {y : Option IoRun} (hk : s.ReadsTo k.2.1)
    (h : ∀ q, y = some q → s.CleanRun q) :
    (coordStep a x d k y).1 = k.1 ++ [s.coordElem d y] ∧ s.ReadsTo (coordStep a x d k y).2.1 := by
  cases y with
  | none => exact ⟨rfl, hk⟩
  | some q =>
    obtain ⟨hd, hst⟩ := State.readRuns_of_clean (r := [q]) (by simpa using (hk.cleanRun q).mpr (h q rfl)) Eng.fe.num x.seq x.det a.pois
    exact ⟨congrArg (k.1 ++ [·]) (hd.trans (hk.runsData [q])), hk.trans hst⟩

theorem foldl_coordStep_of_clean {d : TDesc} {r : List (Option IoRun)} (h : ∀ y, some y ∈ r → s.CleanRun y) :
    (r.foldl (coordStep a x d) ([], s, none)).1 = r.map (s.coordElem d) ∧
      s.ReadsTo (r.foldl (coordStep a x d) ([], s, none)).2.1 := by
  induction r using List.reverseRecOn with
  | nil => exact ⟨rfl, .refl s⟩
  | append_singleton r y ih =>
    obtain ⟨hl, hst⟩ := ih fun q hq => h q (List.mem_append_left _ hq)
    obtain ⟨hl', hst'⟩ := coordStep_of_clean (a := a) (x := x) (d := d) (y := y) hst fun q hq => h q (by simp [hq])
    rw [List.foldl_append, List.map_append, ← hl]
    exact ⟨hl', hst'⟩

/-- The entries of a coordinate form read in order. -/
theorem State.coordReads_of_clean {d : TDesc} {rs : List (List (Option IoRun))} (h : ∀ r ∈ rs, ∀ y, some y ∈ r → s.CleanRun y) :
    let k := rs.foldl (fun (r : Fed) e => let b := r.s.coordRead a x d e; ⟨r.lanes ++ b.lanes, b.s, r.trap.or b.trap⟩) ⟨[], s, none⟩
    k.lanes = rs.map (fun r => coordLanes a d (r.map (s.coordElem d))) ∧ s.ReadsTo k.s := by
  induction rs using List.reverseRecOn with
  | nil => exact ⟨rfl, .refl s⟩
  | append_singleton rs r ih =>
    obtain ⟨hl, hst⟩ := ih fun e he => h e (List.mem_append_left _ he)
    dsimp only at hl hst ⊢
    rw [List.foldl_append, List.map_append, ← hl]
    generalize List.foldl _ _ rs = k at hst
    obtain ⟨hd, hst'⟩ := foldl_coordStep_of_clean (a := a) (x := x) (d := d) (r := r)
      fun y hy => (hst.cleanRun y).mpr (h r (by simp) y hy)
    simp only [List.foldl_cons, List.foldl_nil, State.coordRead_eq, hd]
    refine ⟨?_, hst.trans hst'⟩
    simp only [List.map_cons, List.map_nil, funext (hst.coordElem d)]

theorem mapM_getElem {ε α β : Type} {f : α → Except ε β} {l : List α} {r : List β} (h : l.mapM f = .ok r) :
    r.length = l.length ∧ ∀ (i : Nat) (y : α), l[i]? = some y → ∃ z, r[i]? = some z ∧ f y = .ok z := by
  induction l generalizing r with
  | nil => cases h; simp
  | cons x l ih =>
    rw [List.mapM_cons] at h
    cases hx : f x with
    | error e => rw [hx] at h; cases h
    | ok z =>
      cases hl : l.mapM f with
      | error e => rw [hx, hl] at h; cases h
      | ok zs =>
        rw [hx, hl] at h
        cases h
        obtain ⟨hlen, hget⟩ := ih hl
        refine ⟨congrArg (· + 1) hlen, fun i y hi => ?_⟩
        cases i with
        | zero => cases hi; exact ⟨z, rfl, hx⟩
        | succ i => exact hget i y hi

theorem widenTo_zero (typ : Nat) : widenTo (fdFmt typ) 0 = 0 := by
  unfold fdFmt
  split <;> decide

theorem lane_lanesOf (f : Nat → W32) {l : Nat} (h : l < 64) : lane (lanesOf f) l = f l := by
  simp [lane, lanesOf, h]

theorem leNat_replicate_zero (n : Nat) : leNat (List.replicate n 0) = 0 := by
  induction n with
  | zero => rfl
  | succ n ih => simp_all [List.replicate_succ, leNat]

/-- Lane l of an entry of a coordinate form is what its element holds, widened. -/
theorem lane_coordLanes {d : TDesc} {k : List (List Byte)} {l : Nat} {b : List Byte} (hl : l < 64) (hc : a.conv ≠ 0)
    (hk : k[l]? = some b) : lane (coordLanes a d k) l = widenTo (fdFmt d.typ) (leNat b) := by
  rw [coordLanes, if_neg hc, lane_lanesOf _ hl, List.getD_eq_getElem?_getD, hk]; rfl

/-- Element l of entry v of a coordinate form, as its lanes hold it. -/
theorem State.lane_coordEntry {d : TDesc} {n v l : Nat} {rs : List (List (Option IoRun))} {y : Option IoRun}
    (hrs : (List.range n).mapM (s.coordEntry a d) = .ok rs) (hv : v < n) (hl : l < 64) (hc : a.conv ≠ 0)
    (hy : s.coordRun a d v l = .ok y) :
    lane ((rs.map (fun r => coordLanes a d (r.map (s.coordElem d)))).getD v zeroLanes) l = widenTo (fdFmt d.typ) (leNat (s.coordElem d y)) := by
  obtain ⟨r, hr, her⟩ := (mapM_getElem hrs).2 v v (by simp [hv])
  have hcount : coordCount a d = 64 := if_neg hc
  obtain ⟨z, hz, hez⟩ := (mapM_getElem her).2 l l (by simp [hcount, hl])
  rw [hy] at hez
  cases hez
  rw [List.getD_eq_getElem?_getD, List.getElem?_map, hr]
  exact lane_coordLanes hl hc (by simp [hz])

theorem State.feLdg_feeds (h : s.FeedReady a x) {d : TDesc} {rs : List (List (Option IoRun))} (hd : s.coordDesc a = .ok d)
    (hrs : (List.range a.count.toNat).mapM (s.coordEntry a d) = .ok rs) (hc : ∀ r ∈ rs, ∀ y, some y ∈ r → s.CleanRun y) :
    s.Feeds (.feLdg a) a x (rs.map (fun r => coordLanes a d (r.map (s.coordElem d)))) := by
  obtain ⟨hl, hst⟩ := State.coordReads_of_clean (a := a) (x := x) (d := d) hc
  refine State.feeds_of_start (g := fun s x => s.startLdg a x) (runs := rs.map (fun r => r.filterMap id)) h rfl
    (by simp only [State.startLdg, hd, hrs]; rfl) ?_ hst hl
  intro r hr y hy
  obtain ⟨e, he, rfl⟩ := List.mem_map.mp hr
  exact hc e he y (by simpa using hy)

end Feed

/-! ### Engine accesses to a stopped core (R347, R350, R355) -/

section Parking
variable {s : State} {a : FdArgs} {x : Entry} {e : Eng} {rs : List (List IoRun)} {ga n p o k : Nat}

/-- The one access of the list goes to a place where it waits. -/
theorem State.any_runHolds_of_flatten {y : IoRun} (h : rs.flatten = [y]) (hy : s.goTo y.2.2 = .hold) : rs.any s.runHolds = true := by
  have hr : rs.any s.runHolds = s.runHolds rs.flatten := List.any_flatten.symm
  simp [hr, h, State.runHolds, hy]

theorem State.goTo_of_parked (h : s.reach p s.vf = .atStop ∨ s.reach p s.vf = .inImage k) : s.goTo (.remote p o) = .hold := by
  obtain h | h := h <;> simp [State.goTo, h]

theorem State.startFeed_of_hold {f : State → Fed} (h : s.FeedReady a x) (hh : rs.any s.runHolds = true) :
    s.startFeed a x (.ok (rs, f)) = some (s.parkRuns .fe rs.flatten) := by
  obtain ⟨⟨-, hhead, -⟩, hprod, hroom⟩ := h
  have hprod' : ¬ (s.opQ a.q.toNat).prod ≠ Eng.fe.num := by rw [hprod]; decide
  rw [State.startFeed, hhead, if_neg (by decide), if_neg hprod']
  dsimp only
  rw [if_neg (Nat.not_lt.mpr hroom), if_pos hh]

theorem State.startDrainE_of_hold {t : State} {tr : Option Trap} {put : State → Lanes → List IoRun → State × Option Trap}
    (hhead : s.isHead .de x = true) (hcons : (s.opQ a.q.toNat).cons = 5) (hents : a.count.toNat ≤ (s.opQ a.q.toNat).ents.length)
    (hh : rs.any s.runHolds = true) : s.startDrainE a x true (.ok (rs, t, tr)) put = some (s.parkRuns .de rs.flatten) := by
  simp [State.startDrainE, hhead, hcons, Eng.num, Nat.not_lt.mpr hents, hh]

theorem State.startLd_of_hold (h : s.FeedReady a x)
    (hrs : s.entryRuns .fe .engine a (typeBytes a.typ.toNat) (fdBytes a) a.b.toInt (fun v => v * a.b.toInt) = .ok rs)
    (hh : rs.any s.runHolds = true) : s.startLd a x = some (s.parkRuns .fe rs.flatten) := by
  rw [State.startLd, hrs]
  exact State.startFeed_of_hold h hh

theorem State.startSt_of_hold (hhead : s.isHead .de x = true) (hcons : (s.opQ a.q.toNat).cons = 5)
    (hents : a.count.toNat ≤ (s.opQ a.q.toNat).ents.length)
    (hrs : s.entryRuns .de .engine a (typeBytes a.typ.toNat) (fdBytes a) a.b.toInt (fun v => v * a.b.toInt) = .ok rs)
    (hh : rs.any s.runHolds = true) : s.startSt a x = some (s.parkRuns .de rs.flatten) := by
  rw [State.startSt, State.stridedRuns, hrs]
  exact State.startDrainE_of_hold hhead hcons hents hh

/-- The access travels to its core, and the ring stop parks it. -/
theorem State.parkRuns_of_room (hf : rs.flatten = [(ga, n, .remote p o)]) (hs : s.core.sent = [])
    (hr : s.reach p s.vf = .atStop ∨ s.reach p s.vf = .inImage k) (hroom : s.parkRoom (s.reach p s.vf) = true) :
    s.parkRuns e rs.flatten =
      (s.upd (fun c => { c with sent := c.sent ++ [⟨e.num, p, o, none⟩] })).parkAt p (s.reach p s.vf) (.run s.cur e.num p o) := by
  obtain h | h := hr <;> simp [State.parkRuns, hf, State.parkRun, h ▸ hroom, h, hs]

/-! What the hardware stores leaves the images, and all of the core but its L1. -/

theorem State.hwAfter_frame (s t : State) (a n q : Nat) (ctx : BitVec 9) :
    (s.hwAfter t a n q ctx).core = t.core ∧ (s.hwAfter t a n q ctx).images = t.images := by
  rw [State.hwAfter, State.llcWrites_eq]
  exact ⟨rfl, rfl⟩

theorem State.hwWriteFor_frame (s : State) (q : Nat) (ctx : BitVec 9) (a : Nat) (l : List Byte) :
    (s.hwWriteFor q ctx a l).core = s.core ∧ (s.hwWriteFor q ctx a l).images = s.images := by
  obtain ⟨hc, hi⟩ := s.hwAfter_frame (s.writeBytes a l) a l.length q ctx
  have hw : (s.writeBytes a l).core = s.core ∧ (s.writeBytes a l).images = s.images := by simp [State.writeBytes]
  exact ⟨hc.trans hw.1, hi.trans hw.2⟩

theorem State.hwStore8_frame (s : State) (a : Nat) (v : W64) :
    (s.hwStore8 a v).core = { s.core with l1 := (s.hwStore8 a v).core.l1 } ∧ (s.hwStore8 a v).images = s.images := by
  obtain ⟨hc, hi⟩ := s.hwWriteFor_frame s.part s.vf a (leBytes 8 v.toNat)
  simp only [State.hwStore8, State.hwWrite, hc, hi]
  exact ⟨trivial, trivial⟩

theorem State.writeParked_frame (s : State) (g : SavedImage) (j : Nat) :
    (s.writeParked g j).core = s.core ∧ (s.writeParked g j).images = s.images := State.hwAfter_frame ..

theorem State.countParked_frame (s : State) (k : Nat) :
    (s.countParked k).core = { s.core with l1 := (s.countParked k).core.l1 } ∧ (s.countParked k).images = s.images := by
  unfold State.countParked
  split
  · dsimp only
    split
    · exact s.hwStore8_frame _ _
    · split
      · exact s.hwStore8_frame _ _
      · exact ⟨rfl, rfl⟩
  · exact ⟨rfl, rfl⟩

/-- What the count of parked entries leaves in memory depends on memory and the images alone. -/
theorem State.countParked_mem_congr {t : State} (hm : s.mem = t.mem) (hi : s.images = t.images) (k : Nat) :
    (s.countParked k).mem = (t.countParked k).mem := by
  have hw (a : Nat) (v : W64) : (s.hwStore8 a v).mem = (t.hwStore8 a v).mem := by
    simp only [State.hwStore8, State.hwWrite_mem]
    exact State.putBytes_mem_congr hm _ _
  unfold State.countParked
  rw [hi]
  split
  · dsimp only
    split
    · exact hw _ _
    · split
      · exact hw _ _
      · exact hm
  · exact hm

theorem State.writeParked_mem_congr {t : State} (hm : s.mem = t.mem) (g : SavedImage) (j : Nat) :
    (s.writeParked g j).mem = (t.writeParked g j).mem := by
  simp only [State.writeParked, State.hwBlock_mem, State.putBlock, hm]

/-- Parking in an image: its list, its bytes and its count, and of the core in focus no more than the L1. -/
theorem State.parkInImage_effect {g : SavedImage} {w : Parked} (h : s.images.find? (fun i => i.id == k) = some g) :
    (s.parkInImage k w).mem = ((s.countParked k).writeParked g g.parked.length).mem ∧
      (s.parkInImage k w).images = s.images.map (fun i => if i.id = k then { i with parked := i.parked ++ [w] } else i) ∧
      (s.parkInImage k w).core = { s.core with l1 := (s.parkInImage k w).core.l1 } := by
  obtain ⟨hcore, himg⟩ := s.countParked_frame k
  obtain ⟨hcore', himg'⟩ := (s.countParked k).writeParked_frame g g.parked.length
  simp only [State.parkInImage, himg, h, himg', hcore']
  exact ⟨trivial, trivial, hcore⟩

/-! The two parking places. -/

/-- What parking leaves of the core in focus: the access is remembered as under way. -/
def State.Sent (s t : State) (e : Eng) (p o : Nat) : Prop :=
  t.core.sent = [⟨e.num, p, o, none⟩] ∧ t.core.eng = s.core.eng ∧ t.core.vx = s.core.vx

theorem State.parkAt_atStop (hs : s.core.sent = []) (hp : p ≠ s.cur) (w : Parked) :
    let t := (s.upd (fun c => { c with sent := c.sent ++ [⟨e.num, p, o, none⟩] })).parkAt p .atStop w
    (t.coreAt p).parked = (s.coreAt p).parked ++ [w] ∧ s.Sent t e p o ∧ t.mem = s.mem := by
  have hc : (s.upd (fun c => { c with sent := c.sent ++ [⟨e.num, p, o, none⟩] })).coreAt p = s.coreAt p :=
    (if_neg hp).trans (if_neg hp).symm
  simp only [State.parkAt, State.updAt, hc, State.coreAt_setCoreAt_self]
  simp [State.setCoreAt, State.upd, hp, State.Sent, hs]

theorem State.parkAt_inImage {g : SavedImage} (hs : s.core.sent = []) (h : s.images.find? (fun i => i.id == k) = some g) (w : Parked) :
    let t := (s.upd (fun c => { c with sent := c.sent ++ [⟨e.num, p, o, none⟩] })).parkAt p (.inImage k) w
    s.Sent t e p o ∧ t.mem = ((s.countParked k).writeParked g g.parked.length).mem ∧
      t.images = s.images.map (fun i => if i.id = k then { i with parked := i.parked ++ [w] } else i) := by
  obtain ⟨hmem, himg, hcore⟩ := State.parkInImage_effect (w := w)
    (s := s.upd (fun c => { c with sent := c.sent ++ [⟨e.num, p, o, none⟩] })) h
  dsimp only [State.parkAt]
  refine ⟨?_, ?_, himg⟩
  · rw [State.Sent, hcore]; exact ⟨by simp [State.upd, hs], rfl, rfl⟩
  · rw [hmem]
    exact State.writeParked_mem_congr (State.countParked_mem_congr (by rfl) (by rfl) k) g _

/-- A parked access of the core itself, applied where the context has resumed, goes on to that core. -/
theorem State.resolve_applyParked (m : Nat) (h : s.core.sent = [⟨e.num, p, o, none⟩]) :
    (s.applyParked m [.run s.cur e.num p o]).resolve e (.remote p o) = .remote m o := by
  simp [State.applyParked, State.sentTurns, State.updAt, State.setCoreAt, h, State.resolve]

/-- An engine access that its start parks, at the ring stop or in an image (R350, R355). -/
theorem State.parks_of_start {i : Instr} {g : State → Entry → Option State} (hready : s.ready e = some x) (hstamp : x.stamped e = false)
    (hi : exec i s = .next (s.starting e g))
    (hg : rs.any s.runHolds = true → g s x = some (s.parkRuns e rs.flatten)) (hq : s.scrubq = []) (hs : s.core.sent = [])
    (hf : rs.flatten = [(ga, n, .remote p o)]) (hp : p ≠ s.cur) (w : SavedImage) :
    (s.reach p s.vf = .atStop → ∃ t, exec i s = .next t ∧ (t.coreAt p).parked = (s.coreAt p).parked ++ [.run s.cur e.num p o] ∧
      t.core.sent = [⟨e.num, p, o, none⟩] ∧ t.core.eng = s.core.eng ∧ t.core.vx = s.core.vx ∧ t.mem = s.mem) ∧
    (s.reach p s.vf = .inImage k → s.images.find? (fun i => i.id == k) = some w →
      (w.hasRoom = false → exec i s = .next s) ∧
      (w.hasRoom = true → ∃ t, exec i s = .next t ∧ t.core.sent = [⟨e.num, p, o, none⟩] ∧ t.core.eng = s.core.eng ∧
        t.core.vx = s.core.vx ∧ t.mem = ((s.countParked k).writeParked w w.parked.length).mem ∧
        t.images = s.images.map (fun i => if i.id = k then { i with parked := i.parked ++ [.run s.cur e.num p o] } else i))) := by
  have hexec (h : s.reach p s.vf = .atStop ∨ s.reach p s.vf = .inImage k) : exec i s = .next (s.parkRuns e rs.flatten) := by
    rw [hi, State.starting_eq hready hstamp, hg (State.any_runHolds_of_flatten hf (State.goTo_of_parked h)),
      State.scrubGuard_of_empty hq, Option.getD_some]
  refine ⟨fun hr => ?_, fun hr hw => ⟨fun hroom => ?_, fun hroom => ?_⟩⟩
  · obtain ⟨hpark, ⟨hsent, heng, hvx⟩, hmem⟩ := State.parkAt_atStop (e := e) (o := o) hs hp (.run s.cur e.num p o)
    refine ⟨_, hexec (.inl hr), ?_⟩
    rw [State.parkRuns_of_room (k := k) hf hs (.inl hr) (by rw [hr]; rfl), hr]
    exact ⟨hpark, hsent, heng, hvx, hmem⟩
  · rw [hexec (.inr hr), hf]
    simp [State.parkRuns, State.parkRun, hr, State.parkRoom, hw, hroom]
  · obtain ⟨⟨hsent, heng, hvx⟩, hmem, himg⟩ := State.parkAt_inImage (e := e) (p := p) (o := o) hs hw (.run s.cur e.num p o)
    refine ⟨_, hexec (.inr hr), ?_⟩
    rw [State.parkRuns_of_room hf hs (.inr hr) (by rw [hr]; simp [State.parkRoom, hw, hroom]), hr]
    exact ⟨hsent, heng, hvx, hmem, himg⟩

end Parking

/-- Settles O24: each limited form by what its reads give; the parked access by the place where its core's stop keeps it. -/
theorem feedEntries : Obligations.FeedEntries := by
  unfold Obligations.FeedEntries
  refine ⟨fun a x s => ?_, fun a x rs ga n p o k m w s => ?_⟩
  · intro n q b hstart hprod hroom
    have h : s.FeedReady a x := ⟨hstart, hprod, hroom⟩
    refine ⟨fun rs hrs hc => State.feLd_feeds h hrs hc, fun rs hrs hc => State.feUnpk_feeds h hrs hc, fun hm => State.feBcst_imm_feeds h hm,
      fun rs hm hrs hc => State.feBcst_feeds h hm hrs hc, State.feAgen_feeds h, fun r hr hc => State.feIdx_feeds h hr hc,
      fun d rs hd hrs hc => ?_⟩
    refine ⟨_, ?_, State.feLdg_feeds h hd hrs hc, fun v l hv hl hconv hnone => ?_, fun v l y hv hl hconv hy => ?_⟩
    · simpa using (mapM_getElem hrs).1
    · rw [State.lane_coordEntry hrs hv hl hconv hnone, State.coordElem, Option.elim_none, leNat_replicate_zero, widenTo_zero]
    · rw [State.lane_coordEntry hrs hv hl hconv hy, State.coordElem, Option.elim_some]
  · intro b size parks hq
    refine ⟨fun hstart hprod hroom hrs hs hf hp => ?_, fun hstart hcons hents hrs hs hf hp => ?_, fun e h => State.resolve_applyParked m h⟩
    · refine State.parks_of_start (e := .fe) (g := fun s x => s.startLd a x) hstart.1 hstart.2.2 rfl (fun hh => ?_) hq hs hf hp w
      exact State.startLd_of_hold ⟨hstart, hprod, hroom⟩ hrs hh
    · refine State.parks_of_start (e := .de) (g := fun s x => s.startSt a x) hstart.1 hstart.2.2 rfl (fun hh => ?_) hq hs hf hp w
      exact State.startSt_of_hold hstart.2.1 hcons hents hrs hh

end Sys2Proof.Machine
end

section
/-!
MX.GO and the tiles (R212 to R214, R218 to R220). Settles O34.
-/

namespace Sys2Proof.Machine

/-! ### What a read leaves of the core, poison included (R144, R345) -/

/-- t has the core of s but for the L1. -/
def State.KeepsCore (s t : State) : Prop := t.core = { s.core with l1 := t.core.l1 }

section KeepsCore
variable {s t u : State}

theorem State.KeepsCore.refl (s : State) : s.KeepsCore s := rfl

theorem State.KeepsCore.trans (h : s.KeepsCore t) (k : t.KeepsCore u) : s.KeepsCore u := by
  unfold State.KeepsCore at h k ⊢
  exact k.trans (by rw [h])

theorem State.keepsCore_foldl {α : Type} {f : State → α → State} (h : ∀ (s : State) a, s.KeepsCore (f s a)) (l : List α) (s : State) :
    s.KeepsCore (l.foldl f s) := by
  induction l generalizing s with
  | nil => exact .refl s
  | cons a l ih => exact (h s a).trans (ih _)

theorem State.ReadsTo.keepsCore (h : s.ReadsTo t) : s.KeepsCore t := by
  unfold State.KeepsCore
  rw [State.ReadsTo] at h
  rw [h]

theorem State.hwStore8_keepsCore (s : State) (a : Nat) (v : W64) : s.KeepsCore (s.hwStore8 a v) := (s.hwStore8_frame a v).1

theorem State.setPf_keepsCore (s : State) (r : Nat) (v : W64) : s.KeepsCore (s.setPf r v) := by
  rw [State.KeepsCore, State.setPf_core]

theorem State.poisonLog_keepsCore (s : State) (kind eng a ga : Nat) (seq : W32) : s.KeepsCore (s.poisonLog kind eng a ga seq) := by
  unfold State.poisonLog
  dsimp only
  split
  · exact s.setPf_keepsCore ..
  · exact (s.hwStore8_keepsCore ..).trans ((State.hwStore8_keepsCore ..).trans (State.setPf_keepsCore ..))

theorem State.readZ_keepsCore (s : State) (eng : Nat) (seq : W32) (l : Loc) (n : Nat) : s.KeepsCore (s.readZ eng seq l n).2 :=
  (State.keepsCore_foldl (fun (s : State) _ => s.poisonLog_keepsCore ..) _ s).trans (State.touchRead_readsTo ..).keepsCore

theorem State.readSpan_keepsCore (s : State) (eng : Nat) (seq : W32) (det pois : Bool) (ga n : Nat) (pl : Place) :
    s.KeepsCore (s.readSpan eng seq det pois ga n pl).st := by
  unfold State.readSpan
  split
  · exact .refl s
  · exact .refl s
  · exact (s.judge_readsTo ..).keepsCore.trans (State.readZ_keepsCore ..)

theorem State.readRuns_keepsCore (s : State) (eng : Nat) (seq : W32) (det pois : Bool) (r : List IoRun) :
    s.KeepsCore (s.readRuns eng seq det pois r).st := by
  induction r generalizing s with
  | nil => exact .refl s
  | cons y r ih => exact (s.readSpan_keepsCore ..).trans (ih _)

end KeepsCore

/-! ### What a tile reads (R205, R212, R219) -/

section TileReads
variable {s t : State} {g : Go}

/-- Places do not depend on what reads note. -/
theorem State.ReadsTo.spanPlace (h : s.ReadsTo t) (ag : Agent) (tid off n : Nat) : t.spanPlace ag tid off n = s.spanPlace ag tid off n := by
  rw [h]; rfl

theorem State.ReadsTo.ownRuns (h : s.ReadsTo t) (l : List (Nat × Nat)) : t.ownRuns l = s.ownRuns l := by
  simp only [State.ownRuns, h.spanPlace]

theorem State.ownRuns_append (s : State) (l k : List (Nat × Nat)) : s.ownRuns (l ++ k) = s.ownRuns l ++ s.ownRuns k :=
  List.filterMap_append

theorem State.mem_ownRuns_of_subset {l k : List (Nat × Nat)} (h : l ⊆ k) {y : IoRun} (hy : y ∈ s.ownRuns l) : y ∈ s.ownRuns k := by
  obtain ⟨r, hr, hz⟩ := List.mem_filterMap.mp hy
  exact List.mem_filterMap.mpr ⟨r, h hr, hz⟩

theorem State.tileRead_of_clean (g : Go) {l : List (Nat × Nat)} (ht : s.ReadsTo t) (h : ∀ y ∈ s.ownRuns l, s.CleanRun y) :
    (t.tileRead g l).data = s.runsData (s.ownRuns l) ∧ s.ReadsTo (t.tileRead g l).st := by
  obtain ⟨hd, hst⟩ := State.readRuns_of_clean (s := t) (r := s.ownRuns l) (fun y hy => (ht.cleanRun y).mpr (h y hy))
    Eng.mx.num g.seq g.det g.opnd.pois
  rw [State.tileRead, ht.ownRuns]
  exact ⟨hd.trans (ht.runsData _), ht.trans hst⟩

theorem State.tileRead_keepsCore (s : State) (g : Go) (l : List (Nat × Nat)) : s.KeepsCore (s.tileRead g l).st := s.readRuns_keepsCore ..

/-- The LOAD rows read, and the blocks of a step. -/
def State.loadReads (s : State) (g : Go) (l : List (Nat × Nat)) : TileData :=
  l.foldl (fun (r : TileData) q =>
    let d := r.s.tileRead g [q]
    { r with load := r.load ++ [d.data], s := d.st, trap := r.trap.or d.trap }) ⟨[], [], [], s, none⟩

def TileData.stepReads (r : TileData) (g : Go) (t : Nat) (ks : List Nat) : TileData :=
  ks.foldl (fun (r : TileData) k =>
    let p := r.s.tileRead g (g.aRuns t k)
    let q := p.st.tileRead g (g.bRuns t k)
    { r with a := r.a ++ [p.data], b := r.b ++ [q.data], s := q.st, trap := (r.trap.or p.trap).or q.trap }) r

theorem State.tileData_eq (s : State) (g : Go) (t : Nat) :
    s.tileData g t = (s.loadReads g (g.loadRuns t)).stepReads g t (List.range g.steps) := rfl

theorem State.loadReads_concat (s : State) (g : Go) (l : List (Nat × Nat)) (q : Nat × Nat) : s.loadReads g (l ++ [q]) =
    { s.loadReads g l with load := (s.loadReads g l).load ++ [((s.loadReads g l).s.tileRead g [q]).data],
                           s := ((s.loadReads g l).s.tileRead g [q]).st,
                           trap := (s.loadReads g l).trap.or ((s.loadReads g l).s.tileRead g [q]).trap } := by
  simp only [State.loadReads, List.foldl_append, List.foldl_cons, List.foldl_nil]

/-- One step of a tile's reads after others. -/
theorem TileData.stepReads_concat (r : TileData) (g : Go) (t : Nat) (ks : List Nat) (k : Nat) :
    (r.stepReads g t (ks ++ [k])).a = (r.stepReads g t ks).a ++ [((r.stepReads g t ks).s.tileRead g (g.aRuns t k)).data] ∧
    (r.stepReads g t (ks ++ [k])).b = (r.stepReads g t ks).b ++
      [(((r.stepReads g t ks).s.tileRead g (g.aRuns t k)).st.tileRead g (g.bRuns t k)).data] ∧
    (r.stepReads g t (ks ++ [k])).s = (((r.stepReads g t ks).s.tileRead g (g.aRuns t k)).st.tileRead g (g.bRuns t k)).st := by
  simp only [TileData.stepReads, List.foldl_append, List.foldl_cons, List.foldl_nil, and_self]

theorem State.loadReads_keepsCore (s : State) (g : Go) (l : List (Nat × Nat)) : s.KeepsCore (s.loadReads g l).s := by
  induction l using List.reverseRecOn with
  | nil => exact .refl s
  | append_singleton l q ih => rw [State.loadReads_concat]; exact ih.trans (State.tileRead_keepsCore ..)

theorem TileData.stepReads_keepsCore (r : TileData) (g : Go) (t : Nat) (ks : List Nat) : r.s.KeepsCore (r.stepReads g t ks).s := by
  induction ks using List.reverseRecOn with
  | nil => exact .refl r.s
  | append_singleton ks k ih =>
    rw [(r.stepReads_concat g t ks k).2.2]
    exact ih.trans ((State.tileRead_keepsCore ..).trans (State.tileRead_keepsCore ..))

theorem State.tileData_keepsCore (s : State) (g : Go) (t : Nat) : s.KeepsCore (s.tileData g t).s := by
  rw [State.tileData_eq]
  exact (s.loadReads_keepsCore g _).trans (TileData.stepReads_keepsCore ..)

theorem State.loadReads_of_clean {l : List (Nat × Nat)} (h : ∀ y ∈ s.ownRuns l, s.CleanRun y) :
    (s.loadReads g l).a = [] ∧ (s.loadReads g l).b = [] ∧ s.ReadsTo (s.loadReads g l).s := by
  induction l using List.reverseRecOn with
  | nil => exact ⟨rfl, rfl, .refl s⟩
  | append_singleton l q ih =>
    obtain ⟨ha, hb, hst⟩ := ih fun y hy => h y (State.mem_ownRuns_of_subset (List.subset_append_left _ _) hy)
    rw [State.loadReads_concat]
    exact ⟨ha, hb, (State.tileRead_of_clean g hst fun y hy => h y (State.mem_ownRuns_of_subset (List.subset_append_right _ _) hy)).2⟩

theorem TileData.stepReads_of_clean {r : TileData} {n : Nat} {ks : List Nat} (hr : s.ReadsTo r.s)
    (h : ∀ k ∈ ks, (∀ y ∈ s.ownRuns (g.aRuns n k), s.CleanRun y) ∧ ∀ y ∈ s.ownRuns (g.bRuns n k), s.CleanRun y) :
    (r.stepReads g n ks).a = r.a ++ ks.map (fun k => s.runsData (s.ownRuns (g.aRuns n k))) ∧
    (r.stepReads g n ks).b = r.b ++ ks.map (fun k => s.runsData (s.ownRuns (g.bRuns n k))) ∧ s.ReadsTo (r.stepReads g n ks).s := by
  induction ks using List.reverseRecOn with
  | nil => exact ⟨by simp [TileData.stepReads], by simp [TileData.stepReads], hr⟩
  | append_singleton ks k ih =>
    obtain ⟨ha, hb, hst⟩ := ih fun j hj => h j (List.mem_append_left _ hj)
    obtain ⟨hca, hcb⟩ := h k (by simp)
    obtain ⟨hsa, hsb, hss⟩ := r.stepReads_concat g n ks k
    obtain ⟨hda, hta⟩ := State.tileRead_of_clean g hst hca
    obtain ⟨hdb, htb⟩ := State.tileRead_of_clean g hta hcb
    rw [hsa, hsb, hss, ha, hb, hda, hdb]
    simp [htb]

/-- The operands of a tile are the bytes at the addresses of its steps (R205, R219). -/
theorem State.tileData_of_clean {n : Nat} (h : ∀ y ∈ s.ownRuns (g.tileRuns n), s.CleanRun y) :
    (s.tileData g n).a = (List.range g.steps).map (fun k => s.runsData (s.ownRuns (g.aRuns n k))) ∧
    (s.tileData g n).b = (List.range g.steps).map (fun k => s.runsData (s.ownRuns (g.bRuns n k))) := by
  have hstep (k : Nat) (hk : k ∈ List.range g.steps) : g.aRuns n k ++ g.bRuns n k ⊆ g.tileRuns n := fun y hy =>
    List.mem_append_right _ (List.mem_flatten.mpr ⟨_, List.mem_map.mpr ⟨k, hk, rfl⟩, hy⟩)
  obtain ⟨ha, hb, hst⟩ := State.loadReads_of_clean (g := g) fun y hy =>
    h y (State.mem_ownRuns_of_subset (k := g.tileRuns n) (List.subset_append_left _ _) hy)
  obtain ⟨ha', hb', -⟩ := TileData.stepReads_of_clean (g := g) (n := n) (ks := List.range g.steps) hst fun k hk =>
    ⟨fun y hy => h y (State.mem_ownRuns_of_subset (fun z hz => hstep k hk (List.mem_append_left _ hz)) hy),
      fun y hy => h y (State.mem_ownRuns_of_subset (fun z hz => hstep k hk (List.mem_append_right _ hz)) hy)⟩
  rw [State.tileData_eq, ha', hb', ha, hb]
  exact ⟨rfl, rfl⟩

end TileReads

/-! ### A tile computed (R212, R214, R219) -/

section Compute
variable {s : State} {g : Go}

theorem accLane_ofRange (f : Nat → Lanes) {r : Nat} (hr : r < 128) (l : Nat) :
    accLane ⟨((List.range 128).map f).toArray, by simp⟩ r l = lane (f r) l := by
  simp [accLane, hr]

/-- A real cell of a computed accumulator. -/
theorem Go.computed_real (k : Nat) (a : Acc) (d : TileData) (hc : mxCplx g.opnd.ta = false) {r l : Nat} (hr : r < 128) (hl : l < 64) :
    let c := g.cell (k + 3 * (mxKk g.opnd.ta * g.steps + 1) * (64 * r + l)) (accLane a.rows r l) (accLane a.comp r l)
      (operand id g.opnd.la 128 (mxKk g.opnd.ta) (mxBytes g.opnd.ta) d.a r)
      (operand id g.opnd.lb 64 (mxKk g.opnd.ta) (mxBytes g.opnd.ta) d.b l)
    accLane (g.computed k a d).rows r l = c.1 ∧ accLane (g.computed k a d).comp r l = c.2 := by
  have hrows : mxRows g.opnd.ta = 128 := by simp [mxRows, hc]
  have hcols : mxCols g.opnd.ta = 64 := by simp [mxCols, hc]
  have hin : ¬ 128 ≤ r := by omega
  simp only [Go.computed, accLane_ofRange _ hr, lane_lanesOf _ hl, hrows, hcols, hc, if_neg hin, Bool.false_eq_true, if_false, and_self]

/-- A word of a complex cell of a computed accumulator. -/
theorem Go.computed_cplx (k : Nat) (a : Acc) (d : TileData) (hc : mxCplx g.opnd.ta = true) {r l : Nat} (hr : r < 64) (hl : l < 64) :
    accLane (g.computed k a d).rows r l = g.cplxCell (k + 3 * (mxKk g.opnd.ta * g.steps + 1) * (64 * r + l)) (accLane a.rows r l)
      (decide (l % 2 = 1)) (operand id g.opnd.la 64 (mxKk g.opnd.ta) (mxBytes g.opnd.ta) d.a r)
      (operand id g.opnd.lb 32 (mxKk g.opnd.ta) (mxBytes g.opnd.ta) d.b (l / 2)) := by
  have hrows : mxRows g.opnd.ta = 64 := by simp [mxRows, hc]
  have hcols : mxCols g.opnd.ta = 32 := by simp [mxCols, hc]
  have hin : ¬ 64 ≤ r := by omega
  have hr' : r < 128 := by omega
  simp only [Go.computed, accLane_ofRange _ hr', lane_lanesOf _ hl, hrows, hcols, hc, if_neg hin, if_true]

/-- What the compute of a tile leaves of MX: its accumulator, the next accumulator, the tile that waits for its drain. -/
theorem State.tileDone_mx (s : State) (g : Go) (b : Nat) (d : TileData) (h : s.KeepsCore d.s) :
    let m := s.core.mx
    let n := m.na
    (s.tileDone g b d).core.mx.accs = m.accs.setIfInBounds n (g.computed s.free (g.begun (m.accAt n) d.load) d) ∧
    (s.tileDone g b d).core.mx.na = (if g.acc.drn then n else 1 - n) ∧
    (s.tileDone g b d).core.mx.tiles =
      m.tiles ++ [⟨g.seq, g.next, n, g.row0 g.next, g.col0 g.next, mxRows g.opnd.ta, g.eps, none, false, g.stepsAt b + g.steps + 6⟩] := by
  have hmx : (if g.prof = 0 then { d.s with free := d.s.free + 3 * 64 * 128 * (mxKk g.opnd.ta * g.steps + 1) } else d.s).core.mx =
      s.core.mx := by
    rw [State.KeepsCore] at h
    split <;> rw [h]
  simp only [State.tileDone, State.updGo, State.updMx, State.updEntry, State.updEng, State.upd, hmx]
  exact ⟨trivial, trivial, trivial⟩

end Compute

/-! ### The start of MX.GO and of a tile (R213, R218, R219, R348) -/

section Begin
variable {s t u : State} {e : Eng} {x : Entry} {a : GoArgs} {g : Go} {r : Reading}

theorem State.EntryAt.congr {p : Phase} (h : s.EntryAt t e x p) (htok : u.core.tok = t.core.tok) (heng : u.core.eng = t.core.eng)
    (hpc : u.core.pc = t.core.pc) (hs : u.core.s = t.core.s) : s.EntryAt u e x p := by
  obtain ⟨h1, h2, h3, h4, h5⟩ := h
  refine ⟨htok.trans h1, ?_, hpc.trans h3, hs.trans h4, fun f hf => (State.eng_congr heng f).trans (h5 f hf)⟩
  rw [State.eng_congr heng]
  exact h2

theorem State.starting_of_frozen (h : s.frozen = true) (f : State → Entry → Option State) : s.starting e f = s := by
  simp [State.starting, State.ready, h]

/-- A refusal before the start holds the cause and stops the queues, and starts nothing. -/
theorem State.refuse_effect (h : (s.eng e).held = none) (c : Trap) :
    (s.refuse e x c).eng e = { s.eng e with held := some ⟨c, x.seq, s.order⟩ } ∧
      (s.refuse e x c).core = { s.core with
        wait := (s.refuse e x c).core.wait, qstop := true, eng := (s.refuse e x c).core.eng } ∧
      (s.refuse e x c).scrubq = s.scrubq := by
  have hr : s.refuse e x c = s.engineFault e c x.seq := by simp [State.refuse, h]
  rw [hr]
  refine ⟨State.engineFault_eng_self .., ?_, rfl⟩
  rw [State.engineFault_core]

theorem State.frozen_of_live (hs : s.core.scanned = false) (hp : s.boot.power ≠ .stopped) : s.frozen = false := by
  simp [State.frozen, hs, hp]

theorem State.startGo_of_pass (ha : s.core.mx.arrayFree = true) (hf : s.core.mx.accFree s.core.mx.na = true)
    (hc : s.goCheck (s.goOf a x) = none) : s.startGo a x = some ((s.start .mx x .started).updMx
      (fun m => { m with active := m.staging, gos := m.gos ++ [s.goOf a x] })) := by
  simp [State.startGo, ha, hf, hc]

theorem State.startGo_of_fail {c : Trap} (ha : s.core.mx.arrayFree = true) (hf : s.core.mx.accFree s.core.mx.na = true)
    (hc : s.goCheck (s.goOf a x) = some c) : s.startGo a x = some (s.refuse .mx x c) := by
  simp [State.startGo, ha, hf, hc]

theorem State.nextTile_eq (hq : s.core.qstop = false) (hf : s.core.mx.accFree s.core.mx.na = true) (hr : s.core.mx.reading = none) :
    s.nextTile = s.core.mx.gos.find? (fun g => decide (g.next < g.total)) := by
  simp [State.nextTile, hq, hf, hr]

/-- No tile reads: the next one begins, read by read while EP may store for an earlier one. -/
theorem execMxTileBegin_of_next (hl : s.frozen = false) (hr : s.core.mx.reading = none) (hn : s.nextTile = some g) :
    execMxTileBegin s = .next (if s.core.mx.mayStore then s.readBegin g
      else if (g.tileRuns g.next).any (fun r => s.sbHit r.1 r.2) then s.rsbStall else s.tileBegin g) := by
  simp [execMxTileBegin, hl, hr, hn]

/-- A tile that reads goes on once EP has nothing to store. -/
theorem execMxTileBegin_of_reading (hl : s.frozen = false) (hr : s.core.mx.reading = some r) :
    execMxTileBegin s = .next (if s.core.mx.mayStore then s else (s.readDue none).getD s.readStall) := by
  simp [execMxTileBegin, hl, hr]

theorem State.readDue_eq (hr : s.core.mx.reading = some r) (hg : s.core.mx.goAt r.go = some g) (upto : Option Nat) :
    s.readDue upto = s.readOn g r upto (128 + g.steps) := by
  simp [State.readDue, hr, hg]

theorem State.readOn_of_done (hn : r.next g = none) (upto : Option Nat) (fuel : Nat) :
    s.readOn g r upto fuel = some (s.tileDone g r.begins ⟨r.load, r.a, r.b, s, r.trap⟩) := by
  cases fuel <;> simp [State.readOn, hn]

theorem State.readOn_of_held {k : Nat} {l : List (Nat × Nat)} {fuel : Nat} (hn : r.next g = some (k, l)) (hf : fuel ≠ 0)
    (hh : l.any (fun q => s.sbHit q.1 q.2) = true) : s.readOn g r none fuel = none := by
  cases fuel with
  | zero => exact absurd rfl hf
  | succ n => simp [State.readOn, hn, hh]

theorem State.readStall_of_reading (hr : s.core.mx.reading = some r) : s.readStall = { s with
    core := { s.core with rsbHeld := true, mx := { s.core.mx with reading := some { r with held := true } } } } := by
  simp only [State.readStall, State.rsbStall, State.updMx, State.upd, hr, Option.map_some]

end Begin

/-! ### Settled -/

section Matrix
variable {s : State} {a : GoArgs} {x : Entry} {g : Go}

theorem State.mxGo_starts (hready : s.ready .mx = some x) (hstamp : x.stamped .mx = false) (ha : s.core.mx.arrayFree = true)
    (hf : s.core.mx.accFree s.core.mx.na = true) (hc : s.goCheck (s.goOf a x) = none) :
    ∃ t, exec (.mxGo a) s = .next t ∧
      t.core.mx = { s.core.mx with active := s.core.mx.staging, gos := s.core.mx.gos ++ [s.goOf a x] } ∧ t.mem = s.mem ∧
      s.EntryAt t .mx x .started := by
  let t : State := (s.start .mx x .started).updMx (fun m => { m with active := m.staging, gos := m.gos ++ [s.goOf a x] })
  have hexec : execMxGo a s = .next t := by
    rw [execMxGo, State.starting_eq hready hstamp, State.startGo_of_pass ha hf hc, Option.getD_some]
    exact congrArg Host.Outcome.next (State.scrubGuard_of_scrubq rfl)
  have hentry : s.EntryAt (s.start .mx x .started) .mx x .started :=
    State.entryAt_start (State.mem_of_ready hready) rfl rfl rfl rfl
  exact ⟨t, hexec, rfl, rfl, hentry.congr rfl rfl rfl rfl⟩

theorem State.mxGo_fails {c : Trap} (hready : s.ready .mx = some x) (hstamp : x.stamped .mx = false) (ha : s.core.mx.arrayFree = true)
    (hf : s.core.mx.accFree s.core.mx.na = true) (hc : s.goCheck (s.goOf a x) = some c) (hheld : (s.eng .mx).held = none) :
    ∃ t h, exec (.mxGo a) s = .next t ∧ (t.eng .mx).held = some h ∧ h.trap = c ∧ h.seq = x.seq ∧
      t.core.mx = s.core.mx ∧ (t.eng .mx).q = (s.eng .mx).q ∧ t.core.tok = s.core.tok ∧ t.core.qstop = true := by
  obtain ⟨heng, hcore, hsq⟩ := State.refuse_effect (x := x) hheld c
  have hexec : execMxGo a s = .next (s.refuse .mx x c) := by
    rw [execMxGo, State.starting_eq hready hstamp, State.startGo_of_fail ha hf hc, Option.getD_some, State.scrubGuard_of_scrubq hsq]
  refine ⟨s.refuse .mx x c, ⟨c, x.seq, s.order⟩, hexec, ?_, rfl, rfl, ?_, ?_, ?_, ?_⟩
  · rw [heng]
  · rw [hcore]
  · rw [heng]
  · rw [hcore]
  · rw [hcore]

/-- The next tile, its reads not held and nothing left for EP to store: read and computed in one step. -/
theorem State.tileBegin_effect (hl : s.frozen = false) (hr : s.core.mx.reading = none) (hn : s.nextTile = some g)
    (hm : s.core.mx.mayStore = false) (hh : (g.tileRuns g.next).any (fun r => s.sbHit r.1 r.2) = false) :
    let m := s.core.mx
    let d := s.tileData g g.next
    let t := s.tileBegin g
    exec .mxTileBegin s = .next t ∧ t.core.mx.accs = m.accs.setIfInBounds m.na (g.computed s.free (g.begun (m.accAt m.na) d.load) d) ∧
      t.core.mx.na = (if g.acc.drn then m.na else 1 - m.na) ∧
      t.core.mx.tiles = m.tiles ++ [⟨g.seq, g.next, m.na, g.row0 g.next, g.col0 g.next, mxRows g.opnd.ta, g.eps, none, false,
        g.stepsAt (m.beginsAt g) + g.steps + 6⟩] := by
  refine ⟨?_, s.tileDone_mx g (s.core.mx.beginsAt g) (s.tileData g g.next) (s.tileData_keepsCore g g.next)⟩
  change execMxTileBegin s = _
  rw [execMxTileBegin_of_next hl hr hn, hm, if_neg (by decide), hh, if_neg (by decide)]

end Matrix

/-- Settles O34: each step of MX by the branch of its definition; a tile's cells by the range that computes them. -/
theorem matrixCompute : Obligations.MatrixCompute := by
  unfold Obligations.MatrixCompute
  intro a x g s m go n d b kk e
  refine ⟨fun hready hstamp ha hf hc => ?_, fun c hready hstamp ha hf hc hheld => State.mxGo_fails hready hstamp ha hf hc hheld,
    fun hq hs hp hfind hf hr hm hh => ?_, fun hq hs hp hfind hf hr hm => ?_, fun hfr => ⟨?_, ?_⟩, fun r hm hr => ?_,
    fun r k rs hl hm hr hg hsteps hn hh => ?_, fun r hs hp hm hr hg hn => ?_, fun h => State.tileData_of_clean h⟩
  · obtain ⟨t, hexec, hmx, hmem, hentry⟩ := State.mxGo_starts hready hstamp ha hf hc
    exact ⟨t, hexec, hmx, hmem, rfl, hentry⟩
  · obtain ⟨hexec, haccs, hna, htiles⟩ := State.tileBegin_effect (State.frozen_of_live hs hp) hr ((State.nextTile_eq hq hf hr).trans hfind) hm hh
    refine ⟨s.tileBegin g, g.computed s.free b d, fun r l => s.free + 3 * (mxKk g.opnd.ta * g.steps + 1) * (64 * r + l),
      hexec, haccs, hna, htiles, rfl, fun hc r l hr hl => g.computed_real s.free b d hc hr hl,
      fun hc r l hr hl => g.computed_cplx s.free b d hc hr hl⟩
  · change execMxTileBegin s = _
    rw [execMxTileBegin_of_next (State.frozen_of_live hs hp) hr ((State.nextTile_eq hq hf hr).trans hfind), if_pos hm]
    rfl
  · change execMxGo a s = _
    rw [execMxGo, State.starting_of_frozen hfr]
  · change execMxTileBegin s = _
    simp only [execMxTileBegin, hfr, if_true]
  · change execMxTileBegin s = _
    by_cases hl : s.frozen = true
    · simp only [execMxTileBegin, hl, if_true]
    · rw [execMxTileBegin_of_reading (by simpa using hl) hr, if_pos hm]
  · change execMxTileBegin s = _
    rw [execMxTileBegin_of_reading hl hr, hm, if_neg (by decide), State.readDue_eq hr hg,
      State.readOn_of_held hn (by omega) hh, Option.getD_none, State.readStall_of_reading hr]
  · change execMxTileBegin s = _
    rw [execMxTileBegin_of_reading (State.frozen_of_live hs hp) hr, hm, if_neg (by decide), State.readDue_eq hr hg,
      State.readOn_of_done hn, Option.getD_some]

end Sys2Proof.Machine
end

section
/-!
What a VX instruction does in its issue slot (R172 to R183, R185, R187, R196 to R198). Settles O31.
-/

namespace Sys2Proof.Machine

/-! ### Tables of lanes and mask registers -/

theorem bit_maskOf (f : Nat → Bool) {l : Nat} (h : l < 64) : bit (maskOf f).toNat l = f l := by
  have hfold : (List.range 64).foldl (fun x l => if f l then x + 2 ^ l else x) 0 =
      ((List.range 64).filter f).foldl (fun x l => x + 2 ^ l) 0 := (List.foldl_filter ..).symm
  have hbit (i : Nat) : (((List.range 64).filter f).foldl (fun x l => x + 2 ^ l) 0).testBit i = (decide (i < 64) && f i) := by
    rw [testBit_foldl_two_pow (List.nodup_range.filter _) (by simp), Nat.zero_testBit, Bool.false_or, Bool.eq_iff_iff]
    simp
  rw [maskOf, hfold, bit_eq_testBit, BitVec.toNat_ofNat, Nat.testBit_mod_two_pow, hbit]
  simp [h]

section Lanes
variable {s t : State} {a : VxArgs} {l : Nat}

theorem State.maskReg_setMask_self (s : State) {n : Nat} (h : n < 8) (v : W64) : (s.setMask n v).maskReg n = v := by
  exact (getD_setIfInBounds _ _ _ _ _).trans (if_pos ⟨rfl, h⟩)

theorem State.maskReg_setMask_ne (s : State) {n k : Nat} (h : k ≠ n) (v : W64) : (s.setMask n v).maskReg k = s.maskReg k := by
  exact (getD_setIfInBounds _ _ _ _ _).trans (if_neg fun hk => h hk.1.symm)

theorem State.maskReg_congr (h : t.core.vx.m = s.core.vx.m) (n : Nat) : t.maskReg n = s.maskReg n := by simp [State.maskReg, h]

theorem State.active_congr (h : t.core.vx.m = s.core.vx.m) (a : VxArgs) (l : Nat) : t.active a l = s.active a l := by
  simp only [State.active, State.maskReg_congr h]

end Lanes

/-! ### The slot (R178, R179) -/

/-- t is s but for VX and its queue, whose entries keep their numbers and order. -/
structure State.SlotTo (s t : State) : Prop where
  eq : t = { s with core := { s.core with vx := t.core.vx, eng := t.core.eng } }
  eng : ∀ f, f ≠ .vx → t.eng f = s.eng f
  seqs : (t.eng .vx).q.map Entry.seq = (s.eng .vx).q.map Entry.seq

section Slot
variable {s t u : State} {x : Entry} {p : VxPend}

theorem State.SlotTo.refl (s : State) : s.SlotTo s := ⟨rfl, fun _ _ => rfl, rfl⟩

theorem State.SlotTo.trans (h : s.SlotTo t) (k : t.SlotTo u) : s.SlotTo u :=
  ⟨by rw [k.eq, h.eq], fun f hf => (k.eng f hf).trans (h.eng f hf), k.seqs.trans h.seqs⟩

theorem State.SlotTo.mem (h : s.SlotTo t) : t.mem = s.mem := by rw [h.eq]
theorem State.SlotTo.scrubq (h : s.SlotTo t) : t.scrubq = s.scrubq := by rw [h.eq]
theorem State.SlotTo.tok (h : s.SlotTo t) : t.core.tok = s.core.tok := by rw [h.eq]
theorem State.SlotTo.pc (h : s.SlotTo t) : t.core.pc = s.core.pc := by rw [h.eq]
theorem State.SlotTo.regs (h : s.SlotTo t) : t.core.s = s.core.s := by rw [h.eq]

theorem State.slotTo_of_vx (h : t = { s with core := { s.core with vx := t.core.vx } }) : s.SlotTo t := by
  have heng : t.core.eng = s.core.eng := by rw [h]
  exact ⟨by rw [h], fun f _ => State.eng_congr heng f, by rw [State.eng_congr heng]⟩

theorem map_seq_updEntry (l : List Entry) (seq : W32) (f : Entry → Entry) (h : ∀ y, (f y).seq = y.seq) :
    (l.map (fun y => if y.seq = seq then f y else y)).map Entry.seq = l.map Entry.seq := by
  rw [List.map_map]
  refine List.map_congr_left fun y _ => ?_
  simp only [Function.comp]
  split
  · exact h y
  · rfl

theorem State.finish_slotTo (s : State) (seq : W32) (c : Option Trap) : s.SlotTo (s.finish .vx seq c) :=
  ⟨rfl, fun f hf => State.updEntry_eng_ne seq _ hf, by
    rw [State.finish, State.updEntry_eng_self]; exact map_seq_updEntry _ _ _ fun _ => rfl⟩

theorem State.writeY_slotTo (s : State) (p : VxPend) : s.SlotTo (s.writeY p) := by
  unfold State.writeY
  split
  · exact .refl s
  · exact State.slotTo_of_vx rfl

theorem State.visible_slotTo (s : State) (p : VxPend) : s.SlotTo (s.visible p) := by
  unfold State.visible
  refine State.SlotTo.trans ?_ ((State.writeY_slotTo ..).trans (State.finish_slotTo ..))
  split
  · exact State.slotTo_of_vx rfl
  · exact State.slotTo_of_vx rfl
  · exact .refl s

theorem State.visibles_slotTo (l : List VxPend) (s : State) : s.SlotTo (l.foldl State.visible s) := by
  induction l generalizing s with
  | nil => exact .refl s
  | cons p l ih => exact (s.visible_slotTo p).trans (ih _)

/-- The pending results one slot nearer. -/
def State.vxTick (s : State) : State := s.upd (fun c => { c with vx := { c.vx with
  pend := (s.core.vx.pend.filter (fun p => p.left != 0)).map (fun p => { p with left := p.left - 1 }) } })

theorem State.vxSlot_eq (s : State) : s.vxSlot = (s.core.vx.pend.filter (fun p => p.left == 0)).foldl State.visible s.vxTick := rfl

theorem State.vxSlot_slotTo (s : State) : s.SlotTo s.vxSlot :=
  (State.slotTo_of_vx (t := s.vxTick) rfl).trans (State.visibles_slotTo ..)

/-! ### An entry that issues (R178, R181) -/

theorem Entry.stamped_vx (x : Entry) : x.stamped .vx = false := by simp [Entry.stamped, isLong]

/-- The state on which an entry that issues makes its effects: the slot has begun, the entry has started, its sources have popped. -/
def State.vxAt (s : State) (x : Entry) (srcs : List Nat) : State := (s.vxSlot.start .vx x .started).popSrcs srcs

theorem State.vxIssue_of_ok {srcs : List Nat} {dq : Option Nat} (h : s.VxIssues x srcs dq) (body : State → State) :
    s.vxIssue x srcs dq noSpad body = some (body (s.vxAt x srcs)) := by
  have hq : s.vxSlot.vxQueues srcs dq = .ok := h.2
  simp only [State.vxIssue, hq, noSpad]
  rfl

theorem State.popSrcs_slotTo (s : State) (srcs : List Nat) : s.SlotTo (s.popSrcs srcs) := by
  unfold State.popSrcs
  induction srcs generalizing s with
  | nil => exact .refl s
  | cons n l ih =>
    rw [List.foldl_cons]
    refine State.SlotTo.trans ?_ (ih _)
    split
    · exact State.slotTo_of_vx rfl
    · exact .refl s

theorem State.popSrcs_vx (s : State) (srcs : List Nat) :
    (s.popSrcs srcs).core.vx = { s.core.vx with q := (s.popSrcs srcs).core.vx.q } := by
  unfold State.popSrcs
  induction srcs generalizing s with
  | nil => rfl
  | cons n l ih =>
    rw [List.foldl_cons, ih]
    split <;> rfl

/-- Popping changes the operand queues of VX alone. -/
theorem State.vxAt_vx (s : State) (x : Entry) (srcs : List Nat) :
    (s.vxAt x srcs).core.vx = { s.vxSlot.core.vx with q := (s.vxAt x srcs).core.vx.q } := State.popSrcs_vx ..

/-- A start keeps the numbers of its queue's entries. -/
theorem State.start_seqs (s : State) (x : Entry) (p : Phase) :
    ((s.start .vx x p).eng .vx).q.map Entry.seq = (s.eng .vx).q.map Entry.seq := by
  rw [State.start, State.updEntry_eng_self]
  exact map_seq_updEntry _ _ _ fun _ => rfl

theorem State.start_eng_ne (s : State) {e f : Eng} (x : Entry) (p : Phase) (h : f ≠ e) : (s.start e x p).eng f = s.eng f :=
  State.updEntry_eng_ne (s := s.upd _) _ _ h

@[simp] theorem State.start_mem (s : State) (e : Eng) (x : Entry) (p : Phase) : (s.start e x p).mem = s.mem := rfl
@[simp] theorem State.start_scrubq (s : State) (e : Eng) (x : Entry) (p : Phase) : (s.start e x p).scrubq = s.scrubq := rfl
@[simp] theorem State.start_pc (s : State) (e : Eng) (x : Entry) (p : Phase) : (s.start e x p).core.pc = s.core.pc := rfl
@[simp] theorem State.start_s (s : State) (e : Eng) (x : Entry) (p : Phase) : (s.start e x p).core.s = s.core.s := rfl
@[simp] theorem State.start_tok (s : State) (e : Eng) (x : Entry) (p : Phase) :
    (s.start e x p).core.tok = (s.core.popTokens e.num (imgWait x.img)).tok := rfl

theorem Core.popTokens_tok_congr {c d : Core} (h : c.tok = d.tok) (self : Nat) (m : Byte) :
    (c.popTokens self m).tok = (d.popTokens self m).tok := by simp only [Core.popTokens, h]

/-- The entry's number stands in the queue all along. -/
theorem State.vxAt_seqs (s : State) (x : Entry) (srcs : List Nat) :
    ((s.vxAt x srcs).eng .vx).q.map Entry.seq = (s.eng .vx).q.map Entry.seq := by
  rw [State.vxAt, (State.popSrcs_slotTo ..).seqs, State.start_seqs, s.vxSlot_slotTo.seqs]

/-- An entry that has every effect in its slot. -/
theorem exists_mem_finish {q : List Entry} {seq : W32} (h : seq ∈ q.map Entry.seq) (hq : (s.eng .vx).q.map Entry.seq = q.map Entry.seq) :
    ∃ y ∈ ((s.finish .vx seq none).eng .vx).q, y.seq = seq ∧ y.phase = .finished := by
  rw [← hq] at h
  obtain ⟨y, hy, rfl⟩ := List.mem_map.mp h
  rw [State.finish, State.updEntry_eng_self]
  exact ⟨_, List.mem_map.mpr ⟨y, hy, if_pos rfl⟩, rfl, rfl⟩

/-- What an entry that issues leaves of the rest of the machine, once its effects on VX are made and it has every effect. -/
theorem State.entryAt_of_slotTo {srcs : List Nat} (hx : x ∈ (s.eng .vx).q) (h : (s.vxAt x srcs).SlotTo u) :
    s.EntryAt (u.vxDone x) .vx x .finished ∧ (u.vxDone x).mem = s.mem ∧ (u.vxDone x).scrubq = s.scrubq := by
  have hslot := s.vxSlot_slotTo
  have hpop := (s.vxSlot.start .vx x .started).popSrcs_slotTo srcs
  have hall : (s.vxSlot.start .vx x .started).SlotTo (u.vxDone x) := hpop.trans (h.trans (State.finish_slotTo ..))
  refine ⟨⟨?_, ?_, ?_, ?_, fun f hf => ?_⟩, ?_, ?_⟩
  · rw [hall.tok, State.start_tok, Core.popTokens_tok_congr hslot.tok]
  · exact exists_mem_finish (List.mem_map_of_mem hx) (h.seqs.trans (s.vxAt_seqs x srcs))
  · rw [hall.pc, State.start_pc, hslot.pc]
  · rw [hall.regs, State.start_s, hslot.regs]
  · rw [hall.eng f hf, State.start_eng_ne _ _ _ hf, hslot.eng f hf]
  · rw [hall.mem, State.start_mem, hslot.mem]
  · rw [hall.scrubq, State.start_scrubq, hslot.scrubq]

/-! ### Effects in the issue slot (R180) -/

/-- A slot effect f on VX that leaves the pending list and the v and y registers. -/
theorem State.vxInSlot_of_effect {i : Instr} {srcs : List Nat} {g : State → Entry → Option State} {f : State → State}
    {good : State → Prop} (h : s.VxIssues x srcs none) (hi : exec i s = .next (s.starting .vx g))
    (hg : g s x = s.vxIssue x srcs none noSpad (fun u => (f u).vxDone x))
    (hf : f (s.vxAt x srcs) = { s.vxAt x srcs with core := { (s.vxAt x srcs).core with vx := (f (s.vxAt x srcs)).core.vx } })
    (hpend : (f (s.vxAt x srcs)).core.vx.pend = s.vxSlot.core.vx.pend) (hv : (f (s.vxAt x srcs)).core.vx.v = s.vxSlot.core.vx.v)
    (hy : (f (s.vxAt x srcs)).core.vx.y = s.vxSlot.core.vx.y)
    (hgood : ((f (s.vxAt x srcs)).vxDone x).mem = s.mem → good ((f (s.vxAt x srcs)).vxDone x)) : s.VxInSlot i x good := by
  obtain ⟨hentry, hmem, hsq⟩ := State.entryAt_of_slotTo (State.mem_of_ready h.1) (State.slotTo_of_vx hf)
  refine ⟨(f (s.vxAt x srcs)).vxDone x, ?_, hgood hmem, hpend, hv, hy, hentry⟩
  rw [hi, State.starting_eq h.1 x.stamped_vx, hg, State.vxIssue_of_ok h, Option.getD_some, State.scrubGuard_of_scrubq hsq]

theorem State.vxAt_m (s : State) (x : Entry) (srcs : List Nat) : (s.vxAt x srcs).core.vx.m = s.vxSlot.core.vx.m := by rw [State.vxAt_vx]
theorem State.vxAt_k (s : State) (x : Entry) (srcs : List Nat) : (s.vxAt x srcs).core.vx.k = s.vxSlot.core.vx.k := by rw [State.vxAt_vx]
theorem State.vxAt_lfsr (s : State) (x : Entry) (srcs : List Nat) : (s.vxAt x srcs).core.vx.lfsr = s.vxSlot.core.vx.lfsr := by
  rw [State.vxAt_vx]
theorem State.vxAt_pend (s : State) (x : Entry) (srcs : List Nat) : (s.vxAt x srcs).core.vx.pend = s.vxSlot.core.vx.pend := by
  rw [State.vxAt_vx]
theorem State.vxAt_v (s : State) (x : Entry) (srcs : List Nat) : (s.vxAt x srcs).core.vx.v = s.vxSlot.core.vx.v := by rw [State.vxAt_vx]
theorem State.vxAt_y (s : State) (x : Entry) (srcs : List Nat) : (s.vxAt x srcs).core.vx.y = s.vxSlot.core.vx.y := by rw [State.vxAt_vx]

theorem State.vxDone_maskReg (s : State) (x : Entry) (n : Nat) : (s.vxDone x).maskReg n = s.maskReg n := rfl
theorem State.vxDone_vx (s : State) (x : Entry) : (s.vxDone x).core.vx = s.core.vx := rfl
theorem State.vxDone_opQ (s : State) (x : Entry) (n : Nat) : (s.vxDone x).opQ n = s.opQ n := rfl

variable {a : VxArgs} {i : Instr} {srcs : List Nat} {g : State → Entry → Option State}

/-- A mask register written in the slot: this one, and no other. -/
theorem State.vxInSlot_of_mask {f : State → W64} (h : s.VxIssues x srcs none) (hi : exec i s = .next (s.starting .vx g))
    (hg : g s x = s.vxIssue x srcs none noSpad (fun u => (u.setMask (a.d.toNat % 8) (f u)).vxDone x)) :
    s.VxInSlot i x (fun t => t.mem = s.mem ∧ t.maskReg (a.d.toNat % 8) = f (s.vxAt x srcs) ∧
      ∀ j, j < 8 → j ≠ a.d.toNat % 8 → t.maskReg j = s.vxSlot.maskReg j) := by
  refine State.vxInSlot_of_effect (f := fun u => u.setMask (a.d.toNat % 8) (f u)) h hi hg rfl (s.vxAt_pend x srcs) (s.vxAt_v x srcs) (s.vxAt_y x srcs)
    fun hmem => ⟨hmem, ?_, fun j _ hj => ?_⟩
  · rw [State.vxDone_maskReg, State.maskReg_setMask_self _ (Nat.mod_lt _ (by decide))]
  · rw [State.vxDone_maskReg, State.maskReg_setMask_ne _ hj, State.maskReg_congr (s.vxAt_m x srcs)]

theorem State.VxInSlot.imp {P Q : State → Prop} (h : s.VxInSlot i x P) (hpq : ∀ t, P t → Q t) : s.VxInSlot i x Q := by
  obtain ⟨t, he, hp, hrest⟩ := h
  exact ⟨t, he, hpq t hp, hrest⟩

/-- A compare (R185, R187). -/
theorem State.vxInSlot_of_compare {c : Nat → Bool} {F : List Lanes → Nat → Bool} (h : s.VxIssues x (srcs2 a) none)
    (hi : exec i s = .next (s.starting .vx g)) (hg : g s x = s.vxCompare a x F)
    (hc : ∀ l, F ((srcs2 a).map (s.vxSlot.vxSrc a.typ.toNat)) l = c l) :
    s.VxInSlot i x (fun t => t.mem = s.mem ∧ (∀ j, j < 8 → j ≠ a.d.toNat % 8 → t.maskReg j = s.vxSlot.maskReg j) ∧
      ∀ l, l < 64 → bit (t.maskReg (a.d.toNat % 8)).toNat l =
        if s.vxSlot.active a l then c l else !a.mz && bit (s.vxSlot.maskReg (a.d.toNat % 8)).toNat l) := by
  have hg' : g s x = s.vxIssue x (srcs2 a) none noSpad (fun u => (u.setMask (a.d.toNat % 8) (maskOf (fun l =>
      if u.active a l then F ((srcs2 a).map (s.vxSlot.vxSrc a.typ.toNat)) l
      else !a.mz && bit (u.maskReg (a.d.toNat % 8)).toNat l))).vxDone x) := hg
  refine (State.vxInSlot_of_mask h hi hg').imp fun t ⟨hmem, hd, ho⟩ => ⟨hmem, ho, fun l hl => ?_⟩
  rw [hd, bit_maskOf _ hl, hc, State.active_congr (s.vxAt_m x _), State.maskReg_congr (s.vxAt_m x _)]

/-- An operation on mask registers (R196). -/
theorem State.vxInSlot_of_mop {f : W64 → W64 → W64} (h : s.VxIssues x [] none) (hi : exec i s = .next (s.starting .vx g))
    (hg : g s x = s.vxMop a x f) :
    s.VxInSlot i x (fun t => t.mem = s.mem ∧
      t.maskReg (a.d.toNat % 8) = f (s.vxSlot.maskReg (a.a.toNat % 8)) (s.vxSlot.maskReg (a.b.toNat % 8)) ∧
      ∀ j, j < 8 → j ≠ a.d.toNat % 8 → t.maskReg j = s.vxSlot.maskReg j) := by
  have hg' : g s x = s.vxIssue x [] none noSpad (fun u =>
      (u.setMask (a.d.toNat % 8) (f (u.maskReg (a.a.toNat % 8)) (u.maskReg (a.b.toNat % 8)))).vxDone x) := hg
  refine (State.vxInSlot_of_mask h hi hg').imp fun t ⟨hmem, hd, ho⟩ => ⟨hmem, ?_, ho⟩
  rw [hd, State.maskReg_congr (s.vxAt_m x _), State.maskReg_congr (s.vxAt_m x _)]

/-- A k register written (R196). -/
theorem State.vxInSlot_of_setK {v : W32} {F : State → List Lanes → State} (h : s.VxIssues x srcs none)
    (hi : exec i s = .next (s.starting .vx g)) (hg : g s x = s.vxEffect a x srcs F)
    (hF : ∀ u, F u (srcs.map (s.vxSlot.vxSrc a.typ.toNat)) = u.setK (a.d.toNat % 8) v) :
    s.VxInSlot i x (fun t => t.mem = s.mem ∧ t.core.vx.k = s.vxSlot.core.vx.k.setIfInBounds (a.d.toNat % 8) v ∧
      t.core.vx.m = s.vxSlot.core.vx.m) := by
  have hg' : g s x = s.vxIssue x srcs none noSpad (fun u => (u.setK (a.d.toNat % 8) v).vxDone x) := by
    rw [hg, State.vxEffect]; simp only [hF]
  refine State.vxInSlot_of_effect (f := fun u => u.setK (a.d.toNat % 8) v) h hi hg' rfl (s.vxAt_pend x srcs) (s.vxAt_v x srcs)
    (s.vxAt_y x srcs) fun hmem => ⟨hmem, ?_, ?_⟩
  · rw [State.vxDone_vx, ← s.vxAt_k x srcs]; rfl
  · rw [State.vxDone_vx, ← s.vxAt_m x srcs]; rfl

/-- The LFSRs of active lanes written (R198). -/
theorem State.vxInSlot_of_setLfsrs {c : Nat → W32} {F : State → List Lanes → State} {w : Nat → W32 → W32} (h : s.VxIssues x srcs none)
    (hi : exec i s = .next (s.starting .vx g)) (hg : g s x = s.vxEffect a x srcs F)
    (hF : ∀ u, F u (srcs.map (s.vxSlot.vxSrc a.typ.toNat)) = u.setLfsrs a w) (hw : ∀ l, w l (lane s.vxSlot.core.vx.lfsr l) = c l) :
    s.VxInSlot i x (fun t => t.mem = s.mem ∧ t.core.vx.m = s.vxSlot.core.vx.m ∧ ∀ l, l < 64 →
      lane t.core.vx.lfsr l = if s.vxSlot.active a l then c l else lane s.vxSlot.core.vx.lfsr l) := by
  have hg' : g s x = s.vxIssue x srcs none noSpad (fun u => (u.setLfsrs a w).vxDone x) := by
    rw [hg, State.vxEffect]; simp only [hF]
  refine State.vxInSlot_of_effect (f := fun u => u.setLfsrs a w) h hi hg' rfl (s.vxAt_pend x srcs) (s.vxAt_v x srcs)
    (s.vxAt_y x srcs) fun hmem => ⟨hmem, ?_, fun l hl => ?_⟩
  · rw [State.vxDone_vx, ← s.vxAt_m x srcs]; rfl
  · rw [State.vxDone_vx]
    refine (lane_lanesOf _ hl).trans ?_
    rw [State.active_congr (s.vxAt_m x srcs), s.vxAt_lfsr x srcs, hw]

/-- A mask register from a vector (R196). -/
theorem State.vxMopFromv_inSlot (h : s.VxIssues x (srcs1 a) none) : s.VxInSlot (.vxMopFromv a) x (fun t => t.mem = s.mem ∧
    (∀ j, j < 8 → j ≠ a.d.toNat % 8 → t.maskReg j = s.vxSlot.maskReg j) ∧
    ∀ l, l < 64 → bit (t.maskReg (a.d.toNat % 8)).toNat l = (s.vxLane a a.a l != 0)) := by
  refine (State.vxInSlot_of_mask (i := .vxMopFromv a) (a := a) (f := fun _ => maskOf (fun l => s.vxLane a a.a l != 0)) h rfl rfl).imp
    fun t ⟨hmem, hd, ho⟩ => ⟨hmem, ho, fun l hl => ?_⟩
  rw [hd, bit_maskOf _ hl]

/-- A queue bound and emptied (R197). -/
theorem State.vxQcfg_inSlot (h64 : 64 ≤ a.d.toNat) (h72 : a.d.toNat < 72) (h : s.VxIssues x [] none)
    (hp : s.vxSlot.pendingPushes (a.d.toNat - 64) = 0) : s.VxInSlot (.vxQcfg a) x (fun t => t.mem = s.mem ∧
      t.opQ (a.d.toNat - 64) = ⟨a.imm.toNat % 16, a.imm.toNat / 16 % 16, []⟩ ∧
      ∀ j, j ≠ a.d.toNat - 64 → t.opQ j = s.vxSlot.opQ j) := by
  let q : OpQueue := ⟨a.imm.toNat % 16, bits a.imm.toNat 4 4, []⟩
  let g (s : State) (x : Entry) : Option State := if s.vxSlot.pendingPushes (a.d.toNat - 64) ≠ 0 then none
    else s.vxEffect a x [] (fun u _ => u.updQ (a.d.toNat - 64) (fun _ => q))
  have hg : g s x = s.vxIssue x [] none noSpad (fun u => (u.updQ (a.d.toNat - 64) (fun _ => q)).vxDone x) := by
    simp only [g, hp, ne_eq, not_true_eq_false, if_false]
    rfl
  refine State.vxInSlot_of_effect (i := .vxQcfg a) (f := fun u => u.updQ (a.d.toNat - 64) (fun _ => q)) h (g := g) rfl hg rfl
    (s.vxAt_pend x []) (s.vxAt_v x []) (s.vxAt_y x []) fun hmem => ⟨hmem, ?_, fun j hj => ?_⟩
  · rw [State.vxDone_opQ, State.opQ_updQ_self (by omega)]; rfl
  · rw [State.vxDone_opQ, State.opQ_updQ_ne hj]; rfl

end Slot

/-! ### Results that become visible (R178 to R180, R182) -/

section Visible
variable {s : State} {p : VxPend} {n l : Nat}

/-- The destination of a result written, or its queue pushed. -/
def State.landed (s : State) (p : VxPend) : State :=
  match p.dst with
  | .v n => s.upd (fun c => { c with vx := { c.vx with
      v := c.vx.v.setIfInBounds n (mergeLanes (c.vx.v.toList.getD n zeroLanes) p.val p.mask p.mz) } })
  | .q n => s.pushQ n (maskLanes p.val p.mask)
  | .none => s

theorem State.visible_eq (s : State) (p : VxPend) : s.visible p = ((s.landed p).writeY p).finish .vx p.seq none := rfl

theorem State.landed_vx (s : State) (p : VxPend) :
    (s.landed p).core.vx = { s.core.vx with v := (s.landed p).core.vx.v, q := (s.landed p).core.vx.q } := by
  unfold State.landed; split <;> rfl

theorem State.writeY_vx (s : State) (p : VxPend) : (s.writeY p).core.vx = { s.core.vx with y := (s.writeY p).core.vx.y } := by
  unfold State.writeY; split <;> rfl

theorem State.visible_vx (s : State) (p : VxPend) :
    (s.visible p).core.vx = { s.core.vx with
      v := (s.landed p).core.vx.v, q := (s.landed p).core.vx.q, y := ((s.landed p).writeY p).core.vx.y } := by
  change ((s.landed p).writeY p).core.vx = _
  rw [State.writeY_vx, State.landed_vx]

theorem lane_mergeLanes (old new : Lanes) (mask : W64) (mz : Bool) (hl : l < 64) : lane (mergeLanes old new mask mz) l =
    if bit mask.toNat l then lane new l else if mz then 0 else lane old l := lane_lanesOf _ hl

/-- The register that a result names takes its lanes under the mask, and no other register changes. -/
theorem State.visible_reg (hd : p.dst = .v n) (hn : n < 64) (k : Nat) : (s.visible p).core.vx.v.toList.getD k zeroLanes =
    if k = n then mergeLanes (s.core.vx.v.toList.getD n zeroLanes) p.val p.mask p.mz else s.core.vx.v.toList.getD k zeroLanes := by
  rw [State.visible_vx]
  simp only [State.landed, hd]
  refine (getD_setIfInBounds _ _ _ _ _).trans ?_
  by_cases hk : k = n
  · rw [if_pos ⟨hk.symm, hk ▸ hn⟩, if_pos hk]
  · rw [if_neg fun h => hk h.1.symm, if_neg hk]

theorem State.visible_queue (hd : p.dst = .q n) (hn : n < 8) :
    ((s.visible p).opQ n).ents = (s.opQ n).ents ++ [maskLanes p.val p.mask] := by
  have hq : (s.visible p).opQ n = (s.pushQ n (maskLanes p.val p.mask)).opQ n := State.opQ_congr (by
    rw [State.visible_vx]; simp only [State.landed, hd]) n
  rw [hq, State.pushQ, State.opQ_updQ_self hn]

theorem State.visible_y (hy : p.y = some n) (hn : n < 4) : (s.visible p).core.vx.y.toList.getD n zeroLanes =
    mergeLanes (s.core.vx.y.toList.getD n zeroLanes) p.val p.mask p.mz := by
  rw [State.visible_vx]
  have hland : (s.landed p).core.vx.y = s.core.vx.y := by rw [State.landed_vx]
  simp only [State.writeY, hy]
  refine (getD_setIfInBounds _ _ _ _ _).trans ?_
  rw [if_pos ⟨rfl, hn⟩]
  exact congrArg (fun y : Vector Lanes 4 => mergeLanes (y.toList.getD n zeroLanes) p.val p.mask p.mz) hland

theorem State.visible_finished (s : State) (p : VxPend) : ∀ y ∈ ((s.visible p).eng .vx).q, y.seq = p.seq → y.phase = .finished := by
  rw [State.visible_eq, State.finish, State.updEntry_eng_self]
  intro y hy hseq
  obtain ⟨z, -, rfl⟩ := List.mem_map.mp hy
  split at hseq
  case isTrue h => rw [if_pos h]
  case isFalse h => exact absurd hseq h

theorem execVxResultVisible_eq (hq : s.core.qstop = false) (hs : s.core.scanned = false) (hp : s.boot.power ≠ .stopped)
    (he : s.emptySlot = true) : execVxResultVisible s = .next s.vxSlot := by
  simp [execVxResultVisible, hq, hs, hp, he]

theorem State.vxSlot_of_later {k : Nat} (h : s.core.vx.pend = [p]) (hl : p.left = k + 1) : s.vxSlot =
    { s with core := { s.core with vx := { s.core.vx with pend := [{ p with left := k }] } } } := by
  simp [State.vxSlot_eq, State.vxTick, h, hl, State.upd]

theorem State.vxSlot_of_due (h : s.core.vx.pend = [p]) (hl : p.left = 0) : s.vxSlot = s.vxTick.visible p := by
  simp [State.vxSlot_eq, h, hl]

theorem State.vxTick_vx (s : State) : s.vxTick.core.vx = { s.core.vx with pend := s.vxTick.core.vx.pend } := rfl

/-- The only pending result becomes visible in an empty slot. -/
theorem State.vxSlot_of_due_effect (h : s.core.vx.pend = [p]) (hl : p.left = 0) :
    let merged (old : Lanes) (l : Nat) : W32 := if bit p.mask.toNat l then lane p.val l else if p.mz then 0 else lane old l
    let reg (t : State) (n : Nat) : Lanes := t.core.vx.v.toList.getD n zeroLanes
    let yreg (t : State) (n : Nat) : Lanes := t.core.vx.y.toList.getD n zeroLanes
    s.vxSlot.core.vx.pend = [] ∧ (∀ y ∈ (s.vxSlot.eng .vx).q, y.seq = p.seq → y.phase = .finished) ∧
    (∀ n, n < 64 → p.dst = .v n → (∀ l, l < 64 → lane (reg s.vxSlot n) l = merged (reg s n) l) ∧
      ∀ k, k < 64 → k ≠ n → reg s.vxSlot k = reg s k) ∧
    (∀ n, n < 8 → p.dst = .q n → ∃ v, (s.vxSlot.opQ n).ents = (s.opQ n).ents ++ [v] ∧
      ∀ l, l < 64 → lane v l = if bit p.mask.toNat l then lane p.val l else 0) ∧
    (∀ n, n < 4 → p.y = some n → ∀ l, l < 64 → lane (yreg s.vxSlot n) l = merged (yreg s n) l) ∧
    s.vxSlot.mem = s.mem ∧ s.vxSlot.core.vx.m = s.core.vx.m := by
  have hv := s.vxTick.visible_vx p
  have hmem : s.vxSlot.mem = s.mem := s.vxSlot_slotTo.mem
  rw [State.vxSlot_of_due h hl] at hmem ⊢
  refine ⟨?_, State.visible_finished _ p, fun n hn hd => ⟨fun l hl => ?_, fun k _ hk => ?_⟩, fun n hn hd => ?_, fun n hn hy l hl => ?_, hmem, ?_⟩
  · rw [hv]; simp [State.vxTick, State.upd, h, hl]
  · dsimp only
    rw [State.visible_reg hd hn, if_pos rfl, lane_mergeLanes _ _ _ _ hl]; rfl
  · dsimp only
    rw [State.visible_reg hd hn, if_neg hk]; rfl
  · exact ⟨_, State.visible_queue hd hn, fun l hl => lane_lanesOf _ hl⟩
  · dsimp only
    rw [State.visible_y hy hn, lane_mergeLanes _ _ _ _ hl]; rfl
  · rw [hv]; rfl

end Visible

/-! ### What a result leaves in its issue slot (R87, R89, R183) -/

/-- Elements that leave their LFSR to σ: the flags of all, and the LFSR after n of them. -/
theorem elemsRun_flags {σ : W32 → W32} {f : Nat → W32 → Nat × Bool × W32} (n : Nat) (g : W32) (h : ∀ j g, (f j g).2.2 = σ g) :
    (elemsRun n g f).2.1 = (List.range n).any (fun j => (f j (σ^[j] g)).2.1) ∧ (elemsRun n g f).2.2 = σ^[n] g := by
  unfold elemsRun
  dsimp only
  induction n with
  | zero => exact ⟨rfl, rfl⟩
  | succ n ih =>
    obtain ⟨hs, hg⟩ := ih
    rw [List.range_succ, List.foldl_append, List.any_append]
    generalize List.foldl _ _ (List.range n) = r at hs hg
    simp only [List.foldl_cons, List.foldl_nil, hs, hg, h, List.any_cons, List.any_nil, Bool.or_false]
    exact ⟨trivial, (Function.iterate_succ_apply' σ n g).symm⟩

section Leaves
variable {s t : State} {x : Entry} {a : VxArgs} {i : Instr} {srcs : List Nat} {F : State → Entry → Option State}

/-- What an instruction leaves beside its pending write: the flags of SM, and the LFSRs of active lanes. -/
def State.VxLeaves (s : State) (a : VxArgs) (x : Entry) (i : Instr) (srcs : List Nat) (sat : Nat → Bool) (step : Nat → W32 → W32) : Prop :=
  s.VxIssues x srcs (dstQueue a.d.toNat) → ∃ t, exec i s = .next t ∧
    (∀ k, k < 8 → a.smen = false ∨ k ≠ a.sm.toNat → t.maskReg k = s.vxSlot.maskReg k) ∧
    (a.smen = true → ∀ l, l < 64 → bit (t.maskReg a.sm.toNat).toNat l = (s.vxSlot.active a l && sat l)) ∧
    ∀ l, l < 64 → lane t.core.vx.lfsr l = if s.vxSlot.active a l then step l (lane s.vxSlot.core.vx.lfsr l) else lane s.vxSlot.core.vx.lfsr l

theorem State.vxSide_lfsr (s : State) (a : VxArgs) (o : VxOut) : (s.vxSide a o).core.vx.lfsr = o.lfsr := by
  unfold State.vxSide; dsimp only; split <;> rfl

theorem State.vxSide_maskReg_ne (o : VxOut) {k : Nat} (h : a.smen = false ∨ k ≠ a.sm.toNat) : (s.vxSide a o).maskReg k = s.maskReg k := by
  unfold State.vxSide
  dsimp only
  split
  case isTrue hs => rw [State.maskReg_setMask_ne _ (h.resolve_left (by simp [hs]))]; rfl
  case isFalse => rfl

theorem State.vxSide_maskReg_self (o : VxOut) (h : a.smen = true) : (s.vxSide a o).maskReg a.sm.toNat = o.sat := by
  simp only [State.vxSide, h, if_true]
  exact State.maskReg_setMask_self _ a.sm.isLt _

theorem State.vxSide_slotTo (s : State) (a : VxArgs) (o : VxOut) : s.SlotTo (s.vxSide a o) := by
  unfold State.vxSide
  dsimp only
  split <;> exact State.slotTo_of_vx rfl

theorem State.vxPend_slotTo (s : State) (a : VxArgs) (x : Entry) (n : Nat) (y : Option Nat) (o : VxOut) : s.SlotTo (s.vxPend a x n y o) :=
  (s.vxSide_slotTo a o).trans (State.slotTo_of_vx rfl)

theorem State.vxLanes_sat (s : State) (a : VxArgs) (f : Nat → W32 → W32 × Bool × W32) {l : Nat} (hl : l < 64) :
    bit (s.vxLanes a f).sat.toNat l = (s.active a l && (f l (lane s.core.vx.lfsr l)).2.1) := by
  refine (bit_maskOf _ hl).trans ?_
  by_cases ha : s.active a l = true
  · simp [ha]
  · simp [Bool.eq_false_iff.mpr ha]

theorem State.vxLanes_lfsr (s : State) (a : VxArgs) (f : Nat → W32 → W32 × Bool × W32) {l : Nat} (hl : l < 64) :
    lane (s.vxLanes a f).lfsr l = if s.active a l then (f l (lane s.core.vx.lfsr l)).2.2 else lane s.core.vx.lfsr l := by
  refine (lane_lanesOf _ hl).trans ?_
  by_cases ha : s.active a l = true
  · simp [ha]
  · simp [Bool.eq_false_iff.mpr ha]

/-- A result computed lane by lane: the flags and LFSRs of its lanes are what its slot leaves. -/
theorem State.vxLeaves_of_lanes {n : Nat} {y : Option Nat} {f : List Lanes → Nat → W32 → W32 × Bool × W32} {sat : Nat → Bool}
    {step : Nat → W32 → W32} (hi : exec i s = .next (s.starting .vx F))
    (hF : F s x = s.vxOp a x srcs n y (fun u v => u.vxLanes a (f v)))
    (hf : ∀ l, (f (srcs.map (s.vxSlot.vxSrc a.typ.toNat)) l (lane s.vxSlot.core.vx.lfsr l)).2 =
      (sat l, step l (lane s.vxSlot.core.vx.lfsr l))) : s.VxLeaves a x i srcs sat step := by
  intro h
  let w := s.vxAt x srcs
  let o := w.vxLanes a (f (srcs.map (s.vxSlot.vxSrc a.typ.toNat)))
  have hgo : F s x = some (w.vxPend a x n y o) := hF.trans (State.vxIssue_of_ok h (fun u => u.vxPend a x n y
    (u.vxLanes a (f (srcs.map (s.vxSlot.vxSrc a.typ.toNat))))))
  have hall : (s.vxSlot.start .vx x .started).SlotTo (w.vxPend a x n y o) := (State.popSrcs_slotTo ..).trans (w.vxPend_slotTo ..)
  have hm : w.core.vx.m = s.vxSlot.core.vx.m := s.vxAt_m x srcs
  have hl : w.core.vx.lfsr = s.vxSlot.core.vx.lfsr := s.vxAt_lfsr x srcs
  refine ⟨w.vxPend a x n y o, ?_, fun k _ hk => ?_, fun hs l hl64 => ?_, fun l hl64 => ?_⟩
  · rw [hi, State.starting_eq h.1 x.stamped_vx, hgo, Option.getD_some, State.scrubGuard_of_scrubq]
    rw [hall.scrubq, State.start_scrubq, s.vxSlot_slotTo.scrubq]
  · exact (State.vxSide_maskReg_ne o hk).trans (State.maskReg_congr hm k)
  · have hself : (w.vxPend a x n y o).maskReg a.sm.toNat = o.sat := State.vxSide_maskReg_self o hs
    rw [hself]
    rw [State.vxLanes_sat w a _ hl64, State.active_congr hm, hl, hf]
  · have hself : (w.vxPend a x n y o).core.vx.lfsr = o.lfsr := State.vxSide_lfsr w a o
    rw [hself, State.vxLanes_lfsr w a _ hl64, State.active_congr hm, hl, hf]

theorem iterate_ite (c : Prop) [Decidable c] (σ : W32 → W32) (n : Nat) (g : W32) :
    (fun g => if c then σ g else g)^[n] g = if c then σ^[n] g else g := by
  by_cases hc : c
  · simp only [hc, if_true]
  · simp only [hc, if_false]
    exact congrFun (Function.iterate_id n) g

/-- A float instruction leaves the flags of its roundings, and a step of the LFSR for each element rounded under SR. -/
theorem State.vxFloat_leaves {n : Nat} {y : Option Nat} {rc : Rnd} {op : List Num → Num} {v : Nat → Nat → Num}
    (hi : exec i s = .next (s.starting .vx F)) (hF : F s x = s.vxFloat a x srcs n y rc op)
    (hop : ∀ l j, op (floatVals a (srcs.map (s.vxSlot.vxSrc a.typ.toNat)) l j) = v l j) :
    s.VxLeaves a x i srcs (fun l => (List.range (vxElems a.typ.toNat)).any (fun j =>
        (round (v l j) (vxFmt a.typ.toNat) rc
          (if rc = .sr then lfsrStep^[j] (lane s.vxSlot.core.vx.lfsr l) else lane s.vxSlot.core.vx.lfsr l) none).2))
      (fun _ => lfsrStep^[if rc = .sr then vxElems a.typ.toNat else 0]) := by
  refine State.vxLeaves_of_lanes hi hF fun l => ?_
  obtain ⟨hs, hg⟩ := elemsRun_flags (σ := fun g => if rc = .sr then lfsrStep g else g) (vxElems a.typ.toNat) (lane s.vxSlot.core.vx.lfsr l)
    (f := fun j g => roundStep (vxFmt a.typ.toNat) rc a.ftz (op (floatVals a (srcs.map (s.vxSlot.vxSrc a.typ.toNat)) l j)) none g)
    fun j g => rfl
  refine Prod.ext (hs.trans ?_) (hg.trans ?_)
  · simp only [roundStep, hop, iterate_ite]
  · rw [iterate_ite]
    by_cases hc : rc = .sr
    · rw [if_pos hc, if_pos hc]
    · rw [if_neg hc, if_neg hc]; rfl

/-- An integer instruction leaves the flags of its elements. -/
theorem State.vxInt_leaves {n : Nat} {y : Option Nat} {op : List Nat → Nat × Bool} {c : Nat → Nat → Bool}
    (hi : exec i s = .next (s.starting .vx F)) (hF : F s x = s.vxInt a x srcs n y op)
    (hop : ∀ l j, (op ((srcs.map (s.vxSlot.vxSrc a.typ.toNat)).map (fun w => elem (vxElems a.typ.toNat) (lane w l) j))).2 = c l j) :
    s.VxLeaves a x i srcs (fun l => (List.range (vxElems a.typ.toNat)).any (c l)) (fun _ => lfsrStep^[0]) := by
  refine State.vxLeaves_of_lanes hi hF fun l => ?_
  obtain ⟨hs, hg⟩ := elemsRun_flags (σ := id) (vxElems a.typ.toNat) (lane s.vxSlot.core.vx.lfsr l)
    (f := fun j g => ((op ((srcs.map (s.vxSlot.vxSrc a.typ.toNat)).map (fun w => elem (vxElems a.typ.toNat) (lane w l) j))).1,
      (op ((srcs.map (s.vxSlot.vxSrc a.typ.toNat)).map (fun w => elem (vxElems a.typ.toNat) (lane w l) j))).2, g))
    fun j g => rfl
  refine Prod.ext (hs.trans ?_) (hg.trans ?_)
  · exact congrArg _ (funext fun j => hop l j)
  · rw [Function.iterate_id]; rfl

/-- An instruction without rounding or clamping leaves no flag and no step. -/
theorem State.vxStill_leaves {n : Nat} {y : Option Nat} {f : List Lanes → Nat → W32 → W32} (hi : exec i s = .next (s.starting .vx F))
    (hF : F s x = s.vxOp a x srcs n y (fun u v => u.vxLanes a (fun l g => (f v l g, false, g)))) :
    s.VxLeaves a x i srcs (fun _ => (List.range (vxElems a.typ.toNat)).any (fun _ => false)) (fun _ => lfsrStep^[0]) :=
  State.vxLeaves_of_lanes hi hF fun l => by simp

/-- The saturating formats are E4M3 and the integers (R89). -/
theorem round_flag_of_float {f : Fmt} (h : f = .fp32 ∨ f = .fp16 ∨ f = .bf16) (v : Num) (rc : Rnd) (g : W32) (q : Option Int) :
    (round v f rc g q).2 = false := by
  have hint : f.isInt = false := by obtain rfl | rfl | rfl := h <;> rfl
  have h3 : f ≠ .e4m3 := by obtain rfl | rfl | rfl := h <;> decide
  have h3n : f ≠ .e4m3n := by obtain rfl | rfl | rfl := h <;> decide
  cases v with
  | nan => simp [round, hint]
  | zero s => simp [round, hint]
  | inf s => simp [round, hint, h3, h3n]
  | fin m e =>
    simp only [round, hint, h3, h3n, Bool.false_eq_true, if_false]
    generalize roundMag _ _ _ _ _ _ _ = k
    split
    · split <;> rfl
    · rfl

theorem vxFmt_float {typ : Nat} (h : typ ≤ 2) : vxFmt typ = .fp32 ∨ vxFmt typ = .fp16 ∨ vxFmt typ = .bf16 := by
  interval_cases typ <;> simp [vxFmt]

/-- A float instruction of the ALU rounds RNE, and no float of the types 0 to 2 saturates. -/
theorem State.vxFloat_still {n : Nat} {y : Option Nat} {op : List Num → Num} (ht : a.typ.toNat ≤ 2)
    (hi : exec i s = .next (s.starting .vx F)) (hF : F s x = s.vxFloat a x srcs n y .rne op) :
    s.VxLeaves a x i srcs (fun _ => (List.range (vxElems a.typ.toNat)).any (fun _ => false)) (fun _ => lfsrStep^[0]) := by
  have h := State.vxFloat_leaves hi hF fun l j => rfl
  simp only [round_flag_of_float (vxFmt_float ht)] at h
  exact h

theorem intEnd_flag (a : VxArgs) (v : Int) :
    (intEnd a v).2 = (intS a && decide (v < -2 ^ (intWidth a - 1) ∨ 2 ^ (intWidth a - 1) ≤ v)) := by
  unfold intEnd
  dsimp only
  by_cases hs : intS a = true
  · rw [if_pos hs, hs, Bool.true_and, clamp]
    split
    case isTrue h => exact (decide_eq_true (Or.inr (by omega))).symm
    case isFalse h =>
      split
      case isTrue h' => exact (decide_eq_true (Or.inl h')).symm
      case isFalse h' => exact (decide_eq_false (by omega)).symm
  · rw [if_neg hs, Bool.eq_false_iff.mpr hs, Bool.false_and]

end Leaves

/-! ### Settled -/

section Settled
variable {s : State} {a : VxArgs} {x : Entry} {i : Instr}

/-- The two-source instructions of the ALU and multiplier that cannot saturate. -/
theorem State.vxTwo_still (h : i = .vxImul a ∨ i = .vxImulh a ∨ i = .vxImin a ∨ i = .vxImax a ∨ i = .vxAnd a ∨ i = .vxOr a ∨
    i = .vxXor a ∨ i = .vxAndn a ∨ i = .vxShl a ∨ i = .vxShr a ∨ i = .vxSar a ∨ a.typ.toNat ≤ 2 ∧ (i = .vxFmin a ∨ i = .vxFmax a)) :
    s.VxLeaves a x i (srcs2 a) (fun _ => (List.range (vxElems a.typ.toNat)).any (fun _ => false)) (fun _ => lfsrStep^[0]) := by
  rcases h with rfl | rfl | rfl | rfl | rfl | rfl | rfl | rfl | rfl | rfl | rfl | ⟨ht, rfl | rfl⟩
  · exact State.vxInt_leaves rfl rfl fun _ _ => rfl
  · exact State.vxInt_leaves rfl rfl fun _ _ => rfl
  · exact State.vxInt_leaves rfl rfl fun _ _ => rfl
  · exact State.vxInt_leaves rfl rfl fun _ _ => rfl
  · exact State.vxStill_leaves rfl rfl
  · exact State.vxStill_leaves rfl rfl
  · exact State.vxStill_leaves rfl rfl
  · exact State.vxStill_leaves rfl rfl
  · exact State.vxInt_leaves rfl rfl fun _ _ => rfl
  · exact State.vxInt_leaves rfl rfl fun _ _ => rfl
  · exact State.vxInt_leaves rfl rfl fun _ _ => rfl
  · exact State.vxFloat_still ht rfl rfl
  · exact State.vxFloat_still ht rfl rfl

end Settled

/-- Settles O31: slot effects by the state in which their entry has started; results by the only pending one; flags and LFSRs by the
elements of a lane, one after another. -/
theorem vxSlotEffects : Obligations.VxSlotEffects := by
  unfold Obligations.VxSlotEffects
  refine ⟨fun a x s => ?_, fun p s => ?_, fun a x s => ?_⟩
  · intro n k f u A B D m others compares masks ks seeds V I
    refine ⟨fun h => State.vxInSlot_of_compare h rfl rfl fun _ => rfl, fun h => State.vxInSlot_of_compare h rfl rfl fun _ => rfl,
      fun h => State.vxInSlot_of_setK (a := a) h rfl rfl fun _ => rfl, fun h => State.vxInSlot_of_setK (a := a) h rfl rfl fun _ => rfl,
      fun h => State.vxInSlot_of_mop (a := a) h rfl rfl, fun h => State.vxInSlot_of_mop (a := a) h rfl rfl,
      fun h => State.vxInSlot_of_mop (a := a) h rfl rfl,
      fun h => State.vxInSlot_of_mop (a := a) (f := fun p q => p &&& ~~~q) h rfl rfl,
      fun h => State.vxInSlot_of_mop (a := a) (f := fun p _ => ~~~p) h rfl rfl,
      fun h => State.vxInSlot_of_mop (a := a) (f := fun _ _ => BitVec.allOnes 64) h rfl rfl,
      fun h => State.vxInSlot_of_mop (a := a) (f := fun _ _ => 0) h rfl rfl, fun h => State.vxMopFromv_inSlot h,
      fun h64 h72 h hp => State.vxQcfg_inSlot h64 h72 h hp,
      fun h => State.vxInSlot_of_setLfsrs h rfl rfl (fun _ => rfl) fun _ => rfl,
      fun h => State.vxInSlot_of_setLfsrs h rfl rfl (fun _ => rfl) fun _ => rfl,
      fun h => State.vxInSlot_of_setLfsrs h rfl rfl (fun _ => rfl) fun _ => rfl⟩
  · intro merged reg yreg hpend hq hs hp he
    have hexec : exec .vxResultVisible s = .next s.vxSlot := execVxResultVisible_eq hq hs hp he
    exact ⟨fun k hk => hexec.trans (congrArg _ (State.vxSlot_of_later hpend hk)),
      fun hl => ⟨s.vxSlot, hexec, State.vxSlot_of_due_effect hpend hl⟩⟩
  · intro f n w u down V I leaves rounds clamps still two
    refine ⟨State.vxFloat_leaves rfl rfl fun _ _ => rfl, State.vxFloat_leaves rfl rfl fun _ _ => rfl,
      State.vxFloat_leaves rfl rfl fun _ _ => rfl, State.vxFloat_leaves rfl rfl fun _ _ => rfl,
      State.vxFloat_leaves rfl rfl fun _ _ => rfl, State.vxInt_leaves rfl rfl fun _ _ => intEnd_flag a _,
      State.vxInt_leaves rfl rfl fun _ _ => intEnd_flag a _, State.vxInt_leaves rfl rfl fun _ _ => intEnd_flag a _,
      fun i hi => State.vxTwo_still hi, fun ht => ⟨State.vxFloat_still ht rfl rfl, State.vxFloat_still ht rfl rfl⟩,
      State.vxStill_leaves rfl rfl, State.vxStill_leaves rfl rfl⟩

end Sys2Proof.Machine
end

section
/-!
Stamped entries and frames: what an overrun, a frame marker and a store of the hardware leave of a core, and the record that a core begins.
-/

namespace Sys2Proof.Machine

section Stamps
variable {s t : State} {e : Eng} {x : Entry}

/-! ### STAMP_OVERRUN (R332, R333) -/

theorem State.stampOverrun_frame (s : State) (e : Eng) (x : Entry) : s.stampOverrun e x = { s with
    core := { s.core with
      ctr := (s.stampOverrun e x).core.ctr, wait := (s.stampOverrun e x).core.wait
      qstop := (s.stampOverrun e x).core.qstop, eng := (s.stampOverrun e x).core.eng }
    order := (s.stampOverrun e x).order } := by
  unfold State.stampOverrun
  split
  · rfl
  · rw [State.engineFault]
    simp only [State.upd, State.updEng]
    rw [Core.leaveWait_frame]

theorem State.stampOverrun_effect (h : (s.eng e).held = none) :
    let t := s.stampOverrun e x
    (t.eng e).held = some ⟨⟨.stampOverrun, BitVec.ofNat 64 (x.img.hw 2)⟩, x.seq, s.order⟩ ∧
      t.core.ctr.stampOvr = s.core.ctr.stampOvr + 1 ∧ t.core.qstop = true ∧ (t.eng e).q = (s.eng e).q := by
  simp only [State.stampOverrun, h, Option.isSome_none, Bool.false_eq_true, if_false]
  rw [State.engineFault_eng_self, State.engineFault_core]
  exact ⟨rfl, rfl, rfl, rfl⟩

theorem State.stampTest_of_fail (hdue : s.stampDue e = some x) (hseq : ∀ y, s.ready e = some y → y.seq = x.seq)
    (h : s.ready e = none ∨ s.startLong e x = none ∨ (∃ t, s.startLong e x = some t ∧ t.startWaits e x = true)) :
    s.stampTest e = s.stampOverrun e x := by
  simp only [State.stampTest, hdue]
  cases hr : s.ready e with
  | none => rfl
  | some y =>
    rw [hr] at h
    simp only [hseq y hr, if_true]
    obtain h | h | ⟨t, ht, hw⟩ := h
    · exact absurd h (by simp)
    · rw [h]
    · simp only [ht, hw, if_true]

theorem State.stampTest_of_start {y : Entry} (hdue : s.stampDue e = some x) (hr : s.ready e = some y) (hseq : y.seq = x.seq)
    (ht : s.startLong e x = some t) (hw : t.startWaits e x = false) : s.stampTest e = t := by
  simp only [State.stampTest, hdue, hr, hseq, if_true, ht, hw, Bool.false_eq_true, if_false]

/-! ### Frame markers (R331, R388) -/

/-- The overruns that a marker raises at the focused core (R333). -/
def State.lateOverruns (s : State) : State :=
  Eng.all.foldl (fun s e => match s.lateStamp e with
    | some x => s.stampOverrun e x
    | none => s) s

theorem State.lateOverruns_frame (s : State) : s.lateOverruns = { s with
    core := { s.core with
      ctr := s.lateOverruns.core.ctr, wait := s.lateOverruns.core.wait
      qstop := s.lateOverruns.core.qstop, eng := s.lateOverruns.core.eng }
    order := s.lateOverruns.order } := by
  unfold State.lateOverruns
  generalize Eng.all = l
  induction l using List.reverseRecOn with
  | nil => rfl
  | append_singleton l e ih =>
    rw [List.foldl_append, List.foldl_cons, List.foldl_nil]
    split
    · rw [State.stampOverrun_frame, ih]
    · exact ih

theorem State.markerAt_of_frozen (h : s.frozen = true) : s.markerAt = s := by simp only [State.markerAt, State.whenLive, h, if_true]

theorem State.markerAt_of_live (h : s.frozen = false) : s.markerAt = s.lateOverruns.upd (fun c => { c with sfc := 0, ev := true }) := by
  rw [State.markerAt, State.whenLive, h]
  rfl

/-- What a marker leaves of the focused core where it is not stopped. -/
def Core.Marked (c d : Core) : Prop := d.sfc = 0 ∧ d.ev = true ∧ d.s = c.s ∧ d.pc = c.pc ∧ d.run = c.run

theorem State.markerAt_marked (h : s.frozen = false) : s.core.Marked s.markerAt.core := by
  rw [State.markerAt_of_live h, State.lateOverruns_frame]
  exact ⟨rfl, rfl, rfl, rfl, rfl⟩

theorem State.markerAt_frame (s : State) : s.markerAt.cur = s.cur ∧ s.markerAt.others = s.others ∧ s.markerAt.mem = s.mem ∧
    s.markerAt.boot = s.boot ∧ s.markerAt.markers = s.markers := by
  by_cases h : s.frozen = true
  · rw [State.markerAt_of_frozen h]
    exact ⟨rfl, rfl, rfl, rfl, rfl⟩
  · rw [State.markerAt_of_live (Bool.not_eq_true _ ▸ h), State.lateOverruns_frame]
    exact ⟨rfl, rfl, rfl, rfl, rfl⟩

theorem State.markerCores_of_frameId {q : Nat} (h : s.frameId q ≠ none) : s.markerCores q = s.partCores q := by
  obtain ⟨id, hid⟩ := Option.ne_none_iff_exists'.mp h
  have hlt : id < 64 := List.mem_range.mp (List.mem_of_find?_eq_some hid)
  have hown : s.holder (128 + id) = some q := by simpa using List.find?_some hid
  have hb : (frameSideband id).toNat % 64 = id := by simp only [frameSideband, BitVec.toNat_ofNat]; omega
  simp only [State.markerCores, hid, State.sidebandCores, hb, hown]

end Stamps

/-! ### An operation carried out for one core -/

section WithCore
variable {s : State} {f : State → State} {p q : Nat}

theorem State.coreAt_withCore (s : State) (p q : Nat) (f : State → State) : (s.withCore p f).coreAt q = (f (s.focus p)).coreAt q :=
  State.coreAt_focus ..

theorem State.withCore_cur (s : State) (p : Nat) (f : State → State) : (s.withCore p f).cur = s.cur := State.focus_cur ..

theorem State.coreAt_congr {t : State} (hc : t.cur = s.cur) (ho : t.others = s.others) (hq : q ≠ s.cur) : t.coreAt q = s.coreAt q := by
  simp only [State.coreAt, hc, ho, hq, if_false]

theorem State.coreAt_of_cur (h : s.cur = p) : s.coreAt p = s.core := by rw [← h, State.coreAt_cur]

theorem State.withCore_markerAt_other (s : State) (h : q ≠ p) : (s.withCore p State.markerAt).coreAt q = s.coreAt q := by
  obtain ⟨hcur, hothers, -, -, -⟩ := (s.focus p).markerAt_frame
  rw [State.coreAt_withCore, State.coreAt_congr hcur hothers (by rwa [State.focus_cur]), State.coreAt_focus]

theorem State.withCore_markerAt_self (s : State) (p : Nat) : (s.withCore p State.markerAt).coreAt p = (s.focus p).markerAt.core := by
  rw [State.coreAt_withCore, State.coreAt_of_cur ((s.focus p).markerAt_frame.1.trans (State.focus_cur ..))]

theorem State.frozen_focus (s : State) (p : Nat) (hb : s.boot.power ≠ .stopped) : (s.focus p).frozen = (s.coreAt p).scanned := by
  simp [State.frozen, hb]

theorem Core.scanned_congr {c d : Core} (h : d.run = c.run) : d.scanned = c.scanned := by simp only [Core.scanned, h]

/-- What a marker that reached the cores of a list leaves of the others, of stopped cores and of the rest of the state. -/
structure State.MarkedAt (s t : State) (l : List Nat) : Prop where
  cur : t.cur = s.cur
  mem : t.mem = s.mem
  boot : t.boot = s.boot
  markers : t.markers = s.markers
  marked : ∀ p ∈ l, (s.coreAt p).scanned = false → (s.coreAt p).Marked (t.coreAt p)
  same : ∀ p, p ∉ l ∨ (s.coreAt p).scanned = true → t.coreAt p = s.coreAt p

theorem State.markedAt_foldl (l : List Nat) (s : State) (hb : s.boot.power ≠ .stopped) :
    s.MarkedAt (l.foldl (fun s p => s.withCore p State.markerAt) s) l := by
  induction l using List.reverseRecOn with
  | nil => exact ⟨rfl, rfl, rfl, rfl, by simp, fun _ _ => rfl⟩
  | append_singleton l p ih =>
    rw [List.foldl_append, List.foldl_cons, List.foldl_nil]
    generalize List.foldl (fun s p => s.withCore p State.markerAt) s l = t at ih
    obtain ⟨-, -, hmem, hboot, hmark⟩ := (t.focus p).markerAt_frame
    have hfz : (t.focus p).frozen = (t.coreAt p).scanned := t.frozen_focus p (ih.boot ▸ hb)
    have hstop : (s.coreAt p).scanned = true → (t.withCore p State.markerAt).coreAt p = s.coreAt p := fun h => by
      have ht := ih.same p (.inr h)
      rw [State.withCore_markerAt_self, State.markerAt_of_frozen (by rw [hfz, ht, h]), State.focus_core, ht]
    have hscan : (t.coreAt p).scanned = (s.coreAt p).scanned := by
      by_cases h : p ∉ l ∨ (s.coreAt p).scanned = true
      · rw [ih.same p h]
      · rw [not_or, not_not, Bool.not_eq_true] at h
        exact Core.scanned_congr (ih.marked p h.1 h.2).2.2.2.2
    refine ⟨(t.withCore_cur ..).trans ih.cur, by simp [State.withCore, hmem, ih.mem], by simp [State.withCore, hboot, ih.boot],
      by simp [State.withCore, hmark, ih.markers], fun q hq hs => ?_, fun q hq => ?_⟩
    · by_cases hqp : q = p
      · subst hqp
        obtain ⟨m1, m2, m3, m4, m5⟩ := State.markerAt_marked (hfz.trans (hscan.trans hs))
        rw [State.withCore_markerAt_self]
        rw [State.focus_core] at m3 m4 m5
        by_cases hl : q ∈ l
        · obtain ⟨-, -, k3, k4, k5⟩ := ih.marked q hl hs
          exact ⟨m1, m2, m3.trans k3, m4.trans k4, m5.trans k5⟩
        · rw [ih.same q (.inl hl)] at m3 m4 m5
          exact ⟨m1, m2, m3, m4, m5⟩
      · rw [t.withCore_markerAt_other hqp]
        exact ih.marked q (by simpa [hqp] using hq) hs
    · by_cases hqp : q = p
      · subst hqp
        exact hstop (hq.resolve_left (by simp))
      · rw [t.withCore_markerAt_other hqp]
        exact ih.same q (hq.imp_left (fun h hm => h (by simp [hm])))

end WithCore

/-! ### Writes of memory and PF registers -/

/-- s and t differ in memory, its poison and marks, PF registers, the L1 of the core in focus, the LLC, the links and the scrub queue. -/
def State.WritesTo (s t : State) : Prop :=
  t = { s with
    core := { s.core with l1 := t.core.l1 }, mem := t.mem, poison := t.poison, pf := t.pf, detBars := t.detBars, sieve := t.sieve
    conflicts := t.conflicts, llc := t.llc, llcEv := t.llcEv, llcClock := t.llcClock, linkq := t.linkq, scrubq := t.scrubq }

section Writes
variable {s t u : State}

theorem State.WritesTo.refl (s : State) : s.WritesTo s := rfl

theorem State.WritesTo.trans (h : s.WritesTo t) (k : t.WritesTo u) : s.WritesTo u := by
  unfold State.WritesTo at h k ⊢
  rw [k, h]

theorem State.writesTo_foldl {α : Type} {f : State → α → State} (h : ∀ (s : State) a, s.WritesTo (f s a)) (l : List α) (s : State) :
    s.WritesTo (l.foldl f s) := by
  induction l generalizing s with
  | nil => exact .refl s
  | cons a l ih => exact (h s a).trans (ih _)

theorem State.ReadsTo.writesTo (h : s.ReadsTo t) : s.WritesTo t := by
  unfold State.ReadsTo at h
  unfold State.WritesTo
  rw [h]

theorem State.setByte_writesTo (s : State) (a : Nat) (v : Byte) : s.WritesTo (s.setByte a v) := rfl

theorem State.storeLE_writesTo (s : State) (a n v : Nat) : s.WritesTo (s.storeLE a n v) := by
  induction n generalizing s a v with
  | zero => exact .refl s
  | succ n ih => exact (s.setByte_writesTo ..).trans (ih ..)

theorem State.putBytes_writesTo (s : State) (a : Nat) (l : List Byte) : s.WritesTo (s.putBytes a l) := by
  induction l generalizing s a with
  | nil => exact .refl s
  | cons b l ih => exact (s.setByte_writesTo ..).trans (ih ..)

theorem State.setPoison_writesTo (s : State) (l : List Nat) : s.WritesTo { s with poison := l } := rfl

theorem State.writeBytes_writesTo (s : State) (a : Nat) (l : List Byte) : s.WritesTo (s.writeBytes a l) :=
  (s.putBytes_writesTo a l).trans (State.setPoison_writesTo ..)

theorem State.putBlock_writesTo (s : State) (a : Nat) (l : List Byte) : s.WritesTo (s.putBlock a l) := rfl

theorem State.zeroUnit_writesTo (s : State) (a : Nat) : s.WritesTo (s.zeroUnit a) := rfl

theorem State.setPf_writesTo (s : State) (r : Nat) (v : W64) : s.WritesTo (s.setPf r v) := rfl

theorem State.hwAfter_writesTo (s t : State) (a n q : Nat) (ctx : BitVec 9) : t.WritesTo (s.hwAfter t a n q ctx) := by
  unfold State.hwAfter
  generalize t.scrubq ++ s.leafPushes t a n = l
  rw [State.llcWrites_eq]
  rfl

theorem State.hwWriteFor_writesTo (s : State) (q : Nat) (ctx : BitVec 9) (a : Nat) (l : List Byte) : s.WritesTo (s.hwWriteFor q ctx a l) :=
  (s.writeBytes_writesTo a l).trans (State.hwAfter_writesTo ..)

theorem State.hwBlock_writesTo (s : State) (q : Nat) (ctx : BitVec 9) (a : Nat) (l : List Byte) : s.WritesTo (s.hwBlock q ctx a l) :=
  (s.putBlock_writesTo a l).trans (State.hwAfter_writesTo ..)

theorem State.setL1_writesTo (s : State) (l : List Nat) : s.WritesTo { s with core := { s.core with l1 := l } } := rfl

theorem State.hwWrite_writesTo (s : State) (a : Nat) (l : List Byte) : s.WritesTo (s.hwWrite a l) :=
  (s.hwWriteFor_writesTo ..).trans (State.setL1_writesTo ..)

theorem State.poisonLog_writesTo (s : State) (kind eng a ga : Nat) (seq : W32) : s.WritesTo (s.poisonLog kind eng a ga seq) := by
  unfold State.poisonLog
  dsimp only
  split
  · exact s.setPf_writesTo ..
  · exact (s.hwWrite_writesTo ..).trans ((State.hwWrite_writesTo ..).trans (State.setPf_writesTo ..))

theorem State.dirtied_writesTo (s : State) (l : Loc) : s.WritesTo (s.dirtied l) := by
  unfold State.dirtied
  split
  · next g _ =>
    obtain h | h | ⟨a, b, h⟩ := s.markDirty_cases s.vf.toNat g <;> rw [h]
    · exact .refl s
    · exact s.setPf_writesTo ..
    · exact s.hwWrite_writesTo ..
  · exact .refl s

theorem State.setScrubq_writesTo (s : State) (l : List W64) : s.WritesTo { s with scrubq := l } := rfl

theorem State.devWrite_writesTo (s : State) (a q : Nat) (ctx : BitVec 9) (l : List Byte) : s.WritesTo (s.devWrite a q ctx l) :=
  ((s.llcTouchAll_readsTo ..).writesTo.trans (State.writeBytes_writesTo ..)).trans
    ((State.setScrubq_writesTo ..).trans ((State.llcTouchAll_readsTo ..).writesTo.trans (State.setL1_writesTo ..)))

theorem State.writeZ_writesTo (s : State) (eng : Nat) (seq : W32) (l : Loc) (d : List Byte) : s.WritesTo (s.writeZ eng seq l d) := by
  unfold State.writeZ
  dsimp only
  generalize (s.poisonUnits l.pa d.length).filter _ = bad
  have hzero : s.WritesTo (bad.foldl (fun s u => (s.poisonLog 1 eng (64 * u) (l.unitGa u) seq).zeroUnit u) s) :=
    State.writesTo_foldl (fun s u => (s.poisonLog_writesTo 1 eng (64 * u) (l.unitGa u) seq).trans (State.zeroUnit_writesTo _ u)) bad s
  refine (hzero.trans (State.dirtied_writesTo _ l)).trans ?_
  split
  · exact State.devWrite_writesTo ..
  · exact State.writeBytes_writesTo ..

theorem State.writeParked_writesTo (s : State) (i : SavedImage) (k : Nat) : s.WritesTo (s.writeParked i k) := s.hwBlock_writesTo ..

theorem State.countParked_writesTo (s : State) (k : Nat) : s.WritesTo (s.countParked k) := by
  unfold State.countParked
  split
  · dsimp only
    split
    · exact s.hwWrite_writesTo ..
    · split
      · exact s.hwWrite_writesTo ..
      · exact .refl s
  · exact .refl s

theorem State.clearSpad_writesTo (s : State) (p : Nat) : s.WritesTo (s.clearSpad p) := rfl

theorem State.placeSpad_writesTo (s : State) (p : Nat) (i : SavedImage) : s.WritesTo (s.placeSpad p i) := by
  have hput (u : State) : u.WritesTo { u with
      poison := i.poison.map (· + spadPa p 0 / 64) ++ u.poison, detBars := i.dets.map (spadPa p) ++ u.detBars } := rfl
  exact (s.clearSpad_writesTo p).trans
    ((State.writesTo_foldl (fun (u : State) (c : Host.Cell) => u.setByte_writesTo (spadPa p c.1) c.2) i.spad _).trans (hput _))

end Writes

/-! ### What a core runs -/

/-- The record of a core, its place in it and whether it runs. -/
def Core.track (c : Core) : Option Rec × Addr × W32 × Run := (c.work, c.pc, c.sfc, c.run)

/-- t has the core of s in focus, its markers, and on the cores of P the same records at the same places. -/
def State.Tracks (P : Nat → Prop) (s t : State) : Prop :=
  t.cur = s.cur ∧ t.markers = s.markers ∧ ∀ p, P p → (t.coreAt p).track = (s.coreAt p).track

section Tracks
variable {P : Nat → Prop} {s t u : State}

theorem State.Tracks.refl (s : State) : s.Tracks P s := ⟨rfl, rfl, fun _ _ => rfl⟩

theorem State.Tracks.trans (h : s.Tracks P t) (k : t.Tracks P u) : s.Tracks P u :=
  ⟨k.1.trans h.1, k.2.1.trans h.2.1, fun p hp => (k.2.2 p hp).trans (h.2.2 p hp)⟩

theorem State.tracks_foldl {α : Type} {f : State → α → State} (h : ∀ (s : State) a, s.Tracks P (f s a)) (l : List α) (s : State) :
    s.Tracks P (l.foldl f s) := by
  induction l generalizing s with
  | nil => exact .refl s
  | cons a l ih => exact (h s a).trans (ih _)

theorem State.tracks_of_core (hcur : t.cur = s.cur) (hm : t.markers = s.markers) (ho : t.others = s.others)
    (hc : P s.cur → t.core.track = s.core.track) : s.Tracks P t := by
  refine ⟨hcur, hm, fun p hp => ?_⟩
  by_cases h : p = s.cur
  · rw [h, State.coreAt_cur, ← hcur, State.coreAt_cur]
    exact hc (h ▸ hp)
  · rw [State.coreAt_congr hcur ho h]

theorem State.WritesTo.tracks (h : s.WritesTo t) : s.Tracks P t := by
  unfold State.WritesTo at h
  refine State.tracks_of_core ?_ ?_ ?_ fun _ => ?_ <;> rw [h]
  rfl

theorem State.updAt_tracks (s : State) (p : Nat) {f : Core → Core} (h : ∀ c, (f c).track = c.track) : s.Tracks P (s.updAt p f) := by
  refine ⟨?_, ?_, fun q _ => ?_⟩
  · unfold State.updAt State.setCoreAt; split <;> rfl
  · unfold State.updAt State.setCoreAt; split <;> rfl
  · by_cases hq : q = p
    · rw [hq, State.updAt, State.coreAt_setCoreAt_self, h]
    · rw [State.updAt, State.coreAt_setCoreAt_ne _ _ hq]

theorem State.withCore_tracks (p : Nat) {f : State → State} (h : ∀ s : State, s.Tracks P (f s)) (s : State) : s.Tracks P (s.withCore p f) := by
  obtain ⟨-, hm, hc⟩ := h (s.focus p)
  exact ⟨s.withCore_cur p f, by simp [State.withCore, hm], fun q hq => by rw [State.coreAt_withCore, hc q hq, State.coreAt_focus]⟩

theorem State.setEvent_tracks (s : State) (p : Nat) : s.Tracks P (s.setEvent p) := s.updAt_tracks p fun _ => rfl

theorem State.post_tracks (s : State) (a b : Nat) (q : BitVec 5) (m : FlitMsg) : s.Tracks P (s.post a b q m) :=
  State.tracks_of_core rfl rfl rfl fun _ => rfl

theorem State.setDetBars_tracks (s : State) (l : List Nat) : s.Tracks P { s with detBars := l } :=
  State.tracks_of_core rfl rfl rfl fun _ => rfl

theorem State.sieveClear_tracks (s : State) (q : Nat) : s.Tracks P (s.sieveClear q) := State.tracks_of_core rfl rfl rfl fun _ => rfl

theorem State.storeLE_tracks (s : State) (a n v : Nat) : s.Tracks P (s.storeLE a n v) := (s.storeLE_writesTo a n v).tracks

theorem State.wakeArrived_tracks (s : State) (a q : Nat) : s.Tracks P (s.wakeArrived a q) :=
  State.tracks_foldl (fun (s : State) (x : Nat × Nat) => s.setEvent_tracks x.1) _ s

theorem State.storePhase_tracks (s : State) (a x y z : Nat) : s.Tracks P (((s.storeLE (a + 4) 4 x).storeLE a 4 y).storeLE (a + 32) 32 z) :=
  (s.storeLE_tracks ..).trans ((State.storeLE_tracks ..).trans (State.storeLE_tracks ..))

theorem State.setArrived_tracks (s : State) (a : Nat) (v : Byte) (m : Bool) : s.Tracks P (if m then s.setByte a v else s) := by
  split
  · exact (s.setByte_writesTo ..).tracks
  · exact .refl s

theorem State.arrive_tracks (s : State) (a q c : Nat) (m : Bool) : s.Tracks P (s.arrive a q c m) := by
  unfold State.arrive
  extract_lets count u pending v w x y
  have hu : s.Tracks P u := s.setArrived_tracks ..
  have hy : u.Tracks P y := (u.wakeArrived_tracks a q).trans (v.storePhase_tracks ..)
  clear_value u y
  split
  · exact .refl s
  · split
    · split
      · exact hu.trans (hy.trans ((y.sieveClear_tracks q).trans (State.setDetBars_tracks ..)))
      · exact hu.trans hy
    · exact hu.trans (u.storeLE_tracks ..)

theorem State.ctlArrive_tracks (s : State) (a q c : Nat) (det : Bool) : s.Tracks P (s.ctlArrive a q c det) := by
  unfold State.ctlArrive
  dsimp only
  split
  · exact (s.setDetBars_tracks _).trans (State.arrive_tracks ..)
  · exact s.arrive_tracks ..

theorem State.barInitAt_tracks (s : State) (a n : Nat) : s.Tracks P (s.barInitAt a n) :=
  ((s.storeLE_tracks ..).trans ((State.storeLE_tracks ..).trans (State.storeLE_tracks ..))).trans (State.setDetBars_tracks ..)

theorem State.amoAt_tracks (s : State) (a fn : Nat) (d : Bool) (v w : W64) : s.Tracks P (s.amoAt a fn d v w).1 := by
  unfold State.amoAt
  dsimp only
  split
  · exact s.storeLE_tracks ..
  · exact .refl s

theorem State.performRemote_tracks (s : State) (p : Nat) (r : Remote) : s.Tracks P (s.performRemote p r).1 := by
  unfold State.performRemote
  dsimp only
  split
  · exact .refl s
  · split
    · exact .refl s
    · exact (s.storeLE_tracks ..).trans (State.setEvent_tracks ..)
    · exact (s.amoAt_tracks ..).trans (State.setEvent_tracks ..)
    · exact (s.barInitAt_tracks ..).trans (State.setEvent_tracks ..)
    · exact (s.ctlArrive_tracks ..).trans (State.setEvent_tracks ..)
    · exact .refl s
    · exact .refl s

theorem State.setWait_tracks (s : State) (p : Nat) (w : Option Wait) : s.Tracks P (s.updAt p (fun c => { c with wait := w })) :=
  s.updAt_tracks p fun _ => rfl

theorem State.sentTurns_tracks (s : State) (p src e d o : Nat) : s.Tracks P (s.sentTurns p src e d o) := s.updAt_tracks src fun _ => rfl

theorem State.sbAlloc_tracks (s : State) (p i : Nat) (e : SbEntry) : s.Tracks P (s.sbAlloc p i e) := s.updAt_tracks p fun _ => rfl

theorem State.updXfer_tracks (s : State) (p id : Nat) (f : Xfer → Xfer) : s.Tracks P (s.updXfer p id f) := s.updAt_tracks p fun _ => rfl

theorem State.applyParked_tracks (s : State) (p : Nat) (l : List Parked) : s.Tracks P (s.applyParked p l) := by
  induction l generalizing s with
  | nil => exact .refl s
  | cons x l ih =>
    cases x with
    | access r => exact ((s.performRemote_tracks p r).trans (State.post_tracks ..)).trans (ih _)
    | reply r a => exact (s.setWait_tracks ..).trans (ih _)
    | signal o q c m =>
      refine State.Tracks.trans ?_ (ih _)
      split
      · exact s.setEvent_tracks p
      · exact (s.arrive_tracks ..).trans (State.setEvent_tracks ..)
    | data o d src seq => exact (State.withCore_tracks src (fun t => (t.writeZ_writesTo ..).tracks) s).trans (ih _)
    | run src e d o => exact (s.sentTurns_tracks ..).trans (ih _)

theorem State.beginRecv_tracks (s : State) (x : Xfer) (j : Nat) (r : Recv) : s.Tracks P (s.beginRecv x j r) := by
  unfold State.beginRecv
  split
  · split
    · exact (s.sbAlloc_tracks ..).trans (State.updXfer_tracks ..)
    · exact .refl s
  · split
    · exact s.post_tracks ..
    · exact .refl s

theorem State.rebindXfer_tracks (s : State) (x : Xfer) : s.Tracks P (s.rebindXfer x) := by
  unfold State.rebindXfer
  split
  · exact .refl s
  · refine State.tracks_foldl (fun (t : State) r => ?_) _ s
    dsimp only
    split
    · exact .refl t
    · exact t.beginRecv_tracks ..

/-! ### A context comes to a core (R29, R309) -/

theorem State.setImages_tracks (s : State) (l : List SavedImage) : s.Tracks P { s with images := l } :=
  State.tracks_of_core rfl rfl rfl fun _ => rfl

theorem State.writeImage_tracks (s : State) (h : Bool) : s.Tracks P (s.writeImage h) := by
  have hadd (u : State) (i : SavedImage) : u.Tracks P (u.addImage i) := State.tracks_of_core rfl rfl rfl fun _ => rfl
  have hlist (u : State) (i : SavedImage) : u.Tracks P (u.writeParkedList i) :=
    State.tracks_foldl (fun (s : State) k => (s.writeParked_writesTo i k).tracks) _ u
  exact (((s.setImages_tracks _).trans (State.hwBlock_writesTo ..).tracks).trans (hlist _ _)).trans (hadd ..)

theorem State.leaveContext_tracks (s : State) : s.Tracks P s.leaveContext := by
  unfold State.leaveContext
  split
  · split
    · exact .refl s
    · exact s.writeImage_tracks false
  · exact .refl s

theorem State.setCore_tracks (s : State) (c : Core) (h : ¬P s.cur) : s.Tracks P { s with core := c } :=
  State.tracks_of_core rfl rfl rfl fun hp => absurd hp h

theorem State.loadImage_tracks (s : State) (i : SavedImage) (r : Run) (h : ¬P s.cur) : s.Tracks P (s.loadImage i r) := by
  have hrebind (u : State) : u.Tracks P (if i.scan then u else u.core.cp.xfers.foldl State.rebindXfer u) := by
    split
    · exact .refl u
    · exact State.tracks_foldl State.rebindXfer_tracks _ u
  exact (((s.setCore_tracks _ h).trans (State.placeSpad_writesTo ..).tracks).trans (hrebind _)).trans
    ((State.applyParked_tracks ..).trans (State.setImages_tracks ..))

theorem State.coreReset_tracks (s : State) (q : Nat) (h : ¬P s.cur) : s.Tracks P (s.coreReset s.cur q) := by
  have hp : s.coreReset s.cur q = { s.clearSpad s.cur with core := (s.coreReset s.cur q).core } := by
    simp [State.coreReset, State.updAt, State.setCoreAt, State.clearSpad]
  rw [hp]
  exact (s.clearSpad_writesTo s.cur).tracks.trans (State.setCore_tracks _ _ h)

theorem State.switchContext_tracks (s : State) (vf : BitVec 9) (h : ¬P s.cur) : s.Tracks P (s.switchContext vf) := by
  unfold State.switchContext
  split
  · exact .refl s
  · extract_lets u
    have hu : s.Tracks P u := s.leaveContext_tracks.trans (by
      have hl : s.leaveContext.cur = s.cur := (s.leaveContext_tracks (P := P)).1
      have := s.leaveContext.coreReset_tracks (P := P) s.part (hl ▸ h)
      rwa [hl] at this)
    have hp : ¬P u.cur := hu.1 ▸ h
    clear_value u
    split
    · next i _ =>
      split
      · exact hu.trans (u.loadImage_tracks i .idle hp)
      · exact hu.trans ((u.setCore_tracks _ hp).trans (State.placeSpad_writesTo ..).tracks)
    · exact hu.trans (u.setCore_tracks _ hp)

end Tracks

/-! ### A record begins (R29) -/

section Begins
variable {s : State} {r : Rec} {n : Nat}

theorem State.bindBlocks_frame (s : State) (r : Rec) (p : Nat) : s.bindBlocks r p = { s with bindings := (s.bindBlocks r p).bindings } := by
  unfold State.bindBlocks
  split
  · rfl
  · split
    · rfl
    · next l _ =>
      generalize l.bindingLevels = ks
      induction ks using List.reverseRecOn with
      | nil => rfl
      | append_singleton ks k ih =>
        rw [List.foldl_append, List.foldl_cons, List.foldl_nil]
        split
        · exact ih
        · rw [ih]

/-- The fields of a record that R308 checks at once hold addresses. -/
def Rec.Fits (r : Rec) : Prop := r.d0.toNat < 2 ^ 49 ∧ r.d1.toNat < 2 ^ 48 ∧ r.d2.toNat < 2 ^ 48

theorem State.enterRecord_frame (s : State) (n : Nat) (h : r.Fits) :
    let c := (s.enterRecord r n).core
    s.enterRecord r n = { s with
      core := { s.core with
        pc := BitVec.ofNat 48 r.d0.toNat
        s := (s.core.s.setIfInBounds 1 (r.d1 &&& 0xFFFFFFFFFFFF#64)).setIfInBounds 2 (r.d2 &&& 0xFFFFFFFFFFFF#64)
        levelBase := r.d3, vrb := 0, lc0 := .off, lc1 := .off, pl := 0, tok := Vector.replicate 64 0, ev := true, arv := false
        wait := none, work := some r, trig := false, resident := some r.vf, entry := n, run := .running, reserved := none
        stored := false, wdog := 0, quiet := 0, l1 := [], cp := { s.core.cp with stage := 0 }
        det := c.det, sflen := c.sflen, eng := c.eng, preloaded := c.preloaded }
      bindings := (s.enterRecord r n).bindings } := by
  obtain ⟨h0, h1, h2⟩ := h
  unfold State.enterRecord
  simp only [Nat.div_eq_of_lt h0, Nat.div_eq_of_lt h1, Nat.div_eq_of_lt h2, ne_eq, not_true_eq_false, decide_false, Bool.or_self,
    Bool.false_eq_true, if_false]
  rw [State.bindBlocks_frame]
  rfl

theorem State.beginRecord_track (s : State) (n : Nat) (h : r.Fits) :
    (s.beginRecord r n).core.work = some r ∧ (s.beginRecord r n).core.pc = BitVec.ofNat 48 r.d0.toNat ∧
      (s.beginRecord r n).core.run = .running := by
  rw [State.beginRecord, State.enterRecord_frame _ n h]
  exact ⟨rfl, rfl, rfl⟩

theorem State.beginRecord_tracks {P : Nat → Prop} (s : State) (n : Nat) (h : r.Fits) (hp : ¬P s.cur) : s.Tracks P (s.beginRecord r n) := by
  have hsw := s.switchContext_tracks (P := P) r.vf hp
  refine hsw.trans ?_
  rw [State.beginRecord]
  refine State.tracks_of_core ?_ ?_ ?_ fun hq => absurd hq (hsw.1 ▸ hp) <;> rw [State.enterRecord_frame _ n h]

theorem Launch.record_fits (l : Launch) (i : Nat) : (l.record i).Fits := by
  have h (a : Addr) (k : Nat) (hk : 48 ≤ k) : (a.setWidth 64).toNat < 2 ^ k :=
    lt_of_le_of_lt (by simp [Nat.mod_le]) (lt_of_lt_of_le a.isLt (Nat.pow_le_pow_right (by omega) hk))
  exact ⟨h _ 49 (by omega), h _ 48 (by omega), by simp [Launch.record]⟩

theorem Launch.record_pc (l : Launch) (i : Nat) : BitVec.ofNat 48 (l.record i).d0.toNat = l.entry := by
  apply BitVec.eq_of_toNat_eq
  simp only [Launch.record, BitVec.toNat_ofNat, BitVec.toNat_setWidth]
  omega

end Begins

/-! ### The first frame of a DET launch (R330) -/

section FirstFrame
variable {s : State} {l : Launch}

/-- The first marker of a DET launch at core x.1, the x.2-th of its partition. -/
def State.firstMarkerAt (l : Launch) (s : State) (x : Nat × Nat) : State :=
  if x.2 < l.groups then s.withCore x.1 (fun s => (s.beginRecord (l.record x.2) 0).upd (fun c => { c with sfc := 0 }))
  else s.withCore x.1 State.markerAt

theorem State.firstMarkerAt_cur (s : State) (x : Nat × Nat) : (s.firstMarkerAt l x).cur = s.cur := by
  unfold State.firstMarkerAt
  split <;> exact s.withCore_cur ..

theorem State.firstMarkerAt_other (s : State) (x : Nat × Nat) :
    (s.firstMarkerAt l x).markers = s.markers ∧ ∀ q, q ≠ x.1 → ((s.firstMarkerAt l x).coreAt q).track = (s.coreAt q).track := by
  unfold State.firstMarkerAt
  split
  · obtain ⟨hcur, hm, hc⟩ := (s.focus x.1).beginRecord_tracks (P := (· ≠ x.1)) 0 (l.record_fits x.2) (by simp)
    refine ⟨by simp [State.withCore, hm], fun q hq => ?_⟩
    rw [State.coreAt_withCore, State.coreAt_congr (State.upd_cur ..) (State.upd_others ..), hc q hq, State.coreAt_focus]
    rwa [hcur, State.focus_cur]
  · exact ⟨by simp [State.withCore, (s.focus x.1).markerAt_frame.2.2.2.2], fun q hq => by rw [s.withCore_markerAt_other hq]⟩

theorem State.firstMarkerAt_self (s : State) {p i : Nat} (hi : i < l.groups) :
    ((s.firstMarkerAt l (p, i)).coreAt p).track = (some (l.record i), l.entry, 0, .running) := by
  have hcur := ((s.focus p).beginRecord_tracks (P := (· ≠ p)) 0 (l.record_fits i) (by simp)).1
  obtain ⟨hw, hpc, hr⟩ := (s.focus p).beginRecord_track 0 (l.record_fits i)
  rw [State.focus_cur] at hcur
  rw [State.firstMarkerAt, if_pos hi, State.coreAt_withCore, State.coreAt_of_cur ((State.upd_cur ..).trans hcur), State.upd_core]
  simp only [Core.track, hw, hpc, hr, l.record_pc]

theorem State.firstFrame_tracks (ps : List Nat) (k : Nat) (s : State) (hn : ps.Nodup) :
    let t := (ps.zipIdx k).foldl (State.firstMarkerAt l) s
    t.markers = s.markers ∧ (∀ q, q ∉ ps → (t.coreAt q).track = (s.coreAt q).track) ∧
      ∀ i p, k + i < l.groups → ps[i]? = some p → (t.coreAt p).track = (some (l.record (k + i)), l.entry, 0, .running) := by
  induction ps generalizing k s with
  | nil => exact ⟨rfl, fun _ _ => rfl, by simp⟩
  | cons p ps ih =>
    obtain ⟨hp, hn⟩ := List.nodup_cons.mp hn
    obtain ⟨om, oc⟩ := s.firstMarkerAt_other (l := l) (p, k)
    obtain ⟨hm, hc, hg⟩ := ih (k + 1) (s.firstMarkerAt l (p, k)) hn
    refine ⟨hm.trans om, fun q hq => ?_, fun i q hi hq => ?_⟩
    · obtain ⟨hqp, hqs⟩ := not_or.mp (List.mem_cons.not.mp hq)
      exact (hc q hqs).trans (oc q hqp)
    · cases i with
      | zero =>
        obtain rfl : p = q := by simpa using hq
        exact (hc p hp).trans (s.firstMarkerAt_self hi)
      | succ i =>
        have := hg i q (by omega) (by simpa using hq)
        rwa [show k + 1 + i = k + (i + 1) by omega] at this

end FirstFrame

/-! ### What DET launches hold (R330) -/

section DetLaunch
variable {s : State} {q : BitVec 5} {l : Launch}

theorem Core.isIdle_iff (c : Core) : c.isIdle = true ↔ c.run = .idle ∨ c.run = .gated false := by simp [Core.isIdle]

theorem State.detReady_iff (s : State) (l : Launch) : s.detReady l = true ↔ (s.detCores l).length = l.groups ∧ ∀ p ∈ s.detCores l,
    ((s.coreAt p).run = .idle ∨ (s.coreAt p).run = .gated false) ∧ (s.coreAt p).dbg.busy = false ∧ p ∉ s.tst.marks ∧
    p ∉ s.tst.cleaning ∧ s.settled p l.vf none = true := by
  simp [State.detReady, State.canEnter, Core.isIdle_iff, and_assoc]

theorem State.detHeld_of_launch {p : Nat} (hl : s.detLaunch q = some l) (hn : l.nextIdx = 0) (ho : s.coreHolder p = some q.toNat)
    (hp : p ∈ (s.partCores q.toNat).take l.groups) : s.detHeld p = true := by
  simp [State.detHeld, ho, hl, hn, hp]

theorem State.stampedEntryStart_fails {e : Eng} {x : Entry} (hl : s.frozen = false) (hdue : s.stampDue e = some x)
    (hseq : ∀ y, s.ready e = some y → y.seq = x.seq)
    (h : s.ready e = none ∨ s.startLong e x = none ∨ (∃ t, s.startLong e x = some t ∧ t.startWaits e x = true)) :
    exec (.stampedEntryStart e) s = .next (s.stampOverrun e x) := by
  change execStampedEntryStart e s = _
  rw [execStampedEntryStart, State.whenLive, hl, State.stampTest_of_fail hdue hseq h]
  rfl

theorem State.stampedEntryStart_starts {e : Eng} {x y : Entry} {t : State} (hl : s.frozen = false) (hdue : s.stampDue e = some x)
    (hr : s.ready e = some y) (hseq : y.seq = x.seq) (ht : s.startLong e x = some t) (hw : t.startWaits e x = false) :
    exec (.stampedEntryStart e) s = .next t := by
  change execStampedEntryStart e s = _
  rw [execStampedEntryStart, State.whenLive, hl, State.stampTest_of_start hdue hr hseq ht hw]
  rfl

/-! ### Markers emitted and delivered (R330, R331) -/

theorem execDetLaunchStart_of_not_ready (hl : s.detLaunch q = some l) (h : s.detReady l = false) : exec (.detLaunchStart q) s = .next s := by
  change execDetLaunchStart q s = _
  simp [execDetLaunchStart, hl, h]

theorem execDetLaunchStart_of_ready (hl : s.detLaunch q = some l) (hm : q ∉ s.markers) (hn : l.nextIdx = 0) (hv : s.vfHalted l.vf = false)
    (h : s.detReady l = true) : exec (.detLaunchStart q) s = .next { s.sieveClear q.toNat with markers := q :: s.markers } := by
  change execDetLaunchStart q s = _
  simp [execDetLaunchStart, hl, h, hm, hn, hv, State.sieveClear]

theorem execFrameMarkerEmit_of_due (hl : s.detLaunch q = some l) (hm : q ∉ s.markers) (hn : l.nextIdx = l.groups)
    (h : (s.coreAt ((s.partCores q.toNat).getD 0 0)).sfc.toNat = s.emitAt l) :
    exec (.frameMarkerEmit q) s = .next { s with markers := q :: s.markers } := by
  change execFrameMarkerEmit q s = _
  simp only [execFrameMarkerEmit, hl]
  rw [if_pos (by simpa [hn, hm] using h)]

/-- The state in which the marker of a partition is no longer under way. -/
def State.takeMarker (s : State) (q : BitVec 5) : State := { s with markers := s.markers.filter (· != q) }

theorem State.takeMarker_coreAt (s : State) (q : BitVec 5) (p : Nat) : (s.takeMarker q).coreAt p = s.coreAt p := rfl

theorem State.not_mem_takeMarker (s : State) (q : BitVec 5) : q ∉ (s.takeMarker q).markers := by simp [State.takeMarker]

theorem execFrameMarkerDelivery_eq (hl : s.detLaunch q = some l) (hm : q ∈ s.markers) (hf : s.frameId q.toNat ≠ none) :
    exec (.frameMarkerDelivery q) s = .next (
      if l.nextIdx = 0 then if s.vfHalted l.vf || !s.detReady l then s.takeMarker q else
        ((s.partCores q.toNat).zipIdx.foldl (State.firstMarkerAt l) (s.takeMarker q)).updLaunch l.vf l.lid
          (fun l => { l with nextIdx := l.groups })
      else (s.partCores q.toNat).foldl (fun s p => s.withCore p State.markerAt) (s.takeMarker q)) := by
  have hl' : (s.takeMarker q).detLaunch q = some l := hl
  have hc : (s.takeMarker q).markerCores q.toNat = s.partCores q.toNat := s.markerCores_of_frameId hf
  change execFrameMarkerDelivery q s = _
  rw [execFrameMarkerDelivery, if_neg (by simp [hm])]
  simp only [State.takeMarker] at hl' hc
  simp only [hl', hc]
  rfl

theorem State.updLaunch_frame (s : State) (vf : BitVec 9) (lid : W32) (f : Launch → Launch) :
    (s.updLaunch vf lid f).markers = s.markers ∧ ∀ p, (s.updLaunch vf lid f).coreAt p = s.coreAt p := ⟨rfl, fun _ => rfl⟩

theorem State.frameMarkerDelivery_first (hl : s.detLaunch q = some l) (hm : q ∈ s.markers) (hf : s.frameId q.toNat ≠ none)
    (hn : l.nextIdx = 0) (hv : s.vfHalted l.vf = false) (hr : s.detReady l = true) (hd : (s.partCores q.toNat).Nodup) :
    ∃ t, exec (.frameMarkerDelivery q) s = .next t ∧ q ∉ t.markers ∧ ∀ (i : Nat) (p : Nat), i < l.groups → (s.partCores q.toNat)[i]? = some p →
      (t.coreAt p).track = (some (l.record i), l.entry, 0, .running) := by
  obtain ⟨hmk, -, hg⟩ := State.firstFrame_tracks (l := l) _ 0 (s.takeMarker q) hd
  refine ⟨_, execFrameMarkerDelivery_eq hl hm hf, ?_⟩
  rw [if_pos hn, hv, hr]
  refine ⟨fun h => s.not_mem_takeMarker q (hmk ▸ h), fun i p hi hp => ?_⟩
  have := hg i p (by omega) hp
  rwa [Nat.zero_add] at this

theorem State.frameMarkerDelivery_next (hl : s.detLaunch q = some l) (hm : q ∈ s.markers) (hf : s.frameId q.toNat ≠ none)
    (hn : l.nextIdx ≠ 0) (hp : s.boot.power ≠ .stopped) :
    ∃ t, exec (.frameMarkerDelivery q) s = .next t ∧ q ∉ t.markers ∧ (s.takeMarker q).MarkedAt t (s.partCores q.toNat) := by
  have h := State.markedAt_foldl (s.partCores q.toNat) (s.takeMarker q) hp
  refine ⟨_, execFrameMarkerDelivery_eq hl hm hf, ?_⟩
  rw [if_neg hn]
  exact ⟨h.markers ▸ s.not_mem_takeMarker q, h⟩

end DetLaunch

/-- Settles O45: a due stamp is tested by cases on what its start answers; a marker leaves every core that is not stopped marked, by
induction over the cores it goes to, and the first one begins group i on core i, the record that a core takes being kept by whatever
begins on the others. -/
theorem framesAndStamps : Obligations.FramesAndStamps := by
  unfold Obligations.FramesAndStamps
  refine fun q e x l s => ⟨fun hs hp hdue => ?_, fun hz => ?_, fun hl hn ho hc => ?_, s.detReady_iff l, fun hl hm => ?_, fun ht => ?_,
    fun ht => ?_, fun hl hm hf hp => ?_⟩
  · have hlive := State.frozen_of_live hs hp
    refine ⟨fun y t hr hseq ht hw => State.stampedEntryStart_starts hlive hdue hr hseq ht hw, fun h hheld hseq => ?_⟩
    obtain ⟨hh, ho, hq, hk⟩ := s.stampOverrun_effect (x := x) hheld
    exact ⟨_, _, State.stampedEntryStart_fails hlive hdue hseq h, hh, rfl, rfl, rfl, ho, hq, hk⟩
  · change execStampedEntryStart e s = _
    rw [execStampedEntryStart, State.whenLive, if_pos hz]
  · have hheld := State.detHeld_of_launch hl hn ho hc
    refine ⟨hheld, by simp [State.reservable, hheld], ?_⟩
    change execCoreTakeRecord s = _
    rw [execCoreTakeRecord, if_pos (by simp [State.free?, hheld])]
  · refine ⟨fun _ h => execDetLaunchStart_of_not_ready hl h, fun hn hv h => ⟨_, execDetLaunchStart_of_ready hl hm hn hv h, ?_⟩,
      fun hn h => execFrameMarkerEmit_of_due hl hm hn h⟩
    refine ⟨rfl, rfl, rfl, rfl, fun g hg he => ?_⟩
    simp [State.sieveClear, he] at hg
  · simp [State.emitAt, State.throttled, ht]
  · simp [State.emitAt, State.throttled, ht]
  · refine ⟨fun hn => ?_, fun hn hr => ?_, fun hn hv hr hd => ?_⟩
    · obtain ⟨t, ht, hq, h⟩ := State.frameMarkerDelivery_next hl hm hf hn hp
      refine ⟨t, ht, hq, h.mem, h.cur, fun p hp hs => ?_, h.same⟩
      obtain ⟨m1, m2, m3, m4, -⟩ := h.marked p hp hs
      exact ⟨m1, m2, m3, m4⟩
    · rw [execFrameMarkerDelivery_eq hl hm hf, if_pos hn, hr, Bool.not_false, Bool.or_true]
      rfl
    · obtain ⟨t, ht, hq, h⟩ := State.frameMarkerDelivery_first hl hm hf hn hv hr hd
      refine ⟨t, ht, hq, fun i p hi hp => ?_⟩
      have := h i p hi hp
      simp only [Core.track, Prod.mk.injEq] at this
      exact ⟨this.1, this.2.1, this.2.2.1, this.2.2.2⟩

end Sys2Proof.Machine
end

section
/-!
The record that an idle core takes (R29, R309, R311, R312) and the groups that a launch appends (R319).
-/

namespace Sys2Proof.Machine

section Choice
variable {s : State} {x : TqEntry}

/-! ### Which record is taken (R311) -/

theorem findSome?_of_pairwise {α : Type} {f : Nat → Option α} {y : α} {l : List Nat} (hl : l.Pairwise (· > ·))
    (h : l.findSome? f = some y) : ∃ p ∈ l, f p = some y ∧ ∀ q ∈ l, p < q → f q = none := by
  induction l with
  | nil => exact absurd h (by simp)
  | cons a l ih =>
    obtain ⟨ha, hl⟩ := List.pairwise_cons.mp hl
    rw [List.findSome?_cons] at h
    cases hf : f a with
    | some z =>
      rw [hf] at h
      refine ⟨a, by simp, by rw [hf, Option.some.inj h], fun q hq hlt => ?_⟩
      obtain rfl | hq := List.mem_cons.mp hq
      · omega
      · have := ha q hq; omega
    | none =>
      rw [hf] at h
      obtain ⟨p, hp, hy, hn⟩ := ih hl h
      refine ⟨p, by simp [hp], hy, fun q hq hlt => ?_⟩
      obtain rfl | hq := List.mem_cons.mp hq
      · exact hf
      · exact hn q hq hlt

theorem State.chosen_spec (h : s.chosen = some x) :
    s.eligible x = true ∧ x ∈ s.tq ∧ ∀ y ∈ s.tq, s.eligible y = true → y.prio ≤ 3 → y.prio ≤ x.prio := by
  obtain ⟨p, -, hp, hn⟩ := findSome?_of_pairwise (by decide) h
  have hx := List.find?_some hp
  simp only [Bool.and_eq_true, beq_iff_eq] at hx
  refine ⟨hx.2, List.mem_of_find?_eq_some hp, fun y hy he h3 => ?_⟩
  by_contra hlt
  have := List.find?_eq_none.mp (hn y.prio (by simp; omega) (by omega)) y hy
  simp [he] at this

theorem passHead_length (l : List TqEntry) (part : BitVec 5) (p : Nat) : (passHead l part p).length = l.length := by
  unfold passHead
  split
  · rfl
  · next h hh =>
    have hm : h ∈ l := List.mem_of_find?_eq_some hh
    have := List.length_pos_of_mem hm
    dsimp only
    split
    · rw [List.length_append, List.length_erase_of_mem hm, List.length_singleton]; omega
    · exact List.length_replace

theorem foldl_passHead_length (part : BitVec 5) (ps : List Nat) (l : List TqEntry) :
    (ps.foldl (fun l q => passHead l part q) l).length = l.length := by
  induction ps generalizing l with
  | nil => rfl
  | cons p ps ih => rw [List.foldl_cons, ih, passHead_length]

theorem State.takeEntry_tq_length (h : x ∈ s.tq) : (s.takeEntry x).tq.length + 1 = s.tq.length := by
  have := List.length_pos_of_mem h
  simp only [State.takeEntry, foldl_passHead_length, List.length_erase_of_mem h]
  omega

/-- What a core has to meet to take entry x. -/
def State.Takes (s : State) (x : TqEntry) : Prop := s.free? = true ∧ s.chosen = some x ∧ s.takesFirst x = false

theorem execCoreTakeRecord_of_unsettled (h : s.Takes x) (hs : s.settled s.cur x.work.vf x.img = false) :
    exec .coreTakeRecord s = .next s := by
  obtain ⟨hf, hc, ht⟩ := h
  change execCoreTakeRecord s = _
  simp [execCoreTakeRecord, hf, hc, hs]

theorem execCoreTakeRecord_of_settled (h : s.Takes x) (hs : s.settled s.cur x.work.vf x.img = true)
    (hq : ((s.takeEntry x).runEntry x).scrubq = s.scrubq) : exec .coreTakeRecord s = .next ((s.takeEntry x).runEntry x) := by
  obtain ⟨hf, hc, ht⟩ := h
  change execCoreTakeRecord s = _
  simp [execCoreTakeRecord, hf, hc, hs, ht, State.scrubGuard_of_scrubq hq]

end Choice

/-! ### A record begins on a core (R29) -/

section Enter
variable {s : State} {r : Rec} {n : Nat}

theorem Vector.get_eq_getElem {α : Type} {n : Nat} (v : Vector α n) (k : Fin n) : v.get k = v[k.val] := rfl

theorem State.rd_eq_get (s : State) {k : Reg} (hk : k ≠ 0) : s.rd k = s.core.s.get k := by
  have : k.val ≠ 0 := fun h => hk (Fin.ext h)
  simp [State.rd, this, Vector.get_eq_getElem]

theorem State.enterRecord_regs (h : r.Fits) : (s.enterRecord r n).rd 1 = r.d1 ∧ (s.enterRecord r n).rd 2 = r.d2 ∧
    (∀ k : Reg, k ≠ 1 → k ≠ 2 → (s.enterRecord r n).core.s.get k = s.core.s.get k) := by
  have hmask {d : W64} (hd : d.toNat < 2 ^ 48) : d &&& 0xFFFFFFFFFFFF#64 = d := by
    apply BitVec.eq_of_toNat_eq
    rw [BitVec.toNat_and, show (0xFFFFFFFFFFFF#64).toNat = 2 ^ 48 - 1 from rfl, Nat.and_two_pow_sub_one_eq_mod, Nat.mod_eq_of_lt hd]
  rw [State.rd_eq_get _ (by decide), State.rd_eq_get _ (by decide), State.enterRecord_frame s n h, hmask h.2.1, hmask h.2.2]
  refine ⟨by simp [Vector.get_eq_getElem], by simp [Vector.get_eq_getElem], fun k h1 h2 => ?_⟩
  have k1 : 1 ≠ k.val := fun e => h1 (Fin.ext e.symm)
  have k2 : 2 ≠ k.val := fun e => h2 (Fin.ext e.symm)
  simp [Vector.get_eq_getElem, k1, k2]

theorem State.enterRecord_launch {l : Launch} (h : s.launchInfo r.vf r.lid = some l) (hf : r.Fits) :
    let c := (s.enterRecord r n).core
    c.det = l.det ∧ c.sflen = l.sflen ∧ (r.lid ∉ s.core.preloaded → c.eng = writePreloads s.core.eng l.preload) := by
  obtain ⟨h0, h1, h2⟩ := hf
  unfold State.enterRecord
  simp only [Nat.div_eq_of_lt h0, Nat.div_eq_of_lt h1, Nat.div_eq_of_lt h2, ne_eq, not_true_eq_false, decide_false, Bool.or_self,
    Bool.false_eq_true, if_false]
  rw [State.bindBlocks_frame, h]
  exact ⟨rfl, rfl, fun hl => by simp [hl]⟩

end Enter

/-! ### A record begins in its own context, or in one that no core has held (R29, R309) -/

section Fresh
variable {s : State} {r : Rec} {n : Nat}

theorem State.switchContext_self (h : s.core.resident = some r.vf) : s.switchContext r.vf = s := by
  rw [State.switchContext, if_pos h]

/-- The focused core at its reset values for a context that it has not held (R17, R309). -/
def State.freshContext (s : State) (vf : BitVec 9) : State := (s.coreReset s.cur s.part).upd (fun c => { c with resident := some vf })

theorem State.coreReset_self (s : State) : s.coreReset s.cur s.part = { s.clearSpad s.cur with
    core := { Core.reset with part := BitVec.ofNat 5 s.part, dbg := s.core.dbg, orbit := s.core.orbit, accepted := s.core.accepted } } := by
  have hcur : (s.clearSpad s.cur).coreAt s.cur = s.core := s.coreAt_cur
  rw [State.coreReset, State.updAt, hcur, State.setCoreAt]
  exact if_pos rfl

theorem State.switchContext_fresh {vf : BitVec 9} (hr : s.core.resident = none) (hi : s.savedHere s.cur vf = none) :
    s.switchContext vf = s.freshContext vf := by
  have hi' : (s.coreReset s.cur s.part).savedHere (s.coreReset s.cur s.part).cur vf = none := by rw [State.coreReset_self]; exact hi
  have hl : s.leaveContext = s := by rw [State.leaveContext, hr]
  rw [State.switchContext, if_neg (by simp [hr]), hl]
  simp only [hi']
  rfl

theorem State.byte_freshContext (s : State) (vf : BitVec 9) {k : Nat} (hk : k < Config.spadBytes) :
    (s.freshContext vf).byte (spadPa s.cur k) = 0 := by
  rw [State.freshContext, State.coreReset_self]
  exact Memory.get_clear_in s.mem (by simp [spadPa]) (by simp only [spadPa]; omega)

theorem State.byte_congr {t : State} (h : t.mem = s.mem) (a : Nat) : t.byte a = s.byte a := by rw [State.byte, State.byte, h]

end Fresh

section Take
variable {s : State} {x : TqEntry}

/-- The record of an entry at the level that the entry has reached (R312). -/
def TqEntry.record (x : TqEntry) : Rec := { x.work with prio := x.prio }

theorem State.settled_of_landed {vf : BitVec 9} {i : Option Nat} (h : s.core.landed = true) : s.settled s.cur vf i = true := by
  simp [State.settled, h]

theorem State.settled_of_resident {vf : BitVec 9} (h : s.core.resident = some vf) : s.settled s.cur vf none = true := by
  simp [State.settled, h]

theorem State.runEntry_of_resident (hi : x.img = none) (hr : s.core.resident = some x.work.vf) :
    (s.takeEntry x).runEntry x = (s.takeEntry x).enterRecord x.record x.id := by
  have h : (s.takeEntry x).switchContext x.record.vf = s.takeEntry x := State.switchContext_self (r := x.record) hr
  rw [State.runEntry, hi]
  exact congrArg (State.enterRecord · x.record x.id) h

theorem State.runEntry_of_fresh (hi : x.img = none) (hr : s.core.resident = none) (hs : s.savedHere s.cur x.work.vf = none) :
    (s.takeEntry x).runEntry x = ((s.takeEntry x).freshContext x.work.vf).enterRecord x.record x.id := by
  have h : (s.takeEntry x).switchContext x.record.vf = _ := State.switchContext_fresh (s := s.takeEntry x) hr hs
  rw [State.runEntry, hi]
  exact congrArg (State.enterRecord · x.record x.id) h

theorem TqEntry.record_pc (x : TqEntry) : BitVec.ofNat 48 x.record.d0.toNat = BitVec.ofNat 48 (x.work.d0.toNat % 2 ^ 48) := by
  apply BitVec.eq_of_toNat_eq
  simp [TqEntry.record]

theorem State.takeRecord_fresh (h : s.Takes x) (hi : x.img = none) (hr : s.core.resident = none) (hs : s.savedHere s.cur x.work.vf = none)
    (hl : s.core.landed = true) (hf : x.record.Fits) :
    ∃ t, exec .coreTakeRecord s = .next t ∧ t.core.work = some { x.work with prio := x.prio } ∧
      t.core.pc = BitVec.ofNat 48 (x.work.d0.toNat % 2 ^ 48) ∧ t.core.resident = some x.work.vf ∧ t.rd 1 = x.work.d1 ∧ t.rd 2 = x.work.d2 ∧
      (∀ r : Reg, r ≠ 1 → r ≠ 2 → t.core.s.get r = Core.reset.s.get r) ∧ t.core.ctr = Core.reset.ctr ∧
      ∀ k, k < Config.spadBytes → t.byte (spadPa s.cur k) = 0 := by
  have ht := State.runEntry_of_fresh hi hr hs
  have he := State.enterRecord_frame ((s.takeEntry x).freshContext x.work.vf) x.id hf
  obtain ⟨h1, h2, h3⟩ := State.enterRecord_regs (s := (s.takeEntry x).freshContext x.work.vf) (n := x.id) hf
  have hreset : (s.takeEntry x).freshContext x.work.vf = { (s.takeEntry x).clearSpad s.cur with
      core := ((s.takeEntry x).freshContext x.work.vf).core } := by
    rw [State.freshContext, State.coreReset_self]
    rfl
  have hcore : ((s.takeEntry x).freshContext x.work.vf).core.s = Core.reset.s ∧
      ((s.takeEntry x).freshContext x.work.vf).core.ctr = Core.reset.ctr := by
    rw [State.freshContext, State.coreReset_self]
    exact ⟨rfl, rfl⟩
  refine ⟨_, execCoreTakeRecord_of_settled h (hi ▸ State.settled_of_landed hl) ?_, ?_⟩
  · rw [ht, he, hreset]
    rfl
  · rw [ht]
    refine ⟨?_, ?_, ?_, h1, h2, fun k k1 k2 => (h3 k k1 k2).trans (by rw [hcore.1]), ?_, fun k hk => ?_⟩
    · rw [he]; rfl
    · rw [he]; exact x.record_pc
    · rw [he]; rfl
    · rw [he]; exact hcore.2
    · rw [State.byte_congr (s := (s.takeEntry x).freshContext x.work.vf) (by rw [he])]
      exact (s.takeEntry x).byte_freshContext _ hk

theorem State.takeRecord_resident (h : s.Takes x) (hi : x.img = none) (hr : s.core.resident = some x.work.vf) (hf : x.record.Fits) :
    exec .coreTakeRecord s = .next ((s.takeEntry x).enterRecord x.record x.id) := by
  rw [execCoreTakeRecord_of_settled h (hi ▸ State.settled_of_resident hr), State.runEntry_of_resident hi hr]
  rw [State.runEntry_of_resident hi hr, State.enterRecord_frame _ _ hf]
  rfl

/-! ### A record resumes from its image (R347) -/

/-- The record that a resumed core runs, at the level that its entry has reached. -/
def State.resumedAs (s : State) (x : TqEntry) : State :=
  s.upd (fun c => { c with entry := x.id, work := c.work.map (fun r => { r with prio := x.prio }) })

theorem State.runEntry_of_img {id : Nat} (hi : x.img = some id) : (s.takeEntry x).runEntry x = ((s.takeEntry x).resumeImage id).resumedAs x := by
  rw [State.runEntry, hi]
  rfl

theorem State.causeEntry_frame (s : State) (kind eng vf part core code sub : Nat) (d : W64) :
    s.causeEntry kind eng vf part core code sub d = { s with
      pf := (s.causeEntry kind eng vf part core code sub d).pf, msix := (s.causeEntry kind eng vf part core code sub d).msix } := by
  unfold State.causeEntry
  dsimp only
  split <;> rfl

theorem State.not_mem_dropImage (s : State) (id : Nat) : ∀ y ∈ (s.dropImage id).images, y.id ≠ id := by simp [State.dropImage]

theorem State.resumeImage_of_bad {id : Nat} {g : SavedImage} (hg : s.images.find? (fun i => i.id == id) = some g) (hok : s.imageOk g = false) :
    s.resumeImage id = (s.causeEntry 0 0 g.vf.toNat s.part s.cur Cause.memPoison.code 0 (g.addr.setWidth 64)).dropImage id := by
  simp only [State.resumeImage, hg, hok]
  rfl

theorem State.resumeImage_of_resident {id : Nat} {g : SavedImage} (hg : s.images.find? (fun i => i.id == id) = some g)
    (hok : s.imageOk g = true) (hr : s.core.resident = some g.vf) (hh : g.halted = false) :
    s.resumeImage id = (s.loadImage g .running).resumeIfFree := by
  simp only [State.resumeImage, hg, hok, hr, hh]
  rfl

theorem State.placeSpad_frame (s : State) (p : Nat) (i : SavedImage) : s.placeSpad p i = { s with
    mem := (s.placeSpad p i).mem, poison := (s.placeSpad p i).poison, detBars := (s.placeSpad p i).detBars } := by
  have h (l : List Host.Cell) (u : State) : l.foldl (fun s c => s.setByte (spadPa p c.1) c.2) u =
      { u with mem := (l.foldl (fun s c => s.setByte (spadPa p c.1) c.2) u).mem } := by
    induction l using List.reverseRecOn with
    | nil => rfl
    | append_singleton l c ih => rw [List.foldl_append, ih]; rfl
  unfold State.placeSpad
  dsimp only
  rw [h]
  rfl

theorem State.loadImage_idle (s : State) {g : SavedImage} (r : Run) (hs : g.scan = false) (hp : g.parked = []) (hx : g.core.cp.xfers = []) :
    s.loadImage g r = (({ s with core := s.imageCore g r }).placeSpad s.cur g).dropImage g.id := by
  have hx' : (({ s with core := s.imageCore g r }).placeSpad s.cur g).core.cp.xfers = [] := by
    rw [State.placeSpad_frame]
    exact hx
  simp only [State.loadImage, hs, hp, hx', List.foldl_nil, State.applyParked]
  rfl

theorem State.resumeIfFree_frame (s : State) : s.resumeIfFree = { s with core := { s.core with
    qstop := s.resumeIfFree.core.qstop, qlevel := s.resumeIfFree.core.qlevel, eng := s.resumeIfFree.core.eng } } := by
  unfold State.resumeIfFree
  split <;> rfl

theorem State.takeRecord_bad {id : Nat} {g : SavedImage} (h : s.Takes x) (hi : x.img = some id)
    (hg : s.images.find? (fun i => i.id == id) = some g) (hl : s.core.landed = true) (hok : s.imageOk g = false) :
    ∃ t, exec .coreTakeRecord s = .next t ∧ t.core.run = s.core.run ∧ t.core.s = s.core.s ∧ ∀ y ∈ t.images, y.id ≠ id := by
  obtain ⟨u, ⟨hc, hq⟩, ht⟩ : ∃ u : State, (u.core = s.core ∧ u.scrubq = s.scrubq) ∧ (s.takeEntry x).runEntry x = (u.dropImage id).resumedAs x := by
    refine ⟨_, ?_, (State.runEntry_of_img hi).trans (by rw [State.resumeImage_of_bad (s := s.takeEntry x) hg hok])⟩
    rw [State.causeEntry_frame]
    exact ⟨rfl, rfl⟩
  refine ⟨_, execCoreTakeRecord_of_settled h (State.settled_of_landed hl) (by rw [ht]; exact hq), ?_⟩
  rw [ht, ← hc]
  exact ⟨rfl, rfl, State.not_mem_dropImage u id⟩

theorem State.takeRecord_resumes {id : Nat} {g : SavedImage} (h : s.Takes x) (hi : x.img = some id)
    (hg : s.images.find? (fun i => i.id == id) = some g) (hid : g.id = id) (hl : s.core.landed = true) (hok : s.imageOk g = true)
    (hr : s.core.resident = some g.vf) (hs : g.scan = false) (hp : g.parked = []) (hx : g.core.cp.xfers = []) (hh : g.halted = false) :
    ∃ t, exec .coreTakeRecord s = .next t ∧ t.core.run = .running ∧ t.core.s = g.core.s ∧ t.core.pc = g.core.pc ∧ t.core.pl = g.core.pl ∧
      t.core.banks = g.core.banks ∧ t.core.vx = g.core.vx ∧ t.core.mx = g.core.mx ∧ t.core.tok = g.core.tok ∧
      t.core.work = g.core.work.map (fun r => { r with prio := x.prio }) ∧ t.core.entry = x.id ∧ ∀ y ∈ t.images, y.id ≠ id := by
  have ht : (s.takeEntry x).runEntry x = ((s.takeEntry x).loadImage g .running).resumeIfFree.resumedAs x := by
    rw [State.runEntry_of_img hi, State.resumeImage_of_resident (s := s.takeEntry x) hg hok hr hh]
  rw [State.resumeIfFree_frame, State.loadImage_idle _ _ hs hp hx, State.placeSpad_frame] at ht
  refine ⟨_, execCoreTakeRecord_of_settled h (State.settled_of_landed hl) ?_, ?_⟩
  · rw [ht]
    rfl
  · rw [ht, hid]
    exact ⟨rfl, rfl, rfl, rfl, rfl, rfl, rfl, rfl, rfl, rfl, State.not_mem_dropImage _ id⟩

end Take

/-! ### The groups of a launch enter their queue (R319) -/

section Groups
variable {s : State} {l : Launch}

theorem State.enqueue_quotaUsed (s : State) (q : BitVec 5) (r : Rec) : (s.enqueue q r).quotaUsed r.vf = s.quotaUsed r.vf + 1 := by
  simp only [State.quotaUsed, State.enqueue, State.enqueueAt, List.filter_append, List.length_append]
  simp
  omega

/-- The entry of group i of a launch, in slot n. -/
def Launch.entryOf (l : Launch) (i n : Nat) : TqEntry := ⟨l.part, (l.record i).prio, l.record i, 0, none, none, n⟩

theorem State.enqueueGroups_eq (hg : l.gangLevel = none) (k : Nat) (s : State) (next : Nat) (hn : next ≤ l.groups) :
    let room := min (l.groups - next) (min k (s.tquota l.vf - s.quotaUsed l.vf))
    s.enqueueGroups l next k = ({ s with
      tq := s.tq ++ (List.range room).map (fun j => l.entryOf (next + j) (s.nextSlot + j)), nextSlot := s.nextSlot + room }, next + room) := by
  induction k generalizing s next with
  | zero => simp [State.enqueueGroups]
  | succ k ih =>
    rw [State.enqueueGroups]
    by_cases h : next < l.groups ∧ s.quotaUsed l.vf < s.tquota l.vf
    · rw [if_pos (by simpa using h), hg]
      dsimp only
      have hq : (s.enqueue l.part (l.record next)).quotaUsed l.vf = s.quotaUsed l.vf + 1 := s.enqueue_quotaUsed ..
      have ht : (s.enqueue l.part (l.record next)).tquota l.vf = s.tquota l.vf := rfl
      rw [ih (s.enqueue l.part (l.record next)) (next + 1) h.1, hq, ht]
      have hroom : min (l.groups - next) (min (k + 1) (s.tquota l.vf - s.quotaUsed l.vf)) =
          min (l.groups - (next + 1)) (min k (s.tquota l.vf - (s.quotaUsed l.vf + 1))) + 1 := by omega
      rw [hroom]
      generalize min (l.groups - (next + 1)) (min k (s.tquota l.vf - (s.quotaUsed l.vf + 1))) = m
      have hlist : (List.range (m + 1)).map (fun j => l.entryOf (next + j) (s.nextSlot + j)) =
          l.entryOf next s.nextSlot :: (List.range m).map (fun j => l.entryOf (next + 1 + j) (s.nextSlot + 1 + j)) := by
        rw [List.range_succ_eq_map, List.map_cons, List.map_map]
        refine congrArg₂ List.cons rfl (List.map_congr_left fun j _ => ?_)
        simp only [Function.comp_apply, Nat.succ_eq_add_one, Nat.add_assoc, Nat.add_comm 1 j]
      rw [hlist]
      simp only [State.enqueue, State.enqueueAt, Launch.entryOf, List.append_assoc, List.singleton_append, Nat.add_assoc, Nat.add_comm 1]
    · rw [if_neg (by simpa using h)]
      have hroom : min (l.groups - next) (min (k + 1) (s.tquota l.vf - s.quotaUsed l.vf)) = 0 := by omega
      rw [hroom]
      simp

theorem State.launchOf_spec {v : BitVec 9} {i : W32} (h : s.launchOf v i = some l) : l.vf = v ∧ l.lid = i := by
  simpa using List.find?_some h

theorem State.launchOf_updLaunch {v : BitVec 9} {i : W32} {f : Launch → Launch} (h : s.launchOf v i = some l) (hf : ∀ l, (f l).vf = l.vf ∧ (f l).lid = l.lid) :
    (s.updLaunch v i f).launchOf v i = some (f l) := by
  have hp : (fun l : Launch => l.vf == v && l.lid == i) ∘ (fun l => if l.vf = v && l.lid = i then f l else l) = fun l => l.vf == v && l.lid == i := by
    funext l
    simp only [Function.comp_apply]
    split
    · rw [(hf l).1, (hf l).2]
    · rfl
  have hl := State.launchOf_spec h
  rw [State.launchOf] at h
  simp only [State.launchOf, State.updLaunch, List.find?_map, hp, h, Option.map_some, hl]
  simp

theorem State.mayBegin_spec (h : s.mayBegin l = true) : l.begun = false ∧ l.unread = false ∧ s.vfHalted l.vf = false := by
  simp only [State.mayBegin, Bool.and_eq_true, Bool.not_eq_true'] at h
  obtain ⟨⟨⟨⟨⟨⟨hb, hu⟩, -⟩, -⟩, -⟩, -⟩, hv⟩ := h
  exact ⟨hb, hu, hv⟩

theorem execLaunchBegin_of_mayBegin {v : BitVec 9} {i : W32} (h : s.launchOf v i = some l) (hm : s.mayBegin l = true) :
    exec (.launchBegin v i) s = .next (s.beginLaunch l) := by
  obtain ⟨-, hu, hv⟩ := State.mayBegin_spec hm
  rw [(State.launchOf_spec h).1] at hv
  change execLaunchBegin v i s = _
  simp [execLaunchBegin, h, hv, hu, hm]

theorem State.launchBegin_appends {v : BitVec 9} {i : W32} (h : s.launchOf v i = some l) (hm : s.mayBegin l = true) (hd : l.det = false)
    (hg : l.gangLevel = none) (hn : l.nextIdx ≤ l.groups) :
    let room := min (l.groups - l.nextIdx) (s.tquota v - s.quotaUsed v)
    ∃ t, exec (.launchBegin v i) s = .next t ∧
      t.tq = s.tq ++ (List.range room).map (fun k => l.entryOf (l.nextIdx + k) (s.nextSlot + k)) ∧
      (∃ l', t.launchOf v i = some l' ∧ l'.begun = true ∧ l'.nextIdx = l.nextIdx + room) ∧ t.core = s.core ∧ t.mem = s.mem := by
  obtain ⟨rfl, rfl⟩ := State.launchOf_spec h
  have hq := s.enqueueGroups_eq hg (s.tquota l.vf - s.quotaUsed l.vf) l.nextIdx hn
  rw [Nat.min_self] at hq
  refine ⟨_, execLaunchBegin_of_mayBegin h hm, ?_⟩
  rw [State.beginLaunch, hd]
  dsimp only
  rw [if_neg Bool.false_ne_true, hq]
  exact ⟨rfl, ⟨_, State.launchOf_updLaunch h fun _ => ⟨rfl, rfl⟩, rfl, rfl⟩, rfl, rfl⟩

end Groups

/-- Settles O46: the core's choice is the first eligible entry of its highest level; what it then begins is computed by cases on the image and
the context that the core holds, and a launch appends its groups by induction on its quota. -/
theorem recordEntry : Obligations.RecordEntry := by
  unfold Obligations.RecordEntry
  refine fun x l s => ⟨fun hf hc => ?_, fun h hs => execCoreTakeRecord_of_unsettled h hs, fun h hi hr hs hl hf => State.takeRecord_fresh h hi hr hs hl hf,
    fun h id g hi hg hid hl => ?_, fun h hi hr hf => ?_, fun v i h hm hd hg hn _ _ => State.launchBegin_appends h hm hd hg hn⟩
  · obtain ⟨he, hm, hp⟩ := State.chosen_spec hc
    refine ⟨he, hm, hp, fun ht => ?_⟩
    change execCoreTakeRecord s = _
    simp [execCoreTakeRecord, hf, hc, ht]
  · exact ⟨fun hok => State.takeRecord_bad h hi hg hl hok, fun hok hr hs hp hx hh => State.takeRecord_resumes h hi hg hid hl hok hr hs hp hx hh⟩
  · have hm := (State.chosen_spec h.2.1).2.1
    have he := State.enterRecord_frame (s.takeEntry x) x.id (r := x.record) hf
    obtain ⟨h1, h2, h3⟩ := State.enterRecord_regs (s := s.takeEntry x) (n := x.id) (r := x.record) hf
    have hinfo (l : Launch) (hl : s.launchInfo x.work.vf x.work.lid = some l) :=
      State.enterRecord_launch (s := s.takeEntry x) (n := x.id) (r := x.record) hl hf
    refine ⟨_, State.takeRecord_resident h hi hr hf, ?_, ?_, ?_, ?_, h1, h2, fun r hr1 hr2 => ?_, ?_, ?_, ?_, ?_, ?_, ?_, ?_, ?_, ?_, ?_, ?_, ?_,
      ?_, ?_, hinfo, ?_, ?_, ?_, ?_, ?_⟩
    case refine_5 =>
      by_cases h0 : r = 0
      · rw [h0]; rfl
      · rw [State.rd_eq_get _ h0, State.rd_eq_get _ h0, h3 r hr1 hr2]
        rfl
    all_goals rw [he]
    · exact State.takeEntry_tq_length hm
    · rfl
    · rfl
    · exact x.record_pc
    all_goals rfl

end Sys2Proof.Machine
end

section
/-!
Saving, scanning, restoring, gating and halting a core (R346–R360).
-/

namespace Sys2Proof.Machine

/-! ### The logical image of a core (R346, R347) -/

section Save
variable {s : State} {h : Bool}

theorem Engines.get_map (g : Engines) (f : EngState → EngState) (e : Eng) : (g.map f).get e = f (g.get e) := by cases e <;> rfl

theorem State.writeParkedList_writesTo (s : State) (i : SavedImage) : s.WritesTo (s.writeParkedList i) :=
  State.writesTo_foldl (fun (s : State) k => s.writeParked_writesTo i k) _ s

/-- x is the logical image of the focused core (R347). -/
structure State.ImageOf (s : State) (h : Bool) (x : SavedImage) : Prop where
  id : x.id = s.nextImage
  core : x.core = s.savedCore
  spad : x.spad = s.spadCells s.cur
  vf : x.vf = s.vf
  halted : x.halted = h
  parked : x.parked = s.core.parked
  hash : x.hash = Sha3.digest (hashInput x.header 3 (s.imageBody s.cur s.savedCore))
  length : x.header.getD 8 0 = BitVec.ofNat 64 (s.imageBody s.cur s.savedCore).length

theorem State.imageHeader_length (s : State) (n : Nat) : (s.imageHeader n).getD 8 0 = BitVec.ofNat 64 n := by
  unfold State.imageHeader
  dsimp only
  cases s.core.work <;> rfl

theorem State.addImage_spec {t : State} (hw : s.freeArea.WritesTo t) (i : SavedImage) : ∃ u, s.WritesTo u ∧ t.addImage i = { u with
    images := s.freeArea.images ++ [i], archive := i :: u.archive, nextImage := s.nextImage + 1 } := by
  refine ⟨{ t with images := s.images }, ?_, ?_⟩ <;> rw [State.WritesTo] at * <;> rw [hw] <;> rfl

theorem State.writeImage_spec (s : State) (h : Bool) : ∃ u x, s.WritesTo u ∧ s.ImageOf h x ∧ s.writeImage h = { u with
    images := s.freeArea.images ++ [x], archive := x :: u.archive, nextImage := s.nextImage + 1 } := by
  have hlen := s.imageHeader_length (s.imageBody s.cur s.savedCore).length
  unfold State.writeImage
  extract_lets id a body hd sum i
  obtain ⟨u, hu, he⟩ := State.addImage_spec ((s.freeArea.hwBlock_writesTo s.part s.vf a (doubleBytes (hd ++ sum) ++ body)).trans
    (State.writeParkedList_writesTo _ i)) i
  exact ⟨u, i, hu, ⟨rfl, rfl, rfl, rfl, rfl, rfl, rfl, hlen⟩, he⟩

/-- What the fields of an image that is written do not concern. -/
theorem State.writeImage_frame {u : State} {x : SavedImage} (hu : s.WritesTo u) (he : s.writeImage h = { u with
    images := s.freeArea.images ++ [x], archive := x :: u.archive, nextImage := s.nextImage + 1 }) :
    (s.writeImage h).core = { s.core with l1 := u.core.l1 } ∧ (s.writeImage h).tst = s.tst ∧ (s.writeImage h).tq = s.tq := by
  rw [he, hu]
  exact ⟨rfl, rfl, rfl⟩

/-! ### The focused core is saved (R346) -/

theorem State.foldl_pinSlots_frame (l : List Entry) (s : State) :
    l.foldl (fun t x => t.pinSlots (slotMask .sx x.img) (· - 1)) s =
      { s with core := { s.core with fr := (l.foldl (fun t x => t.pinSlots (slotMask .sx x.img) (· - 1)) s).core.fr } } := by
  induction l using List.reverseRecOn with
  | nil => rfl
  | append_singleton l x ih => rw [List.foldl_append, List.foldl_cons, List.foldl_nil, State.pinSlots_frame, ih]

/-- The state in which the image of the focused core is written and its record, if any, waits in it. -/
def State.savedRecord (s : State) (h : Bool) : State :=
  match s.core.work with
  | some r => (s.writeImage h).requeue ⟨s.core.part, r.prio, r, 0, none, some s.nextImage, s.core.entry⟩
  | none => s.writeImage h

theorem State.requeue_frame (s : State) (e : TqEntry) : ∃ y n l, y.work = e.work ∧ y.img = e.img ∧
    s.requeue e = { s with tq := y :: s.tq, nextSlot := n, taken := l } := by
  unfold State.requeue
  split
  · exact ⟨{ e with id := s.nextSlot }, _, _, rfl, rfl, rfl⟩
  · exact ⟨e, _, _, rfl, rfl, rfl⟩

theorem State.savedRecord_spec (s : State) (h : Bool) : (s.savedRecord h).core = (s.writeImage h).core ∧
    (s.savedRecord h).images = (s.writeImage h).images ∧ (s.savedRecord h).tst = (s.writeImage h).tst ∧
    ∀ r, s.core.work = some r → ∃ y rest, (s.savedRecord h).tq = y :: rest ∧ y.work = r ∧ y.img = some s.nextImage := by
  unfold State.savedRecord
  split
  · next r hr =>
    obtain ⟨y, n, l, hw, hi, he⟩ := (s.writeImage h).requeue_frame ⟨s.core.part, r.prio, r, 0, none, some s.nextImage, s.core.entry⟩
    rw [he]
    refine ⟨rfl, rfl, rfl, fun q hq => ⟨y, _, rfl, ?_, hi⟩⟩
    rw [hw]
    exact Option.some.inj (hr.symm.trans hq)
  · next hr => exact ⟨rfl, rfl, rfl, fun r hq => absurd (hr.symm.trans hq) (by simp)⟩

theorem State.saveCore_eq (s : State) (h : Bool) : s.saveCore h =
    (((s.eng .sx).q.foldl (fun t x => t.pinSlots (slotMask .sx x.img) (· - 1)) (s.savedRecord h)).upd
      Core.vacated).nowIdle := rfl

theorem State.saveCore_frame (s : State) (h : Bool) : ∃ fr n, s.saveCore h = { s.savedRecord h with
    core := { { (s.savedRecord h).core with fr := fr }.vacated with idleAt := n }, nextSlot := n + 1 } := by
  rw [State.saveCore_eq, State.foldl_pinSlots_frame]
  exact ⟨_, _, rfl⟩

theorem State.passGrants_of_not_donating (hq : s.core.part ∉ s.tst.donating) {t : State} (ht : t.tst = s.tst) : t.passGrants s.core.part = t := by
  rw [State.passGrants, if_neg (by simp [ht, hq])]

theorem execLogicalSaveComplete_eq {d : Bool} (hr : s.core.run = .saving d h) (hq : s.core.quiesced = true) (hl : s.core.landed = true)
    (hs : s.scrubq = []) : exec .logicalSaveComplete s = .next ((s.saveCore h).passGrants s.core.part) := by
  change execLogicalSaveComplete s = _
  simp only [execLogicalSaveComplete, hr, hq, hl, Bool.and_self, if_true, State.scrubGuard_of_empty hs]

theorem State.logicalSave_effect {d : Bool} (hr : s.core.run = .saving d h) (hq : s.core.quiesced = true) (hl : s.core.landed = true)
    (hp : s.core.part ∉ s.tst.donating) (hs : s.scrubq = []) :
    ∃ t x, exec .logicalSaveComplete s = .next t ∧ x ∈ t.images ∧ s.ImageOf h x ∧
      t.core.run = .idle ∧ t.core.work = none ∧ t.core.s = s.core.s ∧ t.core.pc = s.core.pc ∧ t.core.ctr = s.core.ctr ∧
      t.core.resident = s.core.resident ∧ t.core.stored = true ∧
      (∀ e, (t.eng e).q = [] ∧ (t.eng e).completed = (s.eng e).issued ∧ (t.eng e).tmpl = (s.eng e).tmpl) ∧
      (∀ r, s.core.work = some r → ∃ y rest, t.tq = y :: rest ∧ y.work = r ∧ y.img = some x.id) := by
  obtain ⟨u, x, hu, hx, he⟩ := s.writeImage_spec h
  obtain ⟨wc, wt, -⟩ := State.writeImage_frame hu he
  obtain ⟨rc, ri, rt, rq⟩ := s.savedRecord_spec h
  obtain ⟨fr, n, hf⟩ := s.saveCore_frame h
  refine ⟨_, x, execLogicalSaveComplete_eq hr hq hl hs, ?_⟩
  rw [State.passGrants_of_not_donating hp (by rw [hf]; exact rt.trans wt), hf, rc, wc, hx.id]
  refine ⟨?_, hx, rfl, rfl, rfl, rfl, rfl, rfl, rfl, fun e => ?_, rq⟩
  · change x ∈ (s.savedRecord h).images
    rw [ri, he]
    simp
  · simp only [State.eng, Core.vacated, Engines.get_map]
    exact ⟨trivial, trivial, trivial⟩

end Save

/-! ### Scan stops (R348–R351) -/

section Scan
variable {s : State} {g : SavedImage} {a : Addr}

/-- The state of a core whose request register holds an address. -/
def State.asked (s : State) (a : Addr) : State := { s with core := { s.core with dbg := { s.core.dbg with reqImg := a } } }

theorem State.updAt_cur (s : State) (f : Core → Core) : s.updAt s.cur f = { s with core := f s.core } := by
  rw [State.updAt, State.coreAt_cur, State.setCoreAt, if_pos rfl]

/-- A scan stop of the focused core writes a scan image of it and freezes it. -/
theorem State.scanStop_spec (s : State) (reason : Nat) (a : Addr) (h : Bool) : ∃ x l, x.scan = true ∧ x.addr = a ∧ x.phys = s.cur ∧
    x.written = false ∧ x.core = { s.core with accepted := 0 } ∧ s.scanStop s.cur reason a h = { s with
      images := l ++ [x], nextImage := s.nextImage + 1
      core := { s.core with run := .scanStopped reason, accepted := 0, parked := [] } } := by
  unfold State.scanStop
  extract_lets d c i old t
  have hc : i.core = { s.core with accepted := 0 } := by simp [i, c]
  exact ⟨i, _, rfl, rfl, rfl, rfl, hc, t.updAt_cur _⟩

theorem execScanReqGo_stops (h : (s.asked a).scanRefusal a.toNat = 0) :
    exec (.scanReqGo a) s = .next (((s.asked a).scanStop s.cur 1 a false).upd (fun c => { c with dbg := { c.dbg with busy := true } })) := by
  change execScanReqGo a s = _
  exact congrArg Host.Outcome.next (if_pos h)

theorem execScanReqGo_refused (h : (s.asked a).scanRefusal a.toNat ≠ 0) :
    exec (.scanReqGo a) s = .next { s.asked a with core := { (s.asked a).core with
      dbg := { (s.asked a).core.dbg with result := BitVec.ofNat 8 ((s.asked a).scanRefusal a.toNat) } } } := by
  change execScanReqGo a s = _
  exact congrArg Host.Outcome.next (if_neg h)

theorem State.scanReqGo_effect (h : (s.asked a).scanRefusal a.toNat = 0) :
    ∃ t, exec (.scanReqGo a) s = .next t ∧ t.core.run = .scanStopped 1 ∧ t.core.dbg.busy = true ∧
      (t.core.s = s.core.s ∧ t.core.pc = s.core.pc ∧ t.core.eng = s.core.eng ∧ t.core.banks = s.core.banks) ∧ t.mem = s.mem ∧
      ∃ x ∈ t.images, x.scan = true ∧ x.addr = a ∧ x.phys = s.cur ∧ x.written = false ∧ x.core.s = s.core.s ∧ x.core.pc = s.core.pc := by
  obtain ⟨x, l, h1, h2, h3, h4, h5, he⟩ := (s.asked a).scanStop_spec 1 a false
  refine ⟨_, execScanReqGo_stops h, ?_⟩
  rw [show s.cur = (s.asked a).cur from rfl, he]
  exact ⟨rfl, rfl, ⟨rfl, rfl, rfl, rfl⟩, rfl, x, by simp, h1, h2, h3, h4, by rw [h5]; rfl, by rw [h5]; rfl⟩

theorem State.mem_of_scanImage {p : Nat} (h : s.scanImage p = some g) : g ∈ s.images :=
  List.mem_reverse.mp (List.mem_of_find?_eq_some h)

theorem State.mem_updImage {f : SavedImage → SavedImage} (h : g ∈ s.images) : f g ∈ (s.updImage g.id f).images :=
  List.mem_map.mpr ⟨g, h, if_pos rfl⟩

theorem State.coreReset_frame (s : State) : s.coreReset s.cur s.part = { s with
    core := { Core.reset with part := BitVec.ofNat 5 s.part, dbg := s.core.dbg, orbit := s.core.orbit, accepted := s.core.accepted }
    mem := (s.clearSpad s.cur).mem, poison := (s.clearSpad s.cur).poison, detBars := (s.clearSpad s.cur).detBars } := s.coreReset_self

theorem State.scanStream_effect (hr : s.core.run = .scanStopped 1) (hg : s.scanImage s.cur = some g) (hw : g.written = false) (hq : s.scrubq = []) :
    ∃ t, exec .scanStreamComplete s = .next t ∧ t.core.run = .scanStopped 1 ∧ t.core.s = Core.reset.s ∧ t.core.dbg = s.core.dbg ∧
      (∃ x ∈ t.images, x.id = g.id ∧ x.written = true ∧ x.core = g.core) := by
  have hmem := State.mem_of_scanImage hg
  change ∃ t, execScanStreamComplete s = .next t ∧ _
  simp only [execScanStreamComplete, hg, hw, hr, State.scrubGuard_of_empty hq, Bool.false_eq_true, if_false]
  generalize chainData g.id = d
  have hu := (s.hwBlock_writesTo g.part.toNat g.vf g.addr.toNat (doubleBytes g.header ++ List.replicate 4032 0 ++ d)).trans
    (State.writeParkedList_writesTo _ g)
  generalize (s.hwBlock g.part.toNat g.vf g.addr.toNat (doubleBytes g.header ++ List.replicate 4032 0 ++ d)).writeParkedList g = u at hu
  have himg : u.images = s.images := by rw [hu]
  have hcore : u.core = { s.core with l1 := u.core.l1 } := by rw [hu]
  have hx := State.mem_updImage (f := fun i => { i with written := true, body := cellsOf 0 d }) (himg ▸ hmem)
  generalize hv : u.updImage g.id (fun i => { i with written := true, body := cellsOf 0 d }) = v at hx
  have hvc : v.core = { s.core with l1 := u.core.l1 } := by rw [← hv, ← hcore]; rfl
  have hcur : s.cur = v.cur := by rw [← hv, State.updImage, hu]
  have hpart : s.part = v.part := by rw [State.part, State.part, hvc]
  refine ⟨_, rfl, ?_⟩
  rw [hcur, hpart, State.coreReset_frame]
  exact ⟨rfl, rfl, by rw [State.upd_core, hvc], _, hx, rfl, rfl, rfl⟩

theorem State.scanSeal_effect (hr : s.core.run = .scanStopped 1) (hg : s.scanImage s.cur = some g) (hw : g.written = true)
    (hs : g.sealed = false) (hq : s.scrubq = []) (ha : (g.header.getD 3 0).toNat / 2 ^ 32 = s.core.accepted.toNat) :
    ∃ t, exec .scanImageSeal s = .next t ∧ t.core.run = .idle ∧ t.core.dbg.busy = false ∧ t.core.dbg.result = 0 ∧
      (∃ x ∈ t.images, x.id = g.id ∧ x.sealed = true ∧ x.hash = Sha3.digest (hashInput x.header 5 (chainData x.id))) ∧ t.core.s = s.core.s := by
  have hmem := State.mem_of_scanImage hg
  change ∃ t, execScanImageSeal s = .next t ∧ _
  simp only [execScanImageSeal, hg, hw, hs, ha, hr, State.scrubGuard_of_empty hq, Bool.not_true, Bool.or_self, ne_eq,
    not_true_eq_false, decide_false, Bool.false_eq_true, if_false]
  generalize (g.header.set 3 (BitVec.ofNat 64 (s.core.accepted.toNat * 2 ^ 32 + s.core.accepted.toNat))) = hd
  have hd' : ∃ sum, sum = Sha3.digest (hashInput hd 5 (chainData g.id)) := ⟨_, rfl⟩
  obtain ⟨sum, hsum⟩ := hd'
  rw [← hsum]
  have hu := s.hwBlock_writesTo g.part.toNat g.vf g.addr.toNat
    (doubleBytes (hd.set 5 (BitVec.ofNat 64 (g.parked.length * 2 ^ 32 + 1)) ++ sum))
  generalize s.hwBlock g.part.toNat g.vf g.addr.toNat (doubleBytes (hd.set 5 (BitVec.ofNat 64 (g.parked.length * 2 ^ 32 + 1)) ++ sum)) = u at hu
  have himg : u.images = s.images := by rw [hu]
  have hx := State.mem_updImage (f := fun _ => { g with header := hd, hash := sum, written := true, sealed := true }) (himg ▸ hmem)
  refine ⟨_, rfl, rfl, rfl, rfl, ⟨{ g with header := hd, hash := sum, written := true, sealed := true }, hx, rfl, rfl, hsum⟩, ?_⟩
  rw [State.upd_core]
  change u.core.s = _
  rw [hu]

/-! ### Scan restores (R352) -/

theorem execRestoreReqGo_begins (hb : s.core.dbg.busy = false) (h : s.restoreRefusal a.toNat = 0) :
    exec (.restoreReqGo a) s = .next { s with core := { s.core with dbg := { s.core.dbg with busy := true, resImg := a } } } := by
  change execRestoreReqGo a s = _
  rw [execRestoreReqGo, hb, if_neg Bool.false_ne_true, State.beginRestore]
  exact congrArg Host.Outcome.next (if_pos h)

theorem execRestoreReqGo_refused (hb : s.core.dbg.busy = false) (h : s.restoreRefusal a.toNat ≠ 0) :
    exec (.restoreReqGo a) s = .next { s with core := { s.core with
      dbg := { s.core.dbg with result := BitVec.ofNat 8 (s.restoreRefusal a.toNat) } } } := by
  change execRestoreReqGo a s = _
  rw [execRestoreReqGo, hb, if_neg Bool.false_ne_true, State.beginRestore]
  exact congrArg Host.Outcome.next (if_neg h)

theorem execRestoreReqGo_busy (hb : s.core.dbg.busy = true) :
    exec (.restoreReqGo a) s = .next { s with core := { s.core with dbg := { s.core.dbg with result := 17 } } } := by
  change execRestoreReqGo a s = _
  rw [execRestoreReqGo, hb, if_pos rfl]
  rfl

theorem State.scanSource_scan {n : Nat} (h : s.scanSource n = some g) : g.scan = true := by
  unfold State.scanSource at h
  split at h
  · next i hi =>
    have := List.find?_some hi
    simp only [Bool.and_eq_true, beq_iff_eq] at this
    rw [← Option.some.inj h, this.1]
  · split at h
    · obtain ⟨i, hi, rfl⟩ := Option.map_eq_some_iff.mp h
      have := List.find?_some hi
      simp only [Bool.and_eq_true] at this
      exact this.1
    · exact absurd h (by simp)

theorem State.loadImage_scan (s : State) (r : Run) (hs : g.scan = true) (hp : g.parked = []) :
    s.loadImage g r = (({ s with core := s.imageCore g r }).placeSpad s.cur g).dropImage g.id := by
  simp only [State.loadImage, hs, hp, State.applyParked]
  rfl

/-- A restored tile once its chain data are back: the clock starts with SFC = 0. -/
def State.restored (s : State) (g : SavedImage) : State :=
  (s.loadImage g g.resumeRun).upd (fun c => { c with sfc := 0, dbg := { c.dbg with busy := false, result := 0 } })

theorem State.restored_core (s : State) (hs : g.scan = true) (hp : g.parked = []) : (s.restored g).core = { s.imageCore g g.resumeRun with
    sfc := 0, dbg := { s.core.dbg with busy := false, result := 0 } } := by
  rw [State.restored, State.loadImage_scan _ _ hs hp, State.placeSpad_frame]
  rfl

theorem execScanRestoreComplete_eq (hb : s.core.dbg.busy = true) (hi : s.core.isIdle = true) (hl : s.core.landed = true)
    (hg : s.scanSource s.core.dbg.resImg.toNat = some g) (hp : g.parked = []) (hd : g.core.det = false) : ∃ b : Bool,
    exec .scanRestoreComplete s = .next (if b then (s.restored g).resumeIfFree else s.restored g) := by
  have hc := s.restored_core (State.scanSource_scan hg) hp
  have hdet (b : Bool) : (if b then (s.restored g).resumeIfFree else s.restored g).core.det = false := by
    cases b
    · rw [if_neg Bool.false_ne_true, hc]; exact hd
    · rw [if_pos rfl, State.resumeIfFree_frame, hc]; exact hd
  refine ⟨g.resumeRun == .running || g.resumeRun == .idle, ?_⟩
  change execScanRestoreComplete s = _
  simp only [execScanRestoreComplete, hb, hi, hl, Bool.not_true, Bool.or_self, Bool.false_eq_true, if_false, hg]
  exact congrArg Host.Outcome.next (if_neg (by rw [← Bool.not_eq_false, not_not]; exact hdet _))

theorem State.scanRestore_effect (hb : s.core.dbg.busy = true) (hi : s.core.isIdle = true) (hl : s.core.landed = true)
    (hg : s.scanSource s.core.dbg.resImg.toNat = some g) (hp : g.parked = []) (hd : g.core.det = false) :
    ∃ t, exec .scanRestoreComplete s = .next t ∧ t.core.s = g.core.s ∧ t.core.pc = g.core.pc ∧
      t.core.pl = g.core.pl ∧ t.core.banks = g.core.banks ∧ t.core.vx = g.core.vx ∧ t.core.mx = g.core.mx ∧ t.core.sfc = 0 ∧
      t.core.orbit = 0 ∧ t.core.dbg.busy = false ∧ t.core.resident = some g.vf := by
  have hs := State.scanSource_scan hg
  have hc := s.restored_core hs hp
  have ho : (s.imageCore g g.resumeRun).orbit = 0 := by simp [State.imageCore, hs]
  obtain ⟨b, he⟩ := execScanRestoreComplete_eq hb hi hl hg hp hd
  refine ⟨_, he, ?_⟩
  cases b
  · rw [if_neg Bool.false_ne_true, hc]
    exact ⟨rfl, rfl, rfl, rfl, rfl, rfl, rfl, ho, rfl, rfl⟩
  · rw [if_pos rfl, State.resumeIfFree_frame, hc]
    exact ⟨rfl, rfl, rfl, rfl, rfl, rfl, rfl, ho, rfl, rfl⟩

theorem execScanRestoreComplete_waits (h : s.core.landed = false ∨ s.core.isIdle = false) : exec .scanRestoreComplete s = .next s := by
  change execScanRestoreComplete s = _
  rw [execScanRestoreComplete, if_pos (by obtain h | h := h <;> simp [h])]

end Scan

/-! ### Gating and debug halts (R354, R359, R360) -/

section Halt
variable {s : State} {g : SavedImage}

theorem State.focus_self (s : State) : s.focus s.cur = s := if_pos rfl

theorem State.withCore_self {f : State → State} (h : (f s).cur = s.cur) : s.withCore s.cur f = f s := by
  rw [State.withCore, State.focus_self, ← h, State.focus_self]

theorem State.leaveRemote_frame (s : State) : s.leaveRemote s.cur = { s with core := { s.core with
    pc := (s.leaveRemote s.cur).core.pc, lc0 := (s.leaveRemote s.cur).core.lc0, lc1 := (s.leaveRemote s.cur).core.lc1
    arv := (s.leaveRemote s.cur).core.arv, ctr := (s.leaveRemote s.cur).core.ctr
    wait := (s.leaveRemote s.cur).core.wait, left := (s.leaveRemote s.cur).core.left } } := by
  unfold State.leaveRemote
  split
  · split
    · rfl
    · next r _ _ _ _ =>
      dsimp only
      rw [State.withCore_self (f := fun t => t.retire r.words) rfl, show s.cur = (s.retire r.words).cur from rfl, State.updAt_cur]
      rfl
  · rfl

theorem State.leaveRemote_of_none {p : Nat} (h : (s.coreAt p).outst = none) : s.leaveRemote p = s := by simp [State.leaveRemote, h]

theorem State.haltLogical_core (s : State) : s.haltLogical.core.run = .halted ∧ s.haltLogical.core.qstop = true ∧ s.haltLogical.core.ev = true ∧
    s.haltLogical.core.s = s.core.s ∧ (s.core.outst = none → s.haltLogical.core.pc = s.core.pc) ∧ s.haltLogical.mem = s.mem := by
  rw [State.haltLogical]
  refine ⟨rfl, rfl, rfl, ?_, fun ho => ?_, ?_⟩
  · rw [State.upd_core, Core.leaveWait_frame, State.leaveRemote_frame]
  · rw [State.leaveRemote_of_none (by rwa [State.coreAt_cur]), State.upd_core, Core.leaveWait_frame]
  · rw [State.leaveRemote_frame]
    rfl

theorem execDbgHaltLogical_of_off (h : s.pfBits 0x150 32 1 ≠ 1) : exec .dbgHaltLogical s = .next s := congrArg Host.Outcome.next (if_neg h)

theorem execDbgHaltLogical_of_on (h : s.pfBits 0x150 32 1 = 1) : exec .dbgHaltLogical s = .next s.dbgHalt :=
  congrArg Host.Outcome.next (if_pos h)

theorem execDbgHaltScan_of_off (h : s.pfBits 0x150 32 1 ≠ 1) : exec .dbgHaltScan s = .next s := congrArg Host.Outcome.next (if_neg h)

theorem execDbgHaltScan_of_on (h : s.pfBits 0x150 32 1 = 1) : exec .dbgHaltScan s = .next s.dbgScanHalt := congrArg Host.Outcome.next (if_pos h)

theorem execDbgResume_of_on (h : s.pfBits 0x150 32 1 = 1) : exec .dbgResume s = .next s.dbgResume := congrArg Host.Outcome.next (if_pos h)

theorem State.viaJtag_self (s : State) : s.viaJtag s = s := ite_self s

theorem State.dbgScanHalt_core (hh : s.haltable = true) : let t := s.dbgScanHalt
    t.core.run = .scanStopped 2 ∧ t.core.ev = true ∧ t.core.s = s.core.s ∧ t.core.pc = s.core.pc ∧ t.core.eng = s.core.eng ∧ t.mem = s.mem := by
  have hev : s.setEvent s.cur = { s with core := { s.core with ev := true } } := s.updAt_cur _
  have hcur : (s.setEvent s.cur).cur = s.cur := by rw [hev]
  obtain ⟨x, l, -, -, -, -, -, he⟩ := (s.setEvent s.cur).scanStop_spec 2 s.core.dbg.reqImg true
  rw [hcur, hev] at he
  rw [State.dbgScanHalt, if_pos hh, hev, he]
  exact ⟨rfl, rfl, rfl, rfl, rfl, rfl⟩

theorem State.halt_effect (hj : s.pfBits 0x150 32 1 = 1) (hh : s.haltable = true) :
    (∃ t, exec .dbgHaltLogical s = .next t ∧ t.core.run = .halted ∧ t.core.qstop = true ∧ t.core.ev = true ∧ t.core.s = s.core.s ∧
      (s.core.outst = none → t.core.pc = s.core.pc) ∧ t.mem = s.mem) ∧
    (∃ t, exec .dbgHaltScan s = .next t ∧ t.core.run = .scanStopped 2 ∧ t.core.ev = true ∧ t.core.s = s.core.s ∧ t.core.pc = s.core.pc ∧
      t.core.eng = s.core.eng ∧ t.mem = s.mem) := by
  refine ⟨⟨_, execDbgHaltLogical_of_on hj, ?_⟩, ⟨_, execDbgHaltScan_of_on hj, State.dbgScanHalt_core hh⟩⟩
  rw [State.dbgHalt, if_pos hh]
  exact s.haltLogical_core

theorem State.not_haltable_effect (hh : s.haltable = false) : exec .dbgHaltLogical s = .next s ∧ exec .dbgHaltScan s = .next s := by
  have h1 : s.dbgHalt = s := by rw [State.dbgHalt, hh]; rfl
  have h2 : s.dbgScanHalt = s := by rw [State.dbgScanHalt, hh]; rfl
  refine ⟨?_, ?_⟩
  · change Host.Outcome.next (s.viaJtag s.dbgHalt) = _
    rw [h1, State.viaJtag_self]
  · change Host.Outcome.next (s.viaJtag s.dbgScanHalt) = _
    rw [h2, State.viaJtag_self]

theorem execQuiescent_of_rest (hr : s.core.run = .halted) (hq : s.core.quiesced = true) (hs : ∀ e ∈ s.core.sb.toList, e = none)
    (hx : ∀ x ∈ s.core.cp.xfers, x.begun = false) :
    exec .quiescent s = .next { s with core := { s.core with dbg := { s.core.dbg with quiescent := true } } } := by
  change execQuiescent s = _
  rw [execQuiescent, if_pos]
  · rfl
  · simp only [hr, hq, beq_self_eq_true, Bool.and_true, Bool.true_and, Bool.and_eq_true, List.all_eq_true]
    exact ⟨fun e he => by rw [hs e he]; rfl, fun x hxm => by rw [hx x hxm]; rfl⟩

/-! ### The debug block through JTAG (R357, R358) -/

theorem State.jtag_write_of_off (h : s.pfBits 0x150 32 1 ≠ 1) {p r : Nat} (v : W64) : s.jtag p r (some v) = s := by
  unfold State.jtag
  split
  · rfl
  · exact if_neg h

theorem State.jtag_read_of_off (h : s.pfBits 0x150 32 1 ≠ 1) {p r : Nat} (hr : 0x20 ≤ r ∧ r ≤ 0x38) : s.jtag p r none = { s with hostRd := 0 } := by
  rw [State.jtag, if_neg (by simp; omega)]
  simp [h]

/-- Through JTAG a debug register of the core in focus takes a value as the core's block does. -/
theorem State.jtag_write (hj : s.pfBits 0x150 32 1 = 1) {r : Nat} (hr : 0x20 ≤ r ∧ r ≤ 0x38) (v : W64) :
    s.jtag s.cur r (some v) = s.coreWrite s.cur r v := by
  rw [State.jtag, if_neg (by simp; omega)]
  exact if_pos hj

theorem State.jtag_read (hj : s.pfBits 0x150 32 1 = 1) {r : Nat} (hr : 0x20 ≤ r ∧ r ≤ 0x38) :
    (s.jtag s.cur r none).hostRd = BitVec.ofNat 64 (s.coreRead s.cur r) := by
  rw [State.jtag, if_neg (by simp; omega)]
  simp [hj]

theorem State.coreWrite_sel (hd : s.debugOn s.part = true) (v : W64) :
    s.coreWrite s.cur 0x30 v = s.upd (fun c => { c with dbg := { c.dbg with sel := v &&& 0xF0000000003FFFFF#64 } }) := by
  have h : s.coreWrite s.cur 0x30 v = s.withCore s.cur (fun s => if !s.debugOn s.part then s else
      s.upd (fun c => { c with dbg := { c.dbg with sel := v &&& 0xF0000000003FFFFF#64 } })) := rfl
  rw [h, State.withCore_self] <;> simp [hd]

theorem State.dbgHalt_cur (s : State) : s.dbgHalt.cur = s.cur := by
  unfold State.dbgHalt
  split
  · rw [State.haltLogical, State.leaveRemote_frame]; rfl
  · rfl

theorem State.dbgResume_cur (s : State) : s.dbgResume.cur = s.cur := by
  have hp (t : State) (p : Nat) (l : List Parked) : (t.applyParked p l).cur = t.cur := (t.applyParked_tracks (P := fun _ => False) p l).1
  unfold State.dbgResume
  dsimp only
  split
  · rfl
  · split
    · rw [State.resumeIfFree_frame]
      exact hp _ _ _
    · split
      · exact hp _ _ _
      · rfl
    · rfl

theorem State.coreWrite_ctl (s : State) (v : W64) : s.coreWrite s.cur 0x20 v =
    s.withCore s.cur (fun s => if !s.debugOn s.part then s else
      let t := if v.toNat % 4 = 1 then s.dbgHalt else if v.toNat % 4 = 2 then s.dbgScanHalt else s
      if bit v.toNat 2 then t.dbgResume else t) := rfl

theorem State.coreWrite_halt (hd : s.debugOn s.part = true) {v : W64} (hv : v.toNat % 8 = 1) : s.coreWrite s.cur 0x20 v = s.dbgHalt := by
  have h4 : v.toNat % 4 = 1 := by omega
  have hb : bit v.toNat 2 = false := by simp [bit]; omega
  rw [State.coreWrite_ctl, State.withCore_self] <;> simp [hd, h4, hb, State.dbgHalt_cur]

theorem State.coreWrite_resume (hd : s.debugOn s.part = true) {v : W64} (hv : v.toNat % 8 = 4) : s.coreWrite s.cur 0x20 v = s.dbgResume := by
  have h4 : v.toNat % 4 = 0 := by omega
  have hb : bit v.toNat 2 = true := by simp [bit]; omega
  rw [State.coreWrite_ctl, State.withCore_self] <;> simp [hd, h4, hb, State.dbgResume_cur]

theorem State.coreRead_sel (hd : s.debugOn s.part = true) : BitVec.ofNat 64 (s.coreRead s.cur 0x30) = s.core.dbg.sel := by
  have h : s.coreRead s.cur 0x30 = if s.debugOn (s.coreAt s.cur).part.toNat then (s.coreAt s.cur).dbg.sel.toNat else 0 := rfl
  rw [h, State.coreAt_cur, if_pos (show s.debugOn s.core.part.toNat = true from hd), BitVec.ofNat_toNat, BitVec.setWidth_eq]

/-- The word of the halt register: the code, whether a fault is held and the core quiescent, and three bits below. -/
theorem State.coreRead_halt (hd : s.debugOn s.part = true) : ∃ k, k < 8 ∧ s.coreRead s.cur 0x28 =
    s.core.dbg.code.toNat * 2 ^ 52 + b2n s.anyHeld * 16 + b2n s.core.dbg.quiescent * 8 + k := by
  have hb (b : Bool) : b2n b ≤ 1 := by cases b <;> decide
  have h : ∃ m b, m ≤ 2 ∧ s.coreRead s.cur 0x28 = if s.debugOn (s.coreAt s.cur).part.toNat then (s.coreAt s.cur).dbg.code.toNat * 2 ^ 52 +
      b2n (s.focus s.cur).anyHeld * 16 + b2n (s.coreAt s.cur).dbg.quiescent * 8 + m * 2 + b2n b else 0 := by
    refine ⟨_, _, ?_, rfl⟩
    split
    · split <;> omega
    · omega
    · omega
  obtain ⟨m, b, hm, he⟩ := h
  refine ⟨m * 2 + b2n b, by have := hb b; omega, ?_⟩
  rw [he, State.coreAt_cur, if_pos (show s.debugOn s.core.part.toNat = true from hd), State.focus_self]
  omega

theorem State.hostRd_halt (hj : s.pfBits 0x150 32 1 = 1) (hd : s.debugOn s.part = true) :
    (s.jtag s.cur 0x28 none).hostRd.toNat / 2 ^ 52 = s.core.dbg.code.toNat ∧
      ((s.jtag s.cur 0x28 none).hostRd.toNat / 8 % 2 = 1 ↔ s.core.dbg.quiescent = true) := by
  have hb (b : Bool) : b2n b ≤ 1 := by cases b <;> decide
  have hq : s.core.dbg.quiescent = true ↔ b2n s.core.dbg.quiescent = 1 := by cases s.core.dbg.quiescent <;> decide
  obtain ⟨k, hk, he⟩ := s.coreRead_halt hd
  have hc := s.core.dbg.code.isLt
  have ha := hb s.anyHeld
  have hu := hb s.core.dbg.quiescent
  rw [State.jtag_read hj (by omega), he, BitVec.toNat_ofNat, Nat.mod_eq_of_lt (by omega), hq]
  omega

/-! ### Debug data (R358) -/

theorem execDbgDataRead_of_off (h : s.pfBits 0x150 32 1 ≠ 1) : exec .dbgDataRead s = .next { s with hostRd := 0 } := by
  change execDbgDataRead s = _
  rw [execDbgDataRead, if_neg h]

theorem execDbgDataRead_of_on (h : s.pfBits 0x150 32 1 = 1) : exec .dbgDataRead s = .next { s with hostRd := s.dbgData } := by
  change execDbgDataRead s = _
  rw [execDbgDataRead, if_pos h]

theorem execDbgDataWrite_of_off (h : s.pfBits 0x150 32 1 ≠ 1) (v : W64) : exec (.dbgDataWrite v) s = .next s :=
  congrArg Host.Outcome.next (if_neg h)

theorem execDbgDataWrite_of_on (h : s.pfBits 0x150 32 1 = 1) (v : W64) : exec (.dbgDataWrite v) s = .next (s.dbgWrite v) :=
  congrArg Host.Outcome.next (if_pos h)

theorem State.dbgSel_eq {n : Nat} (h : s.dbgSel.1 = n) : s.dbgSel = (n, s.dbgSel.2) := by rw [← h]

theorem State.dbgData_spad (hl : s.dbgLive = true) (h0 : s.dbgSel.1 = 0) (hi : s.dbgSel.2 % 8 = 0) (v : W64) :
    s.dbgData = s.load8 (spadPa s.cur s.dbgSel.2) ∧ s.dbgWrite v = s.store8 (spadPa s.cur s.dbgSel.2) v := by
  have hsel := State.dbgSel_eq h0
  generalize s.dbgSel.2 = i at hsel hi
  simp [State.dbgData, State.dbgWrite, hl, hsel, hi]

theorem State.dbgData_reg (hl : s.dbgLive = true) (h1 : s.dbgSel.1 = 1) (hi : s.dbgSel.2 < 32) (v : W64) :
    s.dbgData = s.rd ⟨s.dbgSel.2, hi⟩ ∧ s.dbgWrite v = s.wr ⟨s.dbgSel.2, hi⟩ v := by
  have hsel := State.dbgSel_eq h1
  generalize s.dbgSel.2 = i at hsel hi
  simp [State.dbgData, State.dbgWrite, hl, hsel, hi]

theorem State.dbgData_pc (hl : s.dbgLive = true) (h3 : s.dbgSel.1 = 3) (v : W64) : s.dbgData = s.core.pc.setWidth 64 ∧
    s.dbgWrite v = { s with core := { s.core with pc := BitVec.ofNat 48 (v.toNat / 4 * 4) } } := by
  have hsel := State.dbgSel_eq h3
  generalize s.dbgSel.2 = i at hsel
  simp [State.dbgData, State.dbgWrite, hl, hsel, State.upd]

theorem State.dbgData_dead (hl : s.dbgLive = false) (v : W64) : s.dbgData = 0 ∧ s.dbgWrite v = s := by
  simp [State.dbgData, State.dbgWrite, hl]

theorem State.dbgData_effect_dead (hl : s.dbgLive = false) (v : W64) :
    exec .dbgDataRead s = .next { s with hostRd := 0 } ∧ exec (.dbgDataWrite v) s = .next s := by
  obtain ⟨hr, hw⟩ := State.dbgData_dead hl v
  by_cases hj : s.pfBits 0x150 32 1 = 1
  · rw [execDbgDataRead_of_on hj, execDbgDataWrite_of_on hj, hr, hw]
    exact ⟨rfl, rfl⟩
  · exact ⟨execDbgDataRead_of_off hj, execDbgDataWrite_of_off hj v⟩

/-! ### Resuming a halted core (R359, R360) -/

theorem State.dbgResume_logical (hd : s.debugOn s.part = true) (hr : s.core.run = .halted) (hp : s.core.parked = []) : let t := s.dbgResume
    t.core.run = (if s.core.work.isSome then .running else .idle) ∧ t.core.s = s.core.s ∧ t.core.pc = s.core.pc ∧
      t.core.dbg.quiescent = false ∧ t.mem = s.mem := by
  simp only [State.dbgResume, hd, hr, hp, State.applyParked, Bool.not_true, Bool.false_eq_true, if_false]
  rw [State.resumeIfFree_frame]
  exact ⟨rfl, rfl, rfl, rfl, rfl⟩

theorem State.dbgResume_scan (hd : s.debugOn s.part = true) (hr : s.core.run = .scanStopped 2) (hg : s.scanImage s.cur = some g)
    (hp : g.parked = []) : let t := s.dbgResume
    t.core.run = (if s.core.work.isSome then .running else .idle) ∧ t.core.s = s.core.s ∧ t.core.pc = s.core.pc ∧ t.core.eng = s.core.eng ∧
      (∀ x ∈ t.images, x.id ≠ g.id) ∧ t.mem = s.mem := by
  simp only [State.dbgResume, hd, hr, hg, hp, State.applyParked, Bool.not_true, Bool.false_eq_true, if_false]
  exact ⟨rfl, rfl, rfl, rfl, s.not_mem_dropImage g.id, rfl⟩

end Halt

/-- Settles O49: each step of the scheduler and of the debug unit is computed where its checks pass and where they fail; what streams to
memory, the image's own or the parked list, leaves the core and the images as they were. -/
theorem saveRestore : Obligations.SaveRestore := by
  unfold Obligations.SaveRestore
  refine ⟨fun a g d h s => ⟨fun hr hq hl hp hs => ?_, ⟨State.scanReqGo_effect, execScanReqGo_refused⟩,
      fun ⟨hr, hg, _⟩ hw hq => State.scanStream_effect hr hg hw hq, fun ⟨hr, hg, _⟩ hw hs hq ha => State.scanSeal_effect hr hg hw hs hq ha,
      fun hb => ⟨execRestoreReqGo_begins hb, execRestoreReqGo_refused hb⟩, execRestoreReqGo_busy, State.scanRestore_effect,
      fun _ => execScanRestoreComplete_waits⟩,
    fun b v g s => ⟨fun hq h => ?_, fun hr => ?_, State.halt_effect, State.not_haltable_effect, execQuiescent_of_rest, fun hj => ?_,
      fun hj hd => ?_, fun hj hl => ?_, fun hl => State.dbgData_effect_dead hl v,
      fun hj hd hr hp => ⟨_, execDbgResume_of_on hj, State.dbgResume_logical hd hr hp⟩,
      fun hj hd hr hg hp => ⟨_, execDbgResume_of_on hj, State.dbgResume_scan hd hr hg hp⟩⟩⟩
  · obtain ⟨t, x, ht, hm, hx, hrest⟩ := State.logicalSave_effect hr hq hl hp hs
    exact ⟨t, x, ht, hm, hx.id, hx.core, hx.spad, hx.vf, hx.halted, hx.parked, hx.hash, hx.length, hrest⟩
  · change execPowerGate s = _
    rw [execPowerGate, if_pos (by simp [hq, h])]
    rfl
  · change execCoreWake s = _
    simp only [execCoreWake, hr]
    rfl
  · refine ⟨execDbgHaltLogical_of_off hj, execDbgHaltScan_of_off hj, congrArg Host.Outcome.next (if_neg hj), execDbgDataRead_of_off hj,
      execDbgDataWrite_of_off hj v, fun p r hr => ⟨State.jtag_write_of_off hj v, State.jtag_read_of_off hj ?_⟩⟩
    simp at hr
    omega
  · obtain ⟨hcode, hq⟩ := State.hostRd_halt hj hd
    refine ⟨?_, ?_, hcode, hq, fun hv => ?_, fun hv => ?_⟩
    · rw [State.jtag_write hj (by omega), State.coreWrite_sel hd]
      rfl
    · rw [State.jtag_read hj (by omega), State.coreRead_sel hd]
    · rw [State.jtag_write hj (by omega), State.coreWrite_halt hd hv]
    · rw [State.jtag_write hj (by omega), State.coreWrite_resume hd hv]
  · rw [execDbgDataRead_of_on hj, execDbgDataWrite_of_on hj]
    refine ⟨fun h0 hi => ?_, fun hi h1 => ?_, fun h3 => ?_⟩
    · obtain ⟨h1, h2⟩ := State.dbgData_spad hl h0 hi v
      rw [h1, h2]
      exact ⟨rfl, rfl⟩
    · obtain ⟨h1, h2⟩ := State.dbgData_reg hl h1 hi v
      rw [h1, h2]
      exact ⟨rfl, rfl⟩
    · obtain ⟨h1, h2⟩ := State.dbgData_pc hl h3 v
      rw [h1, h2]
      exact ⟨rfl, rfl⟩

end Sys2Proof.Machine
end

section
/-!
Collectives (R260–R263, R398): their start, the reduction, the result lap and the end of one that disagrees.
-/

namespace Sys2Proof.Machine

/-! ### The own scratchpad where it holds no poison -/

section SpadAccess
variable {s : State} {l : Loc} {n : Nat}

theorem State.readZ_spad (hd : l.dev = .spad) (h : s.poisonUnits l.pa n = []) (eng : Nat) (seq : W32) :
    s.readZ eng seq l n = (s.bytes l.pa n, s) := by
  simp [State.readZ, h, State.touchRead, hd, State.bytes]

theorem State.writeZ_spad {d : List Byte} (hd : l.dev = .spad) (hg : l.gfn = none) (h : s.poisonUnits l.pa d.length = []) (eng : Nat) (seq : W32) :
    s.writeZ eng seq l d = s.writeBytes l.pa d := by
  simp [State.writeZ, h, State.dirtied, hg, hd]

theorem State.firstPoison_of_clean {a : Nat} (h : s.poisonUnits a n = []) : s.firstPoison a n = none := by
  rw [State.poisonUnits, List.filter_eq_nil_iff] at h
  simp only [State.firstPoison, List.findSome?_eq_none_iff]
  exact fun u hu => if_neg (h u hu)

theorem State.writeBytes_byte (s : State) (a : Nat) (d : List Byte) (x : Nat) : (s.writeBytes a d).byte x = (s.putBytes a d).byte x := rfl

theorem State.sameBytes_writeBytes (s : State) (a : Nat) (d : List Byte) : s.SameBytes (s.writeBytes a d) a d.length :=
  fun x hx => (s.writeBytes_byte a d x).trans (State.putBytes_byte_out s a d x hx)

theorem State.bytes_writeBytes (s : State) (a : Nat) (d : List Byte) : (s.writeBytes a d).bytes a d.length = d := by
  refine List.ext_getElem (by simp [State.bytes]) fun k h1 h2 => ?_
  simp only [State.bytes, List.getElem_map, List.getElem_range, State.writeBytes_byte]
  rw [State.putBytes_byte_in s a d k h2, List.getD_eq_getElem _ _ h2]

end SpadAccess

/-! ### The start of a collective (R254, R260, R261) -/

section Start
variable {s : State} {a : CpArgs} {k b : Nat} {x : Entry} {y : Coll}

/-- A collective as it starts: with the elements of its source where it contributes, and its scoreboard entry. -/
def State.collStarted (s : State) (y : Coll) (b : Nat) : Coll :=
  { y with
    contrib := if s.contributes y then elemsOf (collBytes y.typ) y.count (s.bytes (spadPa s.cur y.src) (y.count * collBytes y.typ)) else []
    sb := some b }

theorem State.collRead_clean (hp : y.pend = none) (hc : y.contrib = [])
    (h : s.contributes y = true → s.poisonUnits (spadPa s.cur y.src) (y.count * collBytes y.typ) = []) :
    { (s.collRead y).1 with sb := some b } = s.collStarted y b ∧ (s.collRead y).2 = s := by
  by_cases hy : s.contributes y = true
  · have hr := State.readZ_spad (l := ⟨spadPa s.cur y.src, .spad, false, false, none, 0⟩) rfl (h hy) Eng.cp.num y.seq
    simp [State.collRead, State.collStarted, hy, hr, State.firstPoison_of_clean (h hy), hp]
  · simp [State.collRead, State.collStarted, hy, hc]

/-- The state in which a collective has started, before its contribution leaves. -/
def State.collBegun (s : State) (x : Entry) (z : Coll) (b : Nat) : State :=
  ((s.start .cp x .started).sbAlloc s.cur b ⟨z.dst, z.outCount * collBytes z.typ, z.ch⟩).upd
    (fun c => { c with cp := { c.cp with colls := c.cp.colls ++ [z] } })

theorem State.startColl_of_pass (hc : s.collCheck (collOf a k x) = none) (h0 : s.core.cp.colls = []) (h8 : s.collsInFlight < 8)
    (hr : s.contributes (collOf a k x) = true → s.sbHit (collOf a k x).src ((collOf a k x).count * collBytes (collOf a k x).typ) = false ∧
      s.poisonUnits (spadPa s.cur (collOf a k x).src) ((collOf a k x).count * collBytes (collOf a k x).typ) = [])
    (hb : sbFree s.core 8 = some b) (hu : s.collidUsed (collOf a k x).collid = false) :
    let z := s.collStarted (collOf a k x) b
    s.startColl a k x = some ((s.collBegun x z b).sendContrib z) := by
  have hhit : (s.contributes (collOf a k x) && s.sbHit (collOf a k x).src ((collOf a k x).count * collBytes (collOf a k x).typ)) = false := by
    by_cases h : s.contributes (collOf a k x) = true
    · rw [(hr h).1, Bool.and_false]
    · rw [Bool.not_eq_true] at h
      rw [h, Bool.false_and]
  obtain ⟨hz, hs⟩ := State.collRead_clean (s := s.start .cp x .started) (y := collOf a k x) (b := b) rfl rfl fun h => (hr h).2
  have hz' : { ((s.start .cp x .started).collRead (collOf a k x)).1 with sb := some b } = s.collStarted (collOf a k x) b := hz
  simp only [State.startColl, hc, hhit, hb, hu, h0, List.isEmpty_nil, Bool.not_true, Bool.false_or, decide_eq_true_eq, Nat.not_le.mpr h8,
    Bool.false_eq_true, if_false, ← hz']
  rw [hs]
  rfl

theorem State.contributes_iff (s : State) (y : Coll) : s.contributes y = true ↔ ¬(y.kind = 10 ∧ s.rankIn y ≠ 0) := by
  simp [State.contributes, Decidable.imp_iff_not_or]

theorem State.sendContrib_frame (s : State) (z : Coll) : s.sendContrib z = { s with
    flits := (s.sendContrib z).flits, nextFlit := (s.sendContrib z).nextFlit } := by
  unfold State.sendContrib
  split <;> rfl

theorem State.sendContrib_msgs (s : State) (z : Coll) :
    (s.sendContrib z).flits.map (·.msg) = s.flits.map (·.msg) ++ (if s.contributes z then [.contrib z.collid] else []) := by
  unfold State.sendContrib
  split
  · simp [State.post]
  · simp

/-- What instruction i does that starts collective y of opcode k: a check that fails is held, else y starts with scoreboard entry b. -/
def State.CollRules (s : State) (x : Entry) (b k : Nat) (y : Coll) (i : Instr) : Prop :=
  (∀ c, s.collCheck y = some c → (s.eng .cp).held = none → ∃ t h, exec i s = .next t ∧ (t.eng .cp).held = some h ∧
    h.trap = c ∧ h.seq = x.seq ∧ t.core.cp = s.core.cp ∧ t.core.qstop = true ∧ t.mem = s.mem) ∧
  (s.collCheck y = none → s.core.cp.colls = [] → s.collsInFlight < 8 →
    (s.contributes y = true → s.sbHit y.src (y.count * collBytes y.typ) = false ∧
      s.poisonUnits (spadPa s.cur y.src) (y.count * collBytes y.typ) = []) →
    sbFree s.core 8 = some b → s.collidUsed y.collid = false →
    ∃ t z, exec i s = .next t ∧ t.core.cp.colls = [z] ∧ t.mem = s.mem ∧ s.EntryAt t .cp x .started ∧
      z.sb = some b ∧ z.pend = none ∧ z.written = false ∧ z.here = false ∧ z.got = [] ∧ z.result = none ∧
      { z with sb := none, contrib := [] } = y ∧
      t.core.sb.toList.getD b none = some ⟨y.dst, y.outCount * collBytes y.typ, y.ch⟩ ∧
      z.contrib = (if k = 10 ∧ s.rankIn y ≠ 0 then [] else
        elemsOf (collBytes y.typ) y.count (s.bytes (spadPa s.cur y.src) (y.count * collBytes y.typ))) ∧
      t.flits.map (·.msg) = s.flits.map (·.msg) ++ (if k = 10 ∧ s.rankIn y ≠ 0 then [] else [.contrib y.collid]) ∧
      t.collTx = s.collTx)

theorem sbFree_lt {c : Core} {n : Nat} (h : sbFree c n = some b) (hn : n ≤ 8) : b < 16 := by
  obtain ⟨j, hj, rfl⟩ := List.mem_map.mp (List.mem_of_find?_eq_some h)
  have := List.mem_range.mp hj
  omega

theorem State.collBegun_frame (s : State) (x : Entry) (z : Coll) (b : Nat) : s.collBegun x z b = { s.start .cp x .started with
    core := { (s.start .cp x .started).core with
      sb := s.core.sb.setIfInBounds b (some ⟨z.dst, z.outCount * collBytes z.typ, z.ch⟩)
      cp := { s.core.cp with colls := s.core.cp.colls ++ [z] } } } := by
  rw [State.collBegun, State.sbAlloc, show s.cur = (s.start .cp x .started).cur from rfl, State.updAt_cur]
  rfl

theorem State.collRules_of_starting {i : Instr} (hi : exec i s = .next (s.starting .cp (fun s x => s.startColl a k x))) (hr : s.ready .cp = some x)
    (hs : x.stamped .cp = false) : s.CollRules x b k (collOf a k x) i := by
  have hx := State.mem_of_ready hr
  rw [State.starting_eq hr hs] at hi
  refine ⟨fun c hc hh => ?_, fun hc h0 h8 hrd hb hu => ?_⟩
  · obtain ⟨he, hcore, hq⟩ := State.refuse_effect (x := x) hh c
    have hst : s.startColl a k x = some (s.refuse .cp x c) := by simp [State.startColl, hc]
    rw [hst, Option.getD_some, State.scrubGuard_of_scrubq hq] at hi
    refine ⟨_, _, hi, by rw [he], rfl, rfl, by rw [hcore], by rw [hcore], ?_⟩
    rw [State.refuse, hh]
    rfl
  · have hst := State.startColl_of_pass hc h0 h8 hrd hb hu
    dsimp only at hst
    generalize hz : s.collStarted (collOf a k x) b = z at hst
    have hf := (s.collBegun x z b).sendContrib_frame z
    have hm := (s.collBegun x z b).sendContrib_msgs z
    have hg := s.collBegun_frame x z b
    have hcon : (s.collBegun x z b).contributes z = true ↔ ¬(k = 10 ∧ s.rankIn (collOf a k x) ≠ 0) := by
      rw [hg, ← hz]
      exact s.contributes_iff (collOf a k x)
    rw [hst, Option.getD_some, State.scrubGuard_of_scrubq (by rw [hf, hg]; rfl)] at hi
    have hall : { z with sb := none, contrib := [] } = collOf a k x := by rw [← hz]; rfl
    have hflits : (s.collBegun x z b).flits = s.flits := by rw [hg]; rfl
    refine ⟨_, z, hi, ?_, ?_, ?_, ?_, ?_, ?_, ?_, ?_, ?_, hall, ?_, ?_, ?_, ?_⟩
    · rw [hf, hg, h0]
      rfl
    · rw [hf, hg]
      rfl
    · refine (State.entryAt_start (p := .started) hx rfl rfl rfl rfl).congr ?_ ?_ ?_ ?_ <;> rw [hf, hg]
    iterate 6 rw [← hz]; rfl
    · rw [hf, hg, ← hz]
      exact (getD_setIfInBounds ..).trans (if_pos ⟨rfl, sbFree_lt hb (Nat.le_refl 8)⟩)
    · by_cases h : k = 10 ∧ s.rankIn (collOf a k x) ≠ 0
      · rw [← hz, if_pos h, State.collStarted, if_neg (fun hc => (s.contributes_iff _).mp hc h)]
      · rw [← hz, if_neg h, State.collStarted, if_pos ((s.contributes_iff _).mpr h)]
    · rw [hm, hflits]
      by_cases h : k = 10 ∧ s.rankIn (collOf a k x) ≠ 0
      · rw [if_pos h, if_neg (fun hc => hcon.mp hc h)]
      · rw [if_neg h, if_pos (hcon.mpr h), ← hz]
        rfl
    · rw [hf, hg]
      rfl

end Start

/-! ### The port stops (R398) -/

section PortStop
variable {s t : State} {m : CollMsg} {x : Coll} {id : H16} {f : Coll → State}

theorem State.sendEast_of_open (h : s.eastOpen = true) (m : CollMsg) : ∃ l, s.sendEast m = { s with ports := l, collTx := s.collTx ++ [m] } := by
  rw [State.sendEast, h]
  exact ⟨_, rfl⟩

theorem State.westStop_of_shut (h : s.eastOpen = false) (m : CollMsg) (f : Coll → State) : s.westStop m f = s := by
  rw [State.westStop, h]
  rfl

theorem State.westStop_of_break (h : s.eastOpen = true) (hr : m.rank = breakRank) (f : Coll → State) : s.westStop m f = s.breakArrives m := by
  rw [State.westStop, h, hr]
  rfl

theorem State.westStop_of_disagree (h : s.eastOpen = true) (hr : m.rank ≠ breakRank) (hc : s.anyColl m.collid = some x) (ha : x.agrees m = false)
    (f : Coll → State) : s.westStop m f = s.breakRing m.collid := by
  rw [State.westStop, h, Bool.not_true, if_neg Bool.false_ne_true, if_neg hr, hc]
  simp only [ha]
  rfl

theorem State.westStop_of_outside (h : s.eastOpen = true) (hr : m.rank ≠ breakRank) (ha : ∀ y, s.anyColl m.collid = some y → y.agrees m = true)
    (hp : m.pmask.toNat.testBit s.pos = false) (f : Coll → State) : s.westStop m f = s.sendEast m := by
  rw [State.westStop, h, Bool.not_true, if_neg Bool.false_ne_true, if_neg hr]
  cases hc : s.anyColl m.collid with
  | none => simp [bit_eq_testBit, hp]
  | some y => simp [bit_eq_testBit, hp, ha y hc]

/-- The collective of a message runs on the focused core, agrees with it, and is the one of the package with its id. -/
def State.Member (s : State) (m : CollMsg) (x : Coll) : Prop :=
  m.pmask.toNat.testBit s.pos = true ∧ s.coll m.collid = some x ∧ s.anyColl m.collid = some x ∧ x.agrees m = true ∧ s.frozen = false

theorem State.westStop_of_member (h : s.eastOpen = true) (hr : m.rank ≠ breakRank) (hm : s.Member m x) (f : Coll → State) :
    s.westStop m f = f x := by
  obtain ⟨hp, hc, hac, ha, hf⟩ := hm
  rw [State.westStop, h, Bool.not_true, if_neg Bool.false_ne_true, if_neg hr]
  simp [hac, ha, bit_eq_testBit, hp, hc, State.whenLive, hf]

theorem State.coll_spec (h : s.coll id = some x) : x ∈ s.core.cp.colls ∧ x.collid = id ∧ x.written = false := by
  have := List.find?_some h
  simp only [Bool.and_eq_true, beq_iff_eq, Bool.not_eq_true'] at this
  exact ⟨List.mem_of_find?_eq_some h, this⟩

/-- Memory and the engine queues stand, and a collective with an id is as `good` says. -/
def State.KeptColl (s t : State) (id : H16) (good : Coll → Prop) : Prop :=
  (∃ z ∈ t.core.cp.colls, z.collid = id ∧ good z) ∧ t.mem = s.mem ∧ t.core.eng = s.core.eng

theorem State.updColl_frame (s : State) (id : H16) (g : Coll → Coll) : s.updColl id g = { s with core := { s.core with
    cp := { s.core.cp with colls := s.core.cp.colls.map (fun x => if x.collid = id then g x else x) } } } := rfl

theorem State.mem_updColl {g : Coll → Coll} (h : x ∈ s.core.cp.colls) (hx : x.collid = id) : g x ∈ (s.updColl id g).core.cp.colls :=
  List.mem_map.mpr ⟨x, h, if_pos hx⟩

theorem State.updColl_kept {g : Coll → Coll} {good : Coll → Prop} (h : x ∈ s.core.cp.colls) (hx : x.collid = id) (hid : (g x).collid = x.collid)
    (hg : good (g x)) : s.KeptColl (s.updColl id g) id good := ⟨⟨_, State.mem_updColl h hx, hid.trans hx, hg⟩, rfl, rfl⟩

theorem State.eastOpen_congr (hf : t.pf = s.pf) (hp : t.ports = s.ports) : t.eastOpen = s.eastOpen := by
  simp only [State.eastOpen, State.npkg, State.portEnabled, State.feature, State.locked, State.pfBits, State.pfRaw, State.port, hf, hp]

theorem State.KeptColl.sendEast {good : Coll → Prop} (h : s.KeptColl t id good) (ho : t.eastOpen = true) (m : CollMsg) :
    s.KeptColl (t.sendEast m) id good := by
  obtain ⟨l, he⟩ := State.sendEast_of_open ho m
  rw [he]
  exact h

theorem State.sendEast_collTx (h : s.eastOpen = true) (m : CollMsg) : (s.sendEast m).collTx = s.collTx ++ [m] := by
  obtain ⟨l, he⟩ := State.sendEast_of_open h m
  rw [he]

theorem State.KeptColl.mono {good better : Coll → Prop} (h : s.KeptColl t id good) (k : ∀ z, good z → better z) : s.KeptColl t id better := by
  obtain ⟨⟨z, hz, hid, hg⟩, hm, he⟩ := h
  exact ⟨⟨z, hz, hid, k z hg⟩, hm, he⟩

theorem State.collResult_spec {y : Coll} (ho : s.eastOpen = true) (hy : y ∈ s.core.cp.colls) (hid : y.collid = x.collid) (v : List W32) :
    (s.collResult x v).collTx = s.collTx ++ [x.msg x.np v] ∧
      s.KeptColl (s.collResult x v) x.collid (fun z => z = { y with result := some v }) := by
  have ho' : (s.updColl x.collid (fun x => { x with result := some v })).eastOpen = true := ho
  have hk := State.updColl_kept (g := fun x => { x with result := some v }) (good := fun z => z = { y with result := some v }) hy hid rfl rfl
  exact ⟨State.sendEast_collTx ho' _, hk.sendEast ho' _⟩

/-! ### A running value on the ring (R105, R262, R398) -/

theorem State.ringStep_mid {q : Nat} (ho : s.eastOpen = true) (hx : x ∈ s.core.cp.colls) (hq : s.rankIn x = q) (hr : m.rank + 1 = q)
    (hg : x.got = []) (hh : s.contributes x = true → x.here = true) (hn : q + 1 ≠ x.np) :
    (s.ringStep x m).collTx = s.collTx ++ [x.msg q (x.combine m.vals)] ∧
      s.KeptColl (s.ringStep x m) x.collid (fun z => z.got = [(m.rank, m.vals)] ∧ z.result = x.result) := by
  have he : s.ringStep x m = (s.updColl x.collid (fun x => { x with got := [(m.rank, m.vals)] })).sendEast (x.msg q (x.combine m.vals)) := by
    simp only [State.ringStep, hq, hg, hn, if_false]
    exact if_neg (by simp [hr]; exact hh)
  rw [he]
  exact ⟨State.sendEast_collTx (s := s.updColl ..) ho _, (State.updColl_kept hx rfl rfl ⟨rfl, rfl⟩).sendEast ho _⟩

theorem State.ringStep_last {q : Nat} (ho : s.eastOpen = true) (hx : x ∈ s.core.cp.colls) (hq : s.rankIn x = q) (hr : m.rank + 1 = q)
    (hg : x.got = []) (hh : s.contributes x = true → x.here = true) (hn : q + 1 = x.np) :
    (s.ringStep x m).collTx = s.collTx ++ [x.msg x.np (x.combine m.vals)] ∧
      s.KeptColl (s.ringStep x m) x.collid (fun z => z.got = [(m.rank, m.vals)] ∧ z.result = some (x.combine m.vals)) := by
  have he : s.ringStep x m = (s.updColl x.collid (fun x => { x with got := [(m.rank, m.vals)] })).collResult x (x.combine m.vals) := by
    simp only [State.ringStep, hq, hg, hn, if_true]
    exact if_neg (by simp [hr]; exact hh)
  have hx' := State.mem_updColl (g := fun x => { x with got := [(m.rank, m.vals)] }) hx rfl
  obtain ⟨ht, hk⟩ := State.collResult_spec (s := s.updColl x.collid (fun x => { x with got := [(m.rank, m.vals)] })) (x := x) ho hx' rfl (x.combine m.vals)
  rw [he]
  exact ⟨ht, hk.mono fun z hz => by rw [hz]; exact ⟨rfl, rfl⟩⟩

/-! ### The reduction at rank 0 (R104, R262, R398) -/

theorem State.reduceAll_frame (s : State) (x : Coll) (l : List (List W32)) : (s.reduceAll x l).2 = { s with free := (s.reduceAll x l).2.free } := by
  unfold State.reduceAll
  dsimp only
  split
  · rfl
  · split <;> rfl

theorem State.reduceAll_length (s : State) (x : Coll) (l : List (List W32)) : (s.reduceAll x l).1.length = x.wire.length := by
  unfold State.reduceAll
  dsimp only
  split
  · simp
  · split <;> simp

theorem State.reduceAll_sum (hop : x.op = 0) (hp : x.prof ≠ 0) (l : List (List W32)) {i : Nat} (hi : i < x.wire.length) :
    (s.reduceAll x l).1.getD i 0 = w32 (red32 addRn (.zero true) (column l i)) := by
  simp [State.reduceAll, hop, hp, hi]

theorem State.reduceAll_extreme (hop : x.op ≠ 0) (v : List W32) (l : List (List W32)) {i : Nat} (hi : i < x.wire.length) :
    (s.reduceAll x (v :: l)).1.getD i 0 = (l.map (fun l => l.getD i 0)).foldl (redStep x.op) (v.getD i 0) := by
  simp [State.reduceAll, hop, hi]

/-- The contributions that the package of rank 0 has once a message is there, in rank order (R398). -/
def Coll.gathered (x : Coll) (m : CollMsg) : List (List W32) :=
  x.wire :: (List.range (x.np - 1)).map (fun k => ((((m.rank, m.vals) :: x.got).find? (fun g => g.1 == k + 1)).map (·.2)).getD [])

/-- The collective with the contribution of a message. -/
def Coll.take (x : Coll) (m : CollMsg) : Coll := { x with got := (m.rank, m.vals) :: x.got }

theorem State.rootStep_eq (h0 : 0 < m.rank) (hn : m.rank < x.np) (hg : ∀ g ∈ x.got, g.1 ≠ m.rank) (hl : m.vals.length = x.wire.length) :
    s.rootStep x m = (s.updColl x.collid (fun _ => x.take m)).rootForm (x.take m) := by
  refine if_neg ?_
  simp only [Bool.or_eq_true, decide_eq_true_eq, List.any_eq_true, beq_iff_eq, bne_iff_ne, hl]
  simp only [ne_eq, not_true_eq_false, or_false, not_or, not_exists, not_and]
  exact ⟨⟨by omega, by omega⟩, hg⟩

theorem State.rootStep_waits (hx : x ∈ s.core.cp.colls) (h0 : 0 < m.rank) (hn : m.rank < x.np) (hg : ∀ g ∈ x.got, g.1 ≠ m.rank)
    (hl : m.vals.length = x.wire.length) (hw : x.here = false ∨ x.got.length + 2 < x.np) :
    (s.rootStep x m).collTx = s.collTx ∧
      s.KeptColl (s.rootStep x m) x.collid (fun z => z.got = (m.rank, m.vals) :: x.got ∧ z.result = x.result) := by
  have he : (s.updColl x.collid (fun _ => x.take m)).rootForm (x.take m) = s.updColl x.collid (fun _ => x.take m) := by
    refine if_pos ?_
    have hnp : (x.take m).np = x.np := rfl
    have hlen : (x.take m).got.length = x.got.length + 1 := rfl
    have hhere : (x.take m).here = x.here := rfl
    rw [hnp, hlen, hhere]
    obtain h | h := hw <;> simp [h]
  rw [State.rootStep_eq h0 hn hg hl, he]
  exact ⟨rfl, State.updColl_kept hx rfl rfl ⟨rfl, rfl⟩⟩

theorem State.rootStep_forms (ho : s.eastOpen = true) (hx : x ∈ s.core.cp.colls) (h0 : 0 < m.rank) (hn : m.rank < x.np)
    (hg : ∀ g ∈ x.got, g.1 ≠ m.rank) (hl : m.vals.length = x.wire.length) (hh : x.here = true) (hc : x.got.length + 2 = x.np) :
    let v := ((s.updColl x.collid (fun _ => x.take m)).reduceAll (x.take m) (x.gathered m)).1
    (s.rootStep x m).collTx = s.collTx ++ [x.msg x.np v] ∧ s.KeptColl (s.rootStep x m) x.collid (fun z => z.result = some v) := by
  intro v
  have hx' := State.mem_updColl (g := fun _ => x.take m) hx rfl
  have hf := (s.updColl x.collid (fun _ => x.take m)).reduceAll_frame (x.take m) (x.gathered m)
  have he : (s.updColl x.collid (fun _ => x.take m)).rootForm (x.take m) =
      ((s.updColl x.collid (fun _ => x.take m)).reduceAll (x.take m) (x.gathered m)).2.collResult (x.take m) v := by
    refine if_neg ?_
    have hnp : (x.take m).np = x.np := rfl
    have hlen : (x.take m).got.length = x.got.length + 1 := rfl
    have hhere : (x.take m).here = x.here := rfl
    rw [hnp, hlen, hhere, hh]
    simp
    omega
  rw [State.rootStep_eq h0 hn hg hl, he, hf]
  generalize ((s.updColl x.collid (fun _ => x.take m)).reduceAll (x.take m) (x.gathered m)).2.free = n
  obtain ⟨ht, hk⟩ := State.collResult_spec (s := { s.updColl x.collid (fun _ => x.take m) with free := n }) (x := x.take m) (y := x.take m) ho hx' rfl v
  exact ⟨ht, hk.mono fun z hz => by rw [hz]⟩

/-! ### The result lap (R262, R398) -/

theorem State.collWrite_spec (hx : x ∈ s.core.cp.colls) {d : List Byte}
    (hd : d = ((s.collOut x m.vals).map (fun w => leBytes (collBytes x.typ) w.toNat)).flatten)
    (hp : s.poisonUnits (spadPa s.cur x.dst) d.length = []) :
    let t := s.collWrite x m.vals
    s.SameBytes t (spadPa s.cur x.dst) d.length ∧ t.bytes (spadPa s.cur x.dst) d.length = d ∧
      (∃ z ∈ t.core.cp.colls, z.collid = x.collid ∧ z.written = true) ∧ t.core.eng = s.core.eng ∧ t.collTx = s.collTx ∧
      t.eastOpen = s.eastOpen := by
  have he : s.collWrite x m.vals = (s.writeBytes (spadPa s.cur x.dst) d).updColl x.collid (fun x => { x with written := true }) := by
    rw [State.collWrite, ← hd]
    exact congrArg (fun u => State.updColl u _ _) (State.writeZ_spad (l := ⟨spadPa s.cur x.dst, .spad, false, false, none, 0⟩) rfl rfl hp _ _)
  have hw := s.writeBytes_writesTo (spadPa s.cur x.dst) d
  have hsame := s.sameBytes_writeBytes (spadPa s.cur x.dst) d
  have hbytes := s.bytes_writeBytes (spadPa s.cur x.dst) d
  have hpf : (s.writeBytes (spadPa s.cur x.dst) d).pf = s.pf := by simp [State.writeBytes]
  generalize s.writeBytes (spadPa s.cur x.dst) d = u at *
  have hcore : u.core = { s.core with l1 := u.core.l1 } := by rw [hw]
  have hxu : x ∈ u.core.cp.colls := by rw [hcore]; exact hx
  dsimp only
  rw [he]
  refine ⟨hsame, hbytes, ⟨_, State.mem_updColl hxu rfl, rfl, rfl⟩, ?_, ?_, ?_⟩
  · change u.core.eng = _
    rw [hcore]
  · change u.collTx = _
    rw [hw]
  · exact State.eastOpen_congr (t := u.updColl ..) hpf (by rw [State.updColl_frame, hw])

end PortStop

/-! ### A collective ends with COPY_INTEGRITY (R260) -/

section Break
variable {s t u : State} {f : Coll → Bool} {x : Coll} {m : CollMsg}

/-- The end of collectives leaves memory, the focus, PF registers, the ports and what waits at them, and takes no poison away. -/
structure State.BreakFrame (s t : State) : Prop where
  mem : t.mem = s.mem
  cur : t.cur = s.cur
  collTx : t.collTx = s.collTx
  pf : t.pf = s.pf
  ports : t.ports = s.ports
  poison : s.poison ⊆ t.poison

theorem State.BreakFrame.refl (s : State) : s.BreakFrame s := ⟨rfl, rfl, rfl, rfl, rfl, List.Subset.refl _⟩

theorem State.BreakFrame.trans (h : s.BreakFrame t) (k : t.BreakFrame u) : s.BreakFrame u :=
  ⟨k.mem.trans h.mem, k.cur.trans h.cur, k.collTx.trans h.collTx, k.pf.trans h.pf, k.ports.trans h.ports, fun _ hu => k.poison (h.poison hu)⟩

theorem State.breakFrame_foldl {α : Type} {g : State → α → State} (h : ∀ (s : State) a, s.BreakFrame (g s a)) (l : List α) (s : State) :
    s.BreakFrame (l.foldl g s) := by
  induction l generalizing s with
  | nil => exact .refl s
  | cons a l ih => exact (h s a).trans (ih _)

theorem State.setPoison_frame (s : State) (a : Nat) : s.setPoison a = { s with poison := (s.setPoison a).poison } := by
  unfold State.setPoison
  split <;> rfl

theorem State.setPoison_breakFrame (s : State) (a : Nat) : s.BreakFrame (s.setPoison a) := by
  unfold State.setPoison
  split
  · exact .refl s
  · exact ⟨rfl, rfl, rfl, rfl, rfl, List.subset_cons_self ..⟩

theorem State.poisoned_setPoison (s : State) (a : Nat) : (s.setPoison a).poisoned a = true := by
  unfold State.setPoison
  split
  · assumption
  · simp [State.poisoned]

theorem State.poisoned_mono {a : Nat} (h : s.poison ⊆ t.poison) (ha : s.poisoned a = true) : t.poisoned a = true := by
  simp only [State.poisoned, List.contains_iff_mem] at ha ⊢
  exact h ha

theorem State.foldl_setPoison_core (g : Nat → Nat) (l : List Nat) (s : State) :
    (l.foldl (fun t k => t.setPoison (g k)) s).core = s.core ∧ (l.foldl (fun t k => t.setPoison (g k)) s).others = s.others := by
  induction l using List.reverseRecOn with
  | nil => exact ⟨rfl, rfl⟩
  | append_singleton l k ih => rw [List.foldl_append, List.foldl_cons, List.foldl_nil, State.setPoison_frame]; exact ih

theorem State.poisoned_foldl (g : Nat → Nat) (l : List Nat) (s : State) {k : Nat} (hk : k ∈ l) :
    (l.foldl (fun t k => t.setPoison (g k)) s).poisoned (g k) = true := by
  induction l generalizing s with
  | nil => exact absurd hk (by simp)
  | cons j l ih =>
    obtain rfl | hk := List.mem_cons.mp hk
    · exact State.poisoned_mono (State.breakFrame_foldl (fun (s : State) k => s.setPoison_breakFrame (g k)) l _).poison (s.poisoned_setPoison _)
    · exact ih _ hk

theorem State.llcWrites_breakFrame (s : State) (a n q : Nat) (ctx : BitVec 9) : s.BreakFrame (s.llcWrites a n q ctx) := by
  rw [State.llcWrites_eq]
  exact ⟨rfl, rfl, rfl, rfl, rfl, List.Subset.refl _⟩

theorem State.poisonRange_breakFrame (s : State) (a n : Nat) : s.BreakFrame (s.poisonRange a n) := by
  unfold State.poisonRange
  split
  · exact .refl s
  · exact (State.breakFrame_foldl (fun (s : State) k => s.setPoison_breakFrame _) _ s).trans (State.llcWrites_breakFrame ..)

theorem State.poisonRange_core (s : State) (a n : Nat) : (s.poisonRange a n).core = s.core ∧ (s.poisonRange a n).others = s.others := by
  unfold State.poisonRange
  split
  · exact ⟨rfl, rfl⟩
  · rw [State.llcWrites_eq]
    exact State.foldl_setPoison_core ..

theorem State.poisoned_poisonRange (s : State) (a n : Nat) {k : Nat} (hk : k < n) : (s.poisonRange a n).poisoned (a + k) = true := by
  rw [State.poisonRange, if_neg (by omega)]
  refine State.poisoned_mono (State.llcWrites_breakFrame ..).poison ?_
  have hj : (a + k) / 64 - a / 64 ∈ List.range ((a + n - 1) / 64 - a / 64 + 1) := List.mem_range.mpr (by omega)
  have := State.poisoned_foldl (fun k => 64 * (a / 64 + k)) _ s hj
  simp only [State.poisoned] at this ⊢
  rwa [show 64 * (a / 64 + ((a + k) / 64 - a / 64)) / 64 = (a + k) / 64 by omega] at this

/-- The destinations of collectives of physical core p become poisoned. -/
def State.poisonDsts (s : State) (p : Nat) (l : List Coll) : State :=
  l.foldl (fun t x => t.poisonRange (spadPa p x.dst) (x.outCount * collBytes x.typ)) s

theorem State.poisonDsts_breakFrame (s : State) (p : Nat) (l : List Coll) : s.BreakFrame (s.poisonDsts p l) :=
  State.breakFrame_foldl (fun (s : State) _ => s.poisonRange_breakFrame ..) l s

theorem State.poisonDsts_core (s : State) (p : Nat) (l : List Coll) : (s.poisonDsts p l).core = s.core ∧ (s.poisonDsts p l).others = s.others := by
  induction l generalizing s with
  | nil => exact ⟨rfl, rfl⟩
  | cons x l ih =>
    obtain ⟨hc, ho⟩ := s.poisonRange_core (spadPa p x.dst) (x.outCount * collBytes x.typ)
    exact ⟨(ih _).1.trans hc, (ih _).2.trans ho⟩

theorem State.poisoned_poisonDsts (s : State) (p : Nat) {l : List Coll} (hx : x ∈ l) {k : Nat} (hk : k < x.outCount * collBytes x.typ) :
    (s.poisonDsts p l).poisoned (spadPa p x.dst + k) = true := by
  induction l generalizing s with
  | nil => exact absurd hx (by simp)
  | cons y l ih =>
    obtain rfl | hx := List.mem_cons.mp hx
    · exact State.poisoned_mono (State.poisonDsts_breakFrame _ p l).poison (s.poisoned_poisonRange _ _ hk)
    · exact ih _ hx

/-- The collectives of a core once those that `f` picks have ended. -/
def Core.breakColls (c : Core) (f : Coll → Bool) : Core :=
  { c with cp := { c.cp with colls := c.cp.colls.map (fun x => if f x && !x.written then x.broken else x) } }

theorem Core.breakColls_of_none {c : Core} (h : c.cp.colls.filter (fun x => f x && !x.written) = []) : c.breakColls f = c := by
  have hmap : c.cp.colls.map (fun x => if f x && !x.written then x.broken else x) = c.cp.colls := by
    conv_rhs => rw [← List.map_id c.cp.colls]
    exact List.map_congr_left fun x hx => if_neg (List.filter_eq_nil_iff.mp h x hx)
  rw [Core.breakColls, hmap]

theorem State.breakCollsOf_eq (s : State) (p : Nat) (f : Coll → Bool) : ∃ l, l = (s.coreAt p).cp.colls.filter (fun x => f x && !x.written) ∧
    (l = [] → s.breakCollsOf p f = s) ∧ (l ≠ [] → s.breakCollsOf p f = (s.poisonDsts p l).updAt p (·.breakColls f)) := by
  refine ⟨_, rfl, fun h => ?_, fun h => ?_⟩
  · simp only [State.breakCollsOf, h]
    rfl
  · simp only [State.breakCollsOf]
    rw [if_neg (by simpa using h)]
    rfl

theorem State.updAt_breakFrame (s : State) (p : Nat) (g : Core → Core) : s.BreakFrame (s.updAt p g) := by
  unfold State.updAt State.setCoreAt
  split <;> exact ⟨rfl, rfl, rfl, rfl, rfl, List.Subset.refl _⟩

theorem State.breakCollsOf_breakFrame (s : State) (p : Nat) (f : Coll → Bool) : s.BreakFrame (s.breakCollsOf p f) := by
  obtain ⟨l, -, h0, h1⟩ := s.breakCollsOf_eq p f
  by_cases hl : l = []
  · rw [h0 hl]; exact .refl s
  · rw [h1 hl]; exact (s.poisonDsts_breakFrame p l).trans (State.updAt_breakFrame ..)

theorem State.updAt_core_ne {p : Nat} (s : State) (h : p ≠ s.cur) (g : Core → Core) : (s.updAt p g).core = s.core := by
  rw [State.updAt, State.setCoreAt, if_neg h]

theorem State.breakCollsOf_core_ne {p : Nat} (h : p ≠ s.cur) (f : Coll → Bool) : (s.breakCollsOf p f).core = s.core := by
  obtain ⟨l, -, h0, h1⟩ := s.breakCollsOf_eq p f
  by_cases hl : l = []
  · rw [h0 hl]
  · rw [h1 hl, State.updAt_core_ne _ (by rwa [(s.poisonDsts_breakFrame p l).cur]), (s.poisonDsts_core p l).1]

theorem State.breakCollsOf_core_cur (s : State) (f : Coll → Bool) : (s.breakCollsOf s.cur f).core = s.core.breakColls f := by
  obtain ⟨l, hdef, h0, h1⟩ := s.breakCollsOf_eq s.cur f
  rw [State.coreAt_cur] at hdef
  by_cases hl : l = []
  · rw [h0 hl, Core.breakColls_of_none (hdef.symm.trans hl)]
  · rw [h1 hl]
    have hcur := (s.poisonDsts_breakFrame s.cur l).cur
    generalize hv : s.poisonDsts s.cur l = v at *
    rw [← hcur, State.updAt_cur, ← hv, (s.poisonDsts_core s.cur l).1]

theorem State.breakCollsOf_poisoned (hx : x ∈ s.core.cp.colls) (hf : f x = true) (hw : x.written = false) {k : Nat}
    (hk : k < x.outCount * collBytes x.typ) : (s.breakCollsOf s.cur f).poisoned (spadPa s.cur x.dst + k) = true := by
  obtain ⟨l, hdef, -, h1⟩ := s.breakCollsOf_eq s.cur f
  rw [State.coreAt_cur] at hdef
  have hxl : x ∈ l := by rw [hdef]; simp [hx, hf, hw]
  rw [h1 (List.ne_nil_of_mem hxl)]
  exact State.poisoned_mono (State.updAt_breakFrame ..).poison (s.poisoned_poisonDsts s.cur hxl hk)

theorem State.foldl_breakCollsOf_core {ps : List Nat} (h : s.cur ∉ ps) (f : Coll → Bool) :
    (ps.foldl (fun t p => t.breakCollsOf p f) s).core = s.core := by
  induction ps generalizing s with
  | nil => rfl
  | cons p ps ih =>
    obtain ⟨hp, hps⟩ := not_or.mp (List.mem_cons.not.mp h)
    rw [List.foldl_cons, ih (by rwa [(s.breakCollsOf_breakFrame p f).cur]), State.breakCollsOf_core_ne (Ne.symm hp)]

theorem State.updImages_frame (l : List SavedImage) (g : SavedImage → SavedImage) (s : State) :
    let t := l.foldl (fun t i => t.updImage i.id g) s
    t = { s with images := t.images, archive := t.archive } := by
  induction l using List.reverseRecOn with
  | nil => rfl
  | append_singleton l i ih =>
    dsimp only at ih ⊢
    rw [List.foldl_append, List.foldl_cons, List.foldl_nil, State.updImage, ih]

/-- The collectives of the package that `f` picks end: those of the core in focus stand as ended, their destinations poisoned. -/
theorem State.breakColls_spec (hc : s.cur < Config.cores) (f : Coll → Bool) : s.BreakFrame (s.breakColls f) ∧
    (s.breakColls f).core = s.core.breakColls f ∧
    ∀ x ∈ s.core.cp.colls, f x = true → x.written = false → ∀ k, k < x.outCount * collBytes x.typ →
      (s.breakColls f).poisoned (spadPa s.cur x.dst + k) = true := by
  obtain ⟨l, r, hlr⟩ := List.append_of_mem (List.mem_range.mpr hc)
  have hnd : (l ++ s.cur :: r).Nodup := hlr ▸ List.nodup_range
  have hl : s.cur ∉ l := fun h => (List.disjoint_of_nodup_append hnd) h (by simp)
  have hr : s.cur ∉ r := (List.nodup_cons.mp hnd.of_append_right).1
  have hfold (ps : List Nat) (s : State) : s.BreakFrame (ps.foldl (fun t p => t.breakCollsOf p f) s) :=
    State.breakFrame_foldl (fun (s : State) p => s.breakCollsOf_breakFrame p f) ps s
  have hloop : (List.range Config.cores).foldl (fun t p => t.breakCollsOf p f) s =
      r.foldl (fun t p => t.breakCollsOf p f) ((l.foldl (fun t p => t.breakCollsOf p f) s).breakCollsOf s.cur f) := by
    rw [hlr, List.foldl_append, List.foldl_cons]
  have hbefore := hfold l s
  have hcore := State.foldl_breakCollsOf_core hl f
  generalize l.foldl (fun t p => t.breakCollsOf p f) s = u at *
  rw [← hbefore.cur] at hloop hr
  have hmid := u.breakCollsOf_breakFrame u.cur f
  have hbroken := u.breakCollsOf_core_cur f
  have hpoison := fun x hx hf hw k => State.breakCollsOf_poisoned (s := u) (f := f) (x := x) hx hf hw (k := k)
  generalize u.breakCollsOf u.cur f = v at *
  rw [← hmid.cur] at hr
  have hafter := hfold r v
  have hkept := State.foldl_breakCollsOf_core hr f
  generalize r.foldl (fun t p => t.breakCollsOf p f) v = w at *
  have himg : s.breakColls f = { w with images := (s.breakColls f).images, archive := (s.breakColls f).archive } := by
    have := State.updImages_frame (s.images.filter (fun i => i.scan && i.core.cp.colls.any (fun x => f x && !x.written))) (·.breakColls f) w
    rw [← hloop] at this ⊢
    exact this
  rw [himg]
  refine ⟨(hbefore.trans (hmid.trans hafter)).trans ⟨rfl, rfl, rfl, rfl, rfl, List.Subset.refl _⟩, ?_, fun x hx hf hw k hk => ?_⟩
  · change w.core = _
    rw [hkept, hbroken, hcore]
  · have := hpoison x (by rwa [hcore]) hf hw k hk
    rw [hbefore.cur] at this
    exact State.poisoned_mono hafter.poison this

/-- Every collective of the core in focus with an id has ended in t, one that ran in s with COPY_INTEGRITY and a poisoned destination. -/
def State.CollEnded (s t : State) (id : H16) : Prop :=
  (∀ z ∈ t.core.cp.colls, z.collid = id → z.written = true) ∧
    ∀ z ∈ s.core.cp.colls, z.collid = id → z.written = false →
      z.broken ∈ t.core.cp.colls ∧ ∀ b, b < z.outCount * collBytes z.typ → t.poisoned (spadPa s.cur z.dst + b) = true

theorem State.breakColls_ended (hc : s.cur < Config.cores) (id : H16) : s.CollEnded (s.breakColls (fun z => z.collid == id)) id := by
  obtain ⟨-, hcore, hp⟩ := State.breakColls_spec hc (fun z => z.collid == id)
  rw [State.CollEnded, hcore]
  refine ⟨fun z hz hid => ?_, fun z hz hid hw => ⟨List.mem_map.mpr ⟨z, hz, ?_⟩, hp z hz (by simpa using hid) hw⟩⟩
  · obtain ⟨y, -, rfl⟩ := List.mem_map.mp hz
    by_cases h : (y.collid == id && !y.written) = true
    · rw [if_pos h]; rfl
    · rw [if_neg h] at hid ⊢
      simpa [hid] using h
  · simp [hid, hw]

theorem State.CollEnded.sendEast {id : H16} (h : s.CollEnded t id) (ho : t.eastOpen = true) (m : CollMsg) : s.CollEnded (t.sendEast m) id := by
  obtain ⟨l, he⟩ := State.sendEast_of_open ho m
  rw [he]
  exact h

theorem State.sendEast_mem (h : s.eastOpen = true) (m : CollMsg) : (s.sendEast m).mem = s.mem := by
  obtain ⟨l, he⟩ := State.sendEast_of_open h m
  rw [he]

theorem State.breakRing_spec (hc : s.cur < Config.cores) (ho : s.eastOpen = true) {id : H16} (hx : s.anyColl id = some x) :
    (s.breakRing id).mem = s.mem ∧ (s.breakRing id).collTx = s.collTx ++ [x.msg breakRank [BitVec.ofNat 32 s.pos]] ∧
      s.CollEnded (s.breakRing id) id := by
  have hb : s.breakRing id = (s.breakColls (fun z => z.collid == id)).sendEast (x.msg breakRank [BitVec.ofNat 32 s.pos]) := by
    rw [State.breakRing, hx]
  have hf := (State.breakColls_spec hc (fun z => z.collid == id)).1
  have ho' := (State.eastOpen_congr hf.pf hf.ports).trans ho
  rw [hb]
  exact ⟨(State.sendEast_mem ho' _).trans hf.mem, by rw [State.sendEast_collTx ho', hf.collTx], (State.breakColls_ended hc id).sendEast ho' _⟩

theorem State.breakArrives_spec (hc : s.cur < Config.cores) (ho : s.eastOpen = true) (m : CollMsg) :
    (s.breakArrives m).mem = s.mem ∧
      (s.breakArrives m).collTx = s.collTx ++ (if m.vals.head? = some (BitVec.ofNat 32 s.pos) then [] else [m]) ∧
      s.CollEnded (s.breakArrives m) m.collid := by
  have hf := (State.breakColls_spec hc (fun z => z.collid == m.collid)).1
  have he := State.breakColls_ended hc m.collid
  have ho' := (State.eastOpen_congr hf.pf hf.ports).trans ho
  by_cases h : m.vals.head? = some (BitVec.ofNat 32 s.pos)
  · rw [show s.breakArrives m = s.breakColls (fun z => z.collid == m.collid) from if_pos h, if_pos h, List.append_nil]
    exact ⟨hf.mem, hf.collTx, he⟩
  · rw [show s.breakArrives m = (s.breakColls (fun z => z.collid == m.collid)).sendEast m from if_neg h, if_neg h]
    exact ⟨(State.sendEast_mem ho' _).trans hf.mem, by rw [State.sendEast_collTx ho', hf.collTx], he.sendEast ho' _⟩

end Break

/-! ### The whole statement -/

section Settled
variable {s t : State} {m : CollMsg} {x : Coll}

/-- Instruction i sends message m on, and leaves memory and the cores. -/
def State.Forwards (s : State) (m : CollMsg) (i : Instr) : Prop :=
  ∃ t, exec i s = .next t ∧ t.collTx = s.collTx ++ [m] ∧ t.mem = s.mem ∧ t.core = s.core ∧ t.others = s.others

theorem State.forwards_of_open {i : Instr} (hi : exec i s = .next (s.sendEast m)) (ho : s.eastOpen = true) : s.Forwards m i := by
  obtain ⟨l, he⟩ := State.sendEast_of_open ho m
  exact ⟨_, hi, by rw [he], by rw [he], by rw [he], by rw [he]⟩

/-- Both instructions of a west port stop do with a message what `westStop` does. -/
theorem exec_westStop {i : Instr} (h : i = .collectiveReduceStep m ∨ i = .collectiveResultWrite m) (s : State) :
    ∃ f, exec i s = .next (s.westStop m f) := by
  obtain rfl | rfl := h
  · exact ⟨_, rfl⟩
  · exact ⟨_, rfl⟩

theorem exec_collectiveReduceStep (s : State) (ho : s.eastOpen = true) (hr : m.rank ≠ breakRank) (hm : s.Member m x) :
    exec (.collectiveReduceStep m) s = .next (if x.atRoot then (if s.rankIn x = 0 then s.rootStep x m else s.sendEast m) else s.ringStep x m) :=
  congrArg Host.Outcome.next (State.westStop_of_member ho hr hm _)

theorem exec_collectiveResultWrite (s : State) (ho : s.eastOpen = true) (hr : m.rank ≠ breakRank) (hm : s.Member m x) :
    exec (.collectiveResultWrite m) s = .next (if !s.lapOk x m || s.core.mxKeeps x.dst (x.outCount * collBytes x.typ) then s
      else if s.lapEnds x then s.collWrite x m.vals else (s.collWrite x m.vals).sendEast m) :=
  congrArg Host.Outcome.next (State.westStop_of_member ho hr hm _)

theorem Coll.combine_getD (h8 : x.kind ≠ 8) (h10 : x.kind ≠ 10) {v : List W32} (hl : v.length = x.wire.length) {i : Nat} (hi : i < v.length) :
    (x.combine v).getD i 0 = redStep x.op (v.getD i 0) (x.wire.getD i 0) := by
  have hc : x.combine v = (v.zip x.wire).map (fun p => redStep x.op p.1 p.2) := by
    unfold Coll.combine
    split
    · contradiction
    · contradiction
    · rfl
  simp [hc, hi, hl ▸ hi]

/-- The state in which collective x has left its core and the scoreboard. -/
def State.collGone (s : State) (x : Coll) : State :=
  let t := s.upd (fun c => { c with cp := { c.cp with colls := c.cp.colls.filter (fun y => y.seq != x.seq) } })
  match x.sb with
  | some i => t.sbRetire t.cur i
  | none => t

theorem State.collGone_frame (s : State) (x : Coll) :
    (s.collGone x).core = { s.core with
      sb := (s.collGone x).core.sb
      cp := { s.core.cp with colls := s.core.cp.colls.filter (fun y => y.seq != x.seq) } } ∧ (s.collGone x).mem = s.mem := by
  unfold State.collGone
  cases x.sb with
  | none => exact ⟨rfl, rfl⟩
  | some i =>
    dsimp only [State.sbRetire]
    rw [State.updAt, State.setCoreAt, if_pos rfl, State.coreAt, if_pos rfl]
    exact ⟨rfl, rfl⟩

theorem State.collectiveComplete_spec {id : H16} (hf : s.frozen = false)
    (hx : s.core.cp.colls.find? (fun z => z.collid == id && z.written) = some x) :
    ∃ t, exec (.collectiveComplete id) s = .next t ∧ (∀ z ∈ t.core.cp.colls, z.seq ≠ x.seq) ∧
      (∀ y ∈ (t.eng .cp).q, y.seq = x.seq → y.phase = .finished) ∧ t.mem = s.mem ∧ t.core.pc = s.core.pc ∧
      ∀ e, e ≠ .cp → t.eng e = s.eng e := by
  have hi : exec (.collectiveComplete id) s = .next ((s.collGone x).finish .cp x.seq x.pend) := by
    refine congrArg Host.Outcome.next ?_
    rw [hf, if_neg Bool.false_ne_true, hx]
    rfl
  obtain ⟨hc, hm⟩ := s.collGone_frame x
  generalize s.collGone x = u at *
  refine ⟨_, hi, fun z hz => ?_, fun y hy hseq => ?_, hm, ?_, fun e he => ?_⟩
  · have hz : z ∈ u.core.cp.colls := hz
    rw [hc] at hz
    simpa using (List.mem_filter.mp hz).2
  · rw [State.finish, State.updEntry_eng_self] at hy
    obtain ⟨w, -, rfl⟩ := List.mem_map.mp hy
    by_cases hw : w.seq = x.seq
    · rw [if_pos hw]
    · rw [if_neg hw] at hseq
      exact absurd hseq hw
  · change u.core.pc = _
    rw [hc]
  · rw [State.finish, State.updEntry_eng_ne _ _ he]
    exact State.eng_congr (by rw [hc]) e

theorem State.collectiveResultWrite_spec (ho : s.eastOpen = true) (hr : m.rank ≠ breakRank) (hm : s.Member m x) (hl : s.lapOk x m = true)
    (hk : s.core.mxKeeps x.dst (x.outCount * collBytes x.typ) = false) {d : List Byte}
    (hd : d = ((s.collOut x m.vals).map (fun w => leBytes (collBytes x.typ) w.toNat)).flatten)
    (hp : s.poisonUnits (spadPa s.cur x.dst) d.length = []) :
    ∃ t, exec (.collectiveResultWrite m) s = .next t ∧ s.SameBytes t (spadPa s.cur x.dst) d.length ∧
      t.bytes (spadPa s.cur x.dst) d.length = d ∧ (∃ z ∈ t.core.cp.colls, z.collid = m.collid ∧ z.written = true) ∧
      t.core.eng = s.core.eng ∧ t.collTx = s.collTx ++ (if s.lapEnds x then [] else [m]) := by
  obtain ⟨hx, hid, -⟩ := State.coll_spec hm.2.1
  obtain ⟨hsame, hbytes, hz, heng, htx, hopen⟩ := State.collWrite_spec hx hd hp
  have hi := exec_collectiveResultWrite s ho hr hm
  rw [hl, hk, if_neg (by simp)] at hi
  rw [hid] at hz
  refine ⟨_, hi, ?_⟩
  split
  · exact ⟨hsame, hbytes, hz, heng, by rw [htx, List.append_nil]⟩
  · obtain ⟨l, he⟩ := State.sendEast_of_open (hopen.trans ho) m
    rw [he]
    exact ⟨hsame, hbytes, hz, heng, congrArg (· ++ [m]) htx⟩

/-- Settles O43: the starts go through `collRules_of_starting`, the port stops through the cases of `westStop`. -/
theorem collectiveSteps : Obligations.CollectiveSteps := by
  unfold Obligations.CollectiveSteps
  refine ⟨fun a x b s hx hs => ⟨?_, ?_, ?_, ?_⟩, fun m x s => ⟨fun hsh i hi => ?_, fun hx hf => ?_, fun h8 h10 hl i hi => ?_,
    fun ho hr => ⟨fun hp ha i hi => ?_, fun hm hat hrq hg hh => ⟨fun hn => ?_, fun hn => ?_⟩, fun hm hat hq => ?_,
      fun hm hat hq h0 hn hg hl => ⟨fun hw => ?_, fun hh hc => ?_⟩, fun hm hl hk => ?_, fun hm hl hk hp => ?_, fun hc ha hcur i hi => ?_⟩,
    fun ho hr hcur i hi => ?_⟩⟩
  iterate 4 exact State.collRules_of_starting rfl hx hs
  · obtain ⟨f, hf⟩ := exec_westStop hi s
    rw [hf, State.westStop_of_shut hsh]
  · exact State.collectiveComplete_spec hf hx
  · exact Coll.combine_getD h8 h10 hl hi
  · obtain ⟨f, hf⟩ := exec_westStop hi s
    exact State.forwards_of_open (by rw [hf, State.westStop_of_outside ho hr ha hp]) ho
  · have he := exec_collectiveReduceStep s ho hr hm
    obtain ⟨hxm, hid, -⟩ := State.coll_spec hm.2.1
    rw [hat, if_neg Bool.false_ne_true] at he
    have := State.ringStep_mid ho hxm rfl hrq hg hh hn
    rw [hid] at this
    exact ⟨_, he, this⟩
  · have he := exec_collectiveReduceStep s ho hr hm
    obtain ⟨hxm, hid, -⟩ := State.coll_spec hm.2.1
    rw [hat, if_neg Bool.false_ne_true] at he
    have := State.ringStep_last ho hxm rfl hrq hg hh hn
    rw [hid] at this
    exact ⟨_, he, this⟩
  · have he := exec_collectiveReduceStep s ho hr hm
    rw [hat, if_pos rfl, if_neg hq] at he
    exact State.forwards_of_open he ho
  · have he := exec_collectiveReduceStep s ho hr hm
    obtain ⟨hxm, hid, -⟩ := State.coll_spec hm.2.1
    rw [hat, if_pos rfl, if_pos hq] at he
    have := State.rootStep_waits hxm h0 hn hg hl hw
    rw [hid] at this
    exact ⟨_, he, this⟩
  · have he := exec_collectiveReduceStep s ho hr hm
    obtain ⟨hxm, hid, -⟩ := State.coll_spec hm.2.1
    rw [hat, if_pos rfl, if_pos hq] at he
    obtain ⟨htx, hkept⟩ := State.rootStep_forms ho hxm h0 hn hg hl hh hc
    rw [hid] at hkept
    have hlen := (s.updColl x.collid (fun _ => x.take m)).reduceAll_length (x.take m) (x.gathered m)
    exact ⟨_, _, he, htx, by rwa [hid], hlen, fun i hi => ⟨fun hop hpr => State.reduceAll_sum hop hpr _ (hlen ▸ hi),
      fun hop => State.reduceAll_extreme hop _ _ (hlen ▸ hi)⟩⟩
  · have he := exec_collectiveResultWrite s ho hr hm
    rwa [hl, hk, if_pos (Bool.or_true _)] at he
  · exact State.collectiveResultWrite_spec ho hr hm hl hk rfl hp
  · obtain ⟨f, hf⟩ := exec_westStop hi s
    rw [State.westStop_of_disagree ho hr hc ha] at hf
    exact ⟨_, hf, State.breakRing_spec hcur ho hc⟩
  · obtain ⟨f, hf⟩ := exec_westStop hi s
    rw [State.westStop_of_break ho hr] at hf
    exact ⟨_, hf, State.breakArrives_spec hcur ho m⟩

end Settled

end Sys2Proof.Machine
end

section
/-!
The core ring (R387–R391), remote accesses (R146, R350, R355, R356) and the sector links (R392).
-/

namespace Sys2Proof.Machine

/-! ### Flits (R387–R391) -/

section Flits
variable {s t u : State} {f : Flit} {fid slot p : Nat} {i : Instr} {l : List Flit} {d d' : BitVec 32}

/-- t has the memory, s registers and places of s; the orbit count of core p has moved by d. -/
def State.Orbits (s t : State) (p : Nat) (d : BitVec 32) : Prop :=
  (t.coreAt p).orbit = (s.coreAt p).orbit + d ∧ t.mem = s.mem ∧ ∀ q, (t.coreAt q).s = (s.coreAt q).s ∧ (t.coreAt q).pc = (s.coreAt q).pc

theorem State.Orbits.trans (h : s.Orbits t p d) (k : t.Orbits u p d') : s.Orbits u p (d + d') := by
  obtain ⟨ho, hm, hq⟩ := h
  obtain ⟨ko, km, kq⟩ := k
  exact ⟨by rw [ko, ho, BitVec.add_assoc], km.trans hm, fun q => ⟨(kq q).1.trans (hq q).1, (kq q).2.trans (hq q).2⟩⟩

theorem State.coreAt_updAt (s : State) (p q : Nat) (g : Core → Core) :
    (s.updAt p g).coreAt q = if q = p then g (s.coreAt p) else s.coreAt q := by
  by_cases h : q = p
  · rw [if_pos h, h, State.updAt, State.coreAt_setCoreAt_self]
  · rw [if_neg h, State.updAt, State.coreAt_setCoreAt_ne _ _ h]

theorem State.updAt_frame (s : State) (p : Nat) (g : Core → Core) :
    s.updAt p g = { s with core := (s.updAt p g).core, others := (s.updAt p g).others } := by
  unfold State.updAt State.setCoreAt
  split <;> rfl

theorem State.coreAt_congr_all (hc : t.cur = s.cur) (hcore : t.core = s.core) (ho : t.others = s.others) (q : Nat) : t.coreAt q = s.coreAt q := by
  simp only [State.coreAt, hc, hcore, ho]

theorem State.orbits_of_cores (hc : t.cur = s.cur) (hcore : t.core = s.core) (ho : t.others = s.others) (hm : t.mem = s.mem) (p : Nat) :
    s.Orbits t p 0 := by
  have hq := State.coreAt_congr_all hc hcore ho
  exact ⟨by rw [hq]; exact (BitVec.add_zero _).symm, hm, fun q => ⟨by rw [hq], by rw [hq]⟩⟩

theorem State.orbits_updAt {g : Core → Core} (h : ∀ c, (g c).orbit = c.orbit + d ∧ (g c).s = c.s ∧ (g c).pc = c.pc) : s.Orbits (s.updAt p g) p d := by
  refine ⟨by rw [State.coreAt_updAt, if_pos rfl]; exact (h _).1, by rw [State.updAt_frame], fun q => ?_⟩
  rw [State.coreAt_updAt]
  split
  · next hq => rw [hq]; exact (h _).2
  · exact ⟨rfl, rfl⟩

theorem State.orbits_orbitUp (s : State) (p : Nat) : s.Orbits (s.orbitUp p) p 1 := State.orbits_updAt fun _ => ⟨rfl, rfl, rfl⟩

theorem State.orbits_orbitDown (s : State) (p : Nat) : s.Orbits (s.orbitDown p) p (-1) :=
  State.orbits_updAt fun _ => ⟨BitVec.sub_eq_add_neg .., rfl, rfl⟩

theorem State.orbits_noteLaunch (s : State) (f : Flit) : s.Orbits (s.noteLaunch f) f.src 0 := by
  unfold State.noteLaunch
  split
  · exact State.orbits_updAt fun _ => ⟨(BitVec.add_zero _).symm, rfl, rfl⟩
  · exact State.orbits_of_cores rfl rfl rfl rfl _

/-- Instruction i leaves the flits l, and of the core of flit f its orbit count moved by d. -/
def State.FlitBecomes (s : State) (f : Flit) (i : Instr) (l : List Flit) (d : BitVec 32) : Prop :=
  ∃ t, exec i s = .next t ∧ t.flits = l ∧ s.Orbits t f.src d

/-- The only flit with its number. -/
def State.OnlyFlit (s : State) (fid : Nat) (f : Flit) : Prop := s.flits.filter (fun x => x.id == fid) = [f]

theorem State.OnlyFlit.flit (h : s.OnlyFlit fid f) : s.flit fid = some f := by
  rw [State.flit, ← List.head?_filter, show s.flits.filter (fun x => x.id == fid) = [f] from h]
  rfl

theorem State.OnlyFlit.id_eq (h : s.OnlyFlit fid f) : f.id = fid := by
  have := List.find?_some h.flit
  simpa using this

theorem State.OnlyFlit.moveFlit (h : s.OnlyFlit fid f) (g : Flit → Flit) :
    s.moveFlit fid g = { s with flits := s.flits.filter (fun x => x.id != fid) ++ [g f] } := by
  rw [State.moveFlit, show s.flits.filter (fun x => x.id == fid) = [f] from h]
  rfl

theorem State.orbits_moveFlit (s : State) (fid : Nat) (g : Flit → Flit) (p : Nat) : s.Orbits (s.moveFlit fid g) p 0 :=
  State.orbits_of_cores rfl rfl rfl rfl p

/-- A flit that moves to another state, and of its core's orbit count. -/
theorem State.OnlyFlit.becomes (h : s.OnlyFlit fid f) {g : Flit → Flit} (hi : exec i s = .next t) (ht : t.flits = (s.moveFlit fid g).flits)
    (ho : (s.moveFlit fid g).Orbits t f.src d) : s.FlitBecomes f i (s.flits.filter (fun x => x.id != fid) ++ [g f]) d := by
  refine ⟨t, hi, by rw [ht, h.moveFlit], ?_⟩
  have := (s.orbits_moveFlit fid g f.src).trans ho
  rwa [show (0 : BitVec 32) + d = d from BitVec.zero_add d] at this

theorem State.exec_ringFlitLaunch (h : s.OnlyFlit fid f) (hp : s.boot.power ≠ .stopped) (hw : f.st = .waiting) (hs : (s.coreAt f.src).scanned = false)
    (ha : s.slotAllowed f slot = true) : exec (.ringFlitLaunch fid slot) s = .next (if !s.stillWanted f then s.dropFlit fid
      else ((s.moveFlit fid (fun f => { f with st := .inSlot, slot := slot })).noteLaunch f).orbitUp f.src) := by
  refine congrArg Host.Outcome.next ?_
  rw [h.flit]
  simp [hp, hw, hs, ha]

theorem State.noteLaunch_flits (s : State) (f : Flit) : (s.noteLaunch f).flits = s.flits := by
  unfold State.noteLaunch
  split
  · rw [State.updAt_frame]
  · rfl

theorem State.launch_becomes (h : s.OnlyFlit fid f) (hp : s.boot.power ≠ .stopped) (hw : f.st = .waiting) (hs : (s.coreAt f.src).scanned = false)
    (ha : s.slotAllowed f slot = true) (hk : s.stillWanted f = true) :
    s.FlitBecomes f (.ringFlitLaunch fid slot) (s.flits.filter (fun x => x.id != fid) ++ [{ f with st := .inSlot, slot := slot }]) 1 := by
  have hi := State.exec_ringFlitLaunch h hp hw hs ha
  rw [hk, if_neg (by decide)] at hi
  refine h.becomes (g := fun f => { f with st := .inSlot, slot := slot }) hi ?_ ?_
  · rw [State.orbitUp, State.updAt_frame]
    exact State.noteLaunch_flits ..
  · exact (State.orbits_noteLaunch _ f).trans (State.orbits_orbitUp ..)

theorem State.launch_outst (h : s.OnlyFlit fid f) (hp : s.boot.power ≠ .stopped) (hw : f.st = .waiting) (hs : (s.coreAt f.src).scanned = false)
    (ha : s.slotAllowed f slot = true) (hk : s.stillWanted f = true) {r : Remote} (hr : f.msg = .access r) :
    ∃ t, exec (.ringFlitLaunch fid slot) s = .next t ∧ (t.coreAt f.src).outst = some r := by
  have hi := State.exec_ringFlitLaunch h hp hw hs ha
  rw [hk, if_neg (by decide)] at hi
  refine ⟨_, hi, ?_⟩
  simp only [State.noteLaunch, hr, State.orbitUp, State.coreAt_updAt, if_pos]

theorem State.exec_nackRelaunch (h : s.OnlyFlit fid f) (hp : s.boot.power ≠ .stopped) (hw : f.st = .nacked) (hs : (s.coreAt f.src).scanned = false)
    (ha : s.slotAllowed f slot = true) : exec (.nackRelaunch fid slot) s = .next (if !s.samePhase f slot then s
      else (s.moveFlit fid (fun f => { f with st := .inSlot, slot := slot })).orbitUp f.src) := by
  refine congrArg Host.Outcome.next ?_
  rw [h.flit]
  simp [hp, hw, hs, ha]

theorem State.relaunch_becomes (h : s.OnlyFlit fid f) (hp : s.boot.power ≠ .stopped) (hw : f.st = .nacked) (hs : (s.coreAt f.src).scanned = false)
    (ha : s.slotAllowed f slot = true) (hk : s.samePhase f slot = true) :
    s.FlitBecomes f (.nackRelaunch fid slot) (s.flits.filter (fun x => x.id != fid) ++ [{ f with st := .inSlot, slot := slot }]) 1 := by
  have hi := State.exec_nackRelaunch h hp hw hs ha
  rw [hk, if_neg (by decide)] at hi
  refine h.becomes (g := fun f => { f with st := .inSlot, slot := slot }) hi ?_ (State.orbits_orbitUp ..)
  rw [State.orbitUp, State.updAt_frame]

theorem State.slotAllowed_spec (h : s.slotAllowed f slot = true) : slot < 152 ∧ ∀ q, slot < 128 → s.phaseHolder f.dir (slot % 64) = some q →
    q = f.part.toNat ∧ 128 + 64 * f.dir + slot % 64 ∉ s.tst.phases := by
  simp only [State.slotAllowed, Bool.and_eq_true, decide_eq_true_eq, Bool.not_eq_true'] at h
  obtain ⟨⟨⟨hlt, hdrain⟩, -⟩, hcls⟩ := h
  refine ⟨hlt, fun q hq hh => ⟨?_, fun hm => ?_⟩⟩
  · by_cases hr : s.reservedFlit f = true
    · rw [if_pos hr] at hcls
      simpa [hq, hh] using hcls
    · rw [if_neg hr] at hcls
      simp [hh] at hcls
      omega
  · simp [State.slotDrains, hq, hm] at hdrain

/-! Arrival. -/

theorem State.exec_ringFlitArrival_inSlot (h : s.OnlyFlit fid f) (hu : s.flitArrives fid f = u)
    (hn : ∀ id, f.msg = .contrib id → ∃ g, u.flit fid = some g ∧ (g.st == .buffered) = false) (hf : f.st = .inSlot) :
    exec (.ringFlitArrival fid) s = .next u := by
  refine congrArg Host.Outcome.next ?_
  rw [h.flit]
  have hst : (f.st == .buffered) = false := by rw [hf]; decide
  simp only [hst, Bool.false_eq_true, if_false, hu]
  split
  · next id g hm hg =>
    obtain ⟨g', hg', hb⟩ := hn id hm
    rw [hg'] at hg
    cases hg
    rw [hb, if_neg Bool.false_ne_true]
  · rfl

theorem State.flitArrives_of_reserved (hp : s.boot.power ≠ .stopped) (hf : f.st = .inSlot) (hr : s.onReserved f = true) :
    s.flitArrives fid f = if s.followsFlit f then s
      else if f.header && s.headerBusy f then (s.moveFlit fid (fun f => { f with st := .nacked })).orbitDown f.src
      else (s.moveFlit fid (fun f => { f with st := .buffered })).orbitDown f.src := by
  simp [State.flitArrives, hp, hf, hr]

theorem State.flitArrives_of_open (hp : s.boot.power ≠ .stopped) (hf : f.st = .inSlot) (hr : s.onReserved f = false) :
    s.flitArrives fid f = if s.deflects f then s.updFlit fid (fun f => { f with deflections := f.deflections + 1 })
      else (s.moveFlit fid (fun f => { f with st := .buffered })).orbitDown f.src := by
  simp [State.flitArrives, hp, hf, hr]

theorem State.accepted_becomes (h : s.OnlyFlit fid f) {g : Flit → Flit} (hi : exec i s = .next ((s.moveFlit fid g).orbitDown f.src)) :
    s.FlitBecomes f i (s.flits.filter (fun x => x.id != fid) ++ [g f]) (-1) := by
  refine h.becomes hi ?_ (State.orbits_orbitDown ..)
  rw [State.orbitDown, State.updAt_frame]

theorem Flit.header_ne_contrib (h : f.header = true) (id : H16) : f.msg ≠ .contrib id := by
  intro hm
  simp [Flit.header, hm] at h

/-- A flit that deflects goes on round the ring, its count one higher. -/
def Flit.deflect (f : Flit) : Flit := { f with deflections := f.deflections + 1 }

theorem State.updFlit_flit (h : s.OnlyFlit fid f) : (s.updFlit fid Flit.deflect).flit fid = some f.deflect := by
  have hf := h.flit
  rw [State.flit] at hf ⊢
  have hp : ((fun x : Flit => x.id == fid) ∘ fun x => if x.id = fid then x.deflect else x) = fun x => x.id == fid := by
    funext x
    by_cases hx : x.id = fid <;> simp [hx, Flit.deflect]
  rw [State.updFlit, List.find?_map, hp, hf, Option.map_some, if_pos h.id_eq]

theorem State.arrival_waits (h : s.OnlyFlit fid f) (hp : s.boot.power ≠ .stopped) (hf : f.st = .inSlot) (hr : s.onReserved f = true)
    (hw : s.followsFlit f = true) : exec (.ringFlitArrival fid) s = .next s := by
  refine State.exec_ringFlitArrival_inSlot h ?_ (fun id _ => ⟨f, h.flit, by rw [hf]; decide⟩) hf
  rw [State.flitArrives_of_reserved hp hf hr, if_pos hw]

theorem State.arrival_nacked (h : s.OnlyFlit fid f) (hp : s.boot.power ≠ .stopped) (hf : f.st = .inSlot) (hr : s.onReserved f = true)
    (hw : s.followsFlit f = false) (hh : f.header = true) (hb : s.headerBusy f = true) :
    s.FlitBecomes f (.ringFlitArrival fid) (s.flits.filter (fun x => x.id != fid) ++ [{ f with st := .nacked }]) (-1) := by
  refine State.accepted_becomes h (g := fun f => { f with st := .nacked })
    (State.exec_ringFlitArrival_inSlot h ?_ (fun id hm => absurd hm (Flit.header_ne_contrib hh id)) hf)
  rw [State.flitArrives_of_reserved hp hf hr, hw, hh, hb, if_neg Bool.false_ne_true, if_pos (Bool.and_self _)]

theorem State.arrival_buffered (h : s.OnlyFlit fid f) (hp : s.boot.power ≠ .stopped) (hf : f.st = .inSlot)
    (ha : s.onReserved f = true ∧ s.followsFlit f = false ∧ (f.header = false ∨ s.headerBusy f = false) ∨
      s.onReserved f = false ∧ s.deflects f = false) (hm : ∀ id, f.msg ≠ .contrib id) :
    s.FlitBecomes f (.ringFlitArrival fid) (s.flits.filter (fun x => x.id != fid) ++ [{ f with st := .buffered }]) (-1) := by
  refine State.accepted_becomes h (g := fun f => { f with st := .buffered })
    (State.exec_ringFlitArrival_inSlot h ?_ (fun id hc => absurd hc (hm id)) hf)
  obtain ⟨hr, hw, hb⟩ | ⟨hr, hd⟩ := ha
  · rw [State.flitArrives_of_reserved hp hf hr, hw, if_neg Bool.false_ne_true, if_neg]
    obtain hb | hb := hb <;> simp [hb]
  · rw [State.flitArrives_of_open hp hf hr, hd, if_neg Bool.false_ne_true]

theorem State.arrival_deflects (h : s.OnlyFlit fid f) (hp : s.boot.power ≠ .stopped) (hf : f.st = .inSlot) (hr : s.onReserved f = false)
    (hd : s.deflects f = true) : s.FlitBecomes f (.ringFlitArrival fid) (s.flits.map (fun x => if x.id = fid then x.deflect else x)) 0 := by
  refine ⟨s.updFlit fid Flit.deflect, State.exec_ringFlitArrival_inSlot h ?_ (fun id _ => ⟨_, State.updFlit_flit h, ?_⟩) hf, rfl,
    State.orbits_of_cores rfl rfl rfl rfl _⟩
  · rw [State.flitArrives_of_open hp hf hr, hd, if_pos rfl]
    rfl
  · change (f.st == .buffered) = false
    rw [hf]; decide

end Flits

/-! ### A contribution at its port stop (R389, R398) -/

section Contrib
variable {s t u : State} {f : Flit} {fid : Nat} {id : H16} {y : Coll}

/-- What a participant's stop sends first, where it forms no result alone. -/
theorem State.collFirst_spec (ho : s.eastOpen = true) (hn : y.np ≠ 1) (hr : y.atRoot = false ∨ s.rankIn y ≠ 0) :
    ∃ l, s.collFirst y = { s with ports := l, collTx :=
      s.collTx ++ (if y.atRoot = true ∨ s.rankIn y = 0 then [y.msg (s.rankIn y) y.wire] else []) } := by
  have hsend := State.sendEast_of_open ho (y.msg (s.rankIn y) y.wire)
  unfold State.collFirst
  dsimp only
  by_cases ha : y.atRoot = true
  · have hq : s.rankIn y ≠ 0 := hr.resolve_left (by simp [ha])
    rw [if_pos ha, if_neg hq, if_pos (Or.inl ha)]
    exact hsend
  · rw [if_neg ha, if_neg hn]
    by_cases hq : s.rankIn y = 0
    · rw [if_pos hq, if_pos (Or.inr hq)]
      rwa [hq] at hsend ⊢
    · rw [if_neg hq, if_neg (by simp [ha, hq]), List.append_nil]
      exact ⟨_, rfl⟩

theorem State.contribTaken_spec (hy : s.coll id = some y) (ho : s.eastOpen = true) (hn : y.np ≠ 1) (hr : y.atRoot = false ∨ s.rankIn y ≠ 0) :
    ∃ l, s.contribTaken id = { s.updColl id (fun x => { x with here := true }) with ports := l, collTx :=
      s.collTx ++ (if y.atRoot = true ∨ s.rankIn y = 0 then [y.msg (s.rankIn y) y.wire] else []) } := by
  rw [State.contribTaken, hy]
  exact State.collFirst_spec (s := s.updColl id (fun x => { x with here := true })) (y := { y with here := true }) ho hn hr

theorem State.contribArrives_eq (hy : (s.focus f.src).coll id = some y) (ho : s.eastOpen = true) (fid : Nat) :
    s.contribArrives fid f.src id = (s.dropFlit fid).withCore f.src (fun t => t.contribTaken id) := by
  have hany : (s.coreAt f.src).cp.colls.any (fun x => x.collid == id) = true := by
    obtain ⟨hx, hid, -⟩ := State.coll_spec hy
    rw [← State.coreAt_focus s f.src f.src, State.coreAt_of_cur (s.focus_cur f.src)]
    exact List.any_eq_true.mpr ⟨y, hx, by simp [hid]⟩
  have hdrop : (s.dropFlit fid).coreAt f.src = s.coreAt f.src := rfl
  rw [State.contribArrives, ho, Bool.not_true, if_neg Bool.false_ne_true]
  simp only [hdrop, hany]
  split
  · contradiction
  · rfl

theorem State.focus_dropFlit (s : State) (p fid : Nat) : (s.dropFlit fid).focus p = (s.focus p).dropFlit fid := by
  unfold State.focus State.dropFlit
  by_cases h : p = s.cur
  · simp only [h, if_true]
  · simp only [h, if_false]
    rfl

theorem State.focus_frame (s : State) (p : Nat) : s.focus p = { s with
    core := (s.focus p).core, cur := p, others := (s.focus p).others } := by
  unfold State.focus
  split
  · next h => rw [h]
  · rfl

theorem State.arrival_contrib (h : s.OnlyFlit fid f) (hf : f.st = .buffered) (hm : f.msg = .contrib id) :
    exec (.ringFlitArrival fid) s = .next (s.contribArrives fid f.src id) := by
  refine congrArg Host.Outcome.next ?_
  rw [h.flit]
  simp [hf, hm, h.flit]

theorem State.contrib_waits (h : s.OnlyFlit fid f) (hf : f.st = .buffered) (hm : f.msg = .contrib id) (ho : s.eastOpen = false) :
    exec (.ringFlitArrival fid) s = .next s := by
  rw [State.arrival_contrib h hf hm, State.contribArrives, ho]
  rfl

theorem State.contrib_taken (h : s.OnlyFlit fid f) (hf : f.st = .buffered) (hm : f.msg = .contrib id) (hy : (s.focus f.src).coll id = some y)
    (ho : s.eastOpen = true) (hn : y.np ≠ 1) (hr : y.atRoot = false ∨ s.rankIn y ≠ 0) :
    ∃ t, exec (.ringFlitArrival fid) s = .next t ∧ t.flits = s.flits.filter (fun x => x.id != fid) ∧ t.mem = s.mem ∧
      (∃ z ∈ (t.coreAt f.src).cp.colls, z.collid = id ∧ z.here = true ∧ z.contrib = y.contrib) ∧
      t.collTx = s.collTx ++ (if y.atRoot = true ∨ s.rankIn y = 0 then [y.msg (s.rankIn y) y.wire] else []) := by
  have hi := State.arrival_contrib h hf hm
  rw [State.contribArrives_eq hy ho] at hi
  have hfr := s.focus_frame f.src
  have hpf : ((s.focus f.src).dropFlit fid).pf = s.pf := by rw [hfr]; rfl
  have hports : ((s.focus f.src).dropFlit fid).ports = s.ports := by rw [hfr]; rfl
  have hrank : ((s.focus f.src).dropFlit fid).rankIn y = s.rankIn y := by rw [hfr]; rfl
  obtain ⟨l, ht⟩ := State.contribTaken_spec (s := (s.focus f.src).dropFlit fid) hy ((State.eastOpen_congr hpf hports).trans ho) hn
    (by rwa [hrank])
  rw [State.withCore, State.focus_dropFlit, ht, hrank] at hi
  obtain ⟨hmem, hid, -⟩ := State.coll_spec hy
  refine ⟨_, hi, ?_, ?_, ?_, ?_⟩
  · rw [State.focus_frame]
    simp only [State.updColl_frame, State.dropFlit]
    rw [hfr]
  · rw [State.focus_frame]
    simp only [State.updColl_frame, State.dropFlit]
    rw [hfr]
  · rw [State.coreAt_focus, State.coreAt_of_cur]
    · exact ⟨_, State.mem_updColl (s := (s.focus f.src).dropFlit fid) hmem hid, hid, rfl, rfl⟩
    · exact s.focus_cur f.src
  · rw [State.focus_frame]
    simp only [State.dropFlit]
    rw [hfr]

end Contrib

/-! ### Remote accesses (R146, R350, R355, R356) -/

section Remotes
variable {s t u : State} {fid : Nat} {r : Remote} {a : Reply}

theorem State.flits_foldl {α : Type} {g : State → α → State} (h : ∀ (s : State) b, (g s b).flits = s.flits) (l : List α) (s : State) :
    (l.foldl g s).flits = s.flits := by
  induction l generalizing s with
  | nil => rfl
  | cons b l ih => exact (ih _).trans (h s b)

theorem State.setEvent_flits (s : State) (p : Nat) : (s.setEvent p).flits = s.flits := by rw [State.setEvent, State.updAt_frame]

theorem State.WritesTo.flits (h : s.WritesTo t) : t.flits = s.flits := by rw [h]

theorem State.wakeArrived_flits (s : State) (x q : Nat) : (s.wakeArrived x q).flits = s.flits :=
  State.flits_foldl (fun (s : State) (y : Nat × Nat) => s.setEvent_flits y.1) _ s

theorem State.arrive_flits (s : State) (x q c : Nat) (m : Bool) : (s.arrive x q c m).flits = s.flits := by
  unfold State.arrive
  extract_lets count u pending v w y z
  have hu : u.flits = s.flits := by
    unfold u
    split
    · exact (s.setByte_writesTo ..).flits
    · rfl
  have hz : z.flits = u.flits :=
    (State.storeLE_flits ..).trans ((State.storeLE_flits ..).trans ((State.storeLE_flits ..).trans (u.wakeArrived_flits x q)))
  clear_value u z
  split
  · rfl
  · split
    · split
      · exact hz.trans hu
      · exact hz.trans hu
    · exact (u.storeLE_flits ..).trans hu

theorem State.amoAt_flits (s : State) (x fn : Nat) (d : Bool) (v w : W64) : (s.amoAt x fn d v w).1.flits = s.flits := by
  unfold State.amoAt
  dsimp only
  split
  · exact s.storeLE_flits ..
  · rfl

theorem State.barInitAt_flits (s : State) (x n : Nat) : (s.barInitAt x n).flits = s.flits := by
  rw [State.barInitAt]
  simp only [State.storeLE_flits]

theorem State.ctlArrive_flits (s : State) (x q c : Nat) (det : Bool) : (s.ctlArrive x q c det).flits = s.flits := by
  unfold State.ctlArrive
  dsimp only
  rw [State.arrive_flits]
  split <;> rfl

theorem State.performRemote_flits (s : State) (p : Nat) (r : Remote) : (s.performRemote p r).1.flits = s.flits := by
  unfold State.performRemote
  dsimp only
  split
  · rfl
  · split
    · rfl
    · rw [State.setEvent_flits, State.storeLE_flits]
    · rw [State.setEvent_flits, State.amoAt_flits]
    · rw [State.setEvent_flits, State.barInitAt_flits]
    · rw [State.setEvent_flits, State.ctlArrive_flits]
    · rfl
    · rfl

/-- Answer b to an access travels once its flit has left the buffer of the stop, which leaves the cores and the memory of w. -/
def State.Answered (s t w : State) (fid : Nat) (r : Remote) (b : Reply) : Prop :=
  t.flits.map (·.msg) = (s.dropFlit fid).flits.map (·.msg) ++ [.reply r b] ∧ t.core = w.core ∧ t.others = w.others ∧ t.mem = w.mem

theorem State.exec_remoteAccessApply (hb : s.bufferedAccess = some (fid, r)) (hp : s.boot.power ≠ .stopped) (hq : s.scrubq = [])
    (hr : s.parkRoom (s.reach s.cur r.vf) = true) {v : State} {b : Option Reply} (ht : s.treatRemote s.cur r = (v, b)) :
    exec .remoteAccessApply s = .next ((b.map ((v.dropFlit fid).sendReply s.cur r)).getD (v.dropFlit fid)) := by
  refine congrArg Host.Outcome.next ?_
  rw [hb]
  simp only [ht, hr, State.scrubGuard_of_empty hq]
  simp [hp]
  cases b <;> rfl

theorem State.answered_of_treat (hb : s.bufferedAccess = some (fid, r)) (hp : s.boot.power ≠ .stopped) (hq : s.scrubq = [])
    (hr : s.parkRoom (s.reach s.cur r.vf) = true) {v : State} {b : Reply} (ht : s.treatRemote s.cur r = (v, some b)) (hf : v.flits = s.flits) :
    ∃ t, exec .remoteAccessApply s = .next t ∧ s.Answered t v fid r b := by
  refine ⟨_, State.exec_remoteAccessApply hb hp hq hr ht, ?_, rfl, rfl, rfl⟩
  simp [State.sendReply, State.post, State.dropFlit, hf]

theorem State.apply_applied (hb : s.bufferedAccess = some (fid, r)) (hp : s.boot.power ≠ .stopped) (hq : s.scrubq = [])
    (hr : s.reach s.cur r.vf = .applied) :
    ∃ t, exec .remoteAccessApply s = .next t ∧ s.Answered t (s.performRemote s.cur r).1 fid r (s.performRemote s.cur r).2 :=
  State.answered_of_treat hb hp hq (by rw [hr]; rfl) (by rw [State.treatRemote, hr]) (s.performRemote_flits ..)

theorem State.apply_refused (hb : s.bufferedAccess = some (fid, r)) (hp : s.boot.power ≠ .stopped) (hq : s.scrubq = [])
    (hr : s.reach s.cur r.vf = .refused) : ∃ t, exec .remoteAccessApply s = .next t ∧ s.Answered t s fid r .refused :=
  State.answered_of_treat hb hp hq (by rw [hr]; rfl) (by rw [State.treatRemote, hr]) rfl

theorem State.apply_atStop (hb : s.bufferedAccess = some (fid, r)) (hp : s.boot.power ≠ .stopped) (hq : s.scrubq = [])
    (hr : s.reach s.cur r.vf = .atStop) : exec .remoteAccessApply s =
      .next { s.dropFlit fid with core := { s.core with parked := s.core.parked ++ [.access r] } } := by
  rw [State.exec_remoteAccessApply hb hp hq (by rw [hr]; rfl) (by rw [State.treatRemote, hr])]
  simp only [State.parkAt, State.updAt_cur]
  rfl

theorem State.apply_full {n : Nat} {g : SavedImage} (hb : s.bufferedAccess = some (fid, r)) (hr : s.reach s.cur r.vf = .inImage n)
    (hg : s.images.find? (fun i => i.id == n) = some g) (hroom : g.hasRoom = false) : exec .remoteAccessApply s = .next s := by
  have hpark : s.parkRoom (s.reach s.cur r.vf) = false := by simp [State.parkRoom, hr, hg, hroom]
  refine congrArg Host.Outcome.next ?_
  rw [hb]
  simp [hpark]

theorem State.apply_inImage {n : Nat} {g : SavedImage} (hb : s.bufferedAccess = some (fid, r)) (hp : s.boot.power ≠ .stopped) (hq : s.scrubq = [])
    (hr : s.reach s.cur r.vf = .inImage n) (hg : s.images.find? (fun i => i.id == n) = some g) (hroom : g.hasRoom = true) :
    ∃ t, exec .remoteAccessApply s = .next t ∧ t.flits = (s.dropFlit fid).flits ∧ t.core = { s.core with l1 := t.core.l1 } ∧
      t.others = s.others ∧ t.mem = ((s.countParked n).writeParked g g.parked.length).mem ∧
      t.images = s.images.map (fun g => if g.id = n then { g with parked := g.parked ++ [.access r] } else g) := by
  obtain ⟨hmem, himg, hcore⟩ := State.parkInImage_effect (w := .access r) hg
  have hflits : (s.parkInImage n (.access r)).flits = s.flits ∧ (s.parkInImage n (.access r)).others = s.others := by
    have hw : s.WritesTo ((s.countParked n).writeParked g g.parked.length) := (s.countParked_writesTo n).trans (State.writeParked_writesTo ..)
    obtain ⟨-, hi⟩ := s.countParked_frame n
    simp only [State.parkInImage, hi, hg]
    exact ⟨hw.flits, by rw [hw]⟩
  refine ⟨_, State.exec_remoteAccessApply hb hp hq (by simp [State.parkRoom, hr, hg, hroom]) (by rw [State.treatRemote, hr]), ?_, ?_, ?_, ?_, ?_⟩
  · simp [State.dropFlit, State.parkAt, hflits.1]
  · exact hcore
  · exact hflits.2
  · exact hmem
  · exact himg

theorem State.countParked_logical {n : Nat} {g : SavedImage} (hg : s.images.find? (fun i => i.id == n) = some g) (hs : g.scan = false) :
    s.countParked n = s.hwStore8 (g.addr.toNat + 24) (BitVec.ofNat 64 ((g.parked.length + 1) * 2 ^ 32)) := by
  rw [State.countParked, hg]
  simp [hs]

end Remotes

/-! ### The answer at the sender (R146, R290, R356) -/

section Replies
variable {s : State} {fid : Nat} {r : Remote} {a : Reply} {n : Left}

/-- A buffered answer for the focused core, which runs and waits for it elsewhere than in a parked answer. -/
def State.Gets (s : State) (fid : Nat) (r : Remote) (a : Reply) : Prop :=
  s.bufferedReply = some (fid, r, a) ∧ s.imageAwaiting r = none ∧ s.coreAwaiting r = some s.cur ∧ s.core.run = .running

/-- The state whose access is no longer outstanding, its answer's flit gone from the buffer. -/
def State.replied (s : State) (fid : Nat) : State :=
  { s.dropFlit fid with core := { (s.dropFlit fid).core with outst := none, wait := none } }

theorem State.focused_updAt (s : State) (p : Nat) (g : Core → Core) : (s.updAt p g).cur = s.cur := by rw [State.updAt_frame]

theorem State.focused_causeEntry (s : State) (kind eng vf part core code sub : Nat) (d : W64) :
    (s.causeEntry kind eng vf part core code sub d).cur = s.cur := by rw [State.causeEntry_frame]

theorem State.focused_foldl {α : Type} {g : State → α → State} (h : ∀ (s : State) b, (g s b).cur = s.cur) (l : List α) (s : State) :
    (l.foldl g s).cur = s.cur := by
  induction l generalizing s with
  | nil => rfl
  | cons b l ih => exact (ih _).trans (h s b)

theorem State.focused_coreReset (s : State) (p q : Nat) : (s.coreReset p q).cur = s.cur := State.focused_updAt ..

theorem State.focused_dropFlits (s : State) (q : Nat) : (s.dropFlits q).cur = s.cur :=
  State.focused_foldl (fun (s : State) (f : Flit) => s.focused_updAt f.src _) _ s

theorem State.focused_replay (s : State) (q : Nat) : (s.replay q).cur = s.cur := rfl

theorem State.focused_lists (s : State) (i : List SavedImage) (g : List Gang) (b : List Binding) (m : List (BitVec 5)) :
    ({ s with images := i, gangs := g, bindings := b, markers := m } : State).cur = s.cur := rfl

theorem State.focused_partitionReset (s : State) (q code core vf lid : Nat) : (s.partitionReset q code core vf lid).cur = s.cur := by
  by_cases h : (s.boot.power == .stopped) = true
  · rw [State.partitionReset, if_pos h]
  · rw [State.partitionReset, if_neg h]
    have hu := s.focused_causeEntry 2 0 vf q core code 1 (BitVec.ofNat 64 lid)
    dsimp only
    generalize s.causeEntry 2 0 vf q core code 1 (BitVec.ofNat 64 lid) = u at *
    have hw := State.focused_foldl
      (g := fun (s : State) p => (s.coreReset p q).updAt p (fun c => { c with dbg := { c.dbg with busy := false } }))
      (fun (s : State) p => (State.focused_updAt ..).trans (s.focused_coreReset p q))
      ((List.range Config.cores).filter (fun p => u.coreHolder p == some q)) u
    generalize List.foldl _ u _ = w at *
    have hd := w.focused_dropFlits q
    generalize w.dropFlits q = d at *
    exact (State.focused_replay _ q).trans ((State.focused_lists d ..).trans (hd.trans (hw.trans hu)))

theorem State.focused_packageStop (s : State) (code : Nat) (v : W64) : (s.packageStop code v).cur = s.cur := by
  simp only [State.packageStop, State.focused_causeEntry]

theorem State.focused_enter (s : State) (h g c2 code : Nat) (v : W64) (seq : W32) (epc : Addr) (arv : Bool) :
    (s.enter h g c2 code v seq epc arv).cur = s.cur := rfl

/-- A trap leaves the core in focus. -/
theorem State.focused_trap (s : State) (t : Trap) : (s.trap t).cur = s.cur := by
  unfold State.trap State.raise
  dsimp only
  split
  · exact State.focused_causeEntry ..
  · split
    · split
      · exact State.focused_packageStop ..
      · rw [State.focused_causeEntry, State.focused_enter]
    · split
      · exact State.focused_partitionReset ..
      · exact State.focused_enter ..

theorem State.focused_acquire (s : State) (w : Bool) : (s.acquire w).cur = s.cur := by
  unfold State.acquire
  split <;> rfl

theorem State.acquire_left (s : State) (w : Bool) : (s.acquire w).core.left = s.core.left := by
  unfold State.acquire
  split <;> rfl

theorem State.focused_remoteDone (s : State) (w : Nat) : (s.remoteDone w).cur = s.cur := by
  unfold State.remoteDone
  split
  · rfl
  · exact State.retire_cur ..

theorem State.focused_completeRemote (s : State) (p : Nat) (r : Remote) (a : Reply) : (s.completeRemote p r a).cur = s.cur := by
  unfold State.completeRemote
  dsimp only
  split
  · exact State.focused_trap ..
  · exact State.focused_trap ..
  · split
    · rfl
    · rw [State.focused_remoteDone, State.focused_acquire]; rfl
  · split
    · rw [State.focused_remoteDone, State.wr_cur, State.focused_acquire]; rfl
    · rw [State.focused_remoteDone, State.wr_cur, State.focused_acquire]; rfl
    · rw [State.focused_remoteDone, State.wr_cur, State.focused_acquire]; rfl
    · split
      · rw [State.focused_remoteDone, State.focused_acquire]; rfl
      · rfl
    · rw [State.focused_remoteDone, State.focused_acquire]; rfl

theorem State.exec_remoteReply (h : s.Gets fid r a) (hp : s.boot.power ≠ .stopped) (hw : ∀ b c, s.core.wait ≠ some (.reply b c)) :
    exec .remoteReply s = .next ((s.dropFlit fid).completeRemote (s.remoteTarget r) r a) := by
  obtain ⟨hb, himg, hcore, hrun⟩ := h
  have ht : s.takeReply fid r a = (s.dropFlit fid).completeRemote (s.remoteTarget r) r a := by
    rw [State.takeReply, himg]
    simp only [hcore, State.coreAt_cur, hrun]
    have ha : (s.dropFlit fid).answered r a = (s.dropFlit fid).completeRemote (s.remoteTarget r) r a := by
      have hh : ((s.dropFlit fid).core.run == .halted) = false := by
        rw [show (s.dropFlit fid).core.run = .running from hrun]; decide
      rw [State.answered, hh]
      rfl
    rw [show s.cur = (s.dropFlit fid).cur from rfl, State.withCore_self (by rw [ha, State.focused_completeRemote]), ha]
  refine congrArg Host.Outcome.next ?_
  rw [if_neg (by simpa using hp), ← ht]
  split
  · next b c hb => exact absurd hb (hw _ _)
  · rw [hb]

/-- Where a stop has not moved CTL on, an answered access completes by retiring. -/
theorem State.remoteDone_of_here {s : State} (h : s.core.left = none) (w : Nat) : s.remoteDone w = s.retire w := by
  rw [State.remoteDone, h]
  rfl

theorem State.remoteDone_of_left {s : State} (h : s.core.left = some n) (w : Nat) :
    s.remoteDone w = { s with core := { s.core with left := none } } := by
  rw [State.remoteDone, h]
  rfl

theorem State.wr_left (s : State) (d : Reg) (v : W64) : (s.wr d v).core.left = s.core.left := by
  unfold State.wr
  split <;> rfl

theorem State.acquired_left (s : State) (fid : Nat) (w : Bool) : ((s.replied fid).acquire w).core.left = s.core.left :=
  State.acquire_left ..

/-- An access that answers with a value writes it to the destination register and completes. -/
theorem State.complete_value {v : W64} {d : Reg} (hl : s.core.left = none) (p : Nat)
    (hop : (∃ sz sg, r.op = .load sz sg d) ∨ (∃ fn dbl c e, r.op = .amo fn dbl c e d) ∨ r.op = .barTest d) :
    (s.dropFlit fid).completeRemote p r (.value v) = (((s.replied fid).acquire r.acq).wr d v).retire r.words := by
  rw [← State.remoteDone_of_here (by rw [State.wr_left, State.acquired_left, hl])]
  obtain ⟨sz, sg, h⟩ | ⟨fn, dbl, c, e, h⟩ | h := hop <;> simp only [State.completeRemote, h] <;> rfl

theorem State.complete_accepted (p : Nat) (ha : ∀ c d, r.op ≠ .barArv c d true) :
    (s.dropFlit fid).completeRemote p r .accepted = ((s.replied fid).acquire r.acq).remoteDone r.words := by
  unfold State.completeRemote
  dsimp only
  split
  · next h => exact absurd h (ha _ _)
  · rfl

theorem State.complete_trap (hl : s.core.left = none) (p : Nat) (c : Trap) :
    (s.dropFlit fid).completeRemote p r (.trap c) = (s.replied fid).trap c := by
  refine congrArg (fun k => State.trap { s.dropFlit fid with core := k } c) ?_
  simp only [Core.takeBack, State.dropFlit, hl]

theorem State.complete_refused (hl : s.core.left = none) (p : Nat) :
    (s.dropFlit fid).completeRemote p r .refused = (s.replied fid).trap ⟨.signalLost, r.ea.setWidth 64⟩ := State.complete_trap (r := r) hl p _

theorem State.complete_trap_left (hl : s.core.left = some n) (p : Nat) (c : Trap) : (s.dropFlit fid).completeRemote p r (.trap c) =
    ({ s.replied fid with core := { (s.replied fid).core with
      pc := n.pc, lc0 := n.lc0, lc1 := n.lc1, arv := n.arv, left := none
      ctr := { (s.replied fid).core.ctr with ctlRet := (s.replied fid).core.ctr.ctlRet - 1 } } } : State).trap c := by
  refine congrArg (fun k => State.trap { s.dropFlit fid with core := k } c) ?_
  simp only [Core.takeBack, State.dropFlit, hl, State.replied]

theorem State.exec_remoteReply_parked {b : Reply} (hp : s.boot.power ≠ .stopped) (hw : s.core.wait = some (.reply r b)) (hr : s.runs = true) :
    exec .remoteReply s = .next (s.completeRemote (s.remoteTarget r) r b) := by
  refine congrArg Host.Outcome.next ?_
  rw [if_neg (by simpa using hp), hw]
  simp only [hr, if_true]

end Replies

/-! ### Headers of transfers (R27, R390) -/

section Headers
variable {s : State} {fid xid j p i : Nat} {x : Xfer} {q : Recv}

/-- A header leaves the buffer; destination j of its transfer is known, and an incoming entry c of the scoreboard taken, as `e` says. -/
def State.TakesHeader (s : State) (fid xid j p : Nat) (q : Recv) (c : Option Nat) (e : Nat → SbEntry → Prop) : Prop :=
  ∃ t z w, exec (.transferHeaderAccept xid) s = .next t ∧ (∀ i, c = some i → ∃ y, t.core.sb.toList.getD i none = some y ∧ e i y) ∧
    z ∈ (t.coreAt p).cp.xfers ∧ z.id = xid ∧ z.recvs[j]? = some w ∧ w.hdr = true ∧ w.ok = q.ok ∧
    (∀ i, c = some i → w.sb = c) ∧ t.flits = (s.dropFlit fid).flits ∧ t.mem = s.mem

theorem Xfer.updRecv_getElem? (h : x.recvs[j]? = some q) (g : Recv → Recv) : (x.updRecv j g).recvs[j]? = some (g q) := by
  simp [Xfer.updRecv, List.getElem?_zipIdx, h]

theorem State.xferAt_spec (h : s.xferAt xid = some (p, x)) : (s.coreAt p).cp.xfers.find? (fun y => y.id == xid) = some x := by
  obtain ⟨k, -, hk⟩ := List.exists_of_findSome?_eq_some h
  obtain ⟨y, hy, he⟩ := Option.map_eq_some_iff.mp hk
  cases he
  exact hy

theorem State.xferOf_of_xferAt (h : s.xferAt xid = some (p, x)) : s.xferOf xid = some ((s.coreAt p).resident.getD 0, x) := by
  rw [State.xferOf, h]

/-- What `updRecvOf` does to a core. -/
def Core.updRecvOf (c : Core) (xid j : Nat) (f : Recv → Recv) : Core :=
  { c with cp := { c.cp with xfers := c.cp.xfers.map (fun x => if x.id = xid then x.updRecv j f else x) } }

theorem State.updRecvOf_eq (h : s.xferAt xid = some (p, x)) (g : Recv → Recv) :
    s.updRecvOf xid j g = { s.updAt p (fun c => c.updRecvOf xid j g) with
      images := (s.updAt p (fun c => c.updRecvOf xid j g)).images.map (fun i => { i with core := i.core.updRecvOf xid j g }) } := by
  rw [State.updRecvOf, h]
  rfl

/-- A transfer of a core changed at a destination: the transfer, and what the change leaves. -/
theorem State.updRecvOf_spec (h : s.xferAt xid = some (p, x)) (hq : x.recvs[j]? = some q) (g : Recv → Recv) :
    let t := s.updRecvOf xid j g
    (∃ z ∈ (t.coreAt p).cp.xfers, z.id = xid ∧ z.recvs[j]? = some (g q)) ∧ t.core.sb = s.core.sb ∧ t.flits = s.flits ∧ t.mem = s.mem := by
  have hf := State.xferAt_spec h
  have hid : x.id = xid := by simpa using List.find?_some hf
  have hx : x.updRecv j g ∈ ((s.coreAt p).updRecvOf xid j g).cp.xfers :=
    List.mem_map.mpr ⟨x, List.mem_of_find?_eq_some hf, if_pos hid⟩
  have hc : (s.updAt p (fun c => c.updRecvOf xid j g)).coreAt p = (s.coreAt p).updRecvOf xid j g := by
    rw [State.coreAt_updAt, if_pos rfl]
  have hfr := s.updAt_frame p (fun c => c.updRecvOf xid j g)
  have hsb : (s.updAt p (fun c => c.updRecvOf xid j g)).core.sb = s.core.sb := by
    by_cases hp : p = s.cur
    · rw [hp, State.updAt_cur]
      rfl
    · rw [State.updAt_core_ne s hp]
  intro t
  rw [show t = _ from State.updRecvOf_eq h g]
  refine ⟨⟨x.updRecv j g, ?_, hid, Xfer.updRecv_getElem? hq g⟩, hsb, by rw [hfr], by rw [hfr]⟩
  rwa [← hc] at hx

theorem State.xferAt_congr {t : State} (h : ∀ p, (t.coreAt p).cp = (s.coreAt p).cp) (xid : Nat) : t.xferAt xid = s.xferAt xid := by
  simp only [State.xferAt, h]

theorem State.xferAt_sbAlloc (k : Nat) (e : SbEntry) : (s.sbAlloc s.cur k e).xferAt xid = s.xferAt xid := by
  refine State.xferAt_congr (fun p => ?_) xid
  rw [State.sbAlloc, State.coreAt_updAt]
  split
  · next h => rw [h]
  · rfl

theorem State.header_applied (hb : s.bufferedHeader xid = some (fid, j)) (hx : s.xferAt xid = some (p, x)) (hq : x.recvs[j]? = some q)
    (hf : s.frozen = false) (hr : s.reach s.cur ((s.coreAt p).resident.getD 0) = .applied) (hi : sbFree s.core 8 = some i) :
    s.TakesHeader fid xid j p q (some i) (fun _ y => y = ⟨q.off, x.extent, x.ch⟩) := by
  have he : exec (.transferHeaderAccept xid) s = .next (((s.sbAlloc s.cur i ⟨q.off, x.extent, x.ch⟩).updRecvOf xid j
      (fun r => { r with hdr := true, sb := some i })).dropFlit fid) := by
    refine congrArg Host.Outcome.next ?_
    rw [hb, State.xferOf_of_xferAt hx]
    simp only [hf, hr, hi, List.getElem?_toArray, hq]
    rfl
  obtain ⟨⟨z, hz, hid, hw⟩, hsb, hfl, hm⟩ := State.updRecvOf_spec (s := s.sbAlloc s.cur i ⟨q.off, x.extent, x.ch⟩)
    ((State.xferAt_sbAlloc ..).trans hx) hq (fun r => { r with hdr := true, sb := some i })
  have halloc : s.sbAlloc s.cur i ⟨q.off, x.extent, x.ch⟩ = { s with core := { s.core with sb := s.core.sb.setIfInBounds i (some ⟨q.off, x.extent, x.ch⟩) } } :=
    State.updAt_cur ..
  refine ⟨_, z, _, he, ?_, hz, hid, hw, rfl, rfl, fun k hk => rfl, ?_, ?_⟩
  · rintro k hk
    obtain rfl := Option.some.inj hk
    refine ⟨_, ?_, rfl⟩
    refine (congrArg (fun v : Vector _ 16 => v.toList.getD i none) hsb).trans ?_
    rw [halloc]
    exact (getD_setIfInBounds ..).trans (if_pos ⟨rfl, sbFree_lt hi (Nat.le_refl 8)⟩)
  · rw [State.dropFlit, hfl, halloc]
    rfl
  · refine hm.trans ?_
    rw [halloc]

theorem State.header_refused (hb : s.bufferedHeader xid = some (fid, j)) (hx : s.xferAt xid = some (p, x)) (hq : x.recvs[j]? = some q)
    (hf : s.frozen = false) (hr : s.reach s.cur ((s.coreAt p).resident.getD 0) = .refused) :
    s.TakesHeader fid xid j p q none (fun _ _ => True) := by
  have he : exec (.transferHeaderAccept xid) s = .next ((s.updRecvOf xid j (fun r => { r with hdr := true })).dropFlit fid) := by
    refine congrArg Host.Outcome.next ?_
    rw [hb, State.xferOf_of_xferAt hx]
    simp only [hf, hr]
    rfl
  obtain ⟨⟨z, hz, hid, hw⟩, -, hfl, hm⟩ := State.updRecvOf_spec hx hq (fun r => { r with hdr := true })
  refine ⟨_, z, _, he, fun k hk => absurd hk (by simp), hz, hid, hw, rfl, rfl, fun k hk => absurd hk (by simp), ?_, hm⟩
  rw [State.dropFlit, hfl]
  rfl

end Headers

/-! ### The sector links (R369, R392) -/

section Links
variable {s t u : State} {f g : LinkFlit} {i j : Nat} {op : Bool} {l l' : List LinkFlit} {d : List (Nat × Nat)}

/-- Flits of a direction of a link. -/
def LinkFlit.on (f : LinkFlit) (i j : Nat) : Bool := f.src == i && f.dst == j

/-- A flit launched in ring cycle r. -/
def LinkFlit.sentAt (f : LinkFlit) (r : Nat) : Bool :=
  match f.sent with
  | some y => y.1 == r
  | none => false

/-- A flit under way that holds a credit. -/
def LinkFlit.credited (f : LinkFlit) : Bool :=
  match f.sent with
  | some y => y.2
  | none => false

/-- The flit launched in ring cycle r, with a credit or without. -/
def LinkFlit.launched (f : LinkFlit) (r : Nat) (op : Bool) : LinkFlit := { f with sent := some (r, op) }

/-- What R392 and R369 ask of a flit that is launched in ring cycle r: its phase, which does not drain, is its partition's, or it is open
and a credit was left. -/
def State.MayLaunch (s : State) (l : List LinkFlit) (f : LinkFlit) (op : Bool) : Prop :=
  linkByte f.src f.dst (s.rc % 8) ∉ s.tst.phases ∧
    ((op = false ∧ s.holder (linkByte f.src f.dst (s.rc % 8)) = some f.part.toNat) ∨
     (op = true ∧ s.holder (linkByte f.src f.dst (s.rc % 8)) = none ∧
       l.countP (fun x => x.on f.src f.dst && x.credited) ≤ Config.linkCredits))

theorem State.linkMay_spec (h : s.linkMay f = some op) : linkByte f.src f.dst (s.rc % 8) ∉ s.tst.phases ∧
    ((op = false ∧ s.holder (linkByte f.src f.dst (s.rc % 8)) = some f.part.toNat) ∨
     (op = true ∧ s.holder (linkByte f.src f.dst (s.rc % 8)) = none ∧
       s.linkq.countP (fun x => x.on f.src f.dst && x.credited) < Config.linkCredits)) := by
  unfold State.linkMay at h
  dsimp only at h
  split at h
  · contradiction
  · next hk =>
    refine ⟨by simpa using hk, ?_⟩
    split at h
    · next q hq =>
      split at h
      · next hp =>
        cases h
        exact .inl ⟨rfl, by rw [hq, hp]⟩
      · contradiction
    · next hq =>
      split at h
      · next hlt =>
        cases h
        refine .inr ⟨rfl, hq, lt_of_eq_of_lt ?_ hlt⟩
        rw [List.countP_eq_length_filter]
        rfl
      · contradiction

/-- One direction launches the first of its waiting flits that may be, or none. -/
theorem State.linkLaunch_cases (s : State) (i j : Nat) : s.linkLaunch i j = s ∨ ∃ a f b op, s.linkq = a ++ f :: b ∧ f.src = i ∧ f.dst = j ∧
    f.sent = none ∧ s.linkMay f = some op ∧ s.linkLaunch i j = { s with linkq := a ++ f.launched s.rc op :: b } := by
  unfold State.linkLaunch
  split
  · next n hn =>
    right
    obtain ⟨hlt, hp, -⟩ := List.findIdx?_eq_some_iff_getElem.mp hn
    simp only [Bool.and_eq_true, beq_iff_eq, Option.isNone_iff_eq_none, Option.isSome_iff_exists] at hp
    obtain ⟨⟨⟨hs, hd⟩, hn⟩, op, hop⟩ := hp
    refine ⟨s.linkq.take n, s.linkq[n], s.linkq.drop (n + 1), op, ?_, hs, hd, hn, hop, ?_⟩
    · simp
    · rw [List.modify_eq_take_cons_drop hlt, hop]
      rfl
  · exact .inl rfl

/-- t is u after the directions d have launched, each at most one flit, which it might. -/
structure State.LinksLaunched (u t : State) (d : List (Nat × Nat)) : Prop where
  frame : t = { u with linkq := t.linkq }
  keeps : ∀ f ∈ u.linkq, f.sent ≠ none → f ∈ t.linkq
  same : ∀ f ∈ u.linkq, ∃ x ∈ t.linkq, x.src = f.src ∧ x.dst = f.dst ∧ x.part = f.part ∧ x.back = f.back
  new : ∀ f ∈ t.linkq, f ∈ u.linkq ∨ ∃ op, f.sent = some (u.rc, op) ∧ (f.src, f.dst) ∈ d ∧ u.MayLaunch t.linkq f op
  once : (∀ f ∈ u.linkq, f.sentAt u.rc = false) → ∀ i j, t.linkq.countP (fun x => x.on i j && x.sentAt u.rc) ≤ if (i, j) ∈ d then 1 else 0

theorem State.LinksLaunched.start (u : State) : u.LinksLaunched u [] where
  frame := rfl
  keeps f hf _ := hf
  same f hf := ⟨f, hf, rfl, rfl, rfl, rfl⟩
  new f hf := .inl hf
  once h i j := by
    rw [if_neg (by simp), Nat.le_zero, List.countP_eq_zero]
    intro f hf
    simp [h f hf]

theorem State.LinksLaunched.mono (h : u.LinksLaunched t d) (k : Nat × Nat) : u.LinksLaunched t (k :: d) where
  frame := h.frame
  keeps := h.keeps
  same := h.same
  new f hf := (h.new f hf).imp_right fun ⟨op, ho, hd, hm⟩ => ⟨op, ho, List.mem_cons_of_mem _ hd, hm⟩
  once hu i j := (h.once hu i j).trans (by split <;> simp_all)

theorem LinkFlit.on_launched (f : LinkFlit) (r : Nat) (op : Bool) (i j : Nat) : (f.launched r op).on i j = f.on i j := rfl

/-- One flit launched leaves what counts flits of another direction, and adds at most one to what counts those of its own. -/
theorem countP_launched (a b : List LinkFlit) (r : Nat) (q : LinkFlit → Bool) (i j : Nat) :
    (a ++ f.launched r op :: b).countP (fun x => x.on i j && q x) ≤ (a ++ f :: b).countP (fun x => x.on i j && q x) + 1 ∧
    (f.on i j = false →
      (a ++ f.launched r op :: b).countP (fun x => x.on i j && q x) = (a ++ f :: b).countP (fun x => x.on i j && q x)) := by
  simp only [List.countP_append, List.countP_cons]
  refine ⟨?_, fun h => by rw [LinkFlit.on_launched, h, Bool.false_and, Bool.false_and]⟩
  split <;> omega

theorem State.LinksLaunched.launch (h : u.LinksLaunched t d) (hd : (i, j) ∉ d) : u.LinksLaunched (t.linkLaunch i j) ((i, j) :: d) := by
  obtain he | ⟨a, f, b, op, hl, hi, hj, hs, hmay, he⟩ := t.linkLaunch_cases i j
  · rw [he]
    exact h.mono (i, j)
  have hrc : t.rc = u.rc := by rw [h.frame]
  have htst : t.tst = u.tst := by rw [h.frame]
  have hholder (k : Nat) : t.holder k = u.holder k := by rw [h.frame]; rfl
  have hmem (x : LinkFlit) (hx : x ∈ t.linkq) (hne : x ≠ f) : x ∈ a ++ f.launched t.rc op :: b := by
    rw [hl] at hx
    simp only [List.mem_append, List.mem_cons] at hx ⊢
    exact hx.imp_right (·.elim (absurd · hne) .inr)
  rw [he]
  refine ⟨?_, fun x hx hsent => ?_, fun x hx => ?_, fun x hx => ?_, fun hu i' j' => ?_⟩
  · rw [h.frame]
  · exact hmem x (h.keeps x hx hsent) fun hxf => hsent (by rw [hxf, hs])
  · obtain ⟨y, hy, hsame⟩ := h.same x hx
    by_cases hyf : y = f
    · exact ⟨f.launched t.rc op, by simp, by rw [← hyf]; exact hsame⟩
    · exact ⟨y, hmem y hy hyf, hsame⟩
  · by_cases hxf : x = f.launched t.rc op
    · right
      obtain ⟨hk, hcls⟩ := State.linkMay_spec hmay
      rw [hrc, htst] at hk
      rw [hrc] at hcls
      simp only [hholder] at hcls
      rw [hxf]
      refine ⟨op, by rw [← hrc]; rfl, by simp [LinkFlit.launched, hi, hj], hk, hcls.imp_right fun ⟨ho, hn, hc⟩ => ⟨ho, hn, ?_⟩⟩
      rw [hl] at hc
      exact (countP_launched a b t.rc LinkFlit.credited f.src f.dst).1.trans hc
    · have hxt : x ∈ t.linkq := by
        rw [hl]
        simp only [List.mem_append, List.mem_cons] at hx ⊢
        exact hx.imp_right (·.elim (absurd · hxf) .inr)
      refine (h.new x hxt).imp_right fun ⟨op', ho, hxd, hk, hcls⟩ => ⟨op', ho, List.mem_cons_of_mem _ hxd, hk, hcls.imp_right
        fun ⟨ho, hn, hc⟩ => ⟨ho, hn, ?_⟩⟩
      have hon : f.on x.src x.dst = false := by
        by_contra hon
        simp only [LinkFlit.on, Bool.not_eq_false, Bool.and_eq_true, beq_iff_eq] at hon
        rw [← hon.1, ← hon.2, hi, hj] at hxd
        exact hd hxd
      rw [hl] at hc
      exact ((countP_launched a b t.rc LinkFlit.credited x.src x.dst).2 hon).trans_le hc
  · have hold := h.once hu i' j'
    rw [hl] at hold
    obtain ⟨hone, hnone⟩ := countP_launched (f := f) (op := op) a b t.rc (fun x => x.sentAt u.rc) i' j'
    by_cases hij : (i', j') = (i, j)
    · rw [hij, if_neg hd] at hold
      obtain ⟨rfl, rfl⟩ := Prod.mk.inj hij
      rw [if_pos (List.mem_cons_self ..)]
      exact hone.trans (Nat.add_le_add_right hold 1)
    · rw [hnone (by
        by_contra hon
        simp only [LinkFlit.on, Bool.not_eq_false, Bool.and_eq_true, beq_iff_eq] at hon
        exact hij (by rw [← hon.1, ← hon.2, hi, hj]))]
      exact hold.trans (by simp [hij])

theorem State.LinksLaunched.foldl (h : u.LinksLaunched t d) {ks : List (Nat × Nat)} (hn : ks.Nodup) (hd : ∀ k ∈ ks, k ∉ d) :
    ∃ d', u.LinksLaunched (ks.foldl (fun t k => t.linkLaunch k.1 k.2) t) d' := by
  induction ks generalizing t d with
  | nil => exact ⟨d, h⟩
  | cons k ks ih =>
    obtain ⟨hk, hks⟩ := List.nodup_cons.mp hn
    refine ih (h.launch (hd k (List.mem_cons_self ..))) hks fun x hx hxd => ?_
    obtain hxk | hxd := List.mem_cons.mp hxd
    · exact hk ((show x = k from hxk) ▸ hx)
    · exact hd x (List.mem_cons_of_mem _ hx) hxd

/-- The directions of the sector links. -/
def linkDirs : List (Nat × Nat) := (List.range 6).flatMap (fun i => (List.range 6).map (fun j => (i, j)))

/-- A ring cycle has begun: what has crossed has left, its answer waits at the other end (R392). -/
def State.linksCrossed (s : State) : State :=
  let u := { s with rc := s.rc + 1 }
  { u with linkq := s.linkq.filter (fun f => !u.linkDone f) ++ ((s.linkq.filter (fun f => u.linkDone f && f.back)).map LinkFlit.answer) }

theorem State.linkStep_spec (s : State) : ∃ d, s.linksCrossed.LinksLaunched ({ s with rc := s.rc + 1 } : State).linkStep d := by
  unfold State.linkStep
  split
  · next h =>
    have hl : s.linkq = [] := List.isEmpty_iff.mp h
    have hu : s.linksCrossed = { s with rc := s.rc + 1 } := by
      simp only [State.linksCrossed, hl]
      rfl
    rw [hu]
    exact ⟨[], .start _⟩
  · have hf := (State.LinksLaunched.start s.linksCrossed).foldl (ks := linkDirs) (by decide) (by simp)
    simp only [linkDirs, List.foldl_flatMap, List.foldl_map] at hf
    exact hf

theorem State.rcTick_spec (s : State) : ∃ d t, s.linksCrossed.LinksLaunched t d ∧ s.rcTick = { t with pf := s.rcTick.pf } := by
  obtain ⟨d, h⟩ := s.linkStep_spec
  refine ⟨d, _, h, ?_⟩
  unfold State.rcTick
  dsimp only
  split
  · generalize ({ s with rc := s.rc + 1 } : State).linkStep = t
    have hfold (l : List Nat) (u : State) : l.foldl (fun u q => if u.ncore q = 0 then u else u.addPf (partReg q 0x28) (3 * u.ncore q)) u =
        { u with pf := (l.foldl (fun u q => if u.ncore q = 0 then u else u.addPf (partReg q 0x28) (3 * u.ncore q)) u).pf } := by
      induction l generalizing u with
      | nil => rfl
      | cons q l ih =>
        rw [List.foldl_cons, ih]
        split <;> rfl
    exact hfold _ _
  · rfl

/-- The ring cycles that a flit takes to cross its link (R392). -/
def LinkFlit.crossing (f : LinkFlit) : Nat := if dieOf f.src = dieOf f.dst then 12 else 24

theorem State.linkDone_iff {r : Nat} (h : f.sent = some (r, op)) : s.linkDone f = true ↔ r + f.crossing ≤ s.rc := by
  rw [State.linkDone, h]
  simp only [decide_eq_true_eq]
  rfl

theorem LinkFlit.crossing_pos (f : LinkFlit) : 0 < f.crossing := by
  unfold LinkFlit.crossing
  split <;> decide

/-- A flit under way after a ring cycle was so before it and has not crossed, or has been launched in it. -/
theorem State.LinksLaunched.underWay {r : Nat} (h : s.linksCrossed.LinksLaunched t d) (hf : f ∈ t.linkq) (hs : f.sent = some (r, op)) :
    (f ∈ s.linkq ∧ s.rc + 1 < r + f.crossing) ∨
      (r = s.rc + 1 ∧ s.linksCrossed.MayLaunch t.linkq f op) := by
  obtain hu | ⟨op', ho, -, hm⟩ := h.new f hf
  · left
    obtain hk | ha := List.mem_append.mp hu
    · obtain ⟨hmem, hk⟩ := List.mem_filter.mp hk
      have hnot : ¬ r + f.crossing ≤ s.rc + 1 := fun hle => by
        have := (State.linkDone_iff (s := { s with rc := s.rc + 1 }) hs).mpr hle
        simp [this] at hk
      exact ⟨hmem, Nat.not_le.mp hnot⟩
    · obtain ⟨y, -, rfl⟩ := List.mem_map.mp ha
      exact absurd hs (by simp [LinkFlit.answer])
  · right
    rw [hs] at ho
    cases ho
    exact ⟨rfl, hm⟩

theorem State.LinksLaunched.stays {r : Nat} (h : s.linksCrossed.LinksLaunched t d) (hf : f ∈ s.linkq) (hs : f.sent = some (r, op))
    (hlt : s.rc + 1 < r + f.crossing) : f ∈ t.linkq := by
  refine h.keeps f (List.mem_append_left _ (List.mem_filter.mpr ⟨hf, ?_⟩)) (by simp [hs])
  rw [Bool.not_eq_true', ← Bool.not_eq_true, State.linkDone_iff hs]
  exact Nat.not_le.mpr hlt

theorem State.LinksLaunched.answers {r : Nat} (h : s.linksCrossed.LinksLaunched t d) (hf : f ∈ s.linkq) (hs : f.sent = some (r, op))
    (hle : r + f.crossing ≤ s.rc + 1) (hb : f.back = true) :
    ∃ x ∈ t.linkq, x.src = f.dst ∧ x.dst = f.src ∧ x.part = f.part ∧ x.back = false := by
  refine h.same f.answer (List.mem_append_right _ (List.mem_map.mpr ⟨f, List.mem_filter.mpr ⟨hf, ?_⟩, rfl⟩))
  rw [hb, Bool.and_true, State.linkDone_iff hs]
  exact hle

/-- No flit was launched in a ring cycle that has not begun. -/
def State.FreshLinks (s : State) : Prop := ∀ x ∈ s.linkq, ∀ r b, x.sent = some (r, b) → r < s.rc + 1

theorem State.FreshLinks.crossed (h : s.FreshLinks) : ∀ f ∈ s.linksCrossed.linkq, f.sentAt s.linksCrossed.rc = false := by
  intro f hf
  obtain hk | ha := List.mem_append.mp hf
  · have hmem := (List.mem_filter.mp hk).1
    unfold LinkFlit.sentAt
    split
    · next y hy => exact beq_eq_false_iff_ne.mpr (Nat.ne_of_lt (h f hmem y.1 y.2 hy))
    · rfl
  · obtain ⟨y, -, rfl⟩ := List.mem_map.mp ha
    rfl

theorem State.LinksLaunched.once_of_fresh (h : s.linksCrossed.LinksLaunched t d) (hf : s.FreshLinks) (i j : Nat) :
    (t.linkq.filter (fun x => x.on i j && x.sentAt (s.rc + 1))).length ≤ 1 := by
  rw [← List.countP_eq_length_filter]
  exact (h.once hf.crossed i j).trans (by split <;> omega)

theorem State.LinksLaunched.mayLaunch_of_fresh (h : s.linksCrossed.LinksLaunched t d) (hfr : s.FreshLinks) (hf : f ∈ t.linkq)
    (hs : f.sent = some (s.rc + 1, op)) : s.linksCrossed.MayLaunch t.linkq f op := by
  obtain ⟨hmem, -⟩ | ⟨-, hm⟩ := h.underWay hf hs
  · exact absurd (hfr f hmem _ _ hs) (Nat.lt_irrefl _)
  · exact hm

end Links

/-! ### The whole statement -/

section Settled
variable {s t : State} {fid : Nat} {r : Remote} {a : Reply} {v : W64}

/-- What the answer does where a stop has not moved CTL on, and where it has. -/
theorem State.reply_completes (hp : s.boot.power ≠ .stopped) (hw : ∀ b c, s.core.wait ≠ some (.reply b c)) (hg : s.Gets fid r a) :
    let w := s.replied fid
    let z := w.acquire r.acq
    (s.core.left = none →
      (a = .value v → (∀ sz sg sd, r.op = .load sz sg sd → exec .remoteReply s = .next ((z.wr sd v).retire r.words)) ∧
        (∀ fn dbl c d sd, r.op = .amo fn dbl c d sd → exec .remoteReply s = .next ((z.wr sd v).retire r.words)) ∧
        (∀ sd, r.op = .barTest sd → exec .remoteReply s = .next ((z.wr sd v).retire r.words))) ∧
      (a = .accepted → (∀ c d, r.op ≠ .barArv c d true) → exec .remoteReply s = .next (z.retire r.words)) ∧
      (∀ c, a = .trap c → exec .remoteReply s = .next (w.trap c)) ∧
      (a = .refused → exec .remoteReply s = .next (w.trap ⟨.signalLost, r.ea.setWidth 64⟩))) ∧
    (∀ n, s.core.left = some n → a = .accepted → (∀ c d, r.op ≠ .barArv c d true) →
      exec .remoteReply s = .next { z with core := { z.core with left := none } }) ∧
    (∀ (n : Left) c, s.core.left = some n → a = .trap c → exec .remoteReply s = .next (({ w with core := { w.core with
      pc := n.pc, lc0 := n.lc0, lc1 := n.lc1, arv := n.arv, left := none,
      ctr := { w.core.ctr with ctlRet := w.core.ctr.ctlRet - 1 } } } : State).trap c)) := by
  have hi := State.exec_remoteReply hg hp hw
  refine ⟨fun hl => ⟨fun ha => ⟨fun sz sg sd h => ?_, fun fn dbl c d sd h => ?_, fun sd h => ?_⟩, fun ha hb => ?_, fun c ha => ?_, fun ha => ?_⟩,
    fun n hl ha hb => ?_, fun n c hl ha => ?_⟩
  · rw [hi, ha, State.complete_value hl _ (.inl ⟨sz, sg, h⟩)]
  · rw [hi, ha, State.complete_value hl _ (.inr (.inl ⟨fn, dbl, c, d, h⟩))]
  · rw [hi, ha, State.complete_value hl _ (.inr (.inr h))]
  · rw [hi, ha, State.complete_accepted _ hb, State.remoteDone_of_here ((State.acquired_left ..).trans hl)]
  · rw [hi, ha, State.complete_trap hl]
  · rw [hi, ha, State.complete_refused hl]
  · rw [hi, ha, State.complete_accepted _ hb, State.remoteDone_of_left ((State.acquired_left ..).trans hl)]
  · rw [hi, ha, State.complete_trap_left hl]

/-- Settles O44: flits by `FlitBecomes`, remote accesses by the cases of `reach`, the sector links by what `LinksLaunched` keeps. -/
theorem ringExchange : Obligations.RingExchange := by
  unfold Obligations.RingExchange
  refine ⟨fun fid slot f s => ?_, fun fid xid j p i r x q a v s => ?_, fun f i j tm op s => ?_⟩
  · intro becomes rest takes buffers h hp
    refine ⟨fun hw hs ha => ⟨fun hk => ⟨State.launch_becomes h hp hw hs ha hk, fun r hr => State.launch_outst h hp hw hs ha hk hr⟩, fun hk => ?_⟩,
      fun hw hs ha => ⟨fun hk => State.relaunch_becomes h hp hw hs ha hk, fun hk => ?_⟩, ?_, State.slotAllowed_spec,
      fun hf hr => ⟨State.arrival_waits h hp hf hr, fun hw => ⟨fun hh hb => State.arrival_nacked h hp hf hr hw hh hb,
        fun hb hm => State.arrival_buffered h hp hf (.inl ⟨hr, hw, hb⟩) hm⟩⟩,
      fun hf hr => ⟨fun hn => ?_, fun hd => State.arrival_deflects h hp hf hr hd,
        fun hd hm => State.arrival_buffered h hp hf (.inr ⟨hr, hd⟩) hm⟩,
      fun id y hf hm hy => ⟨fun ho => State.contrib_waits h hf hm ho, fun ho hn hr => State.contrib_taken h hf hm hy ho hn hr⟩⟩
    · rw [State.exec_ringFlitLaunch h hp hw hs ha, hk]
      rfl
    · rw [State.exec_nackRelaunch h hp hw hs ha, hk]
      rfl
    · simp [State.samePhase]
    · simp [State.deflects, hn]
  · intro u answered got hp hq
    exact ⟨fun hb => ⟨State.apply_applied hb hp hq, State.apply_refused hb hp hq, State.apply_atStop hb hp hq, fun n g hr hg =>
        ⟨State.apply_full hb hr hg, State.apply_inImage hb hp hq hr hg, fun hs => by rw [State.countParked_logical hg hs]⟩⟩,
      fun hw hg => State.reply_completes hp hw hg, fun b hw hr => State.exec_remoteReply_parked hp hw hr,
      fun hb hx hj hf => ⟨fun hr hi => State.header_applied hb hx hj hf hr hi, State.header_refused hb hx hj hf⟩⟩
  · obtain ⟨d, t, h, ht⟩ := s.rcTick_spec
    have hl : s.rcTick.linkq = t.linkq := by rw [ht]
    intro t' rc crossing fresh k
    have hl' : t'.linkq = t.linkq := hl
    refine ⟨?_, ?_, ?_, fun hf hs hlt => ?_, fun hf hs hle hb => ?_, fun hf hs => ?_, fun hfr => ?_, fun hfr hf hs => ?_⟩
    · change s.rcTick.rc = _
      rw [ht, h.frame]
      rfl
    · change s.rcTick.core = _
      rw [ht, h.frame]
      rfl
    · change s.rcTick.mem = _
      rw [ht, h.frame]
      rfl
    · rw [hl']
      exact h.stays hf hs hlt
    · rw [hl']
      exact h.answers hf hs hle hb
    · rw [hl'] at hf
      obtain ⟨-, hlt⟩ | ⟨hr, -⟩ := h.underWay hf hs
      · exact hlt
      · have := f.crossing_pos
        change s.rc + 1 < tm + f.crossing
        omega
    · rw [hl']
      exact h.once_of_fresh hfr i j
    · rw [hl'] at hf ⊢
      have := h.mayLaunch_of_fresh hfr hf hs
      unfold State.MayLaunch at this
      rw [List.countP_eq_length_filter] at this
      exact this

end Settled

end Sys2Proof.Machine
end

section
/-!
The scans of SX (R102, R103, R234 to R240): the recurrence, what a scan may touch, and the values it stores.
-/

namespace Sys2Proof.Machine

/-! ### The recurrence of SCAN32 (R102) -/

section Recurrence
variable {mode f n : Nat} {ops : List StepOp} {hin : List Num} {p : StepOp}

/-- The state before step t of its block: the carry-in, faded where the block is not the first. -/
def scanCarry (mode f : Nat) (ops : List StepOp) (hin : List Num) (j : Nat) : List Num × Nat :=
  if j = 0 then (hin, 0) else fadeL f (blockIn mode ops hin j)

theorem scan32_eq (mode f : Nat) (ops : List StepOp) (hin : List Num) (n : Nat) : (scan32 mode f ops hin n).1 =
    (((ops.drop (8 * (n / 8))).take (n % 8 + 1)).foldl (fun (c : List Num × Nat) p => fadeL f (appOp mode p c.1))
      ((scanCarry mode f ops hin (n / 8)).1, 0)).1 := rfl

/-- The last of the steps of a block up to step n is step n. -/
theorem take_block_succ (h : ops[n]? = some p) :
    (ops.drop (8 * (n / 8))).take (n % 8 + 1) = (ops.drop (8 * (n / 8))).take (n % 8) ++ [p] := by
  rw [List.take_add_one, List.getElem?_drop, Nat.div_add_mod, h]
  rfl

theorem scan32_first (h : ops[n]? = some p) (h8 : n % 8 = 0) :
    (scan32 mode f ops hin n).1 = (fadeL f (appOp mode p (scanCarry mode f ops hin (n / 8)).1)).1 := by
  rw [scan32_eq, take_block_succ h, h8]
  rfl

theorem scan32_next (h : ops[n]? = some p) (h8 : n % 8 ≠ 0) :
    (scan32 mode f ops hin n).1 = (fadeL f (appOp mode p (scan32 mode f ops hin (n - 1)).1)).1 := by
  have hd : (n - 1) / 8 = n / 8 := by omega
  have hm : (n - 1) % 8 + 1 = n % 8 := by omega
  rw [scan32_eq, take_block_succ h, List.foldl_append, scan32_eq mode f ops hin (n - 1), hd, hm]
  rfl

end Recurrence

/-! ### How many components a state has -/

section Shape
variable {mode f k : Nat} {S : StepOp → Prop} {L : Nat → Prop} {ops : List StepOp} {hin : List Num}

/-- Operators of a kind S are closed under `comb`, and take and give states whose number of components L admits. -/
structure ScanShape (mode : Nat) (S : StepOp → Prop) (L : Nat → Prop) : Prop where
  comb : ∀ p q, S p → S q → S ⟨rnL (scanMat mode q.a p.a), rnL (addL (scanMul mode q.a p.b) q.b), p.r⟩
  keep : ∀ p, S p → L p.b.length
  app : ∀ p h, S p → L h.length → L (addL (scanMul mode p.a h) p.b).length

theorem length_rnL (x : List Num) : (rnL x).length = x.length := List.length_map ..

theorem length_addL (x y : List Num) : (addL x y).length = min x.length y.length := by simp [addL]

theorem length_fadeL (f : Nat) (h : List Num) : (fadeL f h).1.length = h.length := List.length_map ..

/-- States of at most n components. -/
theorem scanShape_le (mode n : Nat) : ScanShape mode (fun p => p.b.length ≤ n) (· ≤ n) where
  comb p q _ hq := by
    simp only [length_rnL, length_addL]
    omega
  keep _ hp := hp
  app p h hp _ := by
    rw [length_addL]
    omega

/-- The number of components of the A of an operator (R235, R237). -/
def aComps (mode : Nat) : Nat := if mode = 1 then 2 else if mode = 3 then 4 else 1

/-- The number of components of a state (R235, R237). -/
def hComps (mode : Nat) : Nat := if mode = 1 ∨ mode = 3 then 2 else 1

theorem length_scanMul {a h : List Num} (ha : a.length = aComps mode) (hh : h.length = hComps mode) : (scanMul mode a h).length = hComps mode := by
  unfold scanMul
  split
  · rfl
  · rfl
  · exact hh
  · exact hh

theorem length_scanMat {a b : List Num} (ha : a.length = aComps mode) (hb : b.length = aComps mode) : (scanMat mode a b).length = aComps mode := by
  unfold scanMat
  split
  · rfl
  · unfold scanMul
    split
    · rfl
    · exact absurd hb (by simp [aComps])
    · exact hb
    · exact hb

/-- Operators whose A and b have the components of a mode. -/
def StepOp.Full (mode : Nat) (p : StepOp) : Prop := p.a.length = aComps mode ∧ p.b.length = hComps mode

theorem scanShape_full (mode : Nat) : ScanShape mode (StepOp.Full mode) (· = hComps mode) where
  comb p q hp hq := by
    refine ⟨?_, ?_⟩
    · rw [length_rnL, length_scanMat hq.1 hp.1]
    · rw [length_rnL, length_addL, length_scanMul hq.1 hp.2, hq.2, Nat.min_self]
  keep p hp := hp.2
  app p h hp hh := by rw [length_addL, length_scanMul hp.1 hh, hp.2, Nat.min_self]

/-- Lists of operators of the kind. -/
def OpsIn (S : StepOp → Prop) (l : List (Option StepOp)) : Prop := ∀ p, some p ∈ l → S p

theorem OpsIn.getD {S : StepOp → Prop} {l : List (Option StepOp)} (hl : OpsIn S l) (i : Nat) (p : StepOp) (h : l.getD i none = some p) : S p := by
  rw [List.getD_eq_getElem?_getD] at h
  cases hi : l[i]? with
  | none => simp [hi] at h
  | some y =>
    simp only [hi, Option.getD_some] at h
    exact hl p (h ▸ List.mem_of_getElem? hi)

section Closed
variable (hS : ScanShape mode S L)
include hS

theorem ScanShape.appOp {p : StepOp} {h : List Num} (hp : S p) (hh : L h.length) : L (appOp mode p h).length := by
  unfold Machine.appOp
  split
  · exact hS.keep p hp
  · rw [length_rnL]
    exact hS.app p h hp hh

theorem ScanShape.comb_some {p q : Option StepOp} {r : StepOp} (hp : ∀ x, p = some x → S x) (hq : ∀ x, q = some x → S x)
    (h : Machine.comb mode p q = some r) : S r := by
  cases p with
  | none => cases q with
    | none => contradiction
    | some q => exact hq r h
  | some p => cases q with
    | none => exact hp r h
    | some q =>
      simp only [Machine.comb] at h
      split at h
      · exact hq r h
      · cases h
        exact hS.comb p q (hp p rfl) (hq q rfl)

theorem ScanShape.treePass {l : List (Option StepOp)} (hl : OpsIn S l) (d : Nat) (hit : Nat → Bool) : OpsIn S (treePass mode d hit l) := by
  intro r hr
  obtain ⟨⟨y, i⟩, hx, he⟩ := List.mem_map.mp hr
  have hy : y ∈ l := List.fst_mem_of_mem_zipIdx hx
  dsimp only at he
  split at he
  · exact hS.comb_some (hl.getD _) (fun p hp => hl p (hp ▸ hy)) he
  · exact hl r (he ▸ hy)

theorem ScanShape.upSweep (n fuel d : Nat) {l : List (Option StepOp)} (hl : OpsIn S l) : OpsIn S (upSweep mode n fuel d l) := by
  induction fuel generalizing d l with
  | zero => exact hl
  | succ fuel ih =>
    rw [Machine.upSweep]
    split
    · exact hl
    · exact ih _ (hS.treePass hl _ _)

theorem ScanShape.downSweep (fuel d : Nat) {l : List (Option StepOp)} (hl : OpsIn S l) : OpsIn S (downSweep mode fuel d l) := by
  induction fuel generalizing d l with
  | zero => exact hl
  | succ fuel ih =>
    rw [Machine.downSweep]
    split
    · exact hl
    · exact ih _ (hS.treePass hl _ _)

theorem ScanShape.total {l : List StepOp} (hl : ∀ p ∈ l, S p) {r : StepOp} (h : l.foldl (fun p q => Machine.comb mode p (some q)) none = some r) : S r := by
  induction l using List.reverseRecOn generalizing r with
  | nil => contradiction
  | append_singleton l q ih =>
    rw [List.foldl_append] at h
    exact hS.comb_some (fun x hx => ih (fun p hp => hl p (by simp [hp])) hx) (fun x hx => by cases hx; exact hl q (by simp)) h

theorem ScanShape.blockPrefixes (hl : ∀ p ∈ ops, S p) : OpsIn S (blockPrefixes mode ops) := by
  refine hS.downSweep _ _ (hS.upSweep _ _ _ fun r hr => ?_)
  obtain ⟨j, -, hj⟩ := List.mem_map.mp hr
  split at hj
  · exact hS.total (fun p hp => hl p (List.mem_of_mem_drop (List.mem_of_mem_take hp))) hj
  · contradiction

theorem ScanShape.scanCarry (hl : ∀ p ∈ ops, S p) (hh : L hin.length) (j : Nat) : L (scanCarry mode f ops hin j).1.length := by
  unfold Machine.scanCarry blockIn
  split
  · exact hh
  · rw [length_fadeL]
    split
    · next p hp => exact hS.appOp ((hS.blockPrefixes hl).getD _ p hp) hh
    · exact hh

theorem ScanShape.scan32 (hl : ∀ p ∈ ops, S p) (hh : L hin.length) (t : Nat) : L (scan32 mode f ops hin t).1.length := by
  rw [scan32_eq]
  refine List.foldlRecOn (motive := fun c : List Num × Nat => L c.1.length) _ _ (hS.scanCarry hl hh _) fun c hc p hp => ?_
  rw [length_fadeL]
  exact hS.appOp (hl p (List.mem_of_mem_drop (List.mem_of_mem_take hp))) hc

theorem ScanShape.stepC {p : StepOp} {c : HiLo} (hp : S p) (hc : L c.length) : L (stepC mode f p c).1.length := by
  unfold Machine.stepC
  dsimp only
  rw [List.length_map]
  split
  · rw [List.length_map]; exact hS.keep p hp
  · rw [List.length_map]
    exact hS.app p _ hp (by rwa [List.length_map])

theorem ScanShape.scanC (hl : ∀ p ∈ ops, S p) (hh : L hin.length) (t : Nat) : L (scanC mode f ops hin t).1.length := by
  have h0 := hS.scanCarry (f := f) hl hh (t / 8)
  have hrun : L (((ops.drop (8 * (t / 8))).take (t % 8 + 1)).foldl (fun (c : HiLo × Nat) p => Machine.stepC mode f p c.1)
      ((Machine.scanCarry mode f ops hin (t / 8)).1.map (fun x => (x, Num.zero false)), 0)).1.length := by
    refine List.foldlRecOn (motive := fun c : HiLo × Nat => L c.1.length) _ _ (by rwa [List.length_map]) fun c hc p hp => ?_
    exact hS.stepC (hl p (List.mem_of_mem_drop (List.mem_of_mem_take hp))) hc
  rw [← List.length_map (f := fun x : Num × Num => rn32 (x.1.add false x.2))] at hrun
  exact hrun

theorem ScanShape.scanFast (i fuel : Nat) {h : List Num × Nat} (hl : ∀ p ∈ ops, S p) (hh : L h.1.length) :
    L (scanFast mode f i fuel h ops).1.length := by
  induction fuel generalizing i h ops with
  | zero => cases ops <;> exact hh
  | succ fuel ih =>
    cases ops with
    | nil => exact hh
    | cons p r =>
      rw [Machine.scanFast]
      split
      · refine ih _ (fun q hq => hl q (List.mem_cons_of_mem _ hq)) ?_
        rw [length_fadeL]
        exact hS.appOp (hl p (List.mem_cons_self ..)) hh
      · next j _ =>
        dsimp only
        split
        · next c hc =>
          refine ih _ (fun q hq => ?_) hh
          obtain hq | hq := List.mem_append.mp hq
          · exact hl q (List.mem_of_mem_take hq)
          · obtain rfl | hq := List.mem_cons.mp hq
            · exact hS.comb_some (fun x hx => hl x (List.mem_of_getElem? hx)) (fun x hx => hl x (List.mem_of_getElem? hx)) hc
            · exact hl q (List.mem_of_mem_drop hq)
        · exact hh

theorem ScanShape.scanAt (prof i : Nat) (hl : ∀ p ∈ ops, S p) (hh : L hin.length) (t : Nat) : L (scanAt prof mode f i ops hin t).1.length := by
  unfold Machine.scanAt
  split
  · exact hS.scanC hl hh t
  · exact hS.scanFast _ _ (fun p hp => hl p (List.mem_of_mem_take hp)) hh
  · exact hS.scan32 hl hh t

end Closed
end Shape

/-! ### What a scan touches (R235, R239) -/

/-- n bytes at offset o lie in a range of the operands and results of a scan. -/
def ScanSet.Covers (q : ScanSet) (o n : Nat) : Prop := ∃ r ∈ q.ranges, r.1 ≤ o ∧ o + n ≤ r.1 + r.2

/-- What the accesses of a scan leave: reads and writes within its ranges, and fades counted. -/
inductive State.ScanTo (q : ScanSet) (s : State) : State → Prop
  | refl : ScanTo q s s
  | read {t : State} (h : ScanTo q s t) (seq : W32) (o n : Nat) (hc : q.Covers o n) (hn : 0 < n) :
    ScanTo q s (t.readZ Eng.sx.num seq ⟨spadPa t.cur o, .spad, true, false, none, 0⟩ n).2
  | write {t : State} (h : ScanTo q s t) (seq : W32) (o n : Nat) (d : List Byte) (hc : q.Covers o n) (hn : 0 < n) (hd : d.length ≤ n) :
    ScanTo q s (t.writeZ Eng.sx.num seq ⟨spadPa t.cur o, .spad, true, false, none, 0⟩ d)
  | fades {t : State} (h : ScanTo q s t) (fce : Bool) (lane k : Nat) : ScanTo q s (t.countFades fce lane k)

/-- A run that has touched no more than its ranges, its operators, carries and states of at most the components of a mode. -/
structure ScanRun.Sound (q : ScanSet) (s : State) (r : ScanRun) : Prop where
  reach : s.ScanTo q r.s
  ops : ∀ e ∈ r.ops, e.2.b.length ≤ q.z.ex / 4
  hin : ∀ e ∈ r.hin, e.2.length ≤ q.z.ex / 4
  hs : ∀ e ∈ r.hs, e.2.length ≤ q.z.ex / 4

section Elements
variable {α β : Type} [BEq α] {l : List (α × β)} {k : α} {d : β} {P : β → Prop}

theorem length_elemsOf (e n : Nat) (l : List Byte) : (elemsOf e n l).length = n := by
  induction n generalizing l with
  | zero => rfl
  | succ n ih => rw [elemsOf, List.length_cons, ih]

theorem length_numsOf (n : Nat) (l : List Byte) : (numsOf n l).length = n := by rw [numsOf, List.length_map, length_elemsOf]

theorem assoc_of_all (h : ∀ e ∈ l, P e.2) (hd : P d) : P (assoc l k d) := by
  unfold assoc
  cases he : l.find? (fun x => x.1 == k) with
  | none => exact hd
  | some e => exact h e (List.mem_of_find?_eq_some he)

/-- The bytes that a scan stores of FP32 values. -/
def wordsOf (l : List Num) : List Byte := (l.map (fun v => leBytes 4 (w32 v).toNat)).flatten

theorem length_wordsOf (l : List Num) : (wordsOf l).length = 4 * l.length := by
  rw [wordsOf, List.length_flatten, List.map_map]
  simp [leBytes, Function.comp_def, Nat.mul_comm]

end Elements

/-- A geometry as the configuration word gives it (R231). -/
structure Geo.Valid (z : Geo) : Prop where
  l : 0 < z.l
  nb : 0 < z.nb
  nv : 0 < z.nv
  g : 0 < z.g
  mode : z.mode < 4

theorem geoOf_valid (c : W64) : (geoOf c).Valid := ⟨Nat.succ_pos _, Nat.succ_pos _, Nat.succ_pos _, Nat.succ_pos _, Nat.mod_lt _ (by decide)⟩

section Geometry
variable {z : Geo} {q : ScanSet} {b t n c j : Nat}

theorem Geo.p_pos (z : Geo) : 0 < z.p := by
  unfold Geo.p
  split <;> [decide; (split <;> decide)]

theorem Geo.ex_cases (z : Geo) : z.ex = 4 ∨ z.ex = 8 := by
  unfold Geo.ex
  split <;> simp

theorem Geo.ng_pos (hz : z.Valid) : 0 < z.ng := by
  have hp := z.p_pos
  have hv := hz.nv
  exact Nat.div_pos (by omega) hp

theorem Geo.w_pos (hz : z.Valid) : 0 < z.w := Nat.mul_pos (Geo.ng_pos hz) hz.l

theorem row_lt {nb l : Nat} (hb : b < nb) (ht : t < l) : b * l + t < nb * l := by nlinarith

/-- The flat number of an element of a row, a step and a column. -/
theorem flat_lt {nb l nv : Nat} (hb : b < nb) (ht : t < l) (hn : n < nv) : (b * l + t) * nv + n < nb * l * nv := by
  have h1 : b * l + t + 1 ≤ nb * l := row_lt hb ht
  nlinarith

theorem ScanSet.covers_x (hb : b < q.z.nb) (ht : t < q.z.l) (hn : n < q.z.nv) :
    q.Covers (q.x + ((b * q.z.l + t) * q.z.nv + n) * q.z.ex) q.z.ex := by
  refine ⟨(q.x, q.z.nb * q.z.l * q.z.nv * q.z.ex), by simp [ScanSet.ranges], by simp, ?_⟩
  have := flat_lt hb ht hn
  dsimp only
  nlinarith

theorem Geo.aOff_bound (hb : b < z.nb) (ht : t < z.l) (hn : n < z.nv) : z.aOff b t n + z.ea ≤ z.aBytes := by
  have h1 : b * z.l + t + 1 ≤ z.nb * z.l := row_lt hb ht
  unfold Geo.aOff Geo.aBytes
  by_cases hm : z.mode = 2
  · have he : z.ea = 4 := by simp [Geo.ea, hm]
    rw [if_pos hm, if_pos hm, he]
    omega
  · have := flat_lt hb ht hn
    rw [if_neg hm, if_neg hm]
    nlinarith

theorem ScanSet.covers_a (hb : b < q.z.nb) (ht : t < q.z.l) (hn : n < q.z.nv) : q.Covers (q.a + q.z.aOff b t n) q.z.ea := by
  refine ⟨(q.a, q.z.aBytes), by simp [ScanSet.ranges], by simp, ?_⟩
  have := Geo.aOff_bound hb ht hn
  dsimp only
  omega

theorem ScanSet.covers_h {o : Nat} (ho : q.h = some o) (hb : b < q.z.nb) (ht : t < q.z.l) (hn : n < q.z.nv) :
    q.Covers (o + ((b * q.z.l + t) * q.z.nv + n) * q.z.ex) q.z.ex := by
  refine ⟨(o, q.z.nb * q.z.l * q.z.nv * q.z.ex), by simp [ScanSet.ranges, ho], by simp, ?_⟩
  have := flat_lt hb ht hn
  dsimp only
  nlinarith

theorem ScanSet.covers_c {c y : Nat} (hc : q.c = some (c, y)) (hb : b < q.z.nb) (ht : t < q.z.l) :
    q.Covers (c + (b * q.z.l + t) * q.z.g * q.z.ec) (q.z.g * q.z.ec) := by
  refine ⟨(c, q.z.nb * q.z.l * q.z.g * q.z.ec), by simp [ScanSet.ranges, hc], by simp, ?_⟩
  have h1 : b * q.z.l + t + 1 ≤ q.z.nb * q.z.l := row_lt hb ht
  have h2 : (b * q.z.l + t + 1) * (q.z.g * q.z.ec) ≤ q.z.nb * q.z.l * (q.z.g * q.z.ec) := Nat.mul_le_mul_right _ h1
  dsimp only
  nlinarith

theorem ScanSet.covers_y {c y k : Nat} (hc : q.c = some (c, y)) (hb : b < q.z.nb) (ht : t < q.z.l) (hk : k < q.z.nv / q.z.g) :
    q.Covers (y + ((b * q.z.l + t) * (q.z.nv / q.z.g) + k) * q.z.ey) q.z.ey := by
  refine ⟨(y, q.z.nb * q.z.l * (q.z.nv / q.z.g) * q.z.ey), by simp [ScanSet.ranges, hc], by simp, ?_⟩
  have := flat_lt hb ht hk
  dsimp only
  nlinarith

theorem ScanSet.covers_flag {m : Nat} (hm : q.z.mbase = some m) (hb : b < q.z.nb) (ht : t < q.z.l) : q.Covers (m + 32 * b + t / 8) 1 := by
  refine ⟨(m, 32 * (q.z.nb - 1) + (q.z.l - 1) / 8 + 1), by simp [ScanSet.ranges, hm], by dsimp only; omega, ?_⟩
  dsimp only
  omega

theorem ScanSet.covers_slot (hs : q.slots.length = q.z.nb) (hb : b < q.z.nb) (hn : n < q.z.nv) :
    q.Covers (q.slots.getD b 0 + n * q.z.ex) q.z.ex := by
  have hmem : q.slots.getD b 0 ∈ q.slots := by
    rw [List.getD_eq_getElem _ _ (by omega)]
    exact List.getElem_mem _
  refine ⟨(q.slots.getD b 0, q.z.nv * q.z.ex), ?_, by simp, ?_⟩
  · exact List.mem_append_right _ (List.mem_map.mpr ⟨_, hmem, rfl⟩)
  · dsimp only
    nlinarith

end Geometry

section Traversal
variable {q : ScanSet} {s : State} {r : ScanRun} {b t g c o n : Nat}

theorem Geo.ex_pos (z : Geo) : 0 < z.ex := by
  obtain h | h := z.ex_cases <;> omega

theorem Geo.four_mul_ex (z : Geo) : 4 * (z.ex / 4) = z.ex := by
  obtain h | h := z.ex_cases <;> omega

theorem Geo.ea_pos (z : Geo) : 0 < z.ea := by
  unfold Geo.ea
  split <;> [decide; (split <;> decide)]

theorem ScanRun.Sound.move {u : State} (h : r.Sound q s) (hu : s.ScanTo q u) (bad : Option Nat) : ({ r with s := u, bad := bad } : ScanRun).Sound q s :=
  ⟨hu, h.ops, h.hin, h.hs⟩

theorem ScanRun.read_eq (r : ScanRun) (seq : W32) (o n : Nat) : r.read seq o n =
    ((r.s.readZ Eng.sx.num seq ⟨spadPa r.s.cur o, .spad, true, false, none, 0⟩ n).1, { r with
      s := (r.s.readZ Eng.sx.num seq ⟨spadPa r.s.cur o, .spad, true, false, none, 0⟩ n).2
      bad := r.bad.or ((r.s.firstPoison (spadPa r.s.cur o) n).map (fun a => o + (a - spadPa r.s.cur o))) }) := rfl

theorem ScanRun.Sound.read (h : r.Sound q s) (seq : W32) (hc : q.Covers o n) (hn : 0 < n) : (r.read seq o n).2.Sound q s := by
  rw [ScanRun.read_eq]
  exact h.move (.read h.reach seq o n hc hn) _

theorem ScanRun.Sound.write (h : r.Sound q s) (seq : W32) {v : List Num} (hc : q.Covers o n) (hn : 0 < n) (hv : 4 * v.length ≤ n) :
    (r.write seq o v).Sound q s :=
  h.move (.write h.reach seq o n (wordsOf v) hc hn (by rwa [length_wordsOf])) _

theorem ScanRun.Sound.foldl {α : Type} {f : ScanRun → α → ScanRun} {l : List α} (h : r.Sound q s)
    (hf : ∀ r : ScanRun, r.Sound q s → ∀ a ∈ l, (f r a).Sound q s) : (l.foldl f r).Sound q s :=
  List.foldlRecOn l f h hf

/-- At most n components. -/
def Components (n : Nat) (v : List Num) : Prop := v.length ≤ n

theorem forall_mem_cons_pair {α β : Type} {P : β → Prop} {l : List (α × β)} {k : α} {v : β} (h : ∀ e ∈ l, P e.2) (hv : P v) :
    ∀ e ∈ (k, v) :: l, P e.2 := List.forall_mem_cons.mpr ⟨hv, h⟩

theorem ScanRun.Sound.carryRead (h : r.Sound q s) (hs : carryIn q.d = true → q.slots.length = q.z.nb) (seq : W32) (hb : b < q.z.nb) :
    (r.carryRead q seq b).Sound q s := by
  refine h.foldl fun r h n hn => ?_
  have hn := List.mem_range.mp hn
  dsimp only
  split
  · next hc =>
    have h' := h.read seq (ScanSet.covers_slot (hs hc) hb hn) (Geo.ex_pos _)
    exact ⟨h'.reach, h'.ops, forall_mem_cons_pair (P := Components (q.z.ex / 4)) h'.hin (Nat.le_of_eq (length_numsOf ..)), h'.hs⟩
  · exact ⟨h.reach, h.ops, forall_mem_cons_pair (P := Components (q.z.ex / 4)) h.hin (Nat.le_of_eq List.length_replicate), h.hs⟩

theorem ScanRun.Sound.flag (h : r.Sound q s) (seq : W32) (hb : b < q.z.nb) (ht : t < q.z.l) : (r.flag q seq b t).2.Sound q s := by
  unfold ScanRun.flag
  split
  · exact h
  · next m hm => exact h.read seq (ScanSet.covers_flag hm hb ht) Nat.one_pos

theorem Geo.column_lt {z : Geo} {j : Nat} (hj : j < min z.p (z.nv - g * z.p)) : g * z.p + j < z.nv := by omega

theorem ScanRun.Sound.stepRead (h : r.Sound q s) (seq : W32) (hb : b < q.z.nb) (ht : t < q.z.l) (g : Nat) : (r.stepRead q seq b g t).Sound q s := by
  refine (h.flag seq hb ht).foldl fun r h j hj => ?_
  have hn := Geo.column_lt (List.mem_range.mp hj)
  have h' := (h.read seq (ScanSet.covers_a hb ht hn) (Geo.ea_pos _)).read seq (ScanSet.covers_x hb ht hn) (Geo.ex_pos _)
  exact ⟨h'.reach, forall_mem_cons_pair (P := fun p : StepOp => p.b.length ≤ q.z.ex / 4) h'.ops (Nat.le_of_eq (length_numsOf ..)), h'.hin, h'.hs⟩

theorem ScanRun.Sound.contrRead (h : r.Sound q s) (hz : q.z.Valid) (seq : W32) (hb : b < q.z.nb) (ht : t < q.z.l) :
    (r.contrRead q seq b t).Sound q s := by
  unfold ScanRun.contrRead
  split
  · exact h
  · next c y hc =>
    have h' := h.read seq (ScanSet.covers_c hc hb ht) (Nat.mul_pos hz.g (Geo.ex_pos _))
    exact ⟨h'.reach, h'.ops, h'.hin, h'.hs⟩

theorem ScanRun.Sound.deliver (h : r.Sound q s) (x : Entry) (free : Nat) (hb : b < q.z.nb) (ht : t < q.z.l) (g : Nat) :
    (r.deliver q x free b g t).Sound q s := by
  refine h.foldl fun r h j hj => ?_
  have hn := Geo.column_lt (List.mem_range.mp hj)
  dsimp only
  generalize hv : Machine.scanAt _ _ _ _ _ _ _ = v
  have hlen : v.1.length ≤ q.z.ex / 4 := by
    rw [← hv]
    refine (scanShape_le q.z.mode (q.z.ex / 4)).scanAt _ _ (fun p hp => ?_) (assoc_of_all (P := Components (q.z.ex / 4)) h.hin (Nat.zero_le _)) _
    obtain ⟨u, -, rfl⟩ := List.mem_map.mp hp
    exact assoc_of_all (P := fun p : StepOp => p.b.length ≤ q.z.ex / 4) h.ops (Nat.zero_le _)
  have h' : ScanRun.Sound q s { r with
      s := r.s.countFades x.fce ((g * q.z.p + j) % 64) v.2, hs := ((b, t, g * q.z.p + j), v.1) :: r.hs } :=
    ⟨.fades h.reach .., h.ops, h.hin, forall_mem_cons_pair (P := Components (q.z.ex / 4)) h.hs hlen⟩
  split
  · next o ho => exact h'.write x.seq (ScanSet.covers_h ho hb ht hn) (Geo.ex_pos _) (by have := q.z.four_mul_ex; omega)
  · exact h'

theorem length_contract (prof k : Nat) (cs hs : List (List Num)) (z : Geo) : 4 * (contract prof z.mode k cs hs).length = z.ey := by
  unfold contract Geo.ey
  split
  · next h => simp [h]
  · next h => rw [if_neg h]; rfl

theorem Geo.ey_pos (z : Geo) : 0 < z.ey := by
  unfold Geo.ey
  split <;> decide

theorem ScanRun.Sound.contrWrite (h : r.Sound q s) (seq : W32) (free : Nat) (hb : b < q.z.nb) (ht : t < q.z.l) :
    (r.contrWrite q seq free b t).Sound q s := by
  unfold ScanRun.contrWrite
  dsimp only
  split
  · exact h
  · next c y hc =>
    exact h.foldl fun r h k hk =>
      h.write seq (ScanSet.covers_y hc hb ht (List.mem_range.mp hk)) (Geo.ey_pos _) (Nat.le_of_eq (length_contract ..))

theorem ScanRun.Sound.carryWrite (h : r.Sound q s) (hs : carryOut q.d = true → q.slots.length = q.z.nb) (seq : W32) (hb : b < q.z.nb) :
    (r.carryWrite q seq b).Sound q s := by
  unfold ScanRun.carryWrite
  split
  · exact h
  · next hc =>
    refine h.foldl fun r h n hn => h.write seq (ScanSet.covers_slot (hs (by simpa using hc)) hb (List.mem_range.mp hn)) (Geo.ex_pos _) ?_
    have hlen : (assoc r.hs (b, q.z.l - 1, n) []).length ≤ q.z.ex / 4 := assoc_of_all (P := Components (q.z.ex / 4)) h.hs (Nat.zero_le _)
    have := q.z.four_mul_ex
    omega

theorem ScanRun.Sound.ite {p : Prop} [Decidable p] {r' : ScanRun} (h : r.Sound q s) (h' : p → r'.Sound q s) : (if p then r' else r).Sound q s := by
  split
  · next hp => exact h' hp
  · exact h

theorem ScanRun.Sound.cycle (h : r.Sound q s) (hz : q.z.Valid) (hs : carryIn q.d = true ∨ carryOut q.d = true → q.slots.length = q.z.nb)
    (x : Entry) (free c : Nat) : (r.cycle q x free c).Sound q s := by
  have hw := Geo.w_pos hz
  have hrow {k : Nat} (hk : k < q.z.nb * q.z.w) : k / q.z.w < q.z.nb := Nat.div_lt_of_lt_mul (by rwa [Nat.mul_comm])
  have hstep (k : Nat) : k % q.z.l < q.z.l := Nat.mod_lt _ hz.l
  unfold ScanRun.cycle
  extract_lets z w total ra rb r1 r2 r3
  have h1 : r1.Sound q s := by
    refine ScanRun.Sound.ite (r := r) h fun hc => ?_
    have ha : ra.Sound q s := ScanRun.Sound.ite (r := r) h fun _ => h.carryRead (fun hi => hs (.inl hi)) x.seq (hrow hc)
    have hb : rb.Sound q s := ha.stepRead x.seq (hrow hc) (hstep c) _
    exact ScanRun.Sound.ite (r := rb) hb fun _ => hb.contrRead hz x.seq (hrow hc) (hstep c)
  have h2 : r2.Sound q s := by
    refine ScanRun.Sound.ite h1 fun hc => ?_
    simp only [Bool.and_eq_true, decide_eq_true_eq] at hc
    exact h1.deliver x free (hrow hc.2) (hstep _) _
  have h3 : r3.Sound q s := by
    refine ScanRun.Sound.ite h2 fun hc => ?_
    simp only [Bool.and_eq_true, decide_eq_true_eq] at hc
    exact h2.contrWrite x.seq _ (hrow hc.1.2) (hstep _)
  refine h3.ite fun hc => h3.carryWrite (fun ho => hs (.inr ho)) x.seq ?_
  simp only [Bool.and_eq_true, decide_eq_true_eq] at hc
  obtain ⟨⟨h16, hm⟩, hle⟩ := hc
  have hpos : 0 < (c - 16) / w := Nat.div_pos (Nat.le_of_dvd (by omega) (Nat.dvd_of_mod_eq_zero hm)) hw
  change (c - 16) / w - 1 < q.z.nb
  have : (c - 16) / w ≤ q.z.nb := hle
  omega

theorem State.runScan_sound (hz : q.z.Valid) (hs : carryIn q.d = true ∨ carryOut q.d = true → q.slots.length = q.z.nb) (x : Entry) :
    ∃ free, (s.runScan q x).Sound q { s with free := free } := by
  refine ⟨s.free + 2 * (q.z.nb * q.z.w + 18) * 65536, ?_⟩
  refine ScanRun.Sound.foldl ⟨.refl, ?_, ?_, ?_⟩ fun r h c _ => h.cycle hz hs x s.free c <;> simp

end Traversal

/-! ### What a scan leaves -/

section Leaves
variable {q : ScanSet} {s t u : State} {o n : Nat}

/-- t has the core of s but for the L1 and the fade counters. -/
def State.ScanKeeps (s t : State) : Prop :=
  t.core = { s.core with l1 := t.core.l1, sx := { s.core.sx with fade := t.core.sx.fade } }

theorem State.ScanKeeps.trans (h : s.ScanKeeps t) (k : t.ScanKeeps u) : s.ScanKeeps u := by
  unfold State.ScanKeeps at h k ⊢
  exact k.trans (by rw [h])

theorem State.KeepsCore.scanKeeps (h : s.KeepsCore t) : s.ScanKeeps t := by
  unfold State.ScanKeeps
  rw [State.KeepsCore] at h
  rw [h]

theorem State.putBytes_keepsCore (s : State) (a : Nat) (l : List Byte) : s.KeepsCore (s.putBytes a l) := by
  rw [State.KeepsCore, State.putBytes_core]

theorem State.zeroUnit_keepsCore (s : State) (u : Nat) : s.KeepsCore (s.zeroUnit u) := rfl

theorem State.writeBytes_keepsCore (s : State) (a : Nat) (l : List Byte) : s.KeepsCore (s.writeBytes a l) := s.putBytes_keepsCore a l

/-- Where the units that a write in a scratchpad covers in part have been logged and zeroed, it is that of `writeBytes`. -/
theorem State.writeZ_spad_eq (s : State) (eng : Nat) (seq : W32) (pa : Nat) (d : List Byte) : ∃ l : List Nat,
    s.writeZ eng seq ⟨pa, .spad, true, false, none, 0⟩ d =
      (l.foldl (fun s u => (s.poisonLog 1 eng (64 * u) (Loc.unitGa ⟨pa, .spad, true, false, none, 0⟩ u) seq).zeroUnit u) s).writeBytes pa d :=
  ⟨_, rfl⟩

theorem State.writeZ_spad_keepsCore (s : State) (eng : Nat) (seq : W32) (pa : Nat) (d : List Byte) :
    s.KeepsCore (s.writeZ eng seq ⟨pa, .spad, true, false, none, 0⟩ d) := by
  obtain ⟨l, h⟩ := s.writeZ_spad_eq eng seq pa d
  rw [h]
  exact (State.keepsCore_foldl (fun (s : State) u => (s.poisonLog_keepsCore ..).trans (State.zeroUnit_keepsCore _ u)) l s).trans
    (State.writeBytes_keepsCore ..)

theorem State.countFades_scanKeeps (s : State) (fce : Bool) (n k : Nat) : s.ScanKeeps (s.countFades fce n k) := by
  unfold State.countFades
  split <;> rfl

theorem State.ScanTo.keeps (h : s.ScanTo q t) : s.ScanKeeps t := by
  induction h with
  | refl => rfl
  | read _ seq o n _ _ ih => exact ih.trans (State.readZ_keepsCore ..).scanKeeps
  | write _ seq o n d _ _ _ ih => exact ih.trans (State.writeZ_spad_keepsCore ..).scanKeeps
  | fades _ fce lane k ih => exact ih.trans (State.countFades_scanKeeps ..)

/-- No byte of a scan's ranges is poisoned, seen from the core in focus. -/
def State.ScanClean (s : State) (q : ScanSet) : Prop := ∀ r ∈ q.ranges, s.poisonUnits (spadPa s.cur r.1) r.2 = []

/-- t has the focus of s, and no poison that s has not. -/
def State.NoWorse (s t : State) : Prop := t.cur = s.cur ∧ t.poison ⊆ s.poison

theorem State.poisonUnits_eq_nil {a n : Nat} : s.poisonUnits a n = [] ↔ ∀ u, a / 64 ≤ u → u ≤ max (a / 64) ((a + n - 1) / 64) → u ∉ s.poison := by
  rw [State.poisonUnits, List.filter_eq_nil_iff]
  simp only [List.mem_map, List.mem_range, forall_exists_index, and_imp, List.contains_iff_mem]
  refine ⟨fun h u hl hu => h u (u - a / 64) (by omega) (by omega), fun h u k hk he => h u (by omega) (by omega)⟩

theorem State.poisonUnits_sub {a b m k : Nat} (h : s.poisonUnits a n = []) (hp : t.poison ⊆ s.poison) (ha : a ≤ b) (hn : b + m ≤ a + n) (hm : 0 < m)
    (hk : k ≤ m) : t.poisonUnits b k = [] := by
  rw [State.poisonUnits_eq_nil] at h ⊢
  exact fun u hl hu hup => h u (by omega) (by omega) (hp hup)

theorem State.ScanClean.covered (hc : s.ScanClean q) (hw : s.NoWorse t) (ho : q.Covers o n) (hn : 0 < n) {k : Nat} (hk : k ≤ n) :
    t.poisonUnits (spadPa t.cur o) k = [] := by
  obtain ⟨r, hr, hlo, hhi⟩ := ho
  rw [hw.1]
  exact State.poisonUnits_sub (hc r hr) hw.2 (by unfold spadPa; omega) (by unfold spadPa; omega) hn hk

theorem State.writeBytes_noWorse (s : State) (a : Nat) (d : List Byte) : s.NoWorse (s.writeBytes a d) := by
  refine ⟨by simp [State.writeBytes], ?_⟩
  unfold State.writeBytes
  simp only [State.putBytes_poison]
  exact List.filter_subset_self _

theorem State.countFades_noWorse (s : State) (fce : Bool) (n k : Nat) : s.NoWorse (s.countFades fce n k) := by
  unfold State.countFades
  split <;> exact ⟨rfl, List.Subset.refl _⟩

/-- Without poison a scan changes only bytes of its ranges. -/
theorem State.ScanTo.clean (h : s.ScanTo q t) (hc : s.ScanClean q) : s.NoWorse t ∧
    ∀ p, (∀ r ∈ q.ranges, p < spadPa s.cur r.1 ∨ spadPa s.cur r.1 + r.2 ≤ p) → t.byte p = s.byte p := by
  induction h with
  | refl => exact ⟨⟨rfl, List.Subset.refl _⟩, fun p _ => rfl⟩
  | read _ seq o n ho hn ih =>
    rw [State.readZ_spad rfl (hc.covered ih.1 ho hn (Nat.le_refl n))]
    exact ih
  | @write v _ seq o n d ho hn hd ih =>
    obtain ⟨hw, hb⟩ := ih
    rw [State.writeZ_spad rfl rfl (hc.covered hw ho hn hd)]
    have hw' := v.writeBytes_noWorse (spadPa v.cur o) d
    refine ⟨⟨hw'.1.trans hw.1, fun _ hu => hw.2 (hw'.2 hu)⟩, fun p hp => ?_⟩
    obtain ⟨r, hr, hlo, hhi⟩ := ho
    have hout := hp r hr
    rw [← hb p hp]
    refine v.sameBytes_writeBytes (spadPa v.cur o) d p ?_
    rw [hw.1]
    unfold spadPa at hout ⊢
    omega
  | @fades v _ fce lane k ih =>
    obtain ⟨hw, hb⟩ := ih
    have hw' := v.countFades_noWorse fce lane k
    refine ⟨⟨hw'.1.trans hw.1, fun _ hu => hw.2 (hw'.2 hu)⟩, fun p hp => ?_⟩
    rw [← hb p hp]
    unfold State.countFades
    split <;> rfl

end Leaves

/-! ### The values that a scan reads where nothing is poisoned (R239) -/

section Reads
variable {q : ScanSet} {s : State} {r : ScanRun} {b t n o c : Nat}

/-- n FP32 values at offset o of the own scratchpad. -/
def State.scanVal (s : State) (n o : Nat) : List Num := numsOf n (s.bytes (spadPa s.cur o) (4 * n))

/-- The operator of step t of row b, column n, without a reset mask. -/
def State.scanOp (s : State) (q : ScanSet) (b t n : Nat) : StepOp :=
  ⟨s.scanVal (q.z.ea / 4) (q.a + q.z.aOff b t n), s.scanVal (q.z.ex / 4) (q.x + ((b * q.z.l + t) * q.z.nv + n) * q.z.ex), false⟩

/-- The carry-in of row b, column n. -/
def State.scanHin (s : State) (q : ScanSet) (b n : Nat) : List Num :=
  if carryIn q.d then s.scanVal (q.z.ex / 4) (q.slots.getD b 0 + n * q.z.ex) else List.replicate (q.z.ex / 4) (.zero false)

/-- The c elements of step t of row b, at offset o. -/
def State.scanCs (s : State) (q : ScanSet) (o b t : Nat) : List (List Num) :=
  let l := s.bytes (spadPa s.cur (o + (b * q.z.l + t) * q.z.g * q.z.ec)) (q.z.g * q.z.ec)
  (List.range q.z.g).map (fun j => numsOf (q.z.ec / 4) (l.drop (j * q.z.ec)))

theorem foldl_range_inv {α : Type} {P : Nat → α → Prop} {f : α → Nat → α} {a : α} {m : Nat} (h0 : P 0 a)
    (hf : ∀ i, i < m → ∀ a, P i a → P (i + 1) (f a i)) : P m ((List.range m).foldl f a) := by
  induction m with
  | zero => exact h0
  | succ m ih =>
    rw [List.range_succ, List.foldl_append]
    exact hf m (Nat.lt_succ_self m) _ (ih fun i hi => hf i (by omega))

theorem ScanRun.read_clean (hc : r.s.poisonUnits (spadPa r.s.cur o) n = []) (seq : W32) :
    r.read seq o n = (r.s.bytes (spadPa r.s.cur o) n, r) := by
  rw [ScanRun.read_eq, State.readZ_spad rfl hc, State.firstPoison_of_clean hc, Option.map_none, Option.or_none]

theorem Geo.four_mul_ea (z : Geo) : 4 * (z.ea / 4) = z.ea := by
  unfold Geo.ea
  split <;> [decide; (split <;> decide)]

theorem State.NoWorse.refl (s : State) : s.NoWorse s := ⟨rfl, List.Subset.refl _⟩

/-- Reading the carry-in of a row adds the values of its columns. -/
theorem ScanRun.carryRead_clean (hcl : s.ScanClean q) (hr : r.s = s) (hs : carryIn q.d = true → q.slots.length = q.z.nb) (hb : b < q.z.nb) (seq : W32) :
    r.carryRead q seq b = { r with hin := (List.range q.z.nv).reverse.map (fun n => ((b, n), s.scanHin q b n)) ++ r.hin } := by
  refine foldl_range_inv (P := fun i a => i ≤ q.z.nv →
    a = { r with hin := (List.range i).reverse.map (fun n => ((b, n), s.scanHin q b n)) ++ r.hin }) (fun _ => rfl) (fun i hi a ha _ => ?_) (Nat.le_refl _)
  rw [ha (Nat.le_of_lt hi), List.range_succ, List.reverse_append]
  subst hr
  change _ = { r with hin := ((b, i), r.s.scanHin q b i) :: ((List.range i).reverse.map (fun n => ((b, n), r.s.scanHin q b n)) ++ r.hin) }
  generalize (List.range i).reverse.map _ ++ r.hin = l
  dsimp only
  by_cases hc : carryIn q.d = true
  · rw [if_pos hc, ScanRun.read_clean (r := { r with hin := l })
      (hcl.covered (State.NoWorse.refl _) (ScanSet.covers_slot (hs hc) hb hi) (Geo.ex_pos _) (Nat.le_refl _)), State.scanHin, if_pos hc,
      State.scanVal, Geo.four_mul_ex]
  · rw [if_neg hc, State.scanHin, if_neg hc]

theorem ScanRun.stepRead_clean (hcl : s.ScanClean q) (hr : r.s = s) (hm : q.z.mbase = none) (hv : q.z.nv ≤ q.z.p) (hb : b < q.z.nb) (ht : t < q.z.l)
    (seq : W32) : r.stepRead q seq b 0 t =
      { r with ops := (List.range q.z.nv).reverse.map (fun n => ((b, t, n), s.scanOp q b t n)) ++ r.ops } := by
  have hn : min q.z.p (q.z.nv - 0 * q.z.p) = q.z.nv := by omega
  have hflag : r.flag q seq b t = (false, r) := by rw [ScanRun.flag, hm]
  rw [ScanRun.stepRead]
  simp only [hn, hflag]
  refine foldl_range_inv (P := fun i a => i ≤ q.z.nv →
    a = { r with ops := (List.range i).reverse.map (fun n => ((b, t, n), s.scanOp q b t n)) ++ r.ops }) (fun _ => rfl) (fun i hi a ha _ => ?_) (Nat.le_refl _)
  rw [ha (Nat.le_of_lt hi), List.range_succ, List.reverse_append]
  subst hr
  change _ = { r with ops := ((b, t, i), r.s.scanOp q b t i) :: ((List.range i).reverse.map (fun n => ((b, t, n), r.s.scanOp q b t n)) ++ r.ops) }
  generalize (List.range i).reverse.map _ ++ r.ops = l
  rw [show 0 * q.z.p + i = i by omega, ScanRun.read_clean (r := { r with ops := l })
    (hcl.covered (State.NoWorse.refl _) (ScanSet.covers_a hb ht hi) (Geo.ea_pos _) (Nat.le_refl _))]
  dsimp only
  rw [ScanRun.read_clean (r := { r with ops := l })
    (hcl.covered (State.NoWorse.refl _) (ScanSet.covers_x hb ht hi) (Geo.ex_pos _) (Nat.le_refl _)),
    State.scanOp, State.scanVal, State.scanVal, Geo.four_mul_ea, Geo.four_mul_ex]

theorem ScanRun.contrRead_none (h : q.c = none) (seq : W32) : r.contrRead q seq b t = r := by rw [ScanRun.contrRead, h]

theorem ScanRun.contrRead_clean {y : Nat} (hcl : s.ScanClean q) (hr : r.s = s) (hz : q.z.Valid) (hc : q.c = some (o, y)) (hb : b < q.z.nb) (ht : t < q.z.l)
    (seq : W32) : r.contrRead q seq b t = { r with cs := ((b, t), s.scanCs q o b t) :: r.cs } := by
  subst hr
  have hread := ScanRun.read_clean (r := r)
    (hcl.covered (State.NoWorse.refl _) (ScanSet.covers_c hc hb ht) (Nat.mul_pos hz.g (Geo.ex_pos _)) (Nat.le_refl _)) seq
  rw [ScanRun.contrRead, hc]
  dsimp only
  rw [hread]
  rfl

/-- The reads of the first c cycles have been made, nothing else: every operator, carry and c element is that of its key, and those of
the steps before number c are there. -/
structure ScanRun.ReadUpTo (q : ScanSet) (s : State) (c : Nat) (r : ScanRun) : Prop where
  st : r.s = s
  hs : r.hs = []
  ops : ∀ e ∈ r.ops, e.2 = s.scanOp q e.1.1 e.1.2.1 e.1.2.2
  hin : ∀ e ∈ r.hin, e.2 = s.scanHin q e.1.1 e.1.2
  cs : ∀ o y, q.c = some (o, y) → ∀ e ∈ r.cs, e.2 = s.scanCs q o e.1.1 e.1.2
  seenOps : ∀ b t n, b * q.z.l + t < c → t < q.z.l → n < q.z.nv → ∃ e ∈ r.ops, e.1 = (b, t, n)
  seenHin : ∀ b n, b * q.z.l < c → n < q.z.nv → ∃ e ∈ r.hin, e.1 = (b, n)
  seenCs : ∀ o y, q.c = some (o, y) → ∀ b t, b * q.z.l + t < c → t < q.z.l → ∃ e ∈ r.cs, e.1 = (b, t)

theorem mem_columns {α β : Type} {k : Nat → α} {v : Nat → β} {l : List (α × β)} {m : Nat} {e : α × β} :
    e ∈ (List.range m).reverse.map (fun n => (k n, v n)) ++ l ↔ (∃ n < m, (k n, v n) = e) ∨ e ∈ l := by
  simp [List.mem_append]

/-- One cycle of the reads. -/
def ScanRun.readCycle (r : ScanRun) (q : ScanSet) (seq : W32) (c : Nat) : ScanRun :=
  ((if c % q.z.l = 0 then r.carryRead q seq (c / q.z.l) else r).stepRead q seq (c / q.z.l) 0 (c % q.z.l)).contrRead q seq (c / q.z.l) (c % q.z.l)

/-- The scans of O39's values: one group of columns, no reset mask, nothing poisoned. -/
structure State.PlainScan (s : State) (q : ScanSet) : Prop where
  valid : q.z.Valid
  clean : s.ScanClean q
  mbase : q.z.mbase = none
  nv : q.z.nv ≤ q.z.p
  slots : carryIn q.d = true ∨ carryOut q.d = true → q.slots.length = q.z.nb

theorem ScanRun.ReadUpTo.start (q : ScanSet) (s : State) : ReadUpTo q s 0 ⟨s, [], [], [], [], none⟩ where
  st := rfl
  hs := rfl
  ops := by simp
  hin := by simp
  cs := by simp
  seenOps := by simp
  seenHin := by simp
  seenCs := by simp

theorem row_step {l c : Nat} (hl : 0 < l) (hb : b * l + t < c + 1) (ht : t < l) : b * l + t < c ∨ b = c / l ∧ t = c % l := by
  by_cases h : b * l + t < c
  · exact .inl h
  · right
    have he : c = t + l * b := by rw [Nat.mul_comm l b]; omega
    rw [he, Nat.add_mul_div_left _ _ hl, Nat.add_mul_mod_self_left, Nat.div_eq_of_lt ht, Nat.mod_eq_of_lt ht]
    omega

theorem ScanRun.ReadUpTo.next (h : ReadUpTo q s c r) (hp : s.PlainScan q) (hc : c < q.z.nb * q.z.l) (seq : W32) :
    ReadUpTo q s (c + 1) (r.readCycle q seq c) := by
  have hl := hp.valid.l
  have hb : c / q.z.l < q.z.nb := Nat.div_lt_of_lt_mul (by rwa [Nat.mul_comm])
  have ht : c % q.z.l < q.z.l := Nat.mod_lt _ hl
  -- the carry-in of a new row
  obtain ⟨u, hu, hhin, hseen⟩ : ∃ u : List ((Nat × Nat) × List Num),
      (if c % q.z.l = 0 then r.carryRead q seq (c / q.z.l) else r) = { r with hin := u } ∧ (∀ e ∈ u, e.2 = s.scanHin q e.1.1 e.1.2) ∧
      ∀ b n, b * q.z.l < c + 1 → n < q.z.nv → ∃ e ∈ u, e.1 = (b, n) := by
    by_cases h0 : c % q.z.l = 0
    · refine ⟨_, (if_pos h0).trans (ScanRun.carryRead_clean hp.clean h.st (fun hi => hp.slots (.inl hi)) hb seq), fun e he => ?_, fun b n hbn hn => ?_⟩
      · obtain ⟨n, -, rfl⟩ | he := mem_columns.mp he
        · rfl
        · exact h.hin e he
      · obtain hlt | ⟨rfl, -⟩ := row_step (t := 0) hl hbn hl
        · obtain ⟨e, he, hk⟩ := h.seenHin b n hlt hn
          exact ⟨e, mem_columns.mpr (.inr he), hk⟩
        · exact ⟨_, mem_columns.mpr (.inl ⟨n, hn, rfl⟩), rfl⟩
    · refine ⟨r.hin, if_neg h0, h.hin, fun b n hbn hn => ?_⟩
      obtain hlt | ⟨-, h0'⟩ := row_step (t := 0) hl hbn hl
      · exact h.seenHin b n hlt hn
      · exact absurd h0'.symm h0
  have hstep := ScanRun.stepRead_clean (r := { r with hin := u }) hp.clean h.st hp.mbase hp.nv hb ht seq
  have hcols (b t n : Nat) (hbt : b * q.z.l + t < c + 1) (ht : t < q.z.l) (hn : n < q.z.nv) :
      ∃ e ∈ (List.range q.z.nv).reverse.map (fun n => ((c / q.z.l, c % q.z.l, n), s.scanOp q (c / q.z.l) (c % q.z.l) n)) ++ r.ops, e.1 = (b, t, n) := by
    obtain hlt | ⟨rfl, rfl⟩ := row_step hl hbt ht
    · obtain ⟨e, he, hk⟩ := h.seenOps b t n hlt ht hn
      exact ⟨e, mem_columns.mpr (.inr he), hk⟩
    · exact ⟨_, mem_columns.mpr (.inl ⟨n, hn, rfl⟩), rfl⟩
  have hops : ∀ e ∈ (List.range q.z.nv).reverse.map (fun n => ((c / q.z.l, c % q.z.l, n), s.scanOp q (c / q.z.l) (c % q.z.l) n)) ++ r.ops,
      e.2 = s.scanOp q e.1.1 e.1.2.1 e.1.2.2 := fun e he => by
    obtain ⟨n, -, rfl⟩ | he := mem_columns.mp he
    · rfl
    · exact h.ops e he
  rw [ScanRun.readCycle, hu, hstep]
  generalize (List.range q.z.nv).reverse.map _ ++ r.ops = v at *
  cases hqc : q.c with
  | none =>
    rw [ScanRun.contrRead_none hqc]
    exact ⟨h.st, h.hs, hops, hhin, by simp [hqc], hcols, hseen, by simp [hqc]⟩
  | some oy =>
    obtain ⟨o, y⟩ := oy
    rw [ScanRun.contrRead_clean (r := { r with hin := u, ops := v }) hp.clean h.st hp.valid hqc hb ht]
    refine ⟨h.st, h.hs, hops, hhin, fun o' y' ho e he => ?_, hcols, hseen, fun o' y' ho b t hbt ht => ?_⟩
    · rw [hqc] at ho
      cases ho
      obtain rfl | he := List.mem_cons.mp he
      · rfl
      · exact h.cs o y hqc e he
    · obtain hlt | ⟨rfl, rfl⟩ := row_step hl hbt ht
      · obtain ⟨e, he, hk⟩ := h.seenCs o y hqc b t hlt ht
        exact ⟨e, List.mem_cons_of_mem _ he, hk⟩
      · exact ⟨_, List.mem_cons_self .., rfl⟩

theorem Geo.ng_eq_one {z : Geo} (hz : z.Valid) (hv : z.nv ≤ z.p) : z.ng = 1 := by
  have hp := z.p_pos
  have hv0 := hz.nv
  unfold Geo.ng ceilDiv
  rw [Nat.div_eq_of_lt_le] <;> omega

theorem ScanRun.cycle_early (hp : s.PlainScan q) (x : Entry) (free : Nat) (hc : c < 16) :
    r.cycle q x free c = if c < q.z.nb * q.z.l then r.readCycle q x.seq c else r := by
  have hw : q.z.w = q.z.l := by rw [Geo.w, Geo.ng_eq_one hp.valid hp.nv, Nat.one_mul]
  have hg : c % q.z.l / q.z.l = 0 := Nat.div_eq_of_lt (Nat.mod_lt _ hp.valid.l)
  have h16 : ¬ 16 ≤ c := Nat.not_le.mpr hc
  have h17 : ¬ 17 ≤ c := by omega
  have h16' : ¬ 16 < c := by omega
  simp only [ScanRun.cycle, hw, hg, h16, h17, h16', Geo.ng_eq_one hp.valid hp.nv, decide_false, Bool.false_and, Bool.false_eq_true, if_false,
    Nat.zero_add, if_true]
  rfl

theorem ScanRun.readUpTo_early (hp : s.PlainScan q) (ht : q.z.nb * q.z.l ≤ 16) (x : Entry) (free : Nat) :
    ReadUpTo q s (q.z.nb * q.z.l) ((List.range 16).foldl (fun r c => r.cycle q x free c) ⟨s, [], [], [], [], none⟩) := by
  have := foldl_range_inv (P := fun c r => ReadUpTo q s (min c (q.z.nb * q.z.l)) r) (f := fun r c => r.cycle q x free c) (m := 16)
    (a := ⟨s, [], [], [], [], none⟩) (by rw [Nat.zero_min]; exact .start q s) fun c hc r h => by
      rw [ScanRun.cycle_early hp x free hc]
      split
      · next hlt =>
        rw [Nat.min_eq_left (by omega)] at h ⊢
        exact h.next hp hlt x.seq
      · next hge =>
        rw [Nat.min_eq_right (by omega)] at h ⊢
        exact h
  rwa [Nat.min_eq_right ht] at this

end Reads

/-! ### The values that a scan stores where nothing is poisoned (R237, R239) -/

section Values
variable {q : ScanSet} {s t : State} {r : ScanRun} {b u n o c i j free m : Nat}

section Assoc
variable {α β : Type} [BEq α] [LawfulBEq α] {l : List (α × β)} {k k' : α} {v d : β} {f : α → β}

theorem assoc_eq (h : ∀ e ∈ l, e.2 = f e.1) (hk : ∃ e ∈ l, e.1 = k) : assoc l k d = f k := by
  unfold assoc
  cases he : l.find? (fun x => x.1 == k) with
  | none =>
    obtain ⟨e, hmem, rfl⟩ := hk
    simpa using List.find?_eq_none.mp he e hmem
  | some e =>
    have hkey : e.1 = k := by simpa using List.find?_some he
    rw [Option.map_some, Option.getD_some, h e (List.mem_of_find?_eq_some he), hkey]

theorem assoc_cons_self : assoc ((k, v) :: l) k d = v := by simp [assoc]

theorem assoc_cons_ne (h : k ≠ k') : assoc ((k, v) :: l) k' d = assoc l k' d := by simp [assoc, h]

end Assoc

/-- h of step t of row b, column n, with the picks of FAST from `free` on. -/
def State.scanOut (s : State) (q : ScanSet) (free b t n : Nat) : List Num :=
  (scanAt q.prof q.z.mode q.f (free + ((b * q.z.nv + n) * q.z.l + t) * 512) ((List.range q.z.l).map (fun u => s.scanOp q b u n)) (s.scanHin q b n) t).1

theorem Geo.ea_div (z : Geo) : z.ea / 4 = aComps z.mode := by
  unfold Geo.ea aComps
  split
  · rfl
  · split <;> rfl

theorem Geo.ex_div (z : Geo) : z.ex / 4 = hComps z.mode := by
  unfold Geo.ex hComps
  simp only [Bool.or_eq_true, decide_eq_true_eq]
  split <;> rfl

theorem State.length_scanVal (s : State) (n o : Nat) : (s.scanVal n o).length = n := length_numsOf ..

theorem State.length_scanHin (s : State) (q : ScanSet) (b n : Nat) : (s.scanHin q b n).length = hComps q.z.mode := by
  unfold State.scanHin
  split
  · rw [State.length_scanVal, Geo.ex_div]
  · rw [List.length_replicate, Geo.ex_div]

theorem State.scanOp_full (s : State) (q : ScanSet) (b t n : Nat) : (s.scanOp q b t n).Full q.z.mode :=
  ⟨(State.length_scanVal ..).trans (Geo.ea_div _), (State.length_scanVal ..).trans (Geo.ex_div _)⟩

theorem State.length_scanOut (s : State) (q : ScanSet) (free b t n : Nat) : 4 * (s.scanOut q free b t n).length = q.z.ex := by
  have h : (s.scanOut q free b t n).length = hComps q.z.mode := by
    refine (scanShape_full q.z.mode).scanAt _ _ (fun p hp => ?_) (s.length_scanHin q b n) t
    obtain ⟨u, -, rfl⟩ := List.mem_map.mp hp
    exact s.scanOp_full q b u n
  rw [h, ← Geo.ex_div, Geo.four_mul_ex]

/-- A store of whole words where nothing is poisoned. -/
theorem ScanRun.write_clean {v : List Num} (hc : r.s.poisonUnits (spadPa r.s.cur o) (4 * v.length) = []) (seq : W32) :
    r.write seq o v = { r with s := r.s.writeBytes (spadPa r.s.cur o) (wordsOf v) } := by
  have hc' : r.s.poisonUnits (spadPa r.s.cur o) (wordsOf v).length = [] := by rwa [length_wordsOf]
  have hw := State.writeZ_spad (l := ⟨spadPa r.s.cur o, .spad, true, false, none, 0⟩) rfl rfl hc' Eng.sx.num seq
  unfold ScanRun.write
  change ({ r with s := r.s.writeZ Eng.sx.num seq ⟨spadPa r.s.cur o, .spad, true, false, none, 0⟩ (wordsOf v) } : ScanRun) = _
  rw [hw]

theorem State.bytes_of_disjoint {a d k : Nat} (h : s.SameBytes t a n) (hd : d + k ≤ a ∨ a + n ≤ d) : t.bytes d k = s.bytes d k :=
  List.map_congr_left fun x hx => h _ (by have := List.mem_range.mp hx; omega)

/-- The first m states of a scan, in the order of steps and columns, are there, and stored where the instruction stores them. -/
structure ScanRun.Delivered (q : ScanSet) (s : State) (free m : Nat) (r : ScanRun) : Prop where
  worse : s.NoWorse r.s
  ops : ∀ b t n, b < q.z.nb → t < q.z.l → n < q.z.nv → assoc r.ops (b, t, n) ⟨[], [], true⟩ = s.scanOp q b t n
  hin : ∀ b n, b < q.z.nb → n < q.z.nv → assoc r.hin (b, n) [] = s.scanHin q b n
  cs : ∀ o y, q.c = some (o, y) → ∀ b t, b < q.z.nb → t < q.z.l → assoc r.cs (b, t) [] = s.scanCs q o b t
  hs : ∀ b t n, (b * q.z.l + t) * q.z.nv + n < m → t < q.z.l → n < q.z.nv → assoc r.hs (b, t, n) [] = s.scanOut q free b t n
  stored : ∀ o, q.h = some o → ∀ b t n, (b * q.z.l + t) * q.z.nv + n < m → t < q.z.l → n < q.z.nv →
    r.s.bytes (spadPa s.cur (o + ((b * q.z.l + t) * q.z.nv + n) * q.z.ex)) q.z.ex = wordsOf (s.scanOut q free b t n)

theorem ScanRun.ReadUpTo.delivered (h : ReadUpTo q s (q.z.nb * q.z.l) r) (hl : 0 < q.z.l) (free : Nat) : Delivered q s free 0 r where
  worse := by rw [h.st]; exact .refl s
  ops b t n hb ht hn := by
    have hlt : b * q.z.l + t < q.z.nb * q.z.l := row_lt hb ht
    exact assoc_eq (k := (b, t, n)) (f := fun k => s.scanOp q k.1 k.2.1 k.2.2) h.ops (h.seenOps b t n hlt ht hn)
  hin b n hb hn := by
    have hlt : b * q.z.l < q.z.nb * q.z.l := Nat.mul_lt_mul_of_pos_right hb hl
    exact assoc_eq (k := (b, n)) (f := fun k => s.scanHin q k.1 k.2) h.hin (h.seenHin b n hlt hn)
  cs o y hc b t hb ht := by
    have hlt : b * q.z.l + t < q.z.nb * q.z.l := row_lt hb ht
    exact assoc_eq (k := (b, t)) (f := fun k => s.scanCs q o k.1 k.2) (h.cs o y hc) (h.seenCs o y hc b t hlt ht)
  hs _ _ _ h := absurd h (Nat.not_lt_zero _)
  stored _ _ _ _ _ h := absurd h (Nat.not_lt_zero _)

/-- An element before the next in the order of steps and columns is one before it, or it. -/
theorem flat_succ {l nv b' t' n' b t n : Nat} (h : (b' * l + t') * nv + n' < (b * l + t) * nv + n + 1) (ht' : t' < l) (ht : t < l) (hn' : n' < nv)
    (hn : n < nv) : (b' * l + t') * nv + n' < (b * l + t) * nv + n ∨ b' = b ∧ t' = t ∧ n' = n := by
  by_cases hlt : (b' * l + t') * nv + n' < (b * l + t) * nv + n
  · exact .inl hlt
  · right
    have he : nv * (b' * l + t') + n' = nv * (b * l + t) + n := by
      rw [Nat.mul_comm nv, Nat.mul_comm nv]; omega
    have h1 : n' = n := by
      have := congrArg (· % nv) he
      simpa [Nat.mul_add_mod, Nat.mod_eq_of_lt hn, Nat.mod_eq_of_lt hn'] using this
    have h2 : b' * l + t' = b * l + t := by
      subst h1
      exact Nat.eq_of_mul_eq_mul_left (by omega) (Nat.add_right_cancel he)
    have h2' : l * b' + t' = l * b + t := by rw [Nat.mul_comm l, Nat.mul_comm l]; exact h2
    have h3 : t' = t := by
      have := congrArg (· % l) h2'
      simpa [Nat.mul_add_mod, Nat.mod_eq_of_lt ht, Nat.mod_eq_of_lt ht'] using this
    subst h3
    exact ⟨Nat.eq_of_mul_eq_mul_left (by omega) (Nat.add_right_cancel h2'), rfl, h1⟩

theorem State.countFades_bytes (s : State) (fce : Bool) (n k a m : Nat) : (s.countFades fce n k).bytes a m = s.bytes a m := by
  unfold State.countFades
  split <;> rfl

theorem State.NoWorse.trans {v : State} (h : s.NoWorse t) (k : t.NoWorse v) : s.NoWorse v := ⟨k.1.trans h.1, fun _ hu => h.2 (k.2 hu)⟩

/-- The state of the next element joins those delivered. -/
theorem ScanRun.Delivered.push {v : State} (h : Delivered q s free ((b * q.z.l + c) * q.z.nv + n) r) (ht : c < q.z.l) (hn : n < q.z.nv)
    (hv : s.NoWorse v)
    (hold : ∀ o, q.h = some o → ∀ b' t' n', (b' * q.z.l + t') * q.z.nv + n' < (b * q.z.l + c) * q.z.nv + n → t' < q.z.l → n' < q.z.nv →
      v.bytes (spadPa s.cur (o + ((b' * q.z.l + t') * q.z.nv + n') * q.z.ex)) q.z.ex = wordsOf (s.scanOut q free b' t' n'))
    (hnew : ∀ o, q.h = some o →
      v.bytes (spadPa s.cur (o + ((b * q.z.l + c) * q.z.nv + n) * q.z.ex)) q.z.ex = wordsOf (s.scanOut q free b c n)) :
    Delivered q s free ((b * q.z.l + c) * q.z.nv + n + 1) { r with s := v, hs := ((b, c, n), s.scanOut q free b c n) :: r.hs } where
  worse := hv
  ops := h.ops
  hin := h.hin
  cs := h.cs
  hs b' t' n' hlt ht' hn' := by
    obtain hlt | ⟨rfl, rfl, rfl⟩ := flat_succ hlt ht' ht hn' hn
    · by_cases hk : (b, c, n) = (b', t', n')
      · obtain ⟨rfl, rfl, rfl⟩ : b = b' ∧ c = t' ∧ n = n' := by simpa using hk
        exact absurd hlt (Nat.lt_irrefl _)
      · exact (assoc_cons_ne hk).trans (h.hs b' t' n' hlt ht' hn')
    · exact assoc_cons_self
  stored o ho b' t' n' hlt ht' hn' := by
    obtain hlt | ⟨rfl, rfl, rfl⟩ := flat_succ hlt ht' ht hn' hn
    · exact hold o ho b' t' n' hlt ht' hn'
    · exact hnew o ho

/-- What `deliver` does for column n of its group. -/
def ScanRun.deliverOne (r : ScanRun) (q : ScanSet) (x : Entry) (free b t n : Nat) : ScanRun :=
  let ops := (List.range q.z.l).map (fun u => assoc r.ops (b, u, n) ⟨[], [], true⟩)
  let h := scanAt q.prof q.z.mode q.f (free + ((b * q.z.nv + n) * q.z.l + t) * 512) ops (assoc r.hin (b, n) []) t
  let r := { r with s := r.s.countFades x.fce (n % 64) h.2, hs := ((b, t, n), h.1) :: r.hs }
  match q.h with
  | some o => r.write x.seq (o + ((b * q.z.l + t) * q.z.nv + n) * q.z.ex) h.1
  | none => r

theorem ScanRun.Delivered.deliverOne (h : Delivered q s free ((b * q.z.l + c) * q.z.nv + n) r) (hc : s.ScanClean q) (hb : b < q.z.nb)
    (ht : c < q.z.l) (hn : n < q.z.nv) (x : Entry) :
    Delivered q s free ((b * q.z.l + c) * q.z.nv + n + 1) (r.deliverOne q x free b c n) := by
  have hops : (List.range q.z.l).map (fun u => assoc r.ops (b, u, n) ⟨[], [], true⟩) = (List.range q.z.l).map (fun u => s.scanOp q b u n) :=
    List.map_congr_left fun u hu => h.ops b u n hb (List.mem_range.mp hu) hn
  unfold ScanRun.deliverOne
  rw [hops, h.hin b n hb hn]
  dsimp only
  generalize hk : (scanAt q.prof q.z.mode q.f _ _ _ c).2 = k
  change Delivered q s free _ (match q.h with
    | some o => ScanRun.write { r with s := r.s.countFades x.fce (n % 64) k, hs := ((b, c, n), s.scanOut q free b c n) :: r.hs } x.seq
        (o + ((b * q.z.l + c) * q.z.nv + n) * q.z.ex) (s.scanOut q free b c n)
    | none => { r with s := r.s.countFades x.fce (n % 64) k, hs := ((b, c, n), s.scanOut q free b c n) :: r.hs })
  have hw := h.worse.trans (r.s.countFades_noWorse x.fce (n % 64) k)
  have hsame := fun a m => r.s.countFades_bytes x.fce (n % 64) k a m
  generalize r.s.countFades x.fce (n % 64) k = v at *
  cases hh : q.h with
  | none => exact h.push ht hn hw (fun o ho => by simp [hh] at ho) (fun o ho => by simp [hh] at ho)
  | some o =>
    have hlen := s.length_scanOut q free b c n
    have hclean := hc.covered hw (ScanSet.covers_h hh hb ht hn) (Geo.ex_pos _) (Nat.le_refl _)
    dsimp only
    rw [ScanRun.write_clean (by rw [hlen]; exact hclean)]
    have hbytes := v.bytes_writeBytes (spadPa s.cur (o + ((b * q.z.l + c) * q.z.nv + n) * q.z.ex)) (wordsOf (s.scanOut q free b c n))
    have hout := v.sameBytes_writeBytes (spadPa s.cur (o + ((b * q.z.l + c) * q.z.nv + n) * q.z.ex)) (wordsOf (s.scanOut q free b c n))
    rw [length_wordsOf, hlen] at hbytes hout
    refine h.push ht hn (hw.trans (v.writeBytes_noWorse ..)) (fun o' ho b' t' n' hlt ht' hn' => ?_) (fun o' ho => ?_)
    · cases hh.symm.trans ho
      dsimp only
      rw [hw.1, State.bytes_of_disjoint hout, hsame, h.stored o hh b' t' n' hlt ht' hn']
      left
      unfold spadPa
      nlinarith [q.z.ex_pos]
    · cases hh.symm.trans ho
      dsimp only
      rw [hw.1]
      exact hbytes

theorem ScanRun.Delivered.deliver (h : Delivered q s free ((b * q.z.l + c) * q.z.nv) r) (hp : s.PlainScan q) (hb : b < q.z.nb) (ht : c < q.z.l)
    (x : Entry) : Delivered q s free ((b * q.z.l + c + 1) * q.z.nv) (r.deliver q x free b 0 c) := by
  have hn : min q.z.p (q.z.nv - 0 * q.z.p) = q.z.nv := by have := hp.nv; omega
  have hd : r.deliver q x free b 0 c = (List.range q.z.nv).foldl (fun r n => r.deliverOne q x free b c n) r := by
    rw [ScanRun.deliver, hn]
    simp only [Nat.zero_mul, Nat.zero_add]
    rfl
  rw [hd, Nat.add_mul, Nat.one_mul]
  exact foldl_range_inv (P := fun n r => Delivered q s free ((b * q.z.l + c) * q.z.nv + n) r) h
    fun n hn r hr => hr.deliverOne hp.clean hb ht hn x

end Values

/-! ### The run (R239) -/

section Run
variable {q : ScanSet} {s : State} {r : ScanRun} {c y o free : Nat} {x : Entry}

theorem ScanRun.cycle_late (hp : s.PlainScan q) (ht : q.z.nb * q.z.l ≤ 16) (x : Entry) (free c : Nat) :
    r.cycle q x free (16 + c) =
      let r2 := if c < q.z.nb * q.z.l then r.deliver q x free (c / q.z.l) 0 (c % q.z.l) else r
      let r3 := if 0 < c ∧ c - 1 < q.z.nb * q.z.l then
        r2.contrWrite q x.seq (free + q.z.nb * q.z.l * 65536) ((c - 1) / q.z.l) ((c - 1) % q.z.l) else r2
      if 0 < c ∧ c % q.z.l = 0 ∧ c / q.z.l ≤ q.z.nb then r3.carryWrite q x.seq (c / q.z.l - 1) else r3 := by
  have hw : q.z.w = q.z.l := by rw [Geo.w, Geo.ng_eq_one hp.valid hp.nv, Nat.one_mul]
  have hg (k : Nat) : k % q.z.l / q.z.l = 0 := Nat.div_eq_of_lt (Nat.mod_lt _ hp.valid.l)
  have hlt : ¬ 16 + c < q.z.nb * q.z.l := by omega
  have h16 : 16 + c - 16 = c := by omega
  have h17 : 16 + c - 17 = c - 1 := by omega
  have hle : 16 ≤ 16 + c := by omega
  have h17' : 17 ≤ 16 + c ↔ 0 < c := by omega
  have h16' : 16 < 16 + c ↔ 0 < c := by omega
  simp only [ScanRun.cycle, hw, hg, hlt, h16, h17, hle, h17', h16', Geo.ng_eq_one hp.valid hp.nv, if_false, Nat.zero_add, Bool.and_eq_true,
    decide_eq_true_eq, true_and, and_true, and_assoc]

/-- The state with another number of free picks used, as when the run of a scan begins. -/
def State.withFree (s : State) (k : Nat) : State := { s with free := k }

theorem State.withFree_scanOut (k f b t n : Nat) : (s.withFree k).scanOut q f b t n = s.scanOut q f b t n := rfl

theorem State.withFree_scanVal (k n o : Nat) : (s.withFree k).scanVal n o = s.scanVal n o := rfl

theorem State.withFree_cur (k : Nat) : (s.withFree k).cur = s.cur := rfl

theorem State.PlainScan.withFree (hp : s.PlainScan q) (k : Nat) : (s.withFree k).PlainScan q := ⟨hp.valid, hp.clean, hp.mbase, hp.nv, hp.slots⟩

theorem State.NoWorse.of_withFree {k : Nat} {t : State} (h : (s.withFree k).NoWorse t) : s.NoWorse t := h

theorem State.runScan_late (hp : s.PlainScan q) (ht : q.z.nb * q.z.l ≤ 16) (x : Entry) :
    ∃ k r, ScanRun.Delivered q (s.withFree k) s.free 0 r ∧
      s.runScan q x = (List.range (q.z.nb * q.z.l + 2)).foldl (fun r i => r.cycle q x s.free (16 + i)) r := by
  have hw : q.z.nb * q.z.w + 18 = 16 + (q.z.nb * q.z.l + 2) := by
    rw [Geo.w, Geo.ng_eq_one hp.valid hp.nv, Nat.one_mul]
    omega
  rw [State.runScan, hw]
  generalize s.free + 2 * (16 + (q.z.nb * q.z.l + 2)) * 65536 = k
  refine ⟨k, _, (ScanRun.readUpTo_early (hp.withFree k) ht x s.free).delivered hp.valid.l s.free, ?_⟩
  rw [List.range_add, List.foldl_append, List.foldl_map]
  rfl

/-- Where neither contractions nor carries are stored, a run delivers every state of its scan. -/
theorem State.runScan_delivered (hp : s.PlainScan q) (ht : q.z.nb * q.z.l ≤ 16) (hc : q.c = none) (hd : carryOut q.d = false) (x : Entry) :
    ∃ k, ScanRun.Delivered q (s.withFree k) s.free (q.z.nb * q.z.l * q.z.nv) (s.runScan q x) := by
  obtain ⟨k, r, hr, he⟩ := State.runScan_late hp ht x
  have hcycle (r : ScanRun) (c : Nat) : r.cycle q x s.free (16 + c) =
      if c < q.z.nb * q.z.l then r.deliver q x s.free (c / q.z.l) 0 (c % q.z.l) else r := by
    rw [ScanRun.cycle_late hp ht]
    simp [ScanRun.contrWrite, ScanRun.carryWrite, hc, hd]
  have := foldl_range_inv (P := fun c r => ScanRun.Delivered q (s.withFree k) s.free (min c (q.z.nb * q.z.l) * q.z.nv) r)
    (f := fun r i => r.cycle q x s.free (16 + i)) (m := q.z.nb * q.z.l + 2) (a := r) (by rwa [Nat.zero_min, Nat.zero_mul]) fun c hc r h => by
      rw [hcycle]
      split
      · next hlt =>
        have hrow : c / q.z.l * q.z.l + c % q.z.l = c := Nat.div_add_mod' ..
        rw [Nat.min_eq_left (by omega)] at h ⊢
        have hnext := ScanRun.Delivered.deliver (b := c / q.z.l) (c := c % q.z.l) (by rwa [hrow]) (hp.withFree k)
          (Nat.div_lt_of_lt_mul (by rwa [Nat.mul_comm])) (Nat.mod_lt _ hp.valid.l) x
        rwa [hrow] at hnext
      · next hge =>
        rw [Nat.min_eq_right (by omega)] at h ⊢
        exact h
  rw [Nat.min_eq_right (by omega)] at this
  rw [he]
  exact ⟨k, this⟩

/-! A scan of one step. -/

/-- A scan of one row, one step, one column and one group. -/
structure ScanSet.OneStep (q : ScanSet) : Prop where
  nb : q.z.nb = 1
  l : q.z.l = 1
  nv : q.z.nv = 1
  g : q.z.g = 1

theorem State.runScan_one (hp : s.PlainScan q) (h1 : q.OneStep) (x : Entry) : ∃ k r, ScanRun.Delivered q (s.withFree k) s.free 1 r ∧
    s.runScan q x = (r.contrWrite q x.seq (s.free + 65536) 0 0).carryWrite q x.seq 0 := by
  have htot : q.z.nb * q.z.l = 1 := by rw [h1.nb, h1.l]
  obtain ⟨k, r, hr, he⟩ := State.runScan_late hp (by omega) x
  have hdel := ScanRun.Delivered.deliver (b := 0) (c := 0) (by simpa using hr) (hp.withFree k) (by rw [h1.nb]; decide) (by rw [h1.l]; decide) x
  have hm : (0 * q.z.l + 0 + 1) * q.z.nv = 1 := by simp [h1.nv]
  rw [hm] at hdel
  refine ⟨k, _, hdel, ?_⟩
  rw [he, htot]
  simp [List.range_succ, ScanRun.cycle_late hp (by omega : q.z.nb * q.z.l ≤ 16), h1.l, h1.nb]

/-- What a store of whole words leaves where nothing is poisoned. -/
theorem ScanRun.write_bytes {n : Nat} {v : List Num} (hcl : s.ScanClean q) (hw : s.NoWorse r.s) (ho : q.Covers o n) (hn : 0 < n) (hv : 4 * v.length = n)
    (seq : W32) : (r.write seq o v).s.bytes (spadPa s.cur o) n = wordsOf v ∧ s.NoWorse (r.write seq o v).s ∧ (r.write seq o v).hs = r.hs := by
  have hc := hcl.covered hw ho hn (Nat.le_of_eq hv)
  rw [ScanRun.write_clean hc]
  have hb := r.s.bytes_writeBytes (spadPa r.s.cur o) (wordsOf v)
  rw [length_wordsOf, hv, hw.1] at hb
  refine ⟨?_, hw.trans (r.s.writeBytes_noWorse ..), rfl⟩
  rw [hw.1]
  exact hb

/-- The state that a scan of one step computes. -/
def State.oneOut (s : State) (q : ScanSet) : List Num := s.scanOut q s.free 0 0 0

theorem State.oneOut_eq (s : State) (h1 : q.OneStep) : s.oneOut q =
    (scanAt q.prof q.z.mode q.f s.free [⟨s.scanVal (q.z.ea / 4) q.a, s.scanVal (q.z.ex / 4) q.x, false⟩]
      (if carryIn q.d then s.scanVal (q.z.ex / 4) (q.slots.getD 0 0) else List.replicate (q.z.ex / 4) (.zero false)) 0).1 := by
  simp [State.oneOut, State.scanOut, h1.l, State.scanOp, State.scanHin, Geo.aOff, List.range_succ]

theorem ScanRun.contrWrite_one (h1 : q.OneStep) (h : Delivered q s free 1 r) (hc : q.c = some (c, y)) (f : Nat) (seq : W32) :
    ∃ v, v = contract q.prof q.z.mode f [s.scanVal (q.z.ec / 4) c] [s.scanOut q free 0 0 0] ∧ r.contrWrite q seq f 0 0 = r.write seq y v := by
  have hcs : assoc r.cs (0, 0) [] = [s.scanVal (q.z.ec / 4) c] := by
    rw [h.cs c y hc 0 0 (by rw [h1.nb]; decide) (by rw [h1.l]; decide), State.scanVal, Geo.ec, Geo.four_mul_ex]
    simp [State.scanCs, h1.g, Geo.ec, List.range_succ]
  have hhs : assoc r.hs (0, 0, 0) [] = s.scanOut q free 0 0 0 :=
    h.hs 0 0 0 (by simp) (by rw [h1.l]; decide) (by rw [h1.nv]; decide)
  refine ⟨_, rfl, ?_⟩
  rw [ScanRun.contrWrite, hc]
  simp [h1.nv, h1.g, List.range_succ, hcs, hhs]

theorem ScanRun.carryWrite_one (h1 : q.OneStep) (hd : carryOut q.d = true) (hhs : assoc r.hs (0, 0, 0) [] = v) (seq : W32) :
    r.carryWrite q seq 0 = r.write seq (q.slots.getD 0 0) v := by
  rw [ScanRun.carryWrite]
  simp [hd, h1.nv, h1.l, List.range_succ, hhs]

theorem ScanSet.OneStep.zero_lt (h1 : q.OneStep) : 0 < q.z.nb ∧ 0 < q.z.l ∧ 0 < q.z.nv := by
  rw [h1.nb, h1.l, h1.nv]
  decide

/-- What a scan of one step stores: its state, its contraction, its carry-out. -/
theorem State.runScan_one_stores (hp : s.PlainScan q) (h1 : q.OneStep) (hex : q.h = none ∨ q.c = none) (x : Entry) :
    let t := (s.runScan q x).s
    (∀ o, q.h = some o → carryOut q.d = false → t.bytes (spadPa s.cur o) q.z.ex = wordsOf (s.oneOut q)) ∧
    (∀ c y, q.c = some (c, y) → carryOut q.d = false →
      t.bytes (spadPa s.cur y) q.z.ey = wordsOf (contract q.prof q.z.mode (s.free + 65536) [s.scanVal (q.z.ec / 4) c] [s.oneOut q])) ∧
    (carryOut q.d = true → t.bytes (spadPa s.cur (q.slots.getD 0 0)) q.z.ex = wordsOf (s.oneOut q)) := by
  obtain ⟨k, r, hr, he⟩ := State.runScan_one hp h1 x
  have hworse := hr.worse.of_withFree
  obtain ⟨hnb, hl, hnv⟩ := h1.zero_lt
  have hhs : assoc r.hs (0, 0, 0) [] = s.oneOut q := (hr.hs 0 0 0 (by simp) hl hnv).trans (State.withFree_scanOut ..)
  have hlen := s.length_scanOut q s.free 0 0 0
  dsimp only
  rw [he]
  refine ⟨fun o ho hd => ?_, fun c y hc hd => ?_, fun hd => ?_⟩
  · have hc : q.c = none := hex.resolve_left (by simp [ho])
    have hst := hr.stored o ho 0 0 0 (by simp) hl hnv
    rw [State.withFree_scanOut, State.withFree_cur] at hst
    simp only [Nat.zero_mul, Nat.add_zero] at hst
    simp only [ScanRun.contrWrite, hc, ScanRun.carryWrite, hd]
    exact hst
  · obtain ⟨v, hv, hw⟩ := ScanRun.contrWrite_one h1 hr hc (s.free + 65536) x.seq
    have hcov := ScanSet.covers_y (k := 0) hc hnb hl (by rw [h1.nv, h1.g]; decide)
    simp only [Nat.zero_mul, Nat.add_zero] at hcov
    have hvlen : 4 * v.length = q.z.ey := by rw [hv, length_contract]
    rw [hw, ScanRun.carryWrite, hd, Bool.not_false, if_pos rfl]
    rw [State.withFree_scanVal, State.withFree_scanOut] at hv
    refine (ScanRun.write_bytes hp.clean hworse hcov (Geo.ey_pos _) hvlen x.seq).1.trans ?_
    rw [hv, State.oneOut]
  · have hcov := ScanSet.covers_slot (n := 0) (hp.slots (.inr hd)) hnb hnv
    rw [Nat.zero_mul, Nat.add_zero] at hcov
    have hmid : s.NoWorse (r.contrWrite q x.seq (s.free + 65536) 0 0).s ∧ (r.contrWrite q x.seq (s.free + 65536) 0 0).hs = r.hs := by
      cases hc : q.c with
      | none =>
        rw [ScanRun.contrWrite, hc]
        exact ⟨hworse, rfl⟩
      | some cy =>
        obtain ⟨v, hv, hw⟩ := ScanRun.contrWrite_one (c := cy.1) (y := cy.2) h1 hr hc (s.free + 65536) x.seq
        have hcov := ScanSet.covers_y (k := 0) (c := cy.1) (y := cy.2) hc hnb hl (by rw [h1.nv, h1.g]; decide)
        simp only [Nat.zero_mul, Nat.add_zero] at hcov
        rw [hw]
        exact (ScanRun.write_bytes hp.clean hworse hcov (Geo.ey_pos _) (by rw [hv, length_contract]) x.seq).2
    rw [ScanRun.carryWrite_one (v := s.oneOut q) h1 hd (by rw [hmid.2]; exact hhs)]
    exact (ScanRun.write_bytes hp.clean hmid.1 hcov (Geo.ex_pos _) hlen x.seq).1

end Run

/-! ### The start and the end of a scan (R234, R238, R26) -/

section Start
variable {s : State} {x y : Entry} {a : SxScanArgs} {contr : Bool} {q : ScanSet}

/-- The state whose waiting SX.CARRY, if there is one, is that of a scan which starts. -/
def State.carryTaken (s : State) : State :=
  match s.entryIn .sx .started with
  | some y => s.updEntry .sx y.seq (fun e => { e with prog := 1 })
  | none => s

theorem State.carryTaken_frame (s : State) : s.carryTaken = { s with core := { s.core with eng := s.carryTaken.core.eng } } := by
  unfold State.carryTaken
  split <;> rfl

theorem State.carryTaken_eng (s : State) : (∀ f, f ≠ Eng.sx → s.carryTaken.eng f = s.eng f) ∧
    (x ∈ (s.eng .sx).q → ∃ y ∈ (s.carryTaken.eng .sx).q, y.seq = x.seq) := by
  unfold State.carryTaken
  split
  · next y hy =>
    refine ⟨fun f hf => State.updEntry_eng_ne _ _ hf, fun hx => ?_⟩
    rw [State.updEntry_eng_self]
    refine ⟨_, List.mem_map.mpr ⟨x, hx, rfl⟩, ?_⟩
    split <;> rfl
  · exact ⟨fun _ _ => rfl, fun hx => ⟨x, hx, rfl⟩⟩

theorem State.startScan_pass (hf : s.sxFree x = true) (hc : s.scanCheck (s.scanSet contr a s.core.sx.staged) = none) :
    s.startScan contr a x = some ((s.carryTaken.start .sx x .started).upd
      (fun c => { c with sx := { c.sx with active := c.sx.staged, staged := 0 } })) := by
  simp only [State.startScan, hf, hc]
  rfl

theorem State.startScan_refused {e : Trap} (hf : s.sxFree x = true) (hc : s.scanCheck (s.scanSet contr a s.core.sx.staged) = some e) :
    s.startScan contr a x = some (s.refuse .sx x e) := by
  simp only [State.startScan, hf, hc]
  rfl

theorem exec_scan (s : State) : exec (if contr then .sxContr a else .sxScan a) s = .next (s.starting .sx (fun s x => s.startScan contr a x)) := by
  cases contr <;> rfl

theorem State.scan_starts (hr : s.ready .sx = some x) (hs : x.stamped .sx = false) (hf : s.sxFree x = true)
    (hc : s.scanCheck (s.scanSet contr a s.core.sx.staged) = none) :
    ∃ t, exec (if contr then .sxContr a else .sxScan a) s = .next t ∧ t.core.sx = { s.core.sx with active := s.core.sx.staged, staged := 0 } ∧
      t.mem = s.mem ∧ s.EntryAt t .sx x .started := by
  have hx := State.mem_of_ready hr
  have hi := exec_scan (contr := contr) (a := a) s
  have hfr := s.carryTaken_frame
  obtain ⟨hne, hself⟩ := s.carryTaken_eng (x := x)
  obtain ⟨y, hy, hseq⟩ := hself hx
  rw [State.starting_eq hr hs, State.startScan_pass hf hc, Option.getD_some, State.scrubGuard_of_scrubq (by rw [hfr]; rfl)] at hi
  refine ⟨_, hi, by rw [hfr]; rfl, by rw [hfr]; rfl, by rw [hfr]; rfl, ⟨{ y with phase := .started }, ?_, hseq, rfl⟩, by rw [hfr]; rfl, by rw [hfr]; rfl,
    fun f hf => ?_⟩
  · change _ ∈ ((s.carryTaken.start .sx x .started).eng .sx).q
    rw [State.start, State.updEntry_eng_self]
    exact List.mem_map.mpr ⟨y, hy, if_pos hseq⟩
  · change (s.carryTaken.start .sx x .started).eng f = _
    rw [State.start, State.updEntry_eng_ne _ _ hf]
    exact hne f hf

theorem State.scan_refused {e : Trap} (hr : s.ready .sx = some x) (hs : x.stamped .sx = false) (hf : s.sxFree x = true)
    (hc : s.scanCheck (s.scanSet contr a s.core.sx.staged) = some e) (hh : (s.eng .sx).held = none) :
    ∃ t h, exec (if contr then .sxContr a else .sxScan a) s = .next t ∧ (t.eng .sx).held = some h ∧ h.trap = e ∧ h.seq = x.seq ∧
      t.core.sx = s.core.sx ∧ t.mem = s.mem ∧ t.core.qstop = true := by
  have hi := exec_scan (contr := contr) (a := a) s
  obtain ⟨he, hcore, hq⟩ := State.refuse_effect (x := x) hh e
  rw [State.starting_eq hr hs, State.startScan_refused hf hc, Option.getD_some, State.scrubGuard_of_scrubq hq] at hi
  refine ⟨_, _, hi, by rw [he], rfl, rfl, by rw [hcore], ?_, by rw [hcore]⟩
  rw [State.refuse, hh]
  rfl

theorem exec_scanComplete (h : s.scanStarted = some x) : exec .sxScanComplete s = .next (s.scanFinish x) := by
  refine congrArg Host.Outcome.next ?_
  rw [h]

end Start

/-! ### The whole statement -/

section Settled
variable {s t : State} {x : Entry} {q : ScanSet} {b u n o : Nat}

theorem scanAt_scan32 {prof : Nat} (h0 : prof ≠ 0) (hA : prof ≠ 0xA) (mode f k : Nat) (ops : List StepOp) (hin : List Num) (t : Nat) :
    scanAt prof mode f k ops hin t = scan32 mode f ops hin t := by
  unfold scanAt
  split
  · contradiction
  · contradiction
  · rfl

theorem State.scanOut_scan32 (h0 : q.prof ≠ 0) (hA : q.prof ≠ 0xA) (f b t n : Nat) : s.scanOut q f b t n =
    (scan32 q.z.mode q.f ((List.range q.z.l).map (fun i => s.scanOp q b i n)) (s.scanHin q b n) t).1 := by
  rw [State.scanOut, scanAt_scan32 h0 hA]

/-- Under SCAN32, where all reads come first, each element of the h operand is that of its row, step and column. -/
theorem State.runScan_scan32 (hp : s.PlainScan q) (ht : q.z.nb * q.z.l ≤ 16) (ho : q.h = some o) (hc : q.c = none) (hd : carryOut q.d = false)
    (h0 : q.prof ≠ 0) (hA : q.prof ≠ 0xA) (x : Entry) (hb : b < q.z.nb) (hu : u < q.z.l) (hn : n < q.z.nv) :
    (s.runScan q x).s.bytes (spadPa s.cur (o + ((b * q.z.l + u) * q.z.nv + n) * q.z.ex)) q.z.ex =
      wordsOf (scan32 q.z.mode q.f ((List.range q.z.l).map (fun i => s.scanOp q b i n)) (s.scanHin q b n) u).1 := by
  obtain ⟨k, hdel⟩ := State.runScan_delivered hp ht hc hd x
  have hst := hdel.stored o ho b u n (flat_lt hb hu hn) hu hn
  rw [State.withFree_scanOut, State.withFree_cur, State.scanOut_scan32 h0 hA] at hst
  exact hst

theorem State.scanSet_exclusive (s : State) (contr : Bool) (a : SxScanArgs) (d : W64) : (s.scanSet contr a d).h = none ∨ (s.scanSet contr a d).c = none := by
  cases contr
  · exact .inr rfl
  · exact .inl rfl

/-- What the end of a scan leaves of the core, and the state of its entry. -/
theorem State.finish_scan (h : s.ScanKeeps t) (seq : W32) (e : Option Trap) :
    let u := t.finish .sx seq e
    (∀ y ∈ (u.eng .sx).q, y.seq = seq → y.phase = .finished) ∧ u.core.pc = s.core.pc ∧ u.core.s = s.core.s ∧
      (∀ f, f ≠ .sx → u.eng f = s.eng f) ∧ u.core.sx.cfg = s.core.sx.cfg ∧ u.core.sx.active = s.core.sx.active ∧
      u.core.sx.staged = s.core.sx.staged := by
  have hcore : t.core = { s.core with l1 := t.core.l1, sx := { s.core.sx with fade := t.core.sx.fade } } := h
  refine ⟨fun y hy hseq => ?_, ?_, ?_, fun f hf => ?_, ?_, ?_, ?_⟩
  · rw [State.finish, State.updEntry_eng_self] at hy
    obtain ⟨w, -, rfl⟩ := List.mem_map.mp hy
    by_cases hw : w.seq = seq
    · rw [if_pos hw]
    · rw [if_neg hw] at hseq
      exact absurd hseq hw
  · change t.core.pc = _
    rw [hcore]
  · change t.core.s = _
    rw [hcore]
  · rw [State.finish, State.updEntry_eng_ne _ _ hf]
    exact State.eng_congr (by rw [hcore]) f
  · change t.core.sx.cfg = _
    rw [hcore]
  · change t.core.sx.active = _
    rw [hcore]
  · change t.core.sx.staged = _
    rw [hcore]

/-- Settles O39: the start by the check of R238, the run by what its accesses leave, its values by what it reads and delivers. -/
theorem scanResult : Obligations.ScanResult := by
  unfold Obligations.ScanResult
  intro a contr x s i plan q z at_ words val
  have hz : q.z.Valid := geoOf_valid _
  refine ⟨fun hr hs hf => ⟨State.scan_starts hr hs hf, fun e hc hh => State.scan_refused hr hs hf hc hh⟩, fun hst hhit => ?_,
    fun hst hhit hslots => ?_, fun mode f n ops hin p hp => ⟨scan32_next hp, fun h8 hn => ?_, fun hn => ?_⟩⟩
  · rw [exec_scanComplete hst]
    exact congrArg Host.Outcome.next (if_pos hhit)
  · obtain ⟨free, hsound⟩ := State.runScan_sound (s := s) hz hslots x
    have hi : exec .sxScanComplete s = .next ((s.runScan q x).s.finish .sx x.seq
        (if q.pois then none else (s.runScan q x).bad.map (fun o => gaTrap .spPoison o))) := by
      rw [exec_scanComplete hst]
      exact congrArg Host.Outcome.next (if_neg (by rw [hhit]; decide))
    have hkeeps : s.ScanKeeps (s.runScan q x).s := hsound.reach.keeps
    obtain ⟨hfin, hpc, hregs, heng, hcfg, hact, hstg⟩ := State.finish_scan hkeeps x.seq
      (if q.pois then none else (s.runScan q x).bad.map (fun o => gaTrap .spPoison o))
    refine ⟨_, hi, hfin, fun hclean p hp => ?_, hpc, hregs, heng, hcfg, hact, hstg, fun hnb hl hnv hg hm hclean => ?_,
      fun o ho hc hd hm hv ht h0 hA hclean b u n hb hu hn => ?_⟩
    · exact (hsound.reach.clean hclean).2 p hp
    · have hp : s.PlainScan q := ⟨hz, hclean, hm, by have := q.z.p_pos; change q.z.nv = 1 at hnv; omega, hslots⟩
      have h1 : q.OneStep := ⟨hnb, hl, hnv, hg⟩
      obtain ⟨hh, hy, hco⟩ := State.runScan_one_stores hp h1 (s.scanSet_exclusive ..) x
      rw [State.oneOut_eq s h1] at hh hy hco
      exact ⟨s.free, s.free + 65536, hh, hy, hco⟩
    · exact State.runScan_scan32 ⟨hz, hclean, hm, hv, hslots⟩ ht ho hc hd h0 hA x hb hu hn
  · rw [scan32_first hp h8, scanCarry, if_neg (by omega)]
  · rw [scan32_first hp (by omega), scanCarry, if_pos (by omega)]

end Settled

end Sys2Proof.Machine
end
